-- ==== Sys2Proof/Word.lean ====
section
/-! DEFINITION. The word types of the GK1 and the sparse-map type that every large memory of the model uses. -/

namespace Sys2Proof

/-- One byte of a memory. -/
abbrev Byte := BitVec 8

/-- The 16-bit origin identity of R244. -/
abbrev Origin := BitVec 16

/-- The 16-bit package identifier of R8. -/
abbrev PkgId := BitVec 16

/-- A tile number of R18, 0 to 1,023. -/
abbrev TileId := BitVec 10

/-- A Jaliq link number, 0 to 63. -/
abbrev LinkId := BitVec 6

/-- A rail number of R328: 0 VCORE, 1 VSRAM, 2 VDRAM, 3 VLINK. -/
abbrev RailId := BitVec 2

/-- A sparse map from natural keys: a list of key and value pairs. In its canonical form the keys rise strictly and
no entry holds the value that an unlisted key reads as. -/
abbrev SMap (α : Type) := List (Nat × α)

end Sys2Proof
end

