-- ==== Sys2Proof/Syntax.lean ====
section
/-! DEFINITION. The commands of the block: one constructor of `Instr` for each row of spec/opcode_table.json, with the
operands the row's rule names, and the records those operands are made of. -/

namespace Sys2Proof

/-- The operand fields of a tile instruction word (R46): D, A, B, P and the 31 immediate bits. CLASS and OP are the row's. -/
structure Ins where
  d : BitVec 6
  a : BitVec 6
  b : BitVec 6
  p : BitVec 3
  imm : BitVec 31
deriving DecidableEq, Repr

/-- The operand fields of a loop instruction (R305). OP is the row's. -/
structure LoopIns where
  d : BitVec 9
  a : BitVec 9
  b : BitVec 9
  c : BitVec 9
  k : BitVec 11
  f : BitVec 11
deriving DecidableEq, Repr

/-- The strap levels as sampled at a reset release (R430). -/
structure Straps where
  role : BitVec 2
  packcand : BitVec 2
  slot : BitVec 2
  bootsrc : BitVec 2
  clkmode : BitVec 2
deriving DecidableEq, Repr

/-- What a cable shows once it is present (R216): whether it has the CMIS map and page B0h, the microseconds until it read ready, and its
length in decimetres. -/
structure CableShows where
  cmis : Bool
  pageB0 : Bool
  readyAfter : Nat
  dm : Nat
deriving DecidableEq, Repr

/-- What TRAIN ends with: the lanes that meet the target, and the number of the next packet that the partner expects (R212, R214). -/
structure Trained where
  lanes : BitVec 2
  seen : BitVec 16
deriving DecidableEq, Repr

/-- The flags and the monitors that a poll of a cable reads (R217). -/
structure CableState where
  flags : List Byte
  mon : List Byte
deriving DecidableEq, Repr

/-- A request for the far segment of the cell chain: where the chain is broken, and the cells to bleed (R372). -/
structure FarRequest where
  brk : BitVec 2
  mask : BitVec 24
deriving DecidableEq, Repr

/-- One integer for each of the four rails of R328. -/
structure Rails where
  vcore : Int
  vsram : Int
  vdram : Int
  vlink : Int
deriving DecidableEq, Repr

/-- The inputs latched at FRAC 0 (R33): rail voltages in 1/64 mV, rail currents averaged over the last beat in mA, bus
voltage in 10 mV, the 64 cluster sensors then the four DRAM-die sensors in 1/16 °C, FLOW_OK_N and EJECT_N. -/
structure BeatInputs where
  railV : Rails
  railI : Rails
  busV : Nat
  temps : List Int
  flowOk : Bool
  eject : Bool
  straps : Straps
deriving DecidableEq, Repr

/-- The inputs latched at a stroke edge (R26, R329, R331): rail voltages in 1/64 mV, bus voltage in 10 mV, and the sensed currents of the
64 phases in mA. -/
structure StrokeInputs where
  v : Rails
  busV : Nat
  ph : List Int
deriving DecidableEq, Repr

/-- Session and tag of a host COMMAND datagram (R245). -/
structure CmdHdr where
  ses : BitVec 16
  tag : BitVec 16
deriving DecidableEq, Repr

/-- The kernel descriptor of R252. -/
structure LaunchDesc where
  arg : BitVec 64
  imageOff : BitVec 32
  imageLen : BitVec 16
  queue : BitVec 8
  flags : BitVec 8
  tiles : BitVec 1024
deriving DecidableEq, Repr

/-- The kinds of remote operation that travel to a target (R183). -/
inductive RKind where
  | put | get | puts | aadd | cas | swap | xacc | notify
deriving DecidableEq, Repr

/-- A remote operation as it travels (R181, R185): the sender's number for it, the hardware origin word, the target
window and offset, the payload and the scalar operands captured at issue, and whether it is bulk traffic, of class CL2 (R183). -/
structure RemotePkt where
  id : Nat
  origin : BitVec 64
  kind : RKind
  window : BitVec 21
  offset : BitVec 16
  len : Nat
  data : List Byte
  value : BitVec 64
  comparand : BitVec 64
  sz32 : Bool
  sen : Bool
  g : BitVec 6
  bulk : Bool
deriving DecidableEq, Repr

/-- A package's report to the pack candidates (R364), in watts. -/
structure PackRep where
  pkg : PkgId
  p : Int
  pRef : Int
  dem : Int
  share : Int
  jobRun : Bool
  eject : Bool
deriving DecidableEq, Repr

/-- The holder's answer (R287, R364), in watts. -/
structure PackAns where
  epoch : BitVec 32
  cPack : Int
  cAbs : Int
  pRide : Int
  shelfLost : Bool
deriving DecidableEq, Repr

/-- A brush notice or hand-over notice (R359, R362, R378): the epoch and the estimator state. C_L is in mAs, the states of
charge and ERR in percent, REF_AGE and the rest timer in beats, CUT in 0.1 %. -/
structure BrushInfo where
  epoch : BitVec 32
  cL : Nat
  socInt : Rat
  socRep : Rat
  err : Rat
  refAge : Nat
  rest : Nat
  cut : Nat
deriving DecidableEq, Repr

/-- The per-beat message between the packages of a companion carrier (R281, R349). `dI` is in 1/256 mA, `cap` in W. -/
structure LevelMsg where
  fromSlot0 : Bool
  level : Nat
  opTgt : BitVec 3
  opNow : BitVec 3
  dI : Int
  cap : Nat
  railFault : Bool
deriving DecidableEq, Repr

/-- A status frame of the pack stage (R357): currents in 0.01 A, voltages in 10 mV. -/
structure StageStatus where
  crcOk : Bool
  lease : BitVec 2
  holdPort : Bool
  epoch : BitVec 32
  iSet : Int
  iPack : Int
  vPack : Nat
  vBus : Nat
  contactor : Bool
  busform : Bool
  fault : Bool
  claimRefused : Bool
  temp : Int
  ackSeq : BitVec 32
deriving DecidableEq, Repr

/-- A cell monitor's READ reply (R371): eight cells in 0.1 mV, two temperatures in 0.1 °C. -/
structure MonReply where
  mon : BitVec 2
  crcOk : Bool
  cells : List Nat
  temps : List Int
  status : Byte
deriving DecidableEq, Repr

/-- The policed CL0 sources of a package (R226). -/
inductive Cl0Source where
  | barrier | fault | time | envelope | doorbell | tray
deriving DecidableEq, Repr

/-- What a packet or a package-to-package datagram carries (R20). A response names the origin word and the number of its request, the
target offset that its data starts at, and whether the request was bulk. `part` is packet `i` of the `n` packets of a longer message:
the message with that packet's slice of the data (R209). `mboxReply` says whether a message to a channel was posted (cause 0) or refused,
with the cause of R261 (R258). -/
inductive NetMsg where
  | remote (p : RemotePkt)
  | response (unit : BitVec 64) (id : Nat) (err : BitVec 4) (data : List Byte) (off : BitVec 16) (bulk : Bool)
  | part (i : Nat) (n : Nat) (m : NetMsg)
  | faultStop (job : BitVec 16)
  | faultStopAck (job : BitVec 16)
  | leaving (job : BitVec 16)
  | barrierArrive (job : BitVec 16) (g : BitVec 4)
  | barrierRelease (job : BitVec 16) (g : BitVec 4)
  | sync (stamp : BitVec 64)
  | announce (locked : Bool)
  | delayRequest (t1 : BitVec 64)
  | delayReply (t1 : BitVec 64) (t2 : BitVec 64) (t3 : BitVec 64)
  | linkState (up : BitVec 64)
  | ring (bit : BitVec 5)
  | mbox (ch : BitVec 5) (msg : List (BitVec 32))
  | mboxReply (ch : BitVec 5) (cause : BitVec 4)
  | report (x : PackRep)
  | answer (x : PackAns)
  | notice (x : BrushInfo)
  | handover (x : BrushInfo)
  | level (x : LevelMsg)
  | stopQuery (job : BitVec 16)
  | stopAnswer (job : BitVec 16) (stopped : Bool)
  | bootRequest
  | boot (last : Bool) (data : List Byte)
  | farRequest (brk : BitVec 2) (mask : BitVec 24)
  | farValues (ms : List MonReply)
  | capRecord (data : List Byte)
deriving DecidableEq, Repr

/-- A packet on a Jaliq link (R209): link sequence and acknowledgement numbers, whether it is a negative
acknowledgement, whether its CRC-32C is good, its class, its two ends and what it carries, and how many codewords under it were
corrected and how many were uncorrectable (R208, R210, R232). -/
structure LinkFrame where
  seq : BitVec 16
  ack : BitVec 16
  nack : Bool
  good : Bool
  cls : BitVec 2
  src : PkgId
  dst : PkgId
  body : Option NetMsg
  fecCorr : Nat
  fecUncorr : Nat
deriving DecidableEq, Repr

/-- A command of a session (R246), without its header. -/
inductive HostCmd where
  | openSession (m : BitVec 6) (addr : BitVec 128) (port : BitVec 16) (part : Option (BitVec 4)) (rights : BitVec 4)
  | closeSession (m : BitVec 6)
  | setPackageId (id : PkgId)
  | regRead (addr : BitVec 32) (count : Nat)
  | regWrite (addr : BitVec 32) (vals : List (BitVec 32))
  | memWrite (ga : BitVec 64) (data : List Byte)
  | memRead (ga : BitVec 64) (count : Nat)
  | assignTiles (part : BitVec 4) (map : BitVec 1024)
  | releaseTiles (part : BitVec 4) (map : BitVec 1024)
  | queueBind (part : BitVec 4) (q : BitVec 8)
  | queueUnbind (part : BitVec 4) (q : BitVec 8)
  | launch (part : BitVec 4) (d : LaunchDesc)
  | jobCreate (part : BitVec 4) (job : BitVec 16) (members : List PkgId)
  | jobClearStop (part : BitVec 4)
  | jobLeave (part : BitVec 4)
  | barrierSet (part : BitVec 4) (g : BitVec 8) (map : BitVec 1024) (members : List PkgId)
  | windowSet (w : BitVec 32) (e : BitVec 64)
  | setCap (watts : BitVec 32)
  | setPhasePoint (part : BitVec 8) (tag : BitVec 8) (op : BitVec 8) (l : BitVec 16)
  | setEnvelope (watts : BitVec 32)
  | attest (nonce : BitVec 256)
  | mbxPost (ch : BitVec 8) (dest : BitVec 7) (msg : List (BitVec 32))
  | unknown (op : BitVec 16)
deriving DecidableEq, Repr

/-- A host-transport datagram (R238): `udpLen` is the number of bytes that UDP delivers with it, `zeroOk` says that the bytes that
must be zero are, `peer` and `body` are the sender and the message of a package-to-package datagram. `cmd` is the command that the
argument bytes of a COMMAND spell where the spec gives them no layout (log 34); its opcode and its tag are read from the payload. -/
structure Datagram where
  version : Byte
  type : Byte
  cls : Byte
  flags : Byte
  ses : BitVec 16
  length : BitVec 16
  seq : BitVec 32
  ackno : BitVec 32
  zeroOk : Bool
  udpLen : Nat
  peer : PkgId
  body : Option NetMsg
  cmd : Option HostCmd
  payload : List Byte
deriving DecidableEq, Repr

/-- What an Ethernet frame holds above the MAC (R228): `pfc` is a priority flow control frame of IEEE 802.1Qbb with the pause of the
CL1 priority in quanta of 512 bit times, `dst` the IPv6 address that a datagram is addressed to. -/
inductive EthKind where
  | ipv4
  | other
  | ptp
  | pfc (quanta : BitVec 16)
  | udp (src : BitVec 128) (dst : BitVec 128) (sport : BitVec 16) (dport : BitVec 16) (dscp : BitVec 6) (d : Datagram)
deriving DecidableEq, Repr

/-- An Ethernet frame (R228), with the codewords under it that were corrected and those that were uncorrectable (R236). -/
structure EthFrame where
  fcsOk : Bool
  len : Nat
  vid : BitVec 12
  kind : EthKind
  fecCorr : Nat
  fecUncorr : Nat
deriving DecidableEq, Repr

/-- What a master announces and the best master clock algorithm compares (R230): priorities, clock quality, grandmaster, steps
removed and the sender's port identity. -/
structure PtpMaster where
  prio1 : Byte
  clockClass : Byte
  accuracy : Byte
  variance : BitVec 16
  prio2 : Byte
  gm : BitVec 64
  steps : BitVec 16
  port : BitVec 80
deriving DecidableEq, Repr

/-- The messages of a master that an end-to-end slave takes (R230): Announce with its timescale flag, Sync with its two-step flag and
origin stamp, Follow_Up, and Delay_Resp with the stamp of the request's receipt. -/
inductive PtpBody where
  | announce (ptpScale : Bool) (m : PtpMaster)
  | sync (twoStep : Bool) (origin : BitVec 64)
  | followUp (origin : BitVec 64)
  | delayResp (receipt : BitVec 64)
deriving DecidableEq, Repr

/-- An IEEE 1588 message (R230): domain, transport, sending port, sequence number, correction in FRAC counts, and the stamp that
hardware takes at its arrival. -/
structure PtpMsg where
  domain : Byte
  eth : Bool
  port : BitVec 80
  seq : BitVec 16
  corr : Int
  arrival : BitVec 64
  body : PtpBody
deriving DecidableEq, Repr

/-- A sequence space of the host transport (R239): a session's, or a package pair's. -/
inductive Space where
  | session (n : BitVec 6)
  | peer (p : PkgId)
deriving DecidableEq, Repr

/-- The commands of the block: one constructor for each row of spec/opcode_table.json. -/
inductive Instr where
  /-- BEAT_START (R33). -/
  | beatStart (inp : BeatInputs)
  /-- LOOP_DEADLINE_MISS (R314). -/
  | loopDeadlineMiss
  /-- LOOP_FALLBACK (R315). -/
  | loopFallback
  /-- STROKE (R331). -/
  | stroke (k : BitVec 3) (inp : StrokeInputs)
  /-- PHASE_FAULT (R330). -/
  | phaseFault (ph : BitVec 6) (mA : Nat)
  /-- REGISTER_WRITE (R15). -/
  | registerWrite (o : Origin) (addr : BitVec 24) (width : Nat) (v : BitVec 32)
  /-- LOW_WORD_READ (R14). -/
  | lowWordRead (o : Origin) (addr : BitVec 24)
  /-- PLACE_WRITE (R10). -/
  | placeWrite (o : Origin) (v : BitVec 32)
  /-- ADD (R54). -/
  | add (t : TileId) (f : Ins)
  /-- SUB (R54). -/
  | sub (t : TileId) (f : Ins)
  /-- MUL (R54). -/
  | mul (t : TileId) (f : Ins)
  /-- MULHU (R54). -/
  | mulhu (t : TileId) (f : Ins)
  /-- MULHS (R54). -/
  | mulhs (t : TileId) (f : Ins)
  /-- DIVU (R55). -/
  | divu (t : TileId) (f : Ins)
  /-- REMU (R55). -/
  | remu (t : TileId) (f : Ins)
  /-- AND (R54). -/
  | and (t : TileId) (f : Ins)
  /-- OR (R54). -/
  | or (t : TileId) (f : Ins)
  /-- XOR (R54). -/
  | xor (t : TileId) (f : Ins)
  /-- ANDN (R54). -/
  | andn (t : TileId) (f : Ins)
  /-- SHL (R55). -/
  | shl (t : TileId) (f : Ins)
  /-- SHR (R55). -/
  | shr (t : TileId) (f : Ins)
  /-- SRA (R55). -/
  | sra (t : TileId) (f : Ins)
  /-- MIN (R54). -/
  | min (t : TileId) (f : Ins)
  /-- MAX (R54). -/
  | max (t : TileId) (f : Ins)
  /-- MINU (R54). -/
  | minu (t : TileId) (f : Ins)
  /-- MAXU (R54). -/
  | maxu (t : TileId) (f : Ins)
  /-- CLZ (R54). -/
  | clz (t : TileId) (f : Ins)
  /-- POPC (R54). -/
  | popc (t : TileId) (f : Ins)
  /-- SEL (R54). -/
  | sel (t : TileId) (f : Ins)
  /-- CMP_EQ (R56). -/
  | cmpEq (t : TileId) (f : Ins)
  /-- CMP_NE (R56). -/
  | cmpNe (t : TileId) (f : Ins)
  /-- CMP_LT (R56). -/
  | cmpLt (t : TileId) (f : Ins)
  /-- CMP_LE (R56). -/
  | cmpLe (t : TileId) (f : Ins)
  /-- CMP_LTU (R56). -/
  | cmpLtu (t : TileId) (f : Ins)
  /-- CMP_LEU (R56). -/
  | cmpLeu (t : TileId) (f : Ins)
  /-- PAND (R56). -/
  | pand (t : TileId) (f : Ins)
  /-- POR (R56). -/
  | por (t : TileId) (f : Ins)
  /-- PXOR (R56). -/
  | pxor (t : TileId) (f : Ins)
  /-- PNOT (R56). -/
  | pnot (t : TileId) (f : Ins)
  /-- ADDI (R54). -/
  | addi (t : TileId) (f : Ins)
  /-- MULI (R54). -/
  | muli (t : TileId) (f : Ins)
  /-- ANDI (R54). -/
  | andi (t : TileId) (f : Ins)
  /-- ORI (R54). -/
  | ori (t : TileId) (f : Ins)
  /-- XORI (R54). -/
  | xori (t : TileId) (f : Ins)
  /-- SHLI (R55). -/
  | shli (t : TileId) (f : Ins)
  /-- SHRI (R55). -/
  | shri (t : TileId) (f : Ins)
  /-- SRAI (R55). -/
  | srai (t : TileId) (f : Ins)
  /-- MOVI (R54). -/
  | movi (t : TileId) (f : Ins)
  /-- MOVK (R57). -/
  | movk (t : TileId) (f : Ins)
  /-- CMPI_EQ (R54). -/
  | cmpiEq (t : TileId) (f : Ins)
  /-- CMPI_NE (R54). -/
  | cmpiNe (t : TileId) (f : Ins)
  /-- CMPI_LT (R54). -/
  | cmpiLt (t : TileId) (f : Ins)
  /-- CMPI_LE (R54). -/
  | cmpiLe (t : TileId) (f : Ins)
  /-- CMPI_LTU (R54). -/
  | cmpiLtu (t : TileId) (f : Ins)
  /-- CMPI_LEU (R54). -/
  | cmpiLeu (t : TileId) (f : Ins)
  /-- BR (R58). -/
  | br (t : TileId) (f : Ins)
  /-- JR (R58). -/
  | jr (t : TileId) (f : Ins)
  /-- CALL (R58). -/
  | call (t : TileId) (f : Ins)
  /-- CALLR (R58). -/
  | callr (t : TileId) (f : Ins)
  /-- LD_U8 (R59). -/
  | ldU8 (t : TileId) (f : Ins)
  /-- LD_U16 (R59). -/
  | ldU16 (t : TileId) (f : Ins)
  /-- LD_U32 (R59). -/
  | ldU32 (t : TileId) (f : Ins)
  /-- LD_64 (R59). -/
  | ld64 (t : TileId) (f : Ins)
  /-- LD_S8 (R59). -/
  | ldS8 (t : TileId) (f : Ins)
  /-- LD_S16 (R59). -/
  | ldS16 (t : TileId) (f : Ins)
  /-- LD_S32 (R59). -/
  | ldS32 (t : TileId) (f : Ins)
  /-- ST_8 (R59). -/
  | st8 (t : TileId) (f : Ins)
  /-- ST_16 (R59). -/
  | st16 (t : TileId) (f : Ins)
  /-- ST_32 (R59). -/
  | st32 (t : TileId) (f : Ins)
  /-- ST_64 (R59). -/
  | st64 (t : TileId) (f : Ins)
  /-- VLD (R59). -/
  | vld (t : TileId) (f : Ins)
  /-- VST (R59). -/
  | vst (t : TileId) (f : Ins)
  /-- DMA_V2S (R60). -/
  | dmaV2s (t : TileId) (f : Ins)
  /-- DMA_S2V (R60). -/
  | dmaS2v (t : TileId) (f : Ins)
  /-- DMA_COMPLETE (R63). -/
  | dmaComplete (t : TileId) (id : Nat)
  /-- CRD (R65). -/
  | crd (t : TileId) (f : Ins)
  /-- CSET (R65). -/
  | cset (t : TileId) (f : Ins)
  /-- CADD (R65). -/
  | cadd (t : TileId) (f : Ins)
  /-- CADDI (R65). -/
  | caddi (t : TileId) (f : Ins)
  /-- CWAIT (R65). -/
  | cwait (t : TileId) (f : Ins)
  /-- CWAITI (R65). -/
  | cwaiti (t : TileId) (f : Ins)
  /-- CWAIT_T (R67). -/
  | cwaitT (t : TileId) (f : Ins)
  /-- SLEEP (R65). -/
  | sleep (t : TileId) (f : Ins)
  /-- COUNTER_REACHED (R64). -/
  | counterReached (t : TileId)
  /-- WAIT_TIMEOUT (R67). -/
  | waitTimeout (t : TileId)
  /-- SLEEP_END (R67). -/
  | sleepEnd (t : TileId)
  /-- NOP (R68). -/
  | nop (t : TileId) (f : Ins)
  /-- END (R73). -/
  | endK (t : TileId) (f : Ins)
  /-- END_COMPLETION (R73). -/
  | endCompletion (t : TileId)
  /-- PHASE (R70). -/
  | phase (t : TileId) (f : Ins)
  /-- BARRIER (R71). -/
  | barrier (t : TileId) (f : Ins)
  /-- BARRIER_ARRIVE (R71). -/
  | barrierArrive (t : TileId)
  /-- BARRIER_ARRIVAL (R72). -/
  | barrierArrival (job : BitVec 16) (g : BitVec 4) (src : PkgId)
  /-- BARRIER_RELEASE_MESSAGE (R72). -/
  | barrierReleaseMessage (job : BitVec 16) (g : BitVec 4)
  /-- BARRIER_RELEASE (R72). -/
  | barrierRelease (part : BitVec 4) (g : BitVec 4)
  /-- RDTS (R68). -/
  | rdts (t : TileId) (f : Ins)
  /-- RDID (R69). -/
  | rdid (t : TileId) (f : Ins)
  /-- RDCYC (R68). -/
  | rdcyc (t : TileId) (f : Ins)
  /-- TRAP (R68). -/
  | trap (t : TileId) (f : Ins)
  /-- KERNEL_START (R253). -/
  | kernelStart (q : BitVec 8)
  /-- FAULT_VALID_CLEAR (R85). -/
  | faultValidClear (o : Origin) (t : TileId)
  /-- MMA (R105). -/
  | mma (t : TileId) (f : Ins)
  /-- MZERO (R108). -/
  | mzero (t : TileId) (f : Ins)
  /-- MST (R111). -/
  | mst (t : TileId) (f : Ins)
  /-- MVR (R112). -/
  | mvr (t : TileId) (f : Ins)
  /-- MSTX (R113). -/
  | mstx (t : TileId) (f : Ins)
  /-- MLDX (R113). -/
  | mldx (t : TileId) (f : Ins)
  /-- MFLG (R114). -/
  | mflg (t : TileId) (f : Ins)
  /-- VADD_F32 (R126). -/
  | vaddF32 (t : TileId) (f : Ins)
  /-- VSUB_F32 (R126). -/
  | vsubF32 (t : TileId) (f : Ins)
  /-- VMUL_F32 (R126). -/
  | vmulF32 (t : TileId) (f : Ins)
  /-- VFMA_F32 (R126). -/
  | vfmaF32 (t : TileId) (f : Ins)
  /-- VMIN_F32 (R126). -/
  | vminF32 (t : TileId) (f : Ins)
  /-- VMAX_F32 (R126). -/
  | vmaxF32 (t : TileId) (f : Ins)
  /-- VABS_F32 (R126). -/
  | vabsF32 (t : TileId) (f : Ins)
  /-- VNEG_F32 (R126). -/
  | vnegF32 (t : TileId) (f : Ins)
  /-- VDIV_F32 (R126). -/
  | vdivF32 (t : TileId) (f : Ins)
  /-- VSQRT_F32 (R126). -/
  | vsqrtF32 (t : TileId) (f : Ins)
  /-- VRCP_F32 (R130). -/
  | vrcpF32 (t : TileId) (f : Ins)
  /-- VRSQRT_F32 (R130). -/
  | vrsqrtF32 (t : TileId) (f : Ins)
  /-- VADD_I32 (R127). -/
  | vaddI32 (t : TileId) (f : Ins)
  /-- VSUB_I32 (R127). -/
  | vsubI32 (t : TileId) (f : Ins)
  /-- VMUL_I32 (R127). -/
  | vmulI32 (t : TileId) (f : Ins)
  /-- VAND (R127). -/
  | vand (t : TileId) (f : Ins)
  /-- VOR (R127). -/
  | vor (t : TileId) (f : Ins)
  /-- VXOR (R127). -/
  | vxor (t : TileId) (f : Ins)
  /-- VSHL (R127). -/
  | vshl (t : TileId) (f : Ins)
  /-- VSHR (R127). -/
  | vshr (t : TileId) (f : Ins)
  /-- VSRA (R127). -/
  | vsra (t : TileId) (f : Ins)
  /-- VMIN_S32 (R125). -/
  | vminS32 (t : TileId) (f : Ins)
  /-- VMAX_S32 (R125). -/
  | vmaxS32 (t : TileId) (f : Ins)
  /-- VCMP_F32 (R128). -/
  | vcmpF32 (t : TileId) (f : Ins)
  /-- VCMP_I32 (R128). -/
  | vcmpI32 (t : TileId) (f : Ins)
  /-- VBCAST (R125). -/
  | vbcast (t : TileId) (f : Ins)
  /-- VEXT (R125). -/
  | vext (t : TileId) (f : Ins)
  /-- VINS (R125). -/
  | vins (t : TileId) (f : Ins)
  /-- VPERM (R125). -/
  | vperm (t : TileId) (f : Ins)
  /-- VIOTA (R125). -/
  | viota (t : TileId) (f : Ins)
  /-- VRSUM_F32 (R129). -/
  | vrsumF32 (t : TileId) (f : Ins)
  /-- VRMAX_F32 (R129). -/
  | vrmaxF32 (t : TileId) (f : Ins)
  /-- VRMIN_F32 (R129). -/
  | vrminF32 (t : TileId) (f : Ins)
  /-- VRSUM_I32 (R129). -/
  | vrsumI32 (t : TileId) (f : Ins)
  /-- VRMAX_S32 (R129). -/
  | vrmaxS32 (t : TileId) (f : Ins)
  /-- VRMIN_S32 (R129). -/
  | vrminS32 (t : TileId) (f : Ins)
  /-- VEXP (R130). -/
  | vexp (t : TileId) (f : Ins)
  /-- VEXP2 (R130). -/
  | vexp2 (t : TileId) (f : Ins)
  /-- VLOG (R130). -/
  | vlog (t : TileId) (f : Ins)
  /-- VLOG2 (R130). -/
  | vlog2 (t : TileId) (f : Ins)
  /-- VTANH (R130). -/
  | vtanh (t : TileId) (f : Ins)
  /-- VSIGM (R130). -/
  | vsigm (t : TileId) (f : Ins)
  /-- VCVT_W (R131). -/
  | vcvtW (t : TileId) (f : Ins)
  /-- VCVT_N (R131). -/
  | vcvtN (t : TileId) (f : Ins)
  /-- VCVT_F2I (R132). -/
  | vcvtF2i (t : TileId) (f : Ins)
  /-- VCVT_I2F (R132). -/
  | vcvtI2f (t : TileId) (f : Ins)
  /-- VQX (R133). -/
  | vqx (t : TileId) (f : Ins)
  /-- VSTM (R134). -/
  | vstm (t : TileId) (f : Ins)
  /-- VGATHER (R134). -/
  | vgather (t : TileId) (f : Ins)
  /-- VSCATTER (R134). -/
  | vscatter (t : TileId) (f : Ins)
  /-- VPHASE_P (R146). -/
  | vphaseP (t : TileId) (f : Ins)
  /-- VPHASE_F (R146). -/
  | vphaseF (t : TileId) (f : Ins)
  /-- VOSM (R138). -/
  | vosm (t : TileId) (f : Ins)
  /-- VOSMJ (R139). -/
  | vosmj (t : TileId) (f : Ins)
  /-- VATTN (R142). -/
  | vattn (t : TileId) (f : Ins)
  /-- PUT (R187). -/
  | put (t : TileId) (f : Ins)
  /-- GET (R187). -/
  | get (t : TileId) (f : Ins)
  /-- PUTS (R188). -/
  | puts (t : TileId) (f : Ins)
  /-- AADD (R189). -/
  | aadd (t : TileId) (f : Ins)
  /-- CAS (R189). -/
  | cas (t : TileId) (f : Ins)
  /-- SWAP (R189). -/
  | swap (t : TileId) (f : Ins)
  /-- XACC (R190). -/
  | xacc (t : TileId) (f : Ins)
  /-- NOTIFY (R191). -/
  | notify (t : TileId) (f : Ins)
  /-- NOTIFY_DEPART (R191). -/
  | notifyDepart (id : Nat)
  /-- FENCE (R192). -/
  | fence (t : TileId) (f : Ins)
  /-- FENCE_SATISFIED (R192). -/
  | fenceSatisfied (id : Nat)
  /-- RSTAT (R193). -/
  | rstat (t : TileId) (f : Ins)
  /-- REMOTE_OP_ARRIVE (R182). -/
  | remoteOpArrive (op : RemotePkt)
  /-- REMOTE_OP_COMPLETE (R194). -/
  | remoteOpComplete (id : Nat) (err : BitVec 4) (data : List Byte)
  /-- REMOTE_OP_TIMEOUT (R205). -/
  | remoteOpTimeout (id : Nat)
  /-- ENTRY_LO_STAGE (R206). -/
  | entryLoStage (o : Origin) (v : BitVec 32)
  /-- ENTRY_HI_COMMIT (R179). -/
  | entryHiCommit (o : Origin) (v : BitVec 32)
  /-- WINDOW_DRAIN_END (R179). -/
  | windowDrainEnd
  /-- VAULT_REFRESH (R158). -/
  | vaultRefresh
  /-- CATCH_UP_REFRESH (R158). -/
  | catchUpRefresh
  /-- VAULT_SCRUB (R165). -/
  | vaultScrub (t : TileId)
  /-- SCRATCH_SCRUB (R165). -/
  | scratchScrub (t : TileId)
  /-- VAULT_WRITE_BACK (R163). -/
  | vaultWriteBack (t : TileId) (unit : Nat)
  /-- SCRATCH_WRITE_BACK (R164). -/
  | scratchWriteBack (t : TileId) (word : Nat)
  /-- CLEARING_COMPLETE (R173). -/
  | clearingComplete (t : TileId)
  /-- MEM_INIT_DONE (R174). -/
  | memInitDone
  /-- CE_CLEAR (R170). -/
  | ceClear (o : Origin) (v : BitVec 32)
  /-- CABLE_PRESENT (R212). -/
  | cablePresent (n : LinkId)
  /-- CABLE_PRESENCE_LOST (R212). -/
  | cablePresenceLost (n : LinkId)
  /-- CABLE_READY (R212). -/
  | cableReady (n : LinkId) (x : CableShows) (ident : List Byte)
  /-- TRAIN_DONE (R212). -/
  | trainDone (n : LinkId) (x : Trained)
  /-- FEC_LOCK (R212). -/
  | fecLock (n : LinkId)
  /-- IDENT (R213). -/
  | ident (n : LinkId) (pkg : PkgId) (far : LinkId) (role : BitVec 2)
  /-- LINK_STATE_TIMEOUT (R212). -/
  | linkStateTimeout (n : LinkId)
  /-- LANE_LOCK_LOST (R212). -/
  | laneLockLost (n : LinkId) (lane : BitVec 1)
  /-- RECOVER_DONE (R212). -/
  | recoverDone (n : LinkId) (lanes : BitVec 2)
  /-- LANE_DEGRADE (R212). -/
  | laneDegrade (n : LinkId) (lane : BitVec 1)
  /-- DOWN_RETRAIN (R211). -/
  | downRetrain (n : LinkId)
  /-- LINK_DOWN (R214). -/
  | linkDown (n : LinkId)
  /-- LINK_PACKET (R210). -/
  | linkPacket (n : LinkId) (p : LinkFrame)
  /-- LINK_RETRY (R210). -/
  | linkRetry (n : LinkId) (from_ : BitVec 16)
  /-- RETRAIN (R215). -/
  | retrain (o : Origin) (n : LinkId)
  /-- LINK_DISABLE_WRITE (R215). -/
  | linkDisableWrite (o : Origin) (n : LinkId) (v : BitVec 32)
  /-- CABLE_POLL (R217). -/
  | cablePoll (n : LinkId) (low : List Byte) (x : CableState)
  /-- CMGT_GO (R218). -/
  | cmgtGo (o : Origin) (n : LinkId) (v : BitVec 32)
  /-- CMGT_DONE (R235). -/
  | cmgtDone (n : LinkId) (acked : Bool) (data : Byte)
  /-- LINK_STATE_PERIOD (R222). -/
  | linkStatePeriod
  /-- LINK_STATE_PACKET (R222). -/
  | linkStatePacket (src : BitVec 7) (up : BitVec 64)
  /-- CL0_HELD_RELEASE (R22). -/
  | cl0HeldRelease (n : LinkId) (src : Cl0Source)
  /-- ETH_FRAME (R228). -/
  | ethFrame (e : EthFrame)
  /-- PTP_MESSAGE (R230). -/
  | ptpMessage (m : PtpMsg)
  /-- PORT_ENABLE_WRITE (R237). -/
  | portEnableWrite (o : Origin) (v : BitVec 32)
  /-- SYNC_PERIOD (R35). -/
  | syncPeriod
  /-- SYNC_PACKET (R39). -/
  | syncPacket (n : LinkId) (src : PkgId) (stamp : BitVec 64)
  /-- DELAY_EXCHANGE (R39). -/
  | delayExchange (n : LinkId) (t1 : BitVec 64) (t2 : BitVec 64) (t3 : BitVec 64) (t4 : BitVec 64)
  /-- ANNOUNCEMENT_PERIOD (R38). -/
  | announcementPeriod
  /-- LEADER_ANNOUNCEMENT (R38). -/
  | leaderAnnouncement (src : PkgId) (locked : Bool)
  /-- HOLDOVER (R38). -/
  | holdover
  /-- HOLDOVER_LIMIT_EXPIRY (R41). -/
  | holdoverLimitExpiry
  /-- SYNC_LOCK (R41). -/
  | syncLock
  /-- STEP_APPLY (R41). -/
  | stepApply
  /-- STEP_NOW (R41). -/
  | stepNow (o : Origin)
  /-- EVS_FREE (R44). -/
  | evsFree (o : Origin) (v : BitVec 32)
  /-- FAULT_STOP (R30). -/
  | faultStop (src : PkgId) (job : BitVec 16)
  /-- FAULT_STOP_REPEAT (R30). -/
  | faultStopRepeat
  /-- FAULT_STOP_ACK (R249). -/
  | faultStopAck (src : PkgId) (job : BitVec 16)
  /-- LEAVING_NOTICE (R462). -/
  | leavingNotice (src : PkgId) (job : BitVec 16)
  /-- VAUX_WARNING (R25). -/
  | vauxWarning
  /-- VAUX_WARNING_CLEAR (R429). -/
  | vauxWarningClear
  /-- OPEN (R241). -/
  | openSes (addr : BitVec 128) (port : BitVec 16) (seq : BitVec 32)
  /-- CLOSE (R243). -/
  | close (ses : BitVec 16) (addr : BitVec 128) (port : BitVec 16)
  /-- ACK (R239). -/
  | ack (ses : BitVec 16) (addr : BitVec 128) (port : BitVec 16) (ackno : BitVec 32) (ecn : Bool)
  /-- DATAGRAM_RETRANSMIT (R239). -/
  | datagramRetransmit (sp : Space)
  /-- OPEN_SESSION (R241). -/
  | openSession (h : CmdHdr) (n : BitVec 6) (addr : BitVec 128) (port : BitVec 16) (part : Option (BitVec 4)) (rights : BitVec 4)
  /-- CLOSE_SESSION (R243). -/
  | closeSession (h : CmdHdr) (n : BitVec 6)
  /-- SET_PACKAGE_ID (R242). -/
  | setPackageId (h : CmdHdr) (id : PkgId)
  /-- REG_READ (R246). -/
  | regRead (h : CmdHdr) (addr : BitVec 32) (count : Nat)
  /-- REG_WRITE (R246). -/
  | regWrite (h : CmdHdr) (addr : BitVec 32) (vals : List (BitVec 32))
  /-- MEM_WRITE (R246). -/
  | memWrite (h : CmdHdr) (ga : BitVec 64) (data : List Byte)
  /-- MEM_READ (R246). -/
  | memRead (h : CmdHdr) (ga : BitVec 64) (count : Nat)
  /-- ASSIGN_TILES (R251). -/
  | assignTiles (h : CmdHdr) (part : BitVec 4) (map : BitVec 1024)
  /-- RELEASE_TILES (R251). -/
  | releaseTiles (h : CmdHdr) (part : BitVec 4) (map : BitVec 1024)
  /-- QUEUE_BIND (R246). -/
  | queueBind (h : CmdHdr) (part : BitVec 4) (q : BitVec 8)
  /-- QUEUE_UNBIND (R246). -/
  | queueUnbind (h : CmdHdr) (part : BitVec 4) (q : BitVec 8)
  /-- LAUNCH (R252). -/
  | launch (h : CmdHdr) (part : BitVec 4) (d : LaunchDesc)
  /-- JOB_CREATE (R254). -/
  | jobCreate (h : CmdHdr) (part : BitVec 4) (job : BitVec 16) (members : List PkgId)
  /-- JOB_CLEAR_STOP (R463). -/
  | jobClearStop (h : CmdHdr) (part : BitVec 4)
  /-- JOB_STOP_QUERY (R463). -/
  | jobStopQuery (src : PkgId) (job : BitVec 16)
  /-- JOB_STOP_ANSWER (R463). -/
  | jobStopAnswer (src : PkgId) (job : BitVec 16) (stopped : Bool)
  /-- JOB_CLEAR_STOP_TIMEOUT (R463). -/
  | jobClearStopTimeout (job : BitVec 16)
  /-- JOB_LEAVE (R254). -/
  | jobLeave (h : CmdHdr) (part : BitVec 4)
  /-- BARRIER_SET (R255). -/
  | barrierSet (h : CmdHdr) (part : BitVec 4) (g : BitVec 8) (map : BitVec 1024) (members : List PkgId)
  /-- WINDOW_SET (R246). -/
  | windowSet (h : CmdHdr) (w : BitVec 32) (e : BitVec 64)
  /-- SET_CAP (R319). -/
  | setCap (h : CmdHdr) (watts : BitVec 32)
  /-- SET_PHASE_POINT (R319). -/
  | setPhasePoint (h : CmdHdr) (part : BitVec 8) (tag : BitVec 8) (op : BitVec 8) (l : BitVec 16)
  /-- SET_ENVELOPE (R319). -/
  | setEnvelope (h : CmdHdr) (watts : BitVec 32)
  /-- ATTEST (R451). -/
  | attest (h : CmdHdr) (nonce : BitVec 256)
  /-- MBX_POST (R258). -/
  | mbxPost (h : CmdHdr) (ch : BitVec 8) (dest : BitVec 7) (msg : List (BitVec 32))
  /-- MBX_MSG_STAGE (R257). -/
  | mbxMsgStage (o : Origin) (ch : BitVec 5) (k : BitVec 4) (v : BitVec 32)
  /-- MBX_GO (R258). -/
  | mbxGo (o : Origin) (ch : BitVec 5) (v : BitVec 32)
  /-- MBX_RELEASE (R257). -/
  | mbxRelease (o : Origin) (ch : BitVec 5)
  /-- MBX_REMOTE_POST (R258). -/
  | mbxRemotePost (o : Origin) (ch : BitVec 5) (msg : List (BitVec 32))
  /-- MBX_COMPAT_WRITE (R262). -/
  | mbxCompatWrite (o : Origin) (ch : BitVec 5) (on : Bool)
  /-- COMPAT_POST (R263). -/
  | compatPost (o : Origin) (ch : BitVec 5) (v : BitVec 32)
  /-- COMPAT_HELD_RELEASE (R263). -/
  | compatHeldRelease
  /-- MBX_RING (R261). -/
  | mbxRing (o : Origin) (v : BitVec 32)
  /-- RING_RECEIVE (R261). -/
  | ringReceive (o : Origin) (bit : BitVec 5)
  /-- MBX_MASK_WRITE (R260). -/
  | mbxMaskWrite (o : Origin) (r : BitVec 3) (v : BitVec 32)
  /-- HT_ENABLE_WRITE (R265). -/
  | htEnableWrite (o : Origin) (v : BitVec 32)
  /-- BURST_PERIOD (R276). -/
  | burstPeriod
  /-- CAP_UNATT (R276). -/
  | capUnatt
  /-- THERMAL_TRIP (R278). -/
  | thermalTrip (temp : Int)
  /-- TRIP_SWITCH_OFF (R278). -/
  | tripSwitchOff (temp : Int)
  /-- TRIP_CLEAR (R278). -/
  | tripClear (o : Origin)
  /-- CLOCK_SWITCH_UP (R279). -/
  | clockSwitchUp
  /-- LEVEL_MESSAGE (R281). -/
  | levelMessage (m : LevelMsg)
  /-- LEVEL_MESSAGE_MISSING (R281). -/
  | levelMessageMissing
  /-- HEARTBEAT (R286). -/
  | heartbeat (o : Origin) (v : BitVec 32)
  /-- HB_LOST (R286). -/
  | hbLost
  /-- ORPHAN (R286). -/
  | orphan
  /-- PACK_ANSWER (R287). -/
  | packAnswer (a : PackAns)
  /-- NO_PACK (R287). -/
  | noPack
  /-- FLOW_LOST (R290). -/
  | flowLost
  /-- FLOW_SWITCH_OFF (R290). -/
  | flowSwitchOff
  /-- FLOW_RETURN (R290). -/
  | flowReturn
  /-- LOOP_NOP (R306). -/
  | loopNop (i : LoopIns)
  /-- LOOP_END (R313). -/
  | loopEnd (i : LoopIns)
  /-- LOOP_MOV (R306). -/
  | loopMov (i : LoopIns)
  /-- LOOP_LDK (R306). -/
  | loopLdk (i : LoopIns)
  /-- LOOP_ADD (R306). -/
  | loopAdd (i : LoopIns)
  /-- LOOP_SUB (R306). -/
  | loopSub (i : LoopIns)
  /-- LOOP_MUL (R306). -/
  | loopMul (i : LoopIns)
  /-- LOOP_FMA (R306). -/
  | loopFma (i : LoopIns)
  /-- LOOP_DIV (R306). -/
  | loopDiv (i : LoopIns)
  /-- LOOP_MIN (R306). -/
  | loopMin (i : LoopIns)
  /-- LOOP_MAX (R306). -/
  | loopMax (i : LoopIns)
  /-- LOOP_CLAMP (R306). -/
  | loopClamp (i : LoopIns)
  /-- LOOP_ABS (R306). -/
  | loopAbs (i : LoopIns)
  /-- LOOP_SEL (R306). -/
  | loopSel (i : LoopIns)
  /-- LOOP_CGT (R306). -/
  | loopCgt (i : LoopIns)
  /-- LOOP_CGE (R306). -/
  | loopCge (i : LoopIns)
  /-- LOOP_CEQ (R306). -/
  | loopCeq (i : LoopIns)
  /-- LOOP_BR (R306). -/
  | loopBr (i : LoopIns)
  /-- LOOP_BRP (R306). -/
  | loopBrp (i : LoopIns)
  /-- LOOP_BRN (R306). -/
  | loopBrn (i : LoopIns)
  /-- FLT (R308). -/
  | flt (i : LoopIns)
  /-- SLEW (R308). -/
  | slew (i : LoopIns)
  /-- HYST (R308). -/
  | hyst (i : LoopIns)
  /-- PI (R308). -/
  | pi (i : LoopIns)
  /-- PIU (R309). -/
  | piu (i : LoopIns)
  /-- TRK (R309). -/
  | trk (i : LoopIns)
  /-- FLW (R310). -/
  | flw (i : LoopIns)
  /-- PROG_DATA_LO (R311). -/
  | progDataLo (o : Origin) (v : BitVec 32)
  /-- PROG_DATA_HI (R311). -/
  | progDataHi (o : Origin) (v : BitVec 32)
  /-- VERIFY (R311). -/
  | verify (o : Origin) (v : BitVec 32)
  /-- VERIFY_DONE (R311). -/
  | verifyDone
  /-- COMMIT (R317). -/
  | commit (o : Origin) (v : BitVec 32)
  /-- COMMIT_APPLY (R317). -/
  | commitApply
  /-- PALETTE_COPY_END (R318). -/
  | paletteCopyEnd
  /-- PALETTE_WRITE (R316). -/
  | paletteWrite (o : Origin) (k : BitVec 11) (v : BitVec 32)
  /-- ENTRY_COMMIT_WRITE (R319). -/
  | entryCommitWrite (o : Origin) (addr : BitVec 24) (v : BitVec 32)
  /-- ENTRY_COMMIT_APPLY (R319). -/
  | entryCommitApply
  /-- STAGE_OPEN (R320). -/
  | stageOpen (o : Origin)
  /-- STAGE_ABORT (R320). -/
  | stageAbort (o : Origin)
  /-- STAGE_TIMEOUT (R320). -/
  | stageTimeout
  /-- DIRECT_WRITE (R320). -/
  | directWrite (o : Origin) (v : BitVec 32)
  /-- ARM (R323). -/
  | arm (o : Origin)
  /-- FORCE (R323). -/
  | force (o : Origin)
  /-- STOP (R323). -/
  | stop (o : Origin)
  /-- POST_COMPLETE (R323). -/
  | postComplete
  /-- SK_DATA_READ (R324). -/
  | skDataRead (o : Origin)
  /-- RAIL_SOFT_START (R336). -/
  | railSoftStart (r : RailId) (v : Nat)
  /-- SHORT_CHECK (R337). -/
  | shortCheck (r : RailId)
  /-- SOFT_START_END (R337). -/
  | softStartEnd (r : RailId)
  /-- SOFT_START_TIMEOUT (R337). -/
  | softStartTimeout (r : RailId)
  /-- RAIL_RETRY (R339). -/
  | railRetry (r : RailId)
  /-- COUNT_LEFT_RELOAD (R339). -/
  | countLeftReload (r : RailId)
  /-- RAIL_SWITCH_OFF (R336). -/
  | railSwitchOff
  /-- RAIL_CLEAR (R339). -/
  | railClear (o : Origin) (r : RailId)
  /-- RAIL_EN_WRITE (R351). -/
  | railEnWrite (o : Origin) (r : RailId) (en : Bool)
  /-- PH_FAULT_CLEAR (R351). -/
  | phFaultClear (o : Origin) (hi : Bool) (v : BitVec 32)
  /-- FREC_WRITE_DONE (R347). -/
  | frecWriteDone
  /-- STATUS_FRAME (R357). -/
  | statusFrame (x : StageStatus)
  /-- RENEW (R359). -/
  | renew
  /-- BRUSH_LOST (R359). -/
  | brushLost
  /-- BRUSH_NOTICE (R359). -/
  | brushNotice (src : PkgId) (x : BrushInfo)
  /-- STANDBY_QUERY (R360). -/
  | standbyQuery
  /-- END_B_CLAIM (R360). -/
  | endBClaim
  /-- HANDOVER (R362). -/
  | handover (o : Origin)
  /-- HANDOVER_NOTICE (R362). -/
  | handoverNotice (src : PkgId) (x : BrushInfo)
  /-- SELF_DIAGNOSIS (R363). -/
  | selfDiagnosis (stageOk : Bool) (eccOk : Bool) (slotsReadable : Bool)
  /-- REARM (R385). -/
  | rearm (o : Origin)
  /-- PACK_REPORT (R364). -/
  | packReport (x : PackRep)
  /-- PACKAGE_EXCLUDED (R364). -/
  | packageExcluded (slot : BitVec 2)
  /-- EJECT (R462). -/
  | eject
  /-- EJECT_SWITCH_OFF (R462). -/
  | ejectSwitchOff
  /-- EJECT_RELEASE (R462). -/
  | ejectRelease
  /-- BALANCE_PAUSE (R372). -/
  | balancePause
  /-- SWEEP_LATCH (R372). -/
  | sweepLatch
  /-- MONITOR_REPLY (R372). -/
  | monitorReply (m : MonReply)
  /-- MONITOR_TIMEOUT (R372). -/
  | monitorTimeout (mon : BitVec 2)
  /-- SWEEP_CLOSE (R372). -/
  | sweepClose
  /-- FAR_SEGMENT_REQUEST (R372). -/
  | farSegmentRequest (q : FarRequest)
  /-- FAR_SEGMENT_VALUES (R372). -/
  | farSegmentValues (ms : List MonReply)
  /-- REF_OVERDUE (R376). -/
  | refOverdue
  /-- CAPRUN (R379). -/
  | caprun (o : Origin)
  /-- CAPRUN_PHASE_END (R379). -/
  | caprunPhaseEnd
  /-- CAPABORT (R379). -/
  | capabort (o : Origin)
  /-- CAP_RECORD_WRITE_DONE (R381). -/
  | capRecordWriteDone
  /-- HIBERNATE (R382). -/
  | hibernate
  /-- WAKE (R382). -/
  | wake (o : Origin)
  /-- NO_PACK_BUS_LOW (R461). -/
  | noPackBusLow
  /-- NO_PACK_BUS_RESTORED (R461). -/
  | noPackBusRestored
  /-- VARNISH_SAMPLE (R389). -/
  | varnishSample (mV : Int) (mA : Int)
  /-- VMARK_CUT (R391). -/
  | vmarkCut
  /-- FREE_CUT (R391). -/
  | freeCut
  /-- VARNISH_SAVE (R390). -/
  | varnishSave
  /-- VARNISH_SUPPLY_WARN (R390). -/
  | varnishSupplyWarn
  /-- SECTOR_ERASE (R390). -/
  | sectorErase
  /-- VARNISH_START (R388). -/
  | varnishStart (cause : Byte)
  /-- SEAL_TEST (R395). -/
  | sealTest (ok : Bool)
  /-- SET_PARAM (R396). -/
  | setParam (id : Byte) (val : BitVec 32) (tool : BitVec 64)
  /-- SW_BLOCK (R396). -/
  | swBlock (idx : BitVec 16) (data : List Byte)
  /-- SW_COMMIT (R396). -/
  | swCommit (len : BitVec 32) (hash : BitVec 256) (ver : BitVec 16) (tool : BitVec 64)
  /-- SELF_CHECK (R399). -/
  | selfCheck (ok : Bool) (code : BitVec 16)
  /-- QUERY_STATUS (R400). -/
  | queryStatus (dieTemp : BitVec 32)
  /-- QUERY_RECORD (R400). -/
  | queryRecord
  /-- QUERY_IDENT (R400). -/
  | queryIdent
  /-- QUERY_PARAMS (R400). -/
  | queryParams
  /-- QUERY_ATTEST (R450). -/
  | queryAttest
  /-- REPLY_RETRY (R400). -/
  | replyRetry
  /-- REPLY_DROP (R400). -/
  | replyDrop
  /-- FEED_FRAME (R393). -/
  | feedFrame (data : List Byte)
  /-- FEED_ACCEPT (R393). -/
  | feedAccept
  /-- FEED_STALE (R393). -/
  | feedStale
  /-- ATTR_CLEAR (R405). -/
  | attrClear (o : Origin) (v : BitVec 32)
  /-- FREEZE (R405). -/
  | freeze (o : Origin) (on : Bool)
  /-- FREEZE_TIMEOUT (R405). -/
  | freezeTimeout
  /-- RECORD_COMMIT (R412). -/
  | recordCommit
  /-- CHANGE_LOG_COMMIT (R421). -/
  | changeLogCommit
  /-- CHANGE_HOLD_RELEASE (R421). -/
  | changeHoldRelease
  /-- REC_CLEAR (R418). -/
  | recClear (o : Origin) (mode : Bool)
  /-- LOG_CLEAR (R418). -/
  | logClear (o : Origin)
  /-- VAUX_POWER_ON (R426). -/
  | vauxPowerOn (st : Straps)
  /-- VAUX_RESET (R429). -/
  | vauxReset (st : Straps)
  /-- VAUX_RELEASE (R429). -/
  | vauxRelease
  /-- RESET_N (R426). -/
  | resetN (st : Straps)
  /-- QUIET_CLOCK_LOST (R436). -/
  | quietClockLost (st : Straps)
  /-- COLD (R453). -/
  | cold (o : Origin) (st : Straps)
  /-- WARM (R428). -/
  | warm (o : Origin) (st : Straps)
  /-- PLL_LOCK_LOST (R436). -/
  | pllLockLost (memPll : Bool) (st : Straps)
  /-- STEWARD (R453). -/
  | steward (o : Origin)
  /-- WATCHDOG_EXPIRE (R426). -/
  | watchdogExpire
  /-- STEWARD_SELF (R453). -/
  | stewardSelf (o : Origin)
  /-- WDOG_WRITE (R452). -/
  | wdogWrite (o : Origin) (v : BitVec 32)
  /-- IN_SERVICE (R440). -/
  | inService (o : Origin)
  /-- TEST (R440). -/
  | test (o : Origin)
  /-- OPTION_LOAD_DONE (R434). -/
  | optionLoadDone
  /-- CLOCK_GOOD (R436). -/
  | clockGood (k : BitVec 3)
  /-- CLOCK_FAIL (R436). -/
  | clockFail (k : BitVec 3)
  /-- RECOVERED_CLOCK_SWITCH (R436). -/
  | recoveredClockSwitch
  /-- BOOT_START (R444). -/
  | bootStart (o : Origin) (len : BitVec 24)
  /-- BOOT_WIN_WRITE (R444). -/
  | bootWinWrite (o : Origin) (v : BitVec 32)
  /-- BOOT_DONE (R444). -/
  | bootDone (o : Origin)
  /-- BOOT_REQUEST_PERIOD (R444). -/
  | bootRequestPeriod
  /-- BOOT_PACKET (R444). -/
  | bootPacket (last : Bool) (data : List Byte)
  /-- BOOT_FAILURE (R445). -/
  | bootFailure
  /-- BOOT_RETRY (R445). -/
  | bootRetry
  /-- ATT_GO (R455). -/
  | attGo (o : Origin)
  /-- ATT_EXT (R455). -/
  | attExt (o : Origin) (slot : BitVec 3)
  /-- ATTEST_REPORT_DONE (R451). -/
  | attestReportDone
  /-- TILE_CYCLE (R76). -/
  | tileCycle
  /-- VATTN_CHUNK_DONE (R136). -/
  | vattnChunkDone (t : TileId)
  /-- PORT_LINK_CHANGE (R227). -/
  | portLinkChange (lanes : BitVec 8) (fec : Bool)
  /-- BOOT_IMAGE_LOADED (R443). -/
  | bootImageLoaded (micro : Bool)
  /-- LEADER_ANNOUNCEMENT_LAPSE (R38). -/
  | leaderAnnouncementLapse (src : PkgId)
  /-- ILLEGAL_INSTRUCTION (R49). -/
  | illegalInstruction (t : TileId) (w : BitVec 64)
deriving DecidableEq, Repr

end Sys2Proof
end

