-- ==== Sys2Proof/Machine/State.lean ====
section
/-! DEFINITION. The state of one GK1 package as plain data, the reasons a step can stop, and the state after reset.

Units, once for the whole model: voltages of rails are integers of 1/64 mV (R333), rail and phase currents are mA, the
accumulators of the voltage loop and predicted currents are 1/256 mA, bus and pack voltages are 10 mV, powers of the
latch are 1/64 µW, powers in registers and messages are W, and times are counts of `tick`, the beats since the last cold
reset (which no time step moves). A register that software reads as a stored word lives in `regs`, keyed by its
control-space address; a register that shows the state of an engine is computed from that engine's record here. -/

namespace Sys2Proof.Machine

/-! ### Tiles -/

/-- One long accumulator (R104): anchor, the 96-bit sums and the five flags of the elements, keyed 64 × row + column. -/
structure Acc where
  anchor : Int
  x : SMap (BitVec 96)
  fl : SMap (BitVec 5)
deriving DecidableEq, Repr

/-- An accumulator as launch leaves it (R108). -/
def Acc.zero : Acc := ⟨0, [], []⟩

/-- What a tile waits for (R65, R67, R71, R73). Beat counts are beat boundaries still to pass. -/
inductive Wait where
  | none
  | counter (c : BitVec 6) (target : BitVec 32)
  | timed (c : BitVec 6) (target : BitVec 32) (beats : BitVec 64) (p : BitVec 6)
  | sleep (beats : BitVec 64)
  | drainBarrier (g : BitVec 4)
  | barrier (g : BitVec 4)
  | drainEnd
deriving DecidableEq, Repr

/-- A tile DMA in flight (R60, R62): its direction, completion counter and rectangle, with the instruction that issued it. -/
structure Dma where
  id : Nat
  v2s : Bool
  ctr : BitVec 6
  vault : Nat
  scratch : Nat
  rows : Nat
  len : Nat
  sStride : Nat
  vStride : Nat
  pc : Nat
  word : BitVec 64
deriving DecidableEq, Repr

/-- One operand of an MMA (R100, R101): format, scale mode, base and stride of its rows, base and stride of its scales. -/
structure Operand where
  fmt : Nat
  mode : Nat
  base : Nat
  stride : Nat
  sBase : Nat
  sStride : Nat
deriving DecidableEq, Repr

/-- What an MMA has still to compute (R117): its accumulator, operands and K; the rows and scale rows it reads, as they were when it
was dispatched; the 64-byte units of scratch that DMAs and remote operations have written since, with their new contents; and the number
of the tile's next DMA then, since only the earlier ones are unordered with it (R62). -/
structure MmaJob where
  d : Nat
  a : Operand
  b : Operand
  k : Nat
  rows : List (Nat × List Byte)
  late : List (Nat × List Byte)
  mark : Nat
deriving DecidableEq, Repr

/-- A matrix instruction in flight (R115, R116): the accumulator it writes, its rate class of R402, its active cycles and
its drain cycles still to run, whether it is an MMA, and what an MMA computes when its active cycles end. -/
structure MatOp where
  acc : Option (BitVec 2)
  rate : BitVec 2
  active : Nat
  drain : Nat
  mma : Bool
  job : Option MmaJob
deriving DecidableEq, Repr

/-- A VATTN in progress (R136, R140, R142): its descriptor, the next chunk's first key, and its registers. `late` are the vault units
that DMAs and remote operations have overwritten since it was dispatched, as they were before (R145). -/
structure Vattn where
  d : BitVec 6
  a : BitVec 6
  c : BitVec 6
  kOff : Nat
  vOff : Nat
  kStride : Nat
  vStride : Nat
  n : Nat
  kPos : Nat
  qPos : Nat
  window : Nat
  scale : BitVec 32
  fmt : BitVec 4
  causal : Bool
  d128 : Bool
  next : Nat
  started : Bool
  late : List (Nat × List Byte)
  pc : Nat
  word : BitVec 64
deriving DecidableEq, Repr

/-- A tile's fault record (R83, R85). -/
structure FaultRec where
  valid : Bool
  code : BitVec 8
  pc : BitVec 13
  insn : BitVec 64
  addr : BitVec 64
  stamp : BitVec 64
deriving DecidableEq, Repr

/-- An empty fault record. -/
def FaultRec.zero : FaultRec := ⟨false, 0, 0, 0, 0, 0⟩

/-- One tile (R46, R50, R62, R76, R84, R114, R193): instruction store, register files, wait, status, work in flight and
fault record. Registers are keyed by number, vector lanes by 64 × register + lane. `st` is the STATE code of R84;
code 5, and code 6 of a cluster held for an admission, are overlays that the cluster gives. `incs` are the increments that completions
and signals have made since the tile cycle began and the tile last issued (R66). -/
structure Tile where
  istore : SMap (BitVec 64)
  pc : Nat
  sreg : SMap (BitVec 64)
  vreg : SMap (BitVec 32)
  acc : SMap Acc
  pred : BitVec 8
  ctr : SMap (BitVec 32)
  flags : BitVec 4
  wait : Wait
  st : BitVec 5
  part : BitVec 4
  assigned : Bool
  queue : BitVec 8
  dmas : List Dma
  nextDma : Nat
  mats : List MatOp
  vattn : Option Vattn
  credit : Nat
  launchCycle : Nat
  rstat : BitVec 64
  lastErrRec : Option Nat
  incs : SMap (BitVec 32)
  fault : FaultRec
deriving DecidableEq, Repr

/-- A tile after cold reset (R174). -/
def Tile.zero : Tile :=
  ⟨[], 0, [], [], [], 0, [], 0, .none, 0, 0, false, 0, [], 0, [], .none, 0, 0, 0, .none, [], FaultRec.zero⟩

/-! ### Remote operations -/

/-- Who issued a remote operation (R181). A closed session's operations are renumbered 0xFFFF, which no session has (R243). -/
inductive RSrc where
  | tile (t : TileId)
  | session (n : BitVec 16) (tag : BitVec 16)
deriving DecidableEq, Repr

/-- A remote operation outstanding at its source (R194, R196). `waits` lists the earlier operations a NOTIFY waits for
before it departs (R191). -/
structure RemoteOp where
  id : Nat
  src : RSrc
  pkt : RemotePkt
  dest : PkgId
  laddr : Nat
  ctr : BitVec 6
  e : BitVec 6
  op : BitVec 8
  bulk : Bool
  departed : Bool
  since : Nat
  waits : List Nat
  pc : Nat
  word : BitVec 64
deriving DecidableEq, Repr

/-- A FENCE not yet satisfied (R192). -/
structure Fence where
  id : Nat
  tile : TileId
  ctr : BitVec 6
  waits : List Nat
deriving DecidableEq, Repr

/-! ### Host transport, partitions, queues, jobs -/

/-- What the event stream keeps of the instant of an event beside its stamp (R43): the package identifier and the STATE code. -/
structure Mark where
  pkg : PkgId
  st : Byte
deriving DecidableEq, Repr

/-- A report to the service recorder (R410 to R413); `key` is the first payload word, `mark` is of the instant of the stamp (R43). -/
structure Report where
  stamp : BitVec 64
  type : Byte
  origin : Origin
  key : BitVec 32
  payload : List Byte
  mark : Mark
deriving DecidableEq, Repr

/-- What the package sends to a host or a hall member in a datagram (R238, R245, R248). A fault event carries the fault record of the
service recorder and the job number; a kernel stop that no fault caused has no record, and one outside a job no job number. `net` is a
package-to-package datagram with its class. -/
inductive HostMsg where
  | response (tag : BitVec 16) (status : BitVec 8) (index : Nat) (data : List Byte)
  | openAck (ackno : BitVec 32)
  | ack (ackno : BitVec 32)
  | kernelComplete (tag : BitVec 16)
  | jobFault (job : BitVec 16) (record : Report)
  | kernelFault (tag : BitVec 16) (job : Option (BitVec 16)) (record : Option Report)
  | doorbell (bells : BitVec 32)
  | net (cls : BitVec 2) (m : NetMsg)
deriving DecidableEq, Repr

/-- A datagram sent and not yet acknowledged (R239). -/
structure TxDg where
  seq : BitVec 32
  retries : Nat
  sentAt : Nat
  msg : HostMsg
deriving DecidableEq, Repr

/-- One sequence space in both directions (R239): `rxSeq` is the number expected next. -/
structure Chan where
  txSeq : BitVec 32
  rxSeq : BitVec 32
  window : Nat
  grown : Nat
  unacked : List TxDg
  queued : List HostMsg
deriving DecidableEq, Repr

/-- A fresh sequence space: window 16 (R239). -/
def Chan.fresh : Chan := ⟨0, 0, 16, 0, [], []⟩

/-- A command of a session that has not begun, or is held: its tag, the register accesses it has made, whether it has begun (R243,
R245), and bytes [11:4] of its payload where a datagram brought it (R420). -/
structure Waiting where
  tag : BitVec 16
  past : Nat
  begun : Bool
  new : Option (BitVec 64)
  cmd : HostCmd
deriving DecidableEq, Repr

/-- A session (R241): rights are READ, BASIC, EXPERT, LEGACY in bits 0 to 3. `cmds` counts commands not yet answered, `waiting`
holds those not yet begun (R245). -/
structure Session where
  isOpen : Bool
  addr : BitVec 128
  port : BitVec 16
  rights : BitVec 4
  part : Option (BitVec 4)
  chan : Chan
  cmds : Nat
  waiting : List Waiting
deriving DecidableEq, Repr

/-- A closed session. -/
def Session.closed : Session := ⟨false, 0, 0, 0, .none, Chan.fresh, 0, []⟩

/-- A posted kernel (R252, R253): who launched it and its descriptor. -/
structure Kernel where
  ses : BitVec 16
  tag : BitVec 16
  part : BitVec 4
  d : LaunchDesc
deriving DecidableEq, Repr

/-- A queue (R246, R253). -/
structure Queue where
  part : Option (BitVec 4)
  posted : List Kernel
  running : Option Kernel
  ended : BitVec 1024
deriving DecidableEq, Repr

/-- An unbound queue. -/
def Queue.zero : Queue := ⟨.none, [], .none, 0⟩

/-- A job as this package knows it (R29, R30, R254, R463). `unacked` are the hall members that have not acknowledged the
fault-stop sent at `stopAt`; `left` are the members whose leaving notice this package holds. -/
structure Job where
  num : BitVec 16
  members : List PkgId
  stopped : Bool
  stopAt : Nat
  unacked : List PkgId
  left : List PkgId
deriving DecidableEq, Repr

/-- A partition (R70, R250): its job, its phase tag as written and as the Governor latched it, and the tile cycle and tile of the
last write of the tag. -/
structure Part where
  job : Option (BitVec 16)
  tag : BitVec 4
  latched : BitVec 4
  tagBy : Nat × Nat
deriving DecidableEq, Repr

/-- A partition without a job. -/
def Part.zero : Part := ⟨.none, 0, 0, (0, 0)⟩

/-- A barrier group of a partition (R71, R72, R255). Unconfigured when `tiles` is 0. -/
structure Group where
  tiles : BitVec 1024
  members : List PkgId
  arrived : BitVec 1024
  sent : Bool
  pkgs : List PkgId
  held : Bool
  epoch : BitVec 32
deriving DecidableEq, Repr

/-- An unconfigured group. -/
def Group.zero : Group := ⟨0, [], 0, false, [], false, 0⟩

/-- A JOB_CLEAR_STOP waiting for its members (R463): the session to answer, and the origin and the bytes that its change-log entry names
(R246, R420). -/
structure ClearStop where
  ses : BitVec 16
  org : Origin
  new : Option (BitVec 64)
  tag : BitVec 16
  job : BitVec 16
  since : Nat
  waiting : List PkgId
deriving DecidableEq, Repr

/-! ### Links and port -/

/-- One Jaliq link beside its registers (R209, R210, R212, R214, R226): consecutive training failures, trained lanes, when it
entered its state and left ACTIVE or DEGRADED, sequence numbers, replay buffer and queue (each class is the sublist of its packets,
R21), held CL0 packets, and CL0 allowance used by each source (R226). `turn` counts the CL1 packets sent since the last of CL2 (R20);
`polled` is what the last poll of the cable read, at `polledAt` (R217). -/
structure Link where
  fails : Nat
  lanes : BitVec 2
  since : Nat
  leftAt : Option Nat
  declared : Bool
  txSeq : BitVec 16
  rxSeq : BitVec 16
  replay : List LinkFrame
  queue : List LinkFrame
  headRetries : Nat
  held : List (Cl0Source × LinkFrame)
  used : SMap Nat
  present : Bool
  turn : Nat
  polled : List Byte
  polledAt : Option Nat
deriving DecidableEq, Repr

/-- A link after cold reset. -/
def Link.zero : Link := ⟨0, 0, 0, .none, false, 0, 0, [], [], 0, [], [], false, 0, [], .none⟩

/-- The IEEE 1588 part of synchronisation (R230): the masters that have announced the PTP timescale, the number of the next Delay_Req,
the Sync of a two-step master that waits for its Follow_Up (sequence number, arrival, correction), the Delay_Req that waits for its
Delay_Resp (sequence number and departure), the last difference from master to slave, and the path delay once measured. -/
structure PtpSt where
  masters : List PtpMaster
  seq : BitVec 16
  sync : Option (BitVec 16 × BitVec 64 × Int)
  req : Option (BitVec 16 × BitVec 64)
  down : Int
  delay : Option Int
deriving DecidableEq, Repr

/-- The IEEE 1588 part at reset. -/
def PtpSt.zero : PtpSt := ⟨[], 0, .none, .none, 0, .none⟩

/-- Time synchronisation (R37 to R41). Offsets (local time less the source's) and delays are FRAC counts. `pendingStep` is the
offset that a step will remove, before the first lock the offset that the first step will remove; `inBound` is when the offset
came within its bound, `heard` the leader announcements of other packages with their times and LOCKED marks, `said` this package's
own last announcement. `following` is the package followed over a link with its SOURCE code, `lastSync` when it was last heard or
began to be followed, `passed` the packages that have been passed over for their silence (R38). `exch` is the delay exchange begun
(link, time of its request, stamp t1). -/
structure Sync where
  pendingStep : Option Int
  inBound : Option Nat
  lastSync : Option Nat
  holdSince : Option Nat
  firstLock : Bool
  delay : SMap (Option Int)
  rate : Int
  heard : List (PkgId × Nat × Bool)
  said : Option (Nat × Bool)
  following : Option (PkgId × Nat)
  passed : List PkgId
  exch : Option (Nat × Nat × BitVec 64)
  exchDone : Bool
  ptp : PtpSt
deriving DecidableEq, Repr

/-- Synchronisation state at reset. -/
def Sync.zero : Sync :=
  ⟨.none, .none, .none, .none, false, [], 0, [], .none, .none, [], .none, false, PtpSt.zero⟩

/-! ### Records -/

/-- A record of the event stream (R43). -/
structure StreamRec where
  stamp : BitVec 64
  pkg : PkgId
  src : Byte
  flags : Byte
  value : BitVec 32
deriving DecidableEq, Repr

/-- One histogram entry (R416). -/
structure Hist where
  count : BitVec 32
  lastSeq : BitVec 32
  min : BitVec 32
  max : BitVec 32
deriving DecidableEq, Repr

/-- The service recorder (R410 to R418): intake, pending lost count with the stamp of its first report, committed records
with their sequence numbers (oldest first), histogram entries and counters. -/
structure Recorder where
  intake : List Report
  pendLost : Nat
  pendStamp : BitVec 64
  pendMark : Mark
  recs : List (BitVec 32 × Report)
  hist : SMap Hist
  firstSeq : BitVec 32
  nextSeq : BitVec 32
  fill : Nat
  full : Bool
  lost : BitVec 32
  overflow : BitVec 32
deriving DecidableEq, Repr

/-- The recorder after cold reset. -/
def Recorder.zero : Recorder := ⟨[], 0, 0, ⟨0, 0⟩, [], [], 0, 0, 0, false, 0, 0⟩

/-- A change-log entry (R420), without the sequence number and CRC that its commit gives it. -/
structure Change where
  origin : Origin
  kind : Byte
  stamp : BitVec 64
  target : BitVec 32
  aux : BitVec 32
  old : BitVec 64
  new : BitVec 64
  mark : Mark
deriving DecidableEq, Repr

/-- A control-space write held for room in the change-log intake (R421). -/
structure HeldWrite where
  origin : Origin
  addr : BitVec 24
  value : BitVec 32
deriving DecidableEq, Repr

/-- The change log (R419 to R421), with the writes held for room in its intake. -/
structure ChangeLog where
  intake : List Change
  entries : List (BitVec 32 × Change)
  firstSeq : BitVec 32
  nextSeq : BitVec 32
  lost : BitVec 32
  overflow : BitVec 32
  heldWrites : List HeldWrite
deriving DecidableEq, Repr

/-- The change log after cold reset. -/
def ChangeLog.zero : ChangeLog := ⟨[], [], 0, 0, 0, 0, []⟩

/-! ### Mailboxes -/

/-- A mailbox channel (R256 to R258, R262). -/
structure Mbox where
  msg : List (BitVec 32)
  origin : Origin
  stamp : BitVec 64
  full : Bool
  compat : Bool
  lock : Bool
deriving DecidableEq, Repr

/-- An empty channel. -/
def Mbox.zero : Mbox := ⟨[], 0, 0, false, false, false⟩

/-- What one origin has staged for one channel (R257). -/
structure Staged where
  regs : SMap (BitVec 32)
  len : BitVec 4
  dest : BitVec 7
deriving DecidableEq, Repr

/-- Nothing staged. -/
def Staged.zero : Staged := ⟨[], 0, 0⟩

/-! ### Governor -/

/-- The last pack answer and its supervision (R287, R288, R461), in W. -/
structure PackIn where
  cPack : Int
  cAbs : Int
  pRide : Int
  shelf : Bool
  epoch : BitVec 32
  missed : Nat
  fresh : Bool
  busLow : Nat
  busHigh : Nat
  forced : Bool
deriving DecidableEq, Repr

/-- The Governor beside its registers and the loop variables (R266 to R290). `halt` holds one bit per cause: 0 thermal trip,
1 coolant, 2 VAUX warning, 3 eject, 4 burst or zero level, 5 reset. `held` are the clusters halted until an admission,
`due` the queued admissions of feathered releases in rank order (beat, cluster, and the barrier group released), `launched` the clusters waiting to be admitted for a
launch, `dff` the feed-forward step at this FRAC 0, `lamPart` and `lamPref` the
preferred levels of the last latch, `haltEnded` a halt that ended in this beat and holds until the next, `returning` the move of the share back to GOV.ENV_SHARE. -/
structure Gov where
  lam : Nat
  lamSel : Nat
  winner : Nat
  guard : Nat
  guardB : Int
  power : Int
  busV : Nat
  railV : Rails
  railI : Rails
  hot : Int
  hotIdx : Nat
  flowOk : Bool
  eject : Bool
  fd : BitVec 32
  fm : BitVec 32
  pRef : BitVec 32
  filtersOn : Bool
  halt : BitVec 8
  held : BitVec 64
  admitted : BitVec 64
  wash : BitVec 64
  limit : SMap Nat
  due : List (Nat × BitVec 6 × Option Nat)
  launched : BitVec 64
  burst : Option (Nat × Nat)
  lowBeats : Nat
  okBeats : Nat
  opNow : BitVec 3
  opTgt : BitVec 3
  upReady : Bool
  iPred : Int
  dff : Int
  washDemand : BitVec 32
  slewHeld : Bool
  haltedPrev : Bool
  haltEnded : Bool
  hbAt : Nat
  shareMw : Nat
  returning : Bool
  lamPart : SMap Nat
  lamPref : Nat
  dem : BitVec 32
  pack : PackIn
  flowGood : Nat
  flowLostAt : Option Nat
  flowOff : Bool
  tripAt : Option Nat
  levelMiss : Nat
  partner : Option LevelMsg
  partnerHold : Bool
  ejectAt : Option Nat
  ejectGone : Nat
deriving DecidableEq, Repr

/-! ### Loop engine -/

/-- The sketchbook (R322 to R324): state code, samples of each channel (newest first), trigger positions, samples still to
take after the trigger, the previous sample of the trigger source, and the Governor status last seen. `seen` is one more than the beat, or
stroke, of a channel's last sample; `late` are the channels whose trigger sample is still to come (R324). -/
structure Sketch where
  st : BitVec 2
  trig : Bool
  stamp : BitVec 64
  samples : SMap (List (BitVec 32))
  tpos : SMap Nat
  left : SMap Nat
  prev : Option (BitVec 32)
  govSeen : BitVec 32
  seen : SMap Nat
  late : List Nat
deriving DecidableEq, Repr

/-- The sketchbook after cold reset. -/
def Sketch.zero : Sketch := ⟨0, false, 0, [], [], [], .none, 0, [], []⟩

/-- A COMMIT waiting for its boundary (R317). -/
structure Commit where
  origin : Origin
  pal : Bool
  prog : Bool
  clr : Bool
  lapsed : Bool
deriving DecidableEq, Repr

/-- The loop engine (R299 to R320): banks, active source (0 ROM, 1 A, 2 B) and its length, variables and the run's shadow,
the run's program counter and cycles, ports, palettes, the palette that
fixed-function readers latched at the last FRAC 0, and what waits for the boundary. `romPhase` is how far the ROM program's run has come
(log 9) and `romErr` the errors of its loops; `wordErr` are the uncorrectable bank words (512 more for bank B) and `palErr` the
uncorrectable palette entries (4,096 more for palette B) of R315. -/
structure Loop where
  bankA : SMap (BitVec 64)
  bankB : SMap (BitVec 64)
  source : BitVec 2
  len : Nat
  vars : SMap (BitVec 32)
  shadow : SMap (BitVec 32)
  running : Bool
  missedRun : Bool
  pc : Nat
  cycles : Nat
  input : SMap (BitVec 32)
  staged : SMap (BitVec 32)
  output : SMap (BitVec 32)
  followRun : List Nat
  palA : SMap (BitVec 32)
  palB : SMap (BitVec 32)
  latched : SMap (BitVec 32)
  palIsB : Bool
  commit : Option Commit
  entries : List (Nat × Origin)
  copying : Bool
  stage : Option (Origin × Nat)
  misses : Nat
  verifying : Bool
  romNext : Bool
  romPhase : BitVec 2
  romErr : List (Option (BitVec 32))
  wordErr : List Nat
  palErr : List Nat
  dataLo : SMap (BitVec 32)
  sk : Sketch
deriving DecidableEq, Repr

/-! ### Rails -/

/-- One rail (R329 to R343): state code of R335, reference, target and retention memory, the voltage loop's values, its
phases, its limit counters and its soft start: the beat of its entry, and the line that the reference follows, from `softFrom` at stroke
`lineAt` after the entry to `softTgt` (R337). `trace` are the voltages of the last strokes, newest first (R346). -/
structure Rail where
  st : BitVec 3
  ref : Int
  tgt : Int
  acc : Int
  iPh : Int
  iTotal : Int
  vSense : Int
  err : Int
  iSum : Int
  dff : Int
  uv : Nat
  ov : Nat
  softAt : Nat
  lineAt : Nat
  softFrom : Int
  softTgt : Int
  waitAt : Nat
  regAt : Nat
  left : BitVec 4
  lastFault : BitVec 4
  burst : Bool
  asleep : Bool
  trim : Int
  reqPhases : Nat
  reqBurst : Bool
  iAvg : Int
  removed : Bool
  trace : List Int
deriving DecidableEq, Repr

/-- A rail after cold reset: OFF, three retries left (R352). -/
def Rail.zero : Rail :=
  ⟨0, 0, 0, 0, 0, 0, 0, 0, 0, 0, 0, 0, 0, 0, 0, 0, 0, 0, 3, 0, false, false, 0, 1, false, 0, false, []⟩

/-- The rails and their fault records (R336, R346 to R348). `level` are the levels of the phase outputs, keyed by phase: 0 mid, 1 low,
2 high (R329). `offSeq` is set while the rails switch off, one in each beat from beat `offAt` on; `start` while the power-up sequence runs.
`busV` is the bus voltage of the last stroke in 10 mV (R26), and
`faulted` says that a rail has faulted since the last message to SLOT 1 (R349). -/
structure RailsSt where
  rail : SMap Rail
  phFault : BitVec 64
  phActive : BitVec 64
  level : SMap (BitVec 2)
  offSeq : Bool
  offAt : Nat
  start : Bool
  retain : Bool
  frec : List Byte
  frecSrc : Bool
  writing : Option (List Byte)
  waiting : Option (List Byte)
  frecLost : BitVec 32
  stroke : BitVec 3
  busV : Nat
  faulted : Bool
deriving DecidableEq, Repr

/-- The rails after cold reset. -/
def RailsSt.zero : RailsSt := ⟨[], 0, 0, [], false, 0, false, false, [], false, .none, .none, 0, 0, 0, false⟩

/-! ### Pack controller -/

/-- The last report of one package of the tray and its supervision (R364). -/
structure TrayRep where
  rep : Option PackRep
  latched : Option PackRep
  missing : Nat
  fresh : Bool
  excluded : Bool
deriving DecidableEq, Repr

/-- No report yet. -/
def TrayRep.zero : TrayRep := ⟨.none, .none, 0, false, false⟩

/-- The state-of-charge estimator (R375 to R378, R382): states of charge and ERR in percent, C_L and charges in mAs, timers
in beats. -/
structure Est where
  cL : Nat
  socInt : Rat
  socRep : Rat
  err : Rat
  refAge : Nat
  rest : Nat
  quiet : Nat
  hibAcc : Rat
  hibErr : Rat
  seeded : Bool
deriving DecidableEq, Repr

/-- The pack controller (R354 to R382). `queryAt` is the beat of the last QUERY; `got` holds the replies of the sweep in progress and
`ownOk` the monitors that this end read; `farAt` is the break from which a standby has been asked to read (R372); `capWrite` is the
capacity record in bytes [59:4] that awaits its write, `capNext` the one after it (R381). -/
structure Pack where
  role : BitVec 2
  diagPending : Bool
  epoch : BitVec 32
  frameSeq : BitVec 32
  queryAt : Nat
  claimAt : Nat
  claiming : Bool
  renewAt : Nat
  renewSeq : Option (BitVec 32)
  noticeAt : Nat
  noneSince : Option Nat
  stage : StageStatus
  lat : StageStatus
  stageSeen : Bool
  released : Bool
  handover : Bool
  reports : SMap TrayRep
  cells : SMap Nat
  cellAge : SMap Nat
  temps : SMap Int
  tempAge : SMap Nat
  got : Option (List MonReply)
  ownOk : BitVec 3
  tries : SMap Nat
  brokenAt : Option (BitVec 2)
  farUsed : Bool
  farAt : Option (BitVec 2)
  sweeps : List Bool
  goodRun : Nat
  brokenSweeps : Nat
  bleed : BitVec 24
  slot : Nat
  est : Est
  pDis : Rat
  pChg : Rat
  cmd : Rat
  iSet : Int
  openNext : Bool
  crPhase : BitVec 4
  qRun : Rat
  crBeats : Nat
  capWrite : Option (List Byte)
  capStarted : Bool
  capNext : Option (List Byte)
  crRef : Bool
deriving DecidableEq, Repr

/-- The estimator before its first sweep. -/
def Est.zero : Est := ⟨0, 0, 0, 0, 0, 0, 0, 0, 0, false⟩

/-- A status frame that holds nothing yet. -/
def stageNone : StageStatus := ⟨true, 3, false, 0, 0, 0, 0, 0, false, false, false, false, 0, 0⟩

/-- The pack controller after cold reset. -/
def Pack.zero : Pack :=
  { role := 0, diagPending := false, epoch := 0, frameSeq := 0, queryAt := 0, claimAt := 0, claiming := false, renewAt := 0,
    renewSeq := .none, noticeAt := 0, noneSince := .none, stage := stageNone, lat := stageNone, stageSeen := false, released := false,
    handover := false, reports := [], cells := [], cellAge := [], temps := [], tempAge := [], got := .none, ownOk := 0, tries := [],
    brokenAt := .none, farUsed := false, farAt := .none, sweeps := [], goodRun := 0, brokenSweeps := 0, bleed := 0, slot := 0,
    est := Est.zero, pDis := 0, pChg := 0, cmd := 0, iSet := 0, openNext := false,
    crPhase := 0, qRun := 0, crBeats := 0, capWrite := .none, capStarted := false, capNext := .none, crRef := false }

/-! ### Varnish and attribution -/

/-- A record of the legal log (R398): sequence number, type and payload after OPTIME. -/
structure LegalRec where
  seq : BitVec 32
  type : Byte
  optime : BitVec 64
  payload : List Byte
deriving DecidableEq, Repr

/-- A save record of CUM_UJ and the operating time (R390) in a place of the save area; `ok` says that its CRC matches. -/
structure SaveRec where
  seq : BitVec 32
  cum : Nat
  optime : Nat
  ok : Bool
deriving DecidableEq, Repr

/-- The Varnish die (R388 to R400). `acc` is the accumulator in 1/16 nJ, which is 1 mV × 1 mA × 62.5 µs; `optime` is the
operating time in 1/2 µs (a sample is 62.5 µs); `vSum`, `iSum` and `samples` are the feed interval's; `flags` are the feed FLAGS
of R392; `saves` is keyed by place, 128 to a sector. `marked` is a VMARK edge that has not yet cut, `markAt` and `cutAt` the operating
times of the last edge and of the last cut (R391); `retryAt` is the beat of a reply's last try (R400). -/
structure Varnish where
  supply : Bool
  acc : Nat
  optime : Nat
  flags : BitVec 32
  vSum : Int
  iSum : Int
  samples : Nat
  fseq : BitVec 32
  starts : BitVec 32
  saves : SMap SaveRec
  place : Nat
  checkStart : Bool
  sealBad : Nat
  sealGood : Nat
  sealChanges : Nat
  log : List LegalRec
  lost : BitVec 32
  uncarried : List (BitVec 32)
  cycle : Nat
  params : SMap (Option (BitVec 32))
  changes : BitVec 32
  sw : Option (BitVec 16 × BitVec 256)
  image : SMap Byte
  swNext : Option (BitVec 16 × BitVec 256)
  reply : Option (List (BitVec 32))
  replySince : Nat
  retryAt : Nat
  part : List Byte
  marked : Bool
  markAt : Nat
  cutAt : Nat
deriving DecidableEq, Repr

/-- The Varnish die before its first start. -/
def Varnish.zero : Varnish :=
  { supply := true, acc := 0, optime := 0, flags := 0, vSum := 0, iSum := 0, samples := 0, fseq := 0, starts := 0,
    saves := [], place := 0, checkStart := false, sealBad := 0, sealGood := 0, sealChanges := 0, log := [], lost := 0,
    uncarried := [], cycle := 0, params := [], changes := 0, sw := .none, image := [], swNext := .none, reply := .none,
    replySince := 0, retryAt := 0, part := [], marked := false, markAt := 0, cutAt := 0 }

/-- The attribution engine (R393, R401 to R405): accounts, totals, weighted counts keyed 13 × account + class, the frame
held for acceptance, the frozen view, the mirror, and the beat of the last reconciliation point. -/
structure Attr where
  acct : SMap Nat
  metered : Nat
  cleared : Nat
  lastCleared : Nat
  counts : SMap Nat
  closed : SMap Nat
  cumLast : Option Nat
  serial : BitVec 64
  clear : Option Nat
  frame : Option (List Byte)
  feed : List Byte
  seq : BitVec 32
  acceptAt : Nat
  missed : Nat
  frozen : Option (SMap Nat × BitVec 32 × List Byte)
  frozenAt : Nat
  mirror : SMap (List Byte)
  pointAt : Option Nat
deriving DecidableEq, Repr

/-- The attribution engine after cold reset. -/
def Attr.zero : Attr :=
  { acct := [], metered := 0, cleared := 0, lastCleared := 0, counts := [], closed := [], cumLast := .none, serial := 0,
    clear := .none, frame := .none, feed := [], seq := 0, acceptAt := 0, missed := 0, frozen := .none, frozenAt := 0,
    mirror := [], pointAt := .none }

/-! ### Reset, boot and attestation -/

/-- Reset, clocks and boot (R425 to R445). `straps` are the straps as read at the last sampling; `released` has one bit per block
of R436, `pins` the straps as they stand now (R431, log 50), `starting` is set from a reset until the boot ROM starts (R427), `clkAt` holds
the beat in which each clock was enabled (R436), `bootReqAt` that of the last boot request; `vauxOk` is set from VAUX release on, `loading` while option loading runs, `bootRuns` while the boot ROM runs, `micro` once
the link microcode is loaded, `steward` once the Steward firmware runs. `optCompat` are the COMPAT bits that option loading set,
`optDigest` is what it gives MS1, and `reported` says that the reset-cause record has been posted. -/
structure Rst where
  straps : Straps
  pins : Straps
  starting : Bool
  clkAt : SMap (Option Nat)
  bootReqAt : Option Nat
  conflict : Bool
  safe : Bool
  phase : BitVec 2
  last : BitVec 5
  kind : BitVec 2
  count : BitVec 8
  sticky : BitVec 11
  clkGood : BitVec 6
  clkFail : BitVec 6
  released : BitVec 6
  recovered : Bool
  vauxOk : Bool
  loading : Bool
  optDone : Bool
  optSrc : BitVec 2
  skipped : BitVec 12
  vauxWarn : Bool
  wdogAt : Nat
  bootRuns : Bool
  bootAt : Nat
  micro : Bool
  steward : Bool
  bootFail : BitVec 4
  bootSrc : BitVec 2
  bootCopy : BitVec 2
  imgStarted : Bool
  imgLen : Nat
  img : List Byte
  optCompat : BitVec 4
  optDigest : BitVec 256
  reported : Bool
deriving DecidableEq, Repr

/-- An attestation request (R451): a session's command, or a register request. -/
inductive AttReq where
  | command (ses : BitVec 16) (tag : BitVec 16) (nonce : BitVec 256)
  | register (nonce : BitVec 256)
deriving DecidableEq, Repr

/-- Measurement slots and the attestation engine (R446, R451, R455). -/
structure Att where
  ms : SMap (BitVec 256)
  lock : Bool
  queue : List AttReq
  report : List Byte
  done : Bool
deriving DecidableEq, Repr

/-! ### What leaves the package -/

/-- The response to one register access (R12 to R14, R259). -/
inductive Resp where
  | ok (v : BitVec 32)
  | error
  | rights
  | busError
  | poweredDown
  | unreachable
  | held
deriving DecidableEq, Repr

/-- How the Ethernet port marks a frame (R228, R229): VLAN identifier (none is untagged), 802.1Q priority and DSCP. -/
structure EthTag where
  vid : Option (BitVec 12)
  pcp : BitVec 3
  dscp : BitVec 6
deriving DecidableEq, Repr

/-- What waits at the Ethernet port for its transmit scheduler (R229): a datagram for a host session or for a package. -/
inductive EthOut where
  | host (ses : BitVec 16) (m : HostMsg)
  | peer (dst : PkgId) (m : NetMsg)
  | peerAck (dst : PkgId) (ackno : BitVec 32)
deriving DecidableEq, Repr

/-- The transmit side of the Ethernet port (R20, R228, R229): what waits, with its class, oldest first; CL1 datagrams sent since the
last of CL2; and until when priority flow control holds CL1. -/
structure EthTx where
  queue : List (BitVec 2 × EthOut)
  turn : Nat
  paused : Option Nat
deriving DecidableEq, Repr

/-- A way out of the package for a packet (R221). -/
inductive Port where
  | die
  | link (n : LinkId)
  | eth
deriving DecidableEq, Repr

/-- What the package has put on its wires (newest first in `State.out`). `net` is a packet on a link or on the die, `hall` a datagram to
a package at its hall address (R231), `host` one to a session, `cable` and `cableRead` transactions of a link's management interface
with the 7-bit device address and the speed (R216, R217). -/
inductive Out where
  | net (port : Port) (cls : BitVec 2) (dst : PkgId) (m : NetMsg)
  | hall (tag : EthTag) (addr : BitVec 128) (cls : BitVec 2) (dst : PkgId) (m : NetMsg)
  | host (tag : EthTag) (ses : BitVec 16) (m : HostMsg)
  | access (o : Origin) (addr : BitVec 24) (r : Resp)
  | hallAck (tag : EthTag) (dst : PkgId) (ackno : BitVec 32)
  | linkNack (n : LinkId) (seq : BitVec 16)
  | linkAck (n : LinkId) (seq : BitVec 16)
  | ptpDelayReq (seq : BitVec 16)
  | stage (type : Byte) (epoch : BitVec 32) (value : Int) (seq : BitVec 32)
  | stageSync
  | chainLatch
  | chainRead (mon : BitVec 2)
  | chainBalance (mon : BitVec 2) (mask : Byte)
  | cable (n : LinkId) (dev : BitVec 7) (fast : Bool) (write : Bool) (page : Byte) (addr : Byte) (data : Byte)
  | cableRead (n : LinkId) (dev : BitVec 7) (fast : Bool) (page : Byte) (lo : Byte) (hi : Byte)
  | interrupt (receiver : BitVec 3)
  | vmark
  | feed (data : List Byte)
  | serviceReply (accepted : Bool)
  | ident (n : LinkId) (pkg : PkgId) (role : BitVec 2)
  | mailStaged (ch : BitVec 5)
deriving DecidableEq, Repr

/-! ### The whole package -/

/-- The state of one GK1 package. `pending` is the queue of commands (first in, first out); `free` is the MODEL'S OWN
counter that the free values of Config are applied to. `orphans` are the commands that had begun and were held when their session ended,
with the session's number and record (R243); `asm` holds the packets of longer messages that are not yet complete, with their senders;
`vaultRow` holds one more than the row that is open in bank q of vault v, under key 64 × v + q, and 0 for none (R152); `scrubAt` is the
beat of a scrubber's last read, the vault's under 2 × t and the scratch's under 2 × t + 1 (R165); `passed` are the remote operations that
passed the target's checks during self-refresh, each with the entry it passed under (R179, R196). `goWaits` are the GO writes that wait
for the answer of another package: origin, channel, destination (R258). Bit r of `bellsDue` is a notification that receiver r takes at
the next FRAC 0 (R260). -/
structure State where
  pending : List Instr
  free : Nat
  tick : Nat
  beat : BitVec 52
  frac : BitVec 12
  cycle : Nat
  regs : SMap (BitVec 32)
  shadow : SMap (Option (BitVec 24 × BitVec 32))
  pkgSet : Bool
  place : BitVec 14
  cardId : Option PkgId
  tile : SMap Tile
  scratch : List Host.Cell
  vault : List Host.Cell
  vaultErr : SMap Nat
  scratchErr : SMap Nat
  istoreErr : SMap Nat
  vaultFix : List Nat
  scratchFix : List Nat
  ceRecAt : SMap (Option Nat)
  vaultScrub : SMap Nat
  scratchScrub : SMap Nat
  scrubAt : SMap (Option Nat)
  vaultRow : SMap Nat
  rc : BitVec 14
  aligned : Bool
  selfRefresh : Bool
  window : SMap (BitVec 64)
  stagedLo : SMap (Option (BitVec 32))
  rops : List RemoteOp
  fences : List Fence
  passed : List (RemotePkt × BitVec 64)
  nextOp : Nat
  session : SMap Session
  peer : SMap Chan
  part : SMap Part
  group : SMap Group
  queue : SMap Queue
  jobs : List Job
  clears : List ClearStop
  windowWaits : List (BitVec 16 × BitVec 16)
  orphans : List (Nat × Session × Waiting)
  link : SMap Link
  eth : EthTx
  asm : List (PkgId × NetMsg)
  rackUp : SMap (BitVec 64)
  sync : Sync
  evs : List StreamRec
  evsLost : Nat
  recorder : Recorder
  changes : ChangeLog
  mbox : SMap Mbox
  staged : SMap Staged
  compatHeld : List HeldWrite
  goWaits : List (Origin × BitVec 5 × PkgId)
  bellsDue : BitVec 8
  gov : Gov
  loop : Loop
  rails : RailsSt
  pack : Pack
  varnish : Varnish
  attr : Attr
  rst : Rst
  att : Att
  flash : List Host.Cell
  nvDeferred : Bool
  ledHigh : Bool
  out : List Out
deriving DecidableEq, Repr

/-- Why the package stops with a fault. -/
inductive Fault where
  /-- Raised by the access of a byte at an address outside the memory it names (R151, R156). Safe: the hardware has no such
  address. -/
  | noSuchAddress
deriving DecidableEq, Repr

/-- Why a command is refused. -/
inductive Refusal where
  /-- Raised by a dispatch arm whose command has no meaning yet. Safe: nothing is claimed of it. -/
  | notModelled (mnemonic : String)
deriving DecidableEq, Repr

/-! ### Reset -/

/-- The Governor after cold reset (R270, R298): level 2,048, op_tgt 7, op_now 0; the tiles' reset holds issue. -/
def Gov.reset : Gov :=
  { lam := 2048, lamSel := 2048, winner := 0, guard := 2048, guardB := 0, power := 0, busV := 0, railV := ⟨0, 0, 0, 0⟩,
    railI := ⟨0, 0, 0, 0⟩, hot := 0, hotIdx := 0, flowOk := true, eject := false, fd := 0, fm := 0, pRef := 0,
    filtersOn := false, halt := 0x20, held := 0, admitted := 0, wash := 0, limit := [], due := [], launched := 0,
    burst := .none, lowBeats := 0, okBeats := 0, opNow := 0, opTgt := 7, upReady := false, iPred := 0, dff := 0,
    washDemand := 0, slewHeld := false, haltedPrev := false, haltEnded := false, hbAt := 0, shareMw := 2000000, returning := false, lamPart := [],
    lamPref := 704, dem := 0,
    pack := ⟨0, 0, 0, false, 0, 0, false, 0, 0, false⟩, flowGood := 0, flowLostAt := .none, flowOff := false,
    tripAt := .none, levelMiss := 0, partner := .none, partnerHold := false, ejectAt := .none, ejectGone := 0 }

/-- The loop engine after cold reset (R301, R304): the ROM active, palette A active, five integrators at 2,048.0. -/
def Loop.reset : Loop :=
  { bankA := [], bankB := [], source := 0, len := 0,
    vars := [(2, 0x45000000), (4, 0x45000000), (6, 0x45000000), (8, 0x45000000), (10, 0x45000000)],
    shadow := [], running := false, missedRun := false, pc := 0, cycles := 0, input := [], staged := [], output := [(0x100, 0x45000000)],
    followRun := [], palA := [], palB := [], latched := [], palIsB := false, commit := .none, entries := [], copying := false,
    stage := .none, misses := 0, verifying := false, romNext := false, romPhase := 0, romErr := [], wordErr := [],
    palErr := [], dataLo := [], sk := Sketch.zero }

/-- Reset, clocks and boot just after a VAUX power-on (R440, R441), before VAUX release. -/
def Rst.powerOn (st : Straps) : Rst :=
  { straps := st, pins := st, starting := true, clkAt := [], bootReqAt := .none, conflict := false, safe := false, phase := 0, last := 0, kind := 0, count := 1, sticky := 1,
    clkGood := 0, clkFail := 0, released := 0, recovered := false, vauxOk := false, loading := false, optDone := false,
    optSrc := 0, skipped := 0, vauxWarn := false, wdogAt := 0, bootRuns := false, bootAt := 0, micro := false,
    steward := false, bootFail := 0, bootSrc := 0, bootCopy := 0, imgStarted := false, imgLen := 0, img := [],
    optCompat := 0, optDigest := 0, reported := false }

/-- The package right after VAUX power-on with every strap unconnected, so at code 0 (R441, R467): every register at its
reset value, memory with nothing listed, the companion flash erased. -/
def State.reset : State :=
  { pending := [], free := 0, tick := 0, beat := 0, frac := 0, cycle := 0, regs := [], shadow := [], pkgSet := false,
    place := 0, cardId := .none, tile := [], scratch := [], vault := [], vaultErr := [], scratchErr := [],
    istoreErr := [], vaultFix := [], scratchFix := [], ceRecAt := [], vaultScrub := [], scratchScrub := [], scrubAt := [], vaultRow := [], rc := 0,
    aligned := true, selfRefresh := false, window := [], stagedLo := [], rops := [], fences := [], passed := [], nextOp := 0,
    session := [], peer := [], part := [], group := [], queue := [], jobs := [], clears := [], windowWaits := [], orphans := [],
    link := [], eth := ⟨[], 0, .none⟩, asm := [], rackUp := [], sync := Sync.zero, evs := [], evsLost := 0, recorder := Recorder.zero,
    changes := ChangeLog.zero, mbox := [], staged := [], compatHeld := [], goWaits := [], bellsDue := 0, gov := Gov.reset, loop := Loop.reset,
    rails := RailsSt.zero, pack := Pack.zero, varnish := Varnish.zero, attr := Attr.zero,
    rst := Rst.powerOn ⟨0, 0, 0, 0, 0⟩, att := ⟨[], false, [], [], false⟩, flash := [], nvDeferred := false,
    ledHigh := true, out := [] }

end Sys2Proof.Machine
end

