-- ==== Sys2Proof/Machine/Maps.lean ====
section
/-! DEFINITION. Sparse maps in canonical form, byte order, and the bit-field helpers of the model. -/

namespace Sys2Proof.Machine

/-! ### Sparse maps -/

/-- The value at key `k`, or `d` for an unlisted key. -/
def mapGet {α : Type} (d : α) : SMap α → Nat → α
  | [], _ => d
  | (a, v) :: r, k => if a = k then v else mapGet d r k

/-- The map without key `k`. -/
def mapErase {α : Type} : SMap α → Nat → SMap α
  | [], _ => []
  | (a, v) :: r, k => if a = k then mapErase r k else (a, v) :: mapErase r k

/-- Insert a key that is not listed, keeping the keys rising. -/
def mapInsert {α : Type} : SMap α → Nat → α → SMap α
  | [], k, v => [(k, v)]
  | (a, w) :: r, k, v => if k < a then (k, v) :: (a, w) :: r else (a, w) :: mapInsert r k v

/-- Write the value at key `k`; a key that would hold `d` is dropped, so that equal maps are equal lists. -/
def mapSet {α : Type} [DecidableEq α] (d : α) (m : SMap α) (k : Nat) (v : α) : SMap α :=
  if v = d then mapErase m k else mapInsert (mapErase m k) k v

/-- Change the value at key `k`. -/
def mapUpd {α : Type} [DecidableEq α] (d : α) (m : SMap α) (k : Nat) (f : α → α) : SMap α :=
  mapSet d m k (f (mapGet d m k))

/-- Write several entries, in order. -/
def mapSetAll {α : Type} [DecidableEq α] (d : α) (m : SMap α) (l : List (Nat × α)) : SMap α :=
  l.foldl (fun m e => mapSet d m e.1 e.2) m

/-- Drop every key from `lo` up to but not including `hi`. -/
def mapClear {α : Type} (m : SMap α) (lo hi : Nat) : SMap α :=
  m.filter (fun e => !(decide (lo ≤ e.1) && decide (e.1 < hi)))

/-- Keys rise strictly and no entry holds the value an unlisted key reads as. -/
def mapWf {α : Type} [DecidableEq α] (d : α) : SMap α → Bool
  | [] => true
  | [(_, v)] => v ≠ d
  | (a, v) :: (b, w) :: r => decide (v ≠ d) && decide (a < b) && mapWf d ((b, w) :: r)

/-! ### Bytes and bits -/

/-- The `n` bytes of a number, least significant first (R46, R90: little-endian). -/
def leBytes : Nat → Nat → List Byte
  | 0, _ => []
  | n + 1, v => BitVec.ofNat 8 v :: leBytes n (v / 256)

/-- The number whose little-endian bytes these are. -/
def ofLe : List Byte → Nat
  | [] => 0
  | b :: r => b.toNat + 256 * ofLe r

/-- Bits `hi` down to `lo` of a number. -/
def bitsN (v hi lo : Nat) : Nat := v / 2 ^ lo % 2 ^ (hi + 1 - lo)

/-- Bits `hi` down to `lo` of a register. -/
def fld (v : BitVec 32) (hi lo : Nat) : Nat := bitsN v.toNat hi lo

/-- Replace bits `hi` down to `lo` of a register. -/
def setFld (v : BitVec 32) (hi lo x : Nat) : BitVec 32 :=
  let m := BitVec.ofNat 32 ((2 ^ (hi + 1 - lo) - 1) * 2 ^ lo)
  (v &&& ~~~m) ||| (BitVec.ofNat 32 (x * 2 ^ lo) &&& m)

/-- Set or clear bit `i`. -/
def setBit {n : Nat} (v : BitVec n) (i : Nat) (b : Bool) : BitVec n :=
  if b then v ||| BitVec.ofNat n (2 ^ i) else v &&& ~~~(BitVec.ofNat n (2 ^ i))

/-- A flag as a number. -/
def b2n (b : Bool) : Nat := if b then 1 else 0

/-- A 32-bit word that saturates at its top. -/
def sat32 (n : Nat) : BitVec 32 := BitVec.ofNat 32 (min n 0xFFFFFFFF)

/-- Add to a saturating 32-bit counter. -/
def satAdd (v : BitVec 32) (n : Nat) : BitVec 32 := sat32 (v.toNat + n)

/-- The low 32 bits of a signed number. -/
def ofI32 (i : Int) : BitVec 32 := BitVec.ofInt 32 i

/-- The 32-bit words of a little-endian byte string. -/
def wordsOf : Nat → List Byte → List (BitVec 32)
  | 0, _ => []
  | n + 1, bs => BitVec.ofNat 32 (ofLe (bs.take 4)) :: wordsOf n (bs.drop 4)

/-- The low word and the high word of a 64-bit value. -/
def lo32 (v : BitVec 64) : BitVec 32 := v.setWidth 32

/-- The high word of a 64-bit value. -/
def hi32 (v : BitVec 64) : BitVec 32 := (v >>> 32).setWidth 32

/-- A 64-bit value of two words. -/
def join64 (hi lo : BitVec 32) : BitVec 64 := BitVec.append hi lo

/-- Pad a byte string with zeros, or cut it, to `n` bytes. -/
def padTo (n : Nat) (bs : List Byte) : List Byte := (bs ++ List.replicate (n - bs.length) 0).take n

/-- Keep the first element that satisfies a test, and the list without it. -/
def takeFirst {α : Type} (p : α → Bool) : List α → Option α × List α
  | [] => (none, [])
  | a :: r => if p a then (some a, r) else let q := takeFirst p r; (q.1, a :: q.2)

/-- Replace every element that satisfies a test. -/
def mapIf {α : Type} (p : α → Bool) (f : α → α) (l : List α) : List α := l.map (fun a => if p a then f a else a)

/-- The indices below `n` at which a set of bits has a one, rising. -/
def onesOf {n : Nat} (m : BitVec n) : List Nat := (List.range n).filter (fun i => m.getLsbD i)

/-- How many of the bits are one. -/
def popCount {n : Nat} (m : BitVec n) : Nat := (onesOf m).length

/-- Round a quotient towards minus infinity. -/
def floorDiv (a b : Int) : Int := Int.fdiv a b

/-- Clamp an integer. -/
def clampI (lo hi x : Int) : Int := max lo (min hi x)

end Sys2Proof.Machine
end

