-- ==== Sys2Proof/Machine/RegTable.lean ====
section
/-! DEFINITION. The registers of the control space: where they lie, which bits each access code of R15 covers, and their
reset values. -/

namespace Sys2Proof.Machine

/-- `n` consecutive registers at an offset of a block: the bits that are RW, WO, W1C and RWS, and the reset value. Every other
bit is RO or RSV. -/
structure RegDef where
  off : Nat
  n : Nat
  rw : Nat
  wo : Nat
  w1c : Nat
  rws : Nat
  reset : Nat
deriving DecidableEq, Repr

/-- A read-only register. -/
def roReg (off : Nat) : RegDef := ⟨off, 1, 0, 0, 0, 0, 0⟩

/-- `n` read-only registers. -/
def roRegs (off n : Nat) : RegDef := ⟨off, n, 0, 0, 0, 0, 0⟩

/-- A register of which the bits of `m` are RW. -/
def rwReg (off m reset : Nat) : RegDef := ⟨off, 1, m, 0, 0, 0, reset⟩

/-- `n` registers of which the bits of `m` are RW. -/
def rwRegs (off n m reset : Nat) : RegDef := ⟨off, n, m, 0, 0, 0, reset⟩

/-- A register of which the bits of `m` are WO. -/
def woReg (off m : Nat) : RegDef := ⟨off, 1, 0, m, 0, 0, 0⟩

/-- All 32 bits. -/
def allBits : Nat := 0xFFFFFFFF

/-! ### Blocks (the rules beside each list give the fields) -/

/-- SYS (R10, R432). -/
def regsSys : List RegDef := [roReg 0x4, rwReg 0x8 0xFFFC 0]

/-- RST (R435, R441, R452, R453). -/
def regsRst : List RegDef :=
  [woReg 0x0 0xF000000C, roReg 0x4, roReg 0x8, ⟨0xC, 1, 0, 0, 0x7FF, 0, 0⟩, rwReg 0x10 0xFFFF 1000, ⟨0x14, 1, 0, 0, 0, 0, 0xF0⟩,
   roReg 0x18, ⟨0x20, 1, 0xFFFFFF, 0xC0000000, 0, 0, 0⟩, roReg 0x24, ⟨0x100, 64, 0, allBits, 0, 0, 0⟩]

/-- BEAT (R41, R43, R44). -/
def regsBeat : List RegDef :=
  [roReg 0x0, roReg 0x4, ⟨0x8, 1, 0, 0, 0x4000, 0, 0⟩, ⟨0xC, 1, 0xFF01, 0x2, 0, 0, 0x3201⟩, roReg 0x10, roReg 0x14,
   rwReg 0x100 0xFFF 0, roReg 0x104, woReg 0x108 allBits, roRegs 0x140 16]

/-- One MBX channel (R257). -/
def regsMbxCh : List RegDef :=
  [rwRegs 0x0 16 allBits 0, ⟨0x40, 1, 0x107F000F, 0xC0000000, 0, 0, 0⟩, roReg 0x44, roReg 0x48, roReg 0x4C]

/-- One doorbell and its mask (R260). -/
def regsBell : List RegDef := [⟨0x0, 1, 0, 0, allBits, 0, 0⟩, rwReg 0x4 allBits 0]

/-- LOG (R422, R424). -/
def regsLog : List RegDef :=
  [woReg 0x0 0x80000000, roRegs 0x4 6, rwReg 0x20 allBits 0, roReg 0x24, roRegs 0x40 16]

/-- REC (R422, R423). -/
def regsRec : List RegDef :=
  [⟨0x0, 1, 0x1, 0x80000000, 0, 0, 0⟩, roRegs 0x4 6, rwReg 0x20 allBits 0, rwReg 0x24 0x3 0, roRegs 0x40 16]

/-- ATT (R454, R455). -/
def regsAtt : List RegDef :=
  [⟨0x0, 1, 0x7, 0xC0000000, 0, 0, 5⟩, roReg 0x4, rwReg 0x8 0x1FC0 0, rwReg 0xC 0xFC0 0, rwRegs 0x20 8 allBits 0,
   ⟨0x40, 8, 0, allBits, 0, 0, 0⟩, roRegs 0x80 16, roRegs 0xC0 16, roRegs 0x100 64]

/-- GOV (R295 to R298). -/
def regsGov : List RegDef :=
  [rwReg 0x0 0x70F 0xF, ⟨0x4, 1, 0, 0, 0x180, 0, 0⟩, rwReg 0x8 0xFFFF 2000, rwReg 0xC 0xFF 95,
   rwReg 0x10 0x7F17FF 0x280040, rwReg 0x14 0xFFFF 2000, rwReg 0x18 allBits 0x140014, rwReg 0x1C 0xFFFF007F 0x7D0003C,
   rwReg 0x20 0xFFFF 100, rwReg 0x24 0xFFFF 300, rwReg 0x28 allBits 0x38402EE, rwReg 0x2C 0xFFF0FFF 0x1E00B40,
   rwReg 0x30 0xFF 15, roReg 0x34, roReg 0x38, roReg 0x3C, roReg 0x40, rwReg 0x44 0xFFFF 0, roReg 0x48, roRegs 0x60 7,
   roRegs 0x80 8, rwRegs 0x100 256 0x701FF 0x70100]

/-- CTL (R325 to R327). -/
def regsCtl : List RegDef :=
  [rwReg 0x0 0xFFFFFF01 0x641000, ⟨0x4, 1, 0, 0, 0x80D, 0, 0⟩, woReg 0x8 0x7, woReg 0xC 0xC0000000, roReg 0x10,
   roReg 0x14, ⟨0x18, 1, 0, 0, allBits, 0, 0⟩, ⟨0x20, 1, 0x400003FF, 0x80000000, 0, 0, 0⟩, roReg 0x24,
   rwReg 0x28 0x1FF 0, woReg 0x2C allBits, woReg 0x30 allBits, rwReg 0x40 0x7FF 0, rwReg 0x44 allBits 0,
   rwReg 0x48 allBits 0, rwReg 0x50 0xFF 0, roReg 0x54, ⟨0x80, 1, 0x1FFF3FFF, 0xE0000000, 0, 0, 0x1000⟩, roReg 0x84,
   rwReg 0x88 allBits 0, roReg 0x8C, roReg 0x90, rwRegs 0xA0 8 0x3FFF 0, roRegs 0xC0 8, rwReg 0xE0 0x71FFF 0, roReg 0xE4]

/-- Target of a rail in 0.5 mV at reset: what R328 says the option block loads (DEDUCED, log 21); VCORE has none. -/
def railTarget (r : Nat) : Nat := match r with | 1 => 1500 | 2 => 2200 | 3 => 1800 | _ => 0

/-- One rail of RAIL (R351, R352): VCORE has its own target rule, gains, and NMIN. -/
def regsRail (r : Nat) : List RegDef :=
  [⟨0x0, 1, 0, 0x2, 0, 0x1, 0⟩, roReg 0x4, rwReg 0x8 (if r = 0 then 0 else 0xFFF) (railTarget r), rwReg 0xC 0x1F 5,
   rwReg 0x10 allBits (if r = 0 then 0x1F400190 else 0x3E80032),
   rwReg 0x14 0xFF00FF (if r = 2 then 0x280010 else 0x3C0010), rwReg 0x18 0xFFFF 0x3C3C,
   rwReg 0x1C 0xFFFFFF3F (if r = 0 then 0x4083208 else 0x4083201), rwReg 0x20 0xFF0F 0xA03,
   rwReg 0x24 0xFFF (if r = 0 then 1000 else if r = 3 then 0 else railTarget r), roReg 0x28, roReg 0x2C, roReg 0x30]

/-- The common registers of RAIL (R351). -/
def regsRailC : List RegDef :=
  [⟨0x400, 2, 0, 0, allBits, 0, 0⟩, roReg 0x408, roReg 0x40C, roReg 0x410, roRegs 0x500 64]

/-- PACK (R384 to R386). -/
def regsPack : List RegDef :=
  [⟨0x0, 1, 0x1, 0xF8, 0, 0, 0⟩, roReg 0x4, roReg 0x8, roReg 0xC, rwReg 0x10 allBits 0x640014,
   rwReg 0x14 0xFFFFFF 0x3C285A, rwReg 0x18 allBits 0xC80001, rwReg 0x1C 0xFFFFFF 0x1400C8,
   rwReg 0x20 allBits 0xAF4BB93C, rwReg 0x24 0xFFFFFF00 0x3CA3C00, roReg 0x28, roReg 0x2C, roReg 0x30, roReg 0x34,
   roReg 0x38, rwReg 0x3C allBits 0, roReg 0x40, rwReg 0x44 allBits 0xA80A1E, rwReg 0x48 allBits 0x3E80232,
   rwReg 0x4C 0xFFFF 0x5A0A, rwReg 0x50 allBits 0x28280064, rwReg 0x54 0xFFFF 60, rwReg 0x58 0x1FF 0x10A, roReg 0x5C,
   roReg 0x60, rwReg 0x64 0xFFFF 5400, rwRegs 0x80 16 allBits 0, roRegs 0x100 24, roRegs 0x160 6, roRegs 0x180 3]

/-- VAR (R407). -/
def regsVar : List RegDef :=
  [roRegs 0x0 32, ⟨0x80, 1, 0, 0, 0x4, 0, 0⟩, roReg 0x84, roReg 0x88, roReg 0x8C, rwReg 0x90 allBits 0, roRegs 0xC0 16]

/-- NET (R236, R237, R265). -/
def regsNet : List RegDef :=
  [rwReg 0x0 0xFFF010F 0x3, roReg 0x4, rwReg 0x10 0xFFFF0000 0, rwRegs 0x14 3 allBits 0, rwReg 0x20 0xFF01 0,
   rwReg 0x24 allBits 0, roReg 0x30, roReg 0x34, roReg 0x38, roReg 0x3C, rwReg 0x100 0xFFFF0001 0xB5C00001, roReg 0x104,
   rwRegs 0x110 4 allBits 0, roReg 0x120, roReg 0x124, roReg 0x128]

/-- One link block of LNK (R232 to R235). -/
def regsLnk : List RegDef :=
  [⟨0x0, 1, 0xEF, 0x10, 0, 0, 0x6F⟩, roRegs 0x4 10, rwReg 0x40 0xC0FFFFFF 0]

/-- MEM (R170, R171). -/
def regsMem : List RegDef :=
  [rwReg 0x0 0xFFFF 16, roRegs 0x4 4, woReg 0x14 allBits, roRegs 0x20 3, roRegs 0x30 2, roRegs 0x40 32, roReg 0xC0,
   roRegs 0x1000 1024]

/-- WIN (R206, R207). -/
def regsWin : List RegDef :=
  [rwReg 0x0 0x1FFFFF 0, rwReg 0x4 allBits 0, rwReg 0x8 allBits 0, ⟨0xC, 1, 0, 0, 0x2, 0, 0⟩, rwReg 0x10 0xFFFF 100,
   roRegs 0x14 6]

/-- PART (R402, R408, R409). -/
def regsPart : List RegDef :=
  [roRegs 0x8000 548, roRegs 0x8890 6, rwReg 0x8900 0x3 0, ⟨0x8904, 1, 0, 0, 0x2, 0, 0⟩, roReg 0x8908,
   woReg 0x890C 0x800001FF, roReg 0x8910, rwReg 0x8940 allBits 610, rwReg 0x8944 allBits 640, rwReg 0x8948 allBits 560,
   rwReg 0x894C allBits 720, rwReg 0x8950 allBits 90, rwReg 0x8954 allBits 12, rwReg 0x8958 allBits 25,
   rwReg 0x895C allBits 130, rwReg 0x8960 allBits 1800, rwReg 0x8964 allBits 4800, rwReg 0x8968 allBits 600,
   rwReg 0x896C allBits 150000, rwReg 0x8970 allBits 60000000]

/-- One tile block of TILE (R83 to R85). -/
def regsTile : List RegDef := [roReg 0x0, roReg 0x4, ⟨0x8, 1, 0, 0, 0x80000000, 0, 0⟩, roRegs 0xC 7]


/-- The definition that covers an offset of a block. -/
def findReg (l : List RegDef) (off : Nat) : Option RegDef :=
  l.find? (fun r => decide (r.off ≤ off) && decide (off < r.off + 4 * r.n))

/-- The definition of the register at a control-space address; none where no register lies (R13). -/
def regAt (a : Nat) : Option RegDef :=
  let o := a % 0x10000
  if 0x800000 ≤ a then (if a < 0xC00000 then findReg regsTile (a % 0x1000) else none)
  else match a / 0x10000 with
    | 0x00 => findReg regsSys o
    | 0x01 => findReg regsRst o
    | 0x02 => findReg regsBeat o
    | 0x03 =>
      if o < 0x1000 then findReg regsMbxCh (o % 0x80)
      else if o < 0x1060 then findReg regsBell (o % 0x10)
      else if o = 0x1100 then some (roReg o)
      else if o = 0x1104 then some (woReg o 0x7F001F)
      else none
    | 0x04 => findReg regsLog o
    | 0x05 => findReg regsRec o
    | 0x06 => findReg regsAtt o
    | 0x10 => findReg regsGov o
    | 0x11 => findReg regsCtl o
    | 0x12 => if o < 0x400 then findReg (regsRail (o / 0x100)) (o % 0x100) else findReg regsRailC o
    | 0x13 => findReg regsPack o
    | 0x14 => findReg regsVar o
    | 0x20 => findReg regsNet o
    | 0x21 => findReg regsLnk (o % 0x400)
    | 0x30 => findReg regsMem o
    | 0x31 => findReg regsWin o
    | 0x40 => findReg regsPart o
    | _ => none


/-- The reset value of the register at an address. -/
def regReset (a : Nat) : BitVec 32 :=
  match regAt a with
  | some r => BitVec.ofNat 32 r.reset
  | none => 0

/-- Whether every field of the register is RO or RSV (R15). -/
def RegDef.readOnly (r : RegDef) : Bool :=
  decide (r.rw = 0) && decide (r.wo = 0) && decide (r.w1c = 0) && decide (r.rws = 0)

end Sys2Proof.Machine
end

