-- ==== Sys2Proof/Machine/Ops.lean ====
section
/-! DEFINITION. The named operations over the state that every chapter uses: registers, tiles, memories, time stamps, the
event stream, recorder reports and change-log entries. -/

namespace Sys2Proof.Machine

/-- What a command answers. -/
abbrev Res := Host.Outcome State Fault Refusal

/-! ### Registers held as words -/

/-- The stored word at a control-space address, or its reset value. -/
def reg (a : Nat) (s : State) : BitVec 32 := mapGet (regReset a) s.regs a

/-- Store a word at a control-space address. -/
def setReg (a : Nat) (v : BitVec 32) (s : State) : State := { s with regs := mapSet (regReset a) s.regs a v }

/-- Change a stored word. -/
def updReg (a : Nat) (f : BitVec 32 → BitVec 32) (s : State) : State := setReg a (f (reg a s)) s

/-- Add to a counter that saturates at 0xFFFF_FFFF. -/
def countReg (a n : Nat) (s : State) : State := updReg a (fun v => satAdd v n) s

/-- Set or clear one bit of a stored word. -/
def regBit (a i : Nat) (b : Bool) (s : State) : State := updReg a (fun v => setBit v i b) s

/-- Whether bit `i` of a stored word is one. -/
def regIs (a i : Nat) (s : State) : Bool := (reg a s).getLsbD i

/-- Bits `hi` down to `lo` of a stored word. -/
def regF (a hi lo : Nat) (s : State) : Nat := fld (reg a s) hi lo

/-- Store a 64-bit value in two consecutive registers. -/
def setReg64 (a : Nat) (v : BitVec 64) (s : State) : State := setReg (a + 4) (hi32 v) (setReg a (lo32 v) s)

/-! ### Addresses named by more than one chapter -/

/-- BEAT.STATUS and BEAT.CTRL (R41). -/
def aBeatStatus : Nat := 0x2_0008
def aBeatCtrl : Nat := 0x2_000C
/-- GOV.STATUS (R297). -/
def aGovStatus : Nat := 0x10_0004
/-- CTL.STATUS (R326). -/
def aCtlStatus : Nat := 0x11_0004
/-- PACK.STATUS (R386). -/
def aPackStatus : Nat := 0x13_0004
/-- PART.ATTR_STATUS (R409). -/
def aAttrStatus : Nat := 0x40_8904
/-- MBX.ERR (R261). -/
def aMbxErr : Nat := 0x3_1100
/-- A register of link `n` (R232). -/
def aLnk (n off : Nat) : Nat := 0x21_0000 + n * 0x400 + off
/-- A register of rail `r` (R351). -/
def aRail (r off : Nat) : Nat := 0x12_0000 + r * 0x100 + off

/-! ### Time stamps (R16) -/

/-- The time stamp now. -/
def stampOf (beat : BitVec 52) (frac : BitVec 12) : BitVec 64 := BitVec.append beat frac

/-- The package's time stamp. -/
def now (s : State) : BitVec 64 := stampOf s.beat s.frac

/-- The synchronisation state code of R41. -/
def syncState (s : State) : Nat := regF aBeatStatus 2 0 s

/-! ### Identity -/

/-- Role in force (R430): 0 module, 1 card, 2 companion, 3 safe. -/
def isModule (s : State) : Bool := !s.rst.safe && s.rst.straps.role == 0
def isCard (s : State) : Bool := !s.rst.safe && s.rst.straps.role == 1
def isCompanion (s : State) : Bool := !s.rst.safe && s.rst.straps.role == 2

/-- The package identifier (R8, R10, R242). -/
def pkgId (s : State) : PkgId :=
  if isCard s then s.cardId.getD 0 else BitVec.append s.place s.rst.straps.slot

/-- Whether the identifier has been set (R10, R242). -/
def pkgKnown (s : State) : Bool := if isCard s then s.cardId.isSome else s.pkgSet

/-- The rack index of an identifier: TRAY and SLOT (R8). -/
def rackIndex (p : PkgId) : Nat := p.toNat % 64

/-- The rack bit of an identifier. -/
def rackBit (p : PkgId) : Nat := p.toNat / 64 % 2

/-- The pair number of an identifier. -/
def pairOf (p : PkgId) : Nat := p.toNat / 128

/-- Same rack; same pair but not the same rack. -/
def sameRack (p q : PkgId) : Bool := p.toNat / 64 == q.toNat / 64
def samePair (p q : PkgId) : Bool := p.toNat / 128 == q.toNat / 128

/-- The package at a rack index of this package's rack. -/
def rackPkg (s : State) (k : Nat) : PkgId := BitVec.ofNat 16 ((pkgId s).toNat / 64 * 64 + k % 64)

/-- The partner package across link 63 (R8). -/
def partnerPkg (p : PkgId) : PkgId := p ^^^ 0x40

/-! ### Tiles, partitions, memories -/

/-- Tile `t`. -/
def tileAt (t : Nat) (s : State) : Tile := mapGet Tile.zero s.tile t

/-- Replace tile `t`. -/
def setTile (t : Nat) (x : Tile) (s : State) : State := { s with tile := mapSet Tile.zero s.tile t x }

/-- Change tile `t`. -/
def updTile (t : Nat) (f : Tile → Tile) (s : State) : State := setTile t (f (tileAt t s)) s

/-- The cluster of a tile (R18). -/
def clusterOf (t : Nat) : Nat := 8 * (t / 32 / 4) + t % 32 / 4

/-- Partition `p`. -/
def partAt (p : Nat) (s : State) : Part := mapGet Part.zero s.part p

/-- Change partition `p`. -/
def updPart (p : Nat) (f : Part → Part) (s : State) : State := { s with part := mapUpd Part.zero s.part p f }

/-- The partition that owns tile `t`. -/
def ownerOf (t : Nat) (s : State) : Option Nat :=
  let x := tileAt t s
  if x.assigned then some x.part.toNat else none

/-- The job of a partition. -/
def jobOfPart (p : Nat) (s : State) : Option (BitVec 16) := (partAt p s).job

/-- The job of the partition that owns a tile. -/
def jobOfTile (t : Nat) (s : State) : Option (BitVec 16) := (ownerOf t s).bind (fun p => jobOfPart p s)

/-- What this package knows of a job. -/
def jobAt (j : BitVec 16) (s : State) : Option Job := s.jobs.find? (fun x => x.num == j)

/-- Change what this package knows of a job. -/
def updJob (j : BitVec 16) (f : Job → Job) (s : State) : State :=
  { s with jobs := mapIf (fun x => x.num == j) f s.jobs }

/-- Whether a job is stopped on this package (R29). -/
def jobStopped (j : BitVec 16) (s : State) : Bool := s.jobs.any (fun x => x.num == j && x.stopped)

/-- The partitions of a job on this package. -/
def partsOfJob (j : BitVec 16) (s : State) : List Nat :=
  (List.range 16).filter (fun p => jobOfPart p s == some j)

/-- Whether a job runs on this package (R489). -/
def jobRunning (j : BitVec 16) (s : State) : Bool := !(partsOfJob j s).isEmpty && !jobStopped j s

/-- Whether any partition belongs to a running job (R489). -/
def anyRunning (s : State) : Bool :=
  (List.range 16).any (fun p => match jobOfPart p s with | some j => !jobStopped j s | none => false)

/-- The tiles that hold something, so every tile that is assigned or runs. -/
def tilesIn (s : State) : List Nat := s.tile.map (·.1)

/-- The tiles of a partition. -/
def tilesOfPart (p : Nat) (s : State) : List Nat := (tilesIn s).filter (fun t => ownerOf t s == some p)

/-- Bytes of scratch and of a vault (R151, R156). -/
def scratchSize : Nat := 0x10_0000
def vaultSize : Nat := 0x800_0000

/-- `n` bytes of a memory from `a`; an unlisted byte reads 0 (R174). -/
def readMem (m : List Host.Cell) (a n : Nat) : List Byte := (List.range n).map (fun i => mapGet 0 m (a + i))

/-- Write bytes into a memory from `a`. -/
def writeMem (m : List Host.Cell) : Nat → List Byte → List Host.Cell
  | _, [] => m
  | a, b :: r => writeMem (mapSet 0 m a b) (a + 1) r

/-- Bytes of tile `t`'s scratch. -/
def readScratch (t a n : Nat) (s : State) : List Byte := readMem s.scratch (t * scratchSize + a) n

/-- Write bytes of tile `t`'s scratch. -/
def writeScratch (t a : Nat) (bs : List Byte) (s : State) : State :=
  { s with scratch := writeMem s.scratch (t * scratchSize + a) bs }

/-- Bytes of vault `t`. -/
def readVault (t a n : Nat) (s : State) : List Byte := readMem s.vault (t * vaultSize + a) n

/-- Write bytes of vault `t`. -/
def writeVault (t a : Nat) (bs : List Byte) (s : State) : State :=
  { s with vault := writeMem s.vault (t * vaultSize + a) bs }

/-- Change every tile that holds something. -/
def updAllTiles (f : Tile → Tile) (s : State) : State := (tilesIn s).foldl (fun s t => updTile t f s) s

/-! ### Outputs and free values -/

/-- Put something on a wire. -/
def emit (o : Out) (s : State) : State := { s with out := o :: s.out }

/-- Move to the next free value. -/
def useFree (s : State) : State := { s with free := s.free + 1 }

/-- Fold a state change over a list. -/
def forAll {α : Type} (l : List α) (f : α → State → State) (s : State) : State := l.foldl (fun s a => f a s) s

/-- Do something only when a condition holds. -/
def onlyIf (c : Bool) (f : State → State) (s : State) : State := if c then f s else s

/-! ### The event stream (R43, R44) -/

/-- Records the stream holds at most. -/
def evsMax : Nat := 4096

/-- What the stream keeps of this instant beside the stamp: the package identifier and the STATE code (R43). -/
def markNow (s : State) : Mark := ⟨pkgId s, BitVec.ofNat 8 (syncState s)⟩

/-- Post a record with the stamp and the mark of its event; one that finds the stream full is counted (R44). -/
def evPostAt (src : Byte) (value : BitVec 32) (stamp : BitVec 64) (mk : Mark) (s : State) : State :=
  if s.evs.length < evsMax then { s with evs := s.evs ++ [⟨stamp, mk.pkg, src, mk.st, value⟩] }
  else { s with evsLost := s.evsLost + 1 }

/-- Post a record of an event of this instant. -/
def evPost (src : Byte) (value : BitVec 32) (s : State) : State := evPostAt src value (now s) (markNow s) s

/-! ### Reports to the service recorder (R410 to R413) -/

/-- Reports the intake holds at most. -/
def intakeMax : Nat := 64

/-- A report of this instant (R412). -/
def mkReport (type : Byte) (origin : Origin) (key : BitVec 32) (payload : List Byte) (s : State) : Report :=
  ⟨now s, type, origin, key, payload, markNow s⟩

/-- REC.OVERFLOW counts at the intake; a report that finds it full is discarded and counted (R413). -/
def report (type : Byte) (origin : Origin) (key : BitVec 32) (payload : List Byte) (s : State) : State :=
  let r := s.recorder
  if r.intake.length < intakeMax then
    { s with recorder := { r with intake := r.intake ++ [mkReport type origin key payload s] } }
  else
    { s with recorder := { r with pendLost := r.pendLost + 1, overflow := satAdd r.overflow 1,
                                  pendStamp := if r.pendLost = 0 then now s else r.pendStamp,
                                  pendMark := if r.pendLost = 0 then markNow s else r.pendMark } }

/-- The origin identity of quiet-domain blocks, of the pack controller, of Varnish (R244, R410). -/
def oGov : Origin := 0x4000
def oPack : Origin := 0x5000
def oVarnish : Origin := 0x6000
def oRack : Origin := 0x1000

/-- The origin identity of a tile (R244): partition and tile. -/
def oTile (t : Nat) (s : State) : Origin := BitVec.ofNat 16 (0x8000 + (tileAt t s).part.toNat * 1024 + t)

/-- The origin identity of a peer package (R244). -/
def oPeer (src : PkgId) (s : State) : Origin :=
  BitVec.ofNat 16 (0x3000 + (if sameRack src (pkgId s) then 0 else 64) + rackIndex src)

/-- The host session an origin names. -/
def sessionOf (o : Origin) : Option Nat := if o.toNat < 64 then some o.toNat else none

/-- Whether an origin is a Steward core. -/
def isSteward (o : Origin) : Bool := decide (0x2000 ≤ o.toNat) && decide (o.toNat ≤ 0x2003)

/-- A job number as KEY: the job, or −1 (R411). -/
def jobKey : Option (BitVec 16) → BitVec 32
  | some j => j.setWidth 32
  | none => 0xFFFFFFFF

/-- Post a report whose KEY is a status register after its change and whose payload is the subcode (R411). -/
def statusReport (type : Byte) (origin : Origin) (v : BitVec 32) (i : Nat) (up : Bool) (s : State) : State :=
  report type origin v [BitVec.ofNat 8 (i + if up then 0 else 128)] s

/-- Set or clear bit `i` of the status register at `a`; a change posts a report of `type` (R291, R411). -/
def statusBit (type : Byte) (origin : Origin) (a i : Nat) (b : Bool) (s : State) : State :=
  if regIs a i s = b then s
  else let s := regBit a i b s; statusReport type origin (reg a s) i b s

/-- Set or clear a bit of GOV.STATUS. The recorder receives an event for each setting that R291 lists, and for the clearing of CAP_UNATT
alone. -/
def govBit (i : Nat) (b : Bool) (s : State) : State :=
  if b || i = 1 then statusBit 0x60 oGov aGovStatus i b s else regBit aGovStatus i false s

/-- An attribution event. -/
def attrBit (i : Nat) (b : Bool) (s : State) : State := statusBit 0xA0 oGov aAttrStatus i b s

/-! ### The change log (R419 to R421) -/

/-- Enter a change whose room R421 has made sure of. -/
def logEntry (c : Change) (s : State) : State :=
  { s with changes := { s.changes with intake := s.changes.intake ++ [c] } }

/-- A control-space write makes its entry (kind 0). -/
def logWrite (o : Origin) (a : Nat) (aux old new : BitVec 32) (s : State) : State :=
  logEntry ⟨o, 0, now s, BitVec.ofNat 32 a, aux, old.setWidth 64, new.setWidth 64, markNow s⟩ s

/-- A change at a time hardware chooses: entered, or counted and reported when the intake is full (R421). -/
def logHwBy (o : Origin) (kind : Byte) (target : Nat) (old new : BitVec 64) (s : State) : State :=
  if s.changes.intake.length < intakeMax then
    logEntry ⟨o, kind, now s, BitVec.ofNat 32 target, 0, old, new, markNow s⟩ s
  else
    report 0x01 oGov 1 (leBytes 8 (now s).toNat)
      { s with changes := { s.changes with overflow := satAdd s.changes.overflow 1 } }

/-- A change of origin 0x4000 that hardware makes on its own. -/
def logHw (kind : Byte) (target : Nat) (old new : BitVec 64) (s : State) : State := logHwBy oGov kind target old new s

/-- Whether the change-log intake has the room a control-space write or a command needs (R421). -/
def logRoom (s : State) : Bool := decide (9 ≤ intakeMax - s.changes.intake.length)

/-! ### Rights (R264) -/

/-- A rights refusal posts its event and changes nothing else (R264). -/
def refuseRights (o : Origin) (key : BitVec 32) (s : State) : State := report 0x50 o key [] s

end Sys2Proof.Machine
end

