-- ==== Sys2Proof/Machine/Energy.lean ====
section
/-! DEFINITION. The activity counts of the attribution engine (R401, R402). -/

namespace Sys2Proof.Machine

/-- Account indexes of R401. -/
def acctPart (p : Nat) : Nat := p
def acctQueue (q : Nat) : Nat := 16 + q
def acctWash : Nat := 272
def acctIdle : Nat := 273

/-- The scale S of an operating point (R402). -/
def scaleOf (op : Nat) : Nat :=
  match op with
  | 7 => 256 | 6 => 231 | 5 => 207 | 4 => 185 | 3 => 169 | 2 => 154 | 1 => 139 | _ => 125

/-- Whether a class is scaled by S. -/
def classScaled (k : Nat) : Bool := decide (k < 6) || decide (k = 10) || decide (k = 11)

/-- Add `n` events of class `k` to an account's weighted count (R402). -/
def charge (acct k n : Nat) (s : State) : State :=
  let w := n * if classScaled k then scaleOf s.gov.opNow.toNat else 256
  { s with attr := { s.attr with counts := mapUpd 0 s.attr.counts (13 * acct + k) (· + w) } }

/-- The account of a tile's kernel: its queue. -/
def acctOfTile (t : Nat) (s : State) : Nat := acctQueue (tileAt t s).queue.toNat

/-- The owning partition of a tile, or idle. -/
def acctOwner (t : Nat) (s : State) : Nat := match ownerOf t s with | some p => acctPart p | none => acctIdle

/-- 64-byte units that `n` bytes from `a` touch. -/
def unitsOf (a n : Nat) : Nat := if n = 0 then 0 else (a + n - 1) / 64 - a / 64 + 1

end Sys2Proof.Machine
end

