-- ==== Sys2Proof/Machine/Hash.lean ====
section
/-! DEFINITION. CRC-32C, SHA3-256 and the companion flash (R347, R398, R410, R444, R446). -/

namespace Sys2Proof.Machine

/-! ### CRC-32C -/

/-- One bit of the reflected CRC with the Castagnoli polynomial. -/
def crcBit (c : BitVec 32) : BitVec 32 := if c.getLsbD 0 then (c >>> 1) ^^^ 0x82F63B78 else c >>> 1

/-- One byte. -/
def crcByte (c : BitVec 32) (b : Byte) : BitVec 32 :=
  crcBit (crcBit (crcBit (crcBit (crcBit (crcBit (crcBit (crcBit (c ^^^ b.setWidth 32))))))))

/-- CRC-32C of a byte string. -/
def crc32c (bs : List Byte) : BitVec 32 := ~~~ bs.foldl crcByte 0xFFFFFFFF

/-- A byte string with its CRC-32C appended. -/
def withCrc (bs : List Byte) : List Byte := bs ++ leBytes 4 (crc32c bs).toNat

/-- Whether the last four bytes are the CRC-32C of those before. -/
def crcGood (bs : List Byte) : Bool :=
  decide (4 ≤ bs.length) && (crc32c (bs.take (bs.length - 4)) == BitVec.ofNat 32 (ofLe (bs.drop (bs.length - 4))))

/-! ### SHA3-256

The sponge's state is five rows of five 64-bit words. A round acts on whole rows: the parity of the columns, a walk that moves and turns
every word but the first, the nonlinear mixing within each row, and one word of constants from a shift register. -/

/-- A row of the sponge's state. -/
abbrev Row := List (BitVec 64)

/-- A list turned left by `k` places. -/
def turned {α : Type} (k : Nat) (l : List α) : List α := l.drop k ++ l.take k

/-- The exclusive or of two rows. -/
def rowXor (p q : Row) : Row := p.zipWith (· ^^^ ·) q

/-- Every row takes the parities of the column to its left and, turned by one bit, of the column to its right. -/
def mixColumns (rows : List Row) : List Row :=
  let parity := rows.foldl rowXor (List.replicate 5 0)
  rows.map (rowXor (rowXor (turned 4 parity) ((turned 1 parity).map (·.rotateLeft 1))))

/-- The walk from column `x` of row `y`: its word goes to column `y` of row 2x + 3y, turned by the next triangular number. -/
def walkWords (rows : List Row) : Nat → Nat → Nat → Nat → List Row → List Row
  | 0, _, _, _, out => out
  | n + 1, k, x, y, out =>
    let y' := (2 * x + 3 * y) % 5
    let w := ((rows.getD y []).getD x 0).rotateLeft (k * (k + 1) / 2 % 64)
    walkWords rows n (k + 1) y y' (out.set y' ((out.getD y' []).set y w))

/-- Each word takes the next but one where the next is zero. -/
def mixRow (p : Row) : Row := rowXor p ((turned 1 p).zipWith (fun b c => c &&& ~~~b) (turned 2 p))

/-- Seven steps of the shift register of 8 bits: bit 2ʲ − 1 of the constant is its low bit at step j. -/
def roundConst : Nat → Nat → Nat × BitVec 64
  | 0, r => (r, 0)
  | n + 1, r =>
    let q := roundConst n r
    (if q.1 < 128 then 2 * q.1 else (2 * q.1) ^^^ 0x171, if q.1 % 2 = 1 then q.2 ||| 1 <<< (2 ^ n - 1) else q.2)

/-- Rounds of the permutation; the shift register goes on from round to round. -/
def permute : Nat → Nat → List Row → List Row
  | 0, _, rows => rows
  | n + 1, r, rows =>
    let q := roundConst 7 r
    let mixed := (walkWords (mixColumns rows) 24 1 1 0 (mixColumns rows)).map mixRow
    permute n q.1 (mixed.zipWith rowXor ([q.2, 0, 0, 0, 0] :: List.replicate 4 (List.replicate 5 0)))

/-- A block of 136 bytes as rows; what lies beyond it is zero. -/
def blockRows (bs : List Byte) : List Row :=
  (List.range 5).map (fun y => (List.range 5).map (fun x => BitVec.ofNat 64 (ofLe ((bs.drop (40 * y + 8 * x)).take 8))))

/-- Take in the blocks of a message. -/
def absorb : Nat → List Byte → List Row → List Row
  | 0, _, rows => rows
  | n + 1, bs, rows => absorb n (bs.drop 136) (permute 24 1 (rows.zipWith rowXor (blockRows (bs.take 136))))

/-- A message with the padding of SHA3: the bits 01, a one, zeros, and a one that ends the last block. -/
def padded (bs : List Byte) : List Byte :=
  let gap := 135 - bs.length % 136
  bs ++ (if gap = 0 then [0x86] else [0x06] ++ List.replicate (gap - 1) 0 ++ [0x80])

/-- SHA3-256, as the number whose little-endian bytes are the digest. -/
def sha3 (bs : List Byte) : BitVec 256 :=
  let rows := absorb (bs.length / 136 + 1) (padded bs) (List.replicate 5 (List.replicate 5 0))
  BitVec.ofNat 256 (ofLe (((rows.headD []).take 4).flatMap (fun w => leBytes 8 w.toNat)))

/-- The bytes of a digest. -/
def digestBytes (h : BitVec 256) : List Byte := leBytes 32 h.toNat

/-! ### The companion flash: an unlisted byte reads 0xFF -/

/-- `n` bytes of flash from `a`. -/
def flashRead (a n : Nat) (s : State) : List Byte := (List.range n).map (fun i => mapGet 0xFF s.flash (a + i))

/-- Program bytes after an erase. -/
def flashWrite (a : Nat) : List Byte → State → State
  | [], s => s
  | b :: r, s => flashWrite (a + 1) r { s with flash := mapSet 0xFF s.flash a b }

/-- Erase one 4 KiB sector, then program. -/
def flashSector (a : Nat) (bs : List Byte) (s : State) : State :=
  flashWrite a bs { s with flash := mapClear s.flash a (a + 4096) }

/-- A record slot is valid when its CRC matches and its SEQ is not all ones (R347). -/
def slotValid (bs : List Byte) : Bool := crcGood bs && decide (ofLe (bs.take 4) ≠ 0xFFFFFFFF)

/-- SEQ of a record. -/
def slotSeq (bs : List Byte) : BitVec 32 := BitVec.ofNat 32 (ofLe (bs.take 4))

/-- The newest valid slot of two, by the test of R64: 0 or 1. -/
def newestSlot (a b : List Byte) : Option Nat :=
  match slotValid a, slotValid b with
  | true, true => if (slotSeq b - slotSeq a).getLsbD 31 then some 0 else some 1
  | true, false => some 0
  | false, true => some 1
  | false, false => none

end Sys2Proof.Machine
end

