-- ==== Sys2Proof/Machine/Recorder.lean ====
section
/-! DEFINITION. The service recorder and the change log: record layouts, commits, clears, and the read windows (R410 to
R424). -/

namespace Sys2Proof.Machine

/-- A register of REC and of LOG. -/
def aRec (off : Nat) : Nat := 0x5_0000 + off
def aLog (off : Nat) : Nat := 0x4_0000 + off

/-- Bytes of the record memory (R415). -/
def recBytesMax : Nat := 262144

/-- Length of a record with `n` payload bytes, in words (R410). -/
def recWords (n : Nat) : Nat := (8 + n + 4 + 3) / 4

/-- The record of R410. -/
def recordBytes (seq : BitVec 32) (type : Byte) (origin : Origin) (payload : List Byte) : List Byte :=
  let w := recWords payload.length
  withCrc (padTo (4 * w - 4) (leBytes 4 seq.toNat ++ [BitVec.ofNat 8 w, type] ++ leBytes 2 origin.toNat ++ payload))

/-- The payload of a service record: its KEY, then what the type adds. -/
def reportPayload (r : Report) : List Byte := leBytes 4 r.key.toNat ++ r.payload

/-- Bytes that a report's record takes. -/
def reportSize (r : Report) : Nat := 4 * recWords (4 + r.payload.length)

/-- REC.CTRL.MODE: 1 is histogram mode. -/
def histMode (s : State) : Bool := regIs (aRec 0) 0 s

/-- The signed lesser and greater of two keys (R411, R416). -/
def keyMin (a b : BitVec 32) : BitVec 32 := if a.toInt ≤ b.toInt then a else b
def keyMax (a b : BitVec 32) : BitVec 32 := if a.toInt ≤ b.toInt then b else a

/-- An empty histogram entry. -/
def Hist.zero : Hist := ⟨0, 0, 0, 0⟩

/-- One report added to its type's entry (R416). -/
def histAdd (seq key : BitVec 32) (h : Hist) : Hist :=
  if h.count = 0 then ⟨1, seq, key, key⟩ else ⟨satAdd h.count 1, seq, keyMin h.min key, keyMax h.max key⟩

/-- Commit one report (R412 to R416): the record or the histogram entry, and the event-stream record of R414. -/
def commitReport (x : Report) (s : State) : State :=
  let r := s.recorder
  let seq := r.nextSeq
  let stamp := if x.type = 0x01 then now s else x.stamp
  let mk := if x.type = 0x01 then markNow s else x.mark
  if histMode s then
    evPostAt 0x01 seq stamp mk { s with recorder := { r with
      nextSeq := seq + 1, hist := mapUpd Hist.zero r.hist x.type.toNat (histAdd seq x.key) } }
  else if r.full || decide (recBytesMax < r.fill + reportSize x) then
    { s with recorder := { r with full := true, lost := satAdd r.lost 1 } }
  else
    evPostAt 0x01 seq stamp mk { s with recorder := { r with
      nextSeq := seq + 1, fill := r.fill + reportSize x, recs := r.recs ++ [(seq, x)] } }

/-- The writer takes the first report of the intake (R412); the entry that frees takes the overflow record that waits (R413). -/
def execRecordCommit (s : State) : Res :=
  match s.recorder.intake with
  | [] => .next s
  | x :: rest =>
    let r := s.recorder
    let lostRec : Report := ⟨r.pendStamp, 0x01, oGov, sat32 r.pendLost, leBytes 8 r.pendStamp.toNat, r.pendMark⟩
    let rest := if r.pendLost = 0 then rest else rest ++ [lostRec]
    .next (commitReport x { s with recorder := { r with intake := rest, pendLost := 0 } })

/-- REC.CTRL.CLEAR (R418): what is held is discarded and the MODE written with it applies; one cleared record is the first. -/
def recClear (o : Origin) (mode : Bool) (s : State) : State :=
  let r := s.recorder
  let gone := if histMode s then min 0x7FFFFFFF (r.hist.foldl (fun a e => a + e.2.count.toNat) 0) else r.recs.length
  let s := regBit (aRec 0) 0 mode
    { s with recorder := { r with recs := [], hist := [], firstSeq := r.nextSeq, fill := 0, full := false, pendLost := 0 } }
  commitReport ⟨now s, 0x02, o, BitVec.ofNat 32 gone, [BitVec.ofNat 8 (b2n mode)], markNow s⟩ s

/-- Whether a cursor names a sequence number from `first` to `next` − 1, under the test of R64. -/
def seqHeld (first next c : BitVec 32) : Bool := !(c - first).getLsbD 31 && (c - next).getLsbD 31

/-- Bytes 64k to 64k + 63 of a byte string, zero beyond it. -/
def windowOf (k : Nat) (bs : List Byte) : List Byte := padTo 64 ((bs.drop (64 * k)).take 64)

/-- REC.STATUS (R423). -/
def recStatus (s : State) : BitVec 32 :=
  let r := s.recorder
  let c := reg (aRec 0x20) s
  let valid := if histMode s then
      (List.range 4).any (fun k => (mapGet Hist.zero r.hist (4 * bitsN c.toNat 7 2 + k)).count != 0)
    else seqHeld r.firstSeq r.nextSeq c
  BitVec.ofNat 32 (b2n valid * 4 + b2n (decide (r.pendLost ≠ 0)) * 2 + b2n r.full)

/-- The window of REC (R417). -/
def recWindow (s : State) : List Byte :=
  let r := s.recorder
  let c := reg (aRec 0x20) s
  if histMode s then
    (List.range 4).flatMap (fun k =>
      let h := mapGet Hist.zero r.hist (4 * bitsN c.toNat 7 2 + k)
      leBytes 4 h.count.toNat ++ leBytes 4 h.lastSeq.toNat ++ leBytes 4 h.min.toNat ++ leBytes 4 h.max.toNat)
  else
    match r.recs.find? (fun e => e.1 == c) with
    | some (q, x) => windowOf (regF (aRec 0x24) 1 0 s) (recordBytes q x.type x.origin (reportPayload x))
    | none => List.replicate 64 0

/-! ### The change log (R419 to R421) -/

/-- Entries the change log holds, and the number at which it warns. -/
def logMax : Nat := 8192
def logWarnAt : Nat := 6144

/-- A change-log entry of R420. -/
def changeBytes (seq : BitVec 32) (c : Change) : List Byte :=
  withCrc (padTo 44 (leBytes 4 seq.toNat ++ leBytes 2 c.origin.toNat ++ [c.kind, 0] ++ leBytes 8 c.stamp.toNat ++
    leBytes 4 c.target.toNat ++ leBytes 4 c.aux.toNat ++ leBytes 8 c.old.toNat ++ leBytes 8 c.new.toNat))

/-- LOG.STATUS (R424). -/
def logStatus (s : State) : BitVec 32 :=
  let c := s.changes
  BitVec.ofNat 32 (b2n (seqHeld c.firstSeq c.nextSeq (reg (aLog 0x20) s)) * 4 +
    b2n (decide (logWarnAt ≤ c.entries.length)) * 2 + b2n (decide (logMax ≤ c.entries.length)))

/-- A change-log event: subcode `i`, with bit 7 set for a clearing (R411, R421). -/
def logEvent (i : Nat) (up : Bool) (s : State) : State := statusReport 0xA8 oGov (logStatus s) i up s

/-- Commit one change (R421). -/
def commitChange (c : Change) (s : State) : State :=
  let l := s.changes
  let n := l.entries.length
  if logMax ≤ n then { s with changes := { l with lost := satAdd l.lost 1 } }
  else
    let s := evPostAt 0x03 l.nextSeq c.stamp c.mark
      { s with changes := { l with entries := l.entries ++ [(l.nextSeq, c)], nextSeq := l.nextSeq + 1 } }
    if n + 1 = logWarnAt then logEvent 1 true s else if n + 1 = logMax then logEvent 0 true s else s

/-- The commit path takes the first entry of the intake (R412, R421). -/
def execChangeLogCommit (s : State) : Res :=
  match s.changes.intake with
  | [] => .next s
  | c :: rest => .next (commitChange c { s with changes := { s.changes with intake := rest } })

/-- LOG.CTRL.CLEAR by session 0 (R418): the entry of kind 6 is the first after it. -/
def logClear (o : Origin) (s : State) : State :=
  let l := s.changes
  let n := l.entries.length
  let s := { s with changes := { l with entries := [], firstSeq := l.nextSeq } }
  let s := onlyIf (decide (logWarnAt ≤ n)) (logEvent 1 false) s
  let s := onlyIf (decide (logMax ≤ n)) (logEvent 0 false) s
  commitChange ⟨o, 6, now s, BitVec.ofNat 32 (aLog 0), 0, BitVec.ofNat 64 n, 0, markNow s⟩ s

/-- The window of LOG (R417, R420). -/
def logWindow (s : State) : List Byte :=
  match s.changes.entries.find? (fun e => e.1 == reg (aLog 0x20) s) with
  | some (q, c) => padTo 64 (changeBytes q c)
  | none => List.replicate 64 0

end Sys2Proof.Machine
end

