-- ==== Sys2Proof/Machine/Attribution.lean ====
section
/-! DEFINITION. The attribution engine and the feed as the logic die takes it (R393, R394, R401 to R409). -/

namespace Sys2Proof.Machine

/-- Change the attribution engine. -/
def updAttr (f : Attr → Attr) (s : State) : State := { s with attr := f s.attr }

/-- A register of VAR, and the PART registers of the engine. -/
def aVar (off : Nat) : Nat := 0x14_0000 + off
def aAttrCtrl : Nat := 0x40_8900
def aAttrDiscont : Nat := 0x40_8910
def aCoef (k : Nat) : Nat := 0x40_8940 + 4 * k

/-! ### Counting (R402) -/

/-- One beat's tile-beats and its package beat; at a beat with BEAT[5:0] = 0 the interval closes with the latch (R393). -/
def attrBeat (s : State) : State :=
  let owned := (s.tile.filter (fun e => e.2.assigned)).map (fun e => e.2.part.toNat)
  let s := forAll owned (fun p s => charge (acctPart p) 11 1 s) s
  let s := charge acctIdle 12 1 (charge acctIdle 11 (1024 - owned.length) s)
  if s.beat.toNat % 64 = 0 then
    updAttr (fun a => { a with closed := a.counts.foldl (fun m e => mapUpd 0 m e.1 (· + e.2)) a.closed, counts := [] }) s
  else s

/-- The weight of an account, in pJ. -/
def weightOf (a : Nat) (s : State) : Nat :=
  (List.range 13).foldl (fun w k => w + mapGet 0 s.attr.closed (13 * a + k) * (reg (aCoef k) s).toNat) 0 / 256

/-! ### Reconciliation (R403, R404) -/

/-- How many accounts there are. -/
def accounts : Nat := 274

/-- One account's quotient and remainder in the split of `e` µJ. -/
structure Split where
  acct : Nat
  q : Nat
  r : Nat
deriving DecidableEq, Repr

/-- The split of E among the accounts with their weights (R403). -/
def splitOf (e : Nat) (ws : List (Nat × Nat)) : List Split :=
  let wt := ws.foldl (fun a w => a + w.2) 0
  if wt = 0 then ws.map (fun w => ⟨w.1, if w.1 = acctIdle then e else 0, 0⟩)
  else ws.map (fun w => ⟨w.1, e * w.2 / wt, e * w.2 % wt⟩)

/-- How many accounts go before `x` when the leftover microjoules are handed out. -/
def rankOf (l : List Split) (x : Split) : Nat :=
  (l.filter (fun y => decide (x.r < y.r) || (decide (y.r = x.r) && decide (y.acct < x.acct)))).length

/-- What each account is given of E. -/
def sharesOf (e : Nat) (ws : List (Nat × Nat)) : List (Nat × Nat) :=
  let l := splitOf e ws
  let left := e - l.foldl (fun a x => a + x.q) 0
  l.map (fun x => (x.acct, x.q + b2n (decide (rankOf l x < left))))

/-- Credit E µJ under R403. -/
def credit (e : Nat) (s : State) : State :=
  let ws := (List.range accounts).map (fun a => (a, weightOf a s))
  let sh := sharesOf e ws
  updAttr (fun a => { a with
    acct := sh.foldl (fun m x => mapUpd 0 m x.1 (fun v => (v + x.2) % 2 ^ 64)) a.acct,
    metered := (a.metered + e) % 2 ^ 64, closed := [] }) s

/-- A number of `n` bytes at `k` of a frame. -/
def frameNat (k n : Nat) (f : List Byte) : Nat := ofLe ((f.drop k).take n)

/-- The energy of an accepted frame (R403, R404). -/
def reconcile (f : List Byte) (s : State) : State :=
  let cum := frameNat 4 8 f
  let serial := BitVec.ofNat 64 (frameNat 32 8 f)
  match s.attr.cumLast with
  | none => updAttr (fun a => { a with cumLast := some cum, serial := serial }) s
  | some last =>
    if cum < last || serial != s.attr.serial then
      attrBit 1 true (countReg aAttrDiscont 1 (updAttr (fun a => { a with cumLast := some cum, serial := serial, closed := [] }) s))
    else updAttr (fun a => { a with cumLast := some cum }) (credit (cum - last) s)

/-- A pending clear moves its account's value (R405). -/
def applyClear (s : State) : State :=
  match s.attr.clear with
  | none => s
  | some i =>
    let v := mapGet 0 s.attr.acct i
    updAttr (fun a => { a with lastCleared := v, cleared := (a.cleared + v) % 2 ^ 64, acct := mapErase a.acct i, clear := none }) s

/-- The legal record of a frame enters the mirror (R394). -/
def mirrorRec (f : List Byte) (s : State) : State :=
  let q := frameNat 44 4 f
  let r := (f.drop 64).take 56
  let len := 4 * (r.getD 4 0).toNat
  let bs := r.take len
  if 1024 ≤ q ∨ len < 12 ∨ 56 < len ∨ !crcGood bs then s
  else
    let old := mapGet [] s.attr.mirror q
    let s := updAttr (fun a => { a with mirror := mapSet [] a.mirror q bs }) s
    if old = [] then evPost 0x02 (BitVec.ofNat 32 q) s
    else if old ≠ bs then regBit (aVar 0x80) 2 true s else s

/-- FEED_FRAME: a frame is complete and held (R393). -/
def execFeedFrame (data : List Byte) (s : State) : Res := .next (updAttr (fun a => { a with frame := some data }) s)

/-- FEED_ACCEPT: the reconciliation point at n + 32 (R393), once: a valid frame is accepted, another is discarded and counted. -/
def execFeedAccept (s : State) : Res :=
  if s.beat.toNat % 64 ≠ 32 || s.attr.pointAt == some s.tick then .next s
  else
    let miss (s : State) : State := updAttr (fun a => { a with missed := a.missed + 1 }) s
    let f := s.attr.frame
    let s := updAttr (fun a => { a with frame := none, pointAt := some s.tick }) s
    match f with
    | none => .next (miss s)
    | some bs =>
      if bs.length = 128 && crcGood bs then
        let s := updAttr (fun a => { a with feed := bs, seq := BitVec.ofNat 32 (frameNat 0 4 bs), acceptAt := s.tick, missed := 0 }) s
        .next (applyClear (reconcile bs (mirrorRec bs (attrBit 0 false s))))
      else .next (miss (countReg (aVar 0x88) 1 s))

/-- FEED_STALE: three reconciliation points accepted no frame (R393). -/
def execFeedStale (s : State) : Res := .next (if 3 ≤ s.attr.missed then attrBit 0 true s else s)

/-- FLAGS of the last accepted frame. -/
def feedFlags (s : State) : BitVec 32 := BitVec.ofNat 32 (frameNat 20 4 s.attr.feed)

/-- Whether LAUNCH is refused for want of a feed (R406). -/
def feedRefused (s : State) : Bool := regIs aAttrCtrl 1 s && (regIs aAttrStatus 0 s || (feedFlags s).getLsbD 5)

/-- PART.ATTR_STATUS as read (R409). -/
def attrStatus (s : State) : BitVec 32 :=
  (reg aAttrStatus s &&& 0x3) ||| BitVec.ofNat 32 (b2n s.attr.clear.isSome * 16 + b2n ((feedFlags s).getLsbD 5) * 8 + b2n ((feedFlags s).getLsbD 0) * 4)

/-! ### Clear and freeze (R405) -/

/-- ATTR_CLEAR with GO; the first part is false for the error response. -/
def attrClear (v : BitVec 32) (s : State) : Bool × State :=
  if !v.getLsbD 31 then (true, s)
  else if s.attr.clear.isSome || decide (accounts ≤ fld v 8 0) then (false, s)
  else (true, updAttr (fun a => { a with clear := some (fld v 8 0) }) s)

/-- Set or release the read view. -/
def freezeSet (on : Bool) (s : State) : State :=
  let s := regBit aAttrCtrl 0 on s
  if on then
    if s.attr.frozen.isSome then s
    else updAttr (fun a => { a with frozen := some (a.acct, a.seq, a.feed), frozenAt := s.tick }) s
  else updAttr (fun a => { a with frozen := none }) s

/-- FREEZE_TIMEOUT: 10,000 beats after it was set the view is released, with an event. -/
def execFreezeTimeout (s : State) : Res :=
  if s.attr.frozen.isSome && decide (s.attr.frozenAt + 10000 ≤ s.tick) then
    let s := freezeSet false s
    .next (report 0xA0 oGov (attrStatus s) [64] s)
  else .next s

/-- What a reader sees: the frozen view or the live one. -/
def viewAcct (s : State) : SMap Nat := match s.attr.frozen with | some v => v.1 | none => s.attr.acct
def viewSeq (s : State) : BitVec 32 := match s.attr.frozen with | some v => v.2.1 | none => s.attr.seq
def viewFeed (s : State) : List Byte := match s.attr.frozen with | some v => v.2.2 | none => s.attr.feed

/-- VAR.STATUS (R407). -/
def varStatus (s : State) : BitVec 32 :=
  (reg (aVar 0x80) s &&& 0x4) ||| BitVec.ofNat 32 (b2n s.attr.frozen.isSome * 2 + b2n (regIs aAttrStatus 0 s))

/-- The window onto the mirror at the cursor. -/
def varWindow (s : State) : List Byte := padTo 64 (mapGet [] s.attr.mirror (reg (aVar 0x90) s).toNat)

end Sys2Proof.Machine
end

