-- ==== Sys2Proof/Config.lean ====
section
/-! DEFINITION. The constants that one GK1 fixes, and the free values: opaque constants that nothing can evaluate. -/

namespace Sys2Proof.Config

/-! ### Free values, applied to `State.free` or to the operands -/

/-- A free 64-bit value for each use: what the spec leaves unspecified after a job stop (R117, R136) and where it states no
value (log 5). -/
opaque freeValue : Nat → BitVec 64

/-- A free byte for each use: a unit of a faulting DMA's destination (R63), a memory byte after its supply failed. -/
opaque freeByte : Nat → Byte

/-- A free 96-bit sum for each use and element (R117). -/
opaque freeSum : Nat → Nat → BitVec 96

/-- Free element flags for each use and element (R117). -/
opaque freeFlags : Nat → Nat → BitVec 5

/-- A free lane for each use and lane (R136). -/
opaque freeLane : Nat → Nat → BitVec 32

/-- A free truth value for each use (which parts of an interrupted transfer were done, R63). -/
opaque freeBool : Nat → Bool

/-- A free choice for each use and read: which content of a unit a read sees that other work writes meanwhile (R117, R145). -/
opaque freePick : Nat → Nat → Nat

/-- A quotient by zero of the pack law, which the spec gives no value (R366 to R380). -/
opaque overZero : Rat → Rat

/-! ### Fixed functions of their input bits (R130, R146) -/

/-- What the unit answers for a function code and an input, before the bound of R130 is applied to it. -/
opaque transcendental : Nat → BitVec 32 → BitVec 32

/-- What VPHASE answers for a phase (cosine first, then sine), before the bound of R146 is applied to it. -/
opaque rotary : BitVec 64 → BitVec 32 × BitVec 32

/-! ### What is fused, stored or signed -/

/-- The 48-bit MAC address of the Ethernet port, from which a card forms its link-local address (R242). -/
opaque macAddress : BitVec 48

/-- The Varnish serial number (R392). -/
opaque varnishSerial : BitVec 64

/-- The device certificate of R450. -/
opaque certificate : List Byte

/-- The device key's signature of a message, fresh for each use: it is hedged (R449). -/
opaque signature : Nat → List Byte → List Byte

/-- The Varnish key's signature of a message, fresh for each use (R450). -/
opaque varnishSignature : Nat → List Byte → List Byte

/-- Varnish's own certificate, laid out as the device's (R448, R450). -/
opaque varnishCertificate : List Byte

/-- The legal software that Varnish left production with: version and SHA3-256 of its image (R397). -/
opaque varnishSoftware : BitVec 16 × BitVec 256

/-- The calibration parameters that Varnish left production with (R396). -/
opaque varnishParam : Nat → BitVec 32

/-- The contents of the default loop program in ROM, as words (R299): the spec gives its laws, not its words. -/
opaque romWord : Nat → BitVec 64

/-- The hash of the boot ROM code that MS0 and MS1 hold after boot (R446). -/
opaque bootRomHash : BitVec 256

end Sys2Proof.Config
end

