-- ==== Sys2Proof/Machine/Routes.lean ====
section
/-! DEFINITION. Link registers, topology, routes, spraying, policing and transmission (R19 to R22, R209 to R226, R231). -/

namespace Sys2Proof.Machine

/-! ### Links -/

/-- Link `n` beside its registers. -/
def linkAt (n : Nat) (s : State) : Link := mapGet Link.zero s.link n

/-- Change link `n`. -/
def updLink (n : Nat) (f : Link → Link) (s : State) : State := { s with link := mapUpd Link.zero s.link n f }

/-- State codes of R211. -/
def lsDisabled : Nat := 0
def lsDetect : Nat := 1
def lsCable : Nat := 2
def lsTrain : Nat := 3
def lsAlign : Nat := 4
def lsIdent : Nat := 5
def lsActive : Nat := 6
def lsDegraded : Nat := 7
def lsRecover : Nat := 8
def lsDown : Nat := 9
def lsMiswired : Nat := 10

/-- LNK.STATUS.STATE. -/
def linkSt (n : Nat) (s : State) : Nat := regF (aLnk n 4) 3 0 s

/-- Whether a link is usable: ACTIVE or DEGRADED (R221). -/
def linkUsable (n : Nat) (s : State) : Bool := linkSt n s == lsActive || linkSt n s == lsDegraded

/-- Whether a link is on its routes: usable, or away for less than the time of R214. -/
def linkRouted (n : Nat) (s : State) : Bool :=
  linkUsable n s || ((linkAt n s).leftAt.isSome && !(linkAt n s).declared)

/-- The links that this package has on routes, one bit each, as it tells them to the others: a link in RECOVER remains on its routes
(R221, R222). -/
def upMask (s : State) : BitVec 64 := BitVec.ofNat 64 ((List.range 64).foldl (fun m n => if linkRouted n s then m + 2 ^ n else m) 0)

/-! ### Topology (R219) -/

/-- The link of rack index `a` to rack index `b`. -/
def linkTo (a b : Nat) : Nat := if b < a then b else b - 1

/-- The rack index that link `j` of rack index `a` joins. -/
def linkFar (a j : Nat) : Nat := if j < a then j else j + 1

/-- The package and link that IDENT expects on link `n` (R213, R219). -/
def expected (n : Nat) (s : State) : PkgId × Nat :=
  let a := rackIndex (pkgId s)
  if n = 63 then (partnerPkg (pkgId s), 63)
  else let b := linkFar a n; (rackPkg s b, linkTo b a)

/-! ### Routes (R221, R222) -/

/-- Whether another package says its link is up: key 0 to 63 own rack, 64 to 127 partner rack. -/
def saidUp (k n : Nat) (s : State) : Bool := (mapGet 0 s.rackUp k).getLsbD n

/-- Whether the mesh segment from own-rack index `i` to `j` can be used, as this package knows it. -/
def segOwn (i j : Nat) (s : State) : Bool :=
  let a := rackIndex (pkgId s)
  if i = a then linkRouted (linkTo a j) s else if j = a then linkRouted (linkTo a i) s else saidUp i (linkTo i j) s

/-- Link 63 of own-rack index `i`. -/
def seg63 (i : Nat) (s : State) : Bool := if i = rackIndex (pkgId s) then linkRouted 63 s else saidUp i 63 s

/-- The mesh segment from `i` to `j` in the partner rack. -/
def segFar (i j : Nat) (s : State) : Bool := saidUp (64 + i) (linkTo i j) s

/-- The lowest rack index that satisfies a test. -/
def lowest (p : Nat → Bool) : Option Nat := (List.range 64).find? p

/-- The link towards own-rack index `b`: direct, or a detour (R222). -/
def towards (b : Nat) (s : State) : Option Nat :=
  let a := rackIndex (pkgId s)
  if segOwn a b s then some (linkTo a b)
  else (lowest (fun k => k != a && k != b && segOwn a k s && segOwn k b s)).map (linkTo a)

/-- The first route of R221 that is available; none is error 1, unreachable. -/
def route (dst : PkgId) (s : State) : Option Port :=
  let me := pkgId s
  let a := rackIndex me
  let q := rackIndex dst
  let port := if regIs 0x20_0004 0 s then some Port.eth else none
  if dst = me then some .die
  else if isCard s || !samePair dst me then port
  else if sameRack dst me then (towards q s).map (fun n => .link (BitVec.ofNat 6 n))
  else if q = a then
    if seg63 a s then some (.link 63)
    else (lowest (fun k => k != a && segOwn a k s && seg63 k s && segFar k q s)).map (fun k => .link (BitVec.ofNat 6 (linkTo a k)))
  else if segOwn a q s && seg63 q s then some (.link (BitVec.ofNat 6 (linkTo a q)))
  else if seg63 a s && segFar a q s then some (.link 63)
  else match (if seg63 q s then towards q s else none) with
    | some n => some (.link (BitVec.ofNat 6 n))
    | none =>
      if seg63 a s && (lowest (fun k => k != a && k != q && segFar a k s && segFar k q s)).isSome then some (.link 63) else none

/-! ### Packets (R209) -/

/-- The traffic class of what a packet or a datagram carries (R20, R248). A remote operation and its response are of CL2 where the
program marked the operation as bulk (R183). -/
def msgClass : NetMsg → BitVec 2
  | .remote p => if p.bulk then 2 else 1
  | .response _ _ _ _ _ bulk => if bulk then 2 else 1
  | .part _ _ m => msgClass m
  | .mbox _ _ => 1
  | .mboxReply _ _ => 1
  | .bootRequest => 2
  | .boot _ _ => 2
  | .capRecord _ => 2
  | _ => 0

/-- Payload bytes of a message on the wire. -/
def msgBytes : NetMsg → Nat
  | .remote p => match p.kind with
    | .put => p.data.length
    | .xacc => p.data.length
    | .puts => p.len
    | .aadd => p.len
    | .swap => p.len
    | .cas => 2 * p.len
    | _ => 0
  | .response _ _ _ d _ _ => d.length
  | .part _ _ m => msgBytes m
  | .boot _ d => d.length
  | .capRecord d => d.length
  | _ => 24

/-- How many packets of at most `max` bytes carry `len` bytes from target offset `off`; `max` is a multiple of 64. -/
def packetCount (max off len : Nat) : Nat := Nat.max 1 ((off % 64 + len + max - 1) / max)

/-- What packet `i` of them carries: its boundaries fall on 64-byte boundaries of the target address (R209). -/
def packetData (max off i : Nat) (bs : List Byte) : List Byte :=
  (bs.drop (i * max - off % 64)).take (if i = 0 then max - off % 64 else max)

/-- The data of a remote request or response, with the target offset it starts at. -/
def msgData : NetMsg → Nat × List Byte
  | .remote p => (p.offset.toNat, p.data)
  | .response _ _ _ d off _ => (off.toNat, d)
  | _ => (0, [])

/-- A remote request or response with other data. -/
def withData (bs : List Byte) : NetMsg → NetMsg
  | .remote p => .remote { p with data := bs }
  | .response u id err _ off bulk => .response u id err bs off bulk
  | m => m

/-- The packets of a message: one, or several of at most `max` bytes (R209). -/
def packets (max : Nat) (m : NetMsg) : List NetMsg :=
  let d := msgData m
  let n := packetCount max d.1 d.2.length
  if n ≤ 1 then [m] else (List.range n).map (fun i => .part i n (withData (packetData max d.1 i d.2) m))

/-- Payload bytes of a packet on a link, and of a host-transport datagram, at most (R209, R238). -/
def linkMax : Nat := 512
def ethMax : Nat := 8192

/-- Whether two messages are the same request or the same response. -/
def sameOp : NetMsg → NetMsg → Bool
  | .remote p, .remote q => p.id == q.id && p.origin == q.origin
  | .response u i _ _ _ _, .response v j _ _ _ _ => i == j && u == v
  | _, _ => false

/-- The packets of a longer message that a package has sent and that have arrived. -/
def arrived (src : PkgId) (m : NetMsg) (s : State) : List (Nat × NetMsg) :=
  s.asm.filterMap (fun e => match e.2 with | .part i _ x => if e.1 == src && sameOp x m then some (i, x) else none | _ => none)

/-- Packet `i` of `n` arrives: the whole message once none is missing, and the state (log 11). -/
def assemble (src : PkgId) (i n : Nat) (m : NetMsg) (s : State) : Option NetMsg × State :=
  let l := (i, m) :: arrived src m s
  if (List.range n).all (fun k => l.any (fun e => e.1 == k)) then
    (some (withData ((List.range n).flatMap (fun k => ((l.find? (fun e => e.1 == k)).map (fun e => (msgData e.2).2)).getD [])) m),
     { s with asm := s.asm.filter (fun e => match e.2 with | .part _ _ x => !(e.1 == src && sameOp x m) | _ => true) })
  else (none, { s with asm := (src, .part i n m) :: s.asm })

/-! ### Queues (R20, R21, R210, R214) -/

/-- Bytes a packet takes on a link: 64 on CL0, otherwise header, payload and trailer. -/
def frameBytes (p : LinkFrame) : Nat :=
  if p.cls = 0 then 64 else match p.body with | some m => 40 + msgBytes m | none => 40

/-- Bytes of a class that wait, untransmitted, on a link. -/
def queuedBytes (n : Nat) (cls : BitVec 2) (s : State) : Nat :=
  ((linkAt n s).queue.filter (fun p => p.cls == cls)).foldl (fun a p => a + frameBytes p) 0

/-- Bytes in a link's replay buffer, at most 32 KiB (R210). -/
def replayBytes (l : Link) : Nat := l.replay.foldl (fun a p => a + frameBytes p) 0

/-- The class that goes next (R20): CL0 before the others, and CL1 three times for each time CL2 goes while both can; `turn` counts the
packets of CL1 since the last of CL2, and `can` says which classes have one that can go. -/
def nextClass (turn : Nat) (can : BitVec 2 → Bool) : Option (BitVec 2) :=
  if can 0 then some 0
  else if can 1 && (decide (turn < 3) || !can 2) then some 1
  else if can 2 then some 2
  else none

/-- The turn after a packet of a class. -/
def afterClass (turn : Nat) (cls : BitVec 2) : Nat := if cls = 0 then turn else if cls = 1 then min 3 (turn + 1) else 0

/-- The first packet of a class that waits, when the link's replay buffer has room for it. A class whose first packet has no room holds
back no other (R21). -/
def headOf (l : Link) (cls : BitVec 2) : Option LinkFrame :=
  (l.queue.find? (fun p => p.cls == cls)).filter (fun p => decide (replayBytes l + frameBytes p ≤ 32768))

/-- The remote operation that a packet belongs to as its request. -/
def requestId : NetMsg → Option Nat
  | .remote p => some p.id
  | .part _ _ (.remote p) => some p.id
  | _ => none

/-- A packet of a remote operation of this package has left: the timer of the operation runs from its last packet on (R205). -/
def leftNow (src : PkgId) (m : NetMsg) (s : State) : State :=
  match requestId m with
  | some id =>
    if src = pkgId s then { s with rops := mapIf (fun o => decide (o.id = id)) (fun o => { o with since := s.tick }) s.rops } else s
  | none => s

/-- Transmit one waiting packet, if the link carries traffic and one can go. -/
def transmitOne (n : Nat) (s : State) : State :=
  let l := linkAt n s
  if !linkUsable n s then s
  else match (nextClass l.turn (fun c => (headOf l c).isSome)).bind (headOf l) with
    | none => s
    | some p =>
      let q := { p with seq := l.txSeq, ack := l.rxSeq }
      let s := updLink n (fun l =>
        { l with
          queue := l.queue.erase p
          replay := l.replay ++ [q]
          txSeq := l.txSeq + 1
          turn := afterClass l.turn p.cls }) s
      match p.body with
      | some m => leftNow p.src m (emit (.net (.link (BitVec.ofNat 6 n)) p.cls p.dst m) s)
      | none => s

/-- Transmit every queued packet that can go. -/
def transmit (n : Nat) (s : State) : State := (linkAt n s).queue.foldl (fun s _ => transmitOne n s) s

/-- Queue a packet on a link and transmit what can go; the link payload is charged per 64 bytes (R402, class 8). -/
def linkSend (n : Nat) (acct : Nat) (p : LinkFrame) (s : State) : State :=
  let s := updLink n (fun l => { l with queue := l.queue ++ [p] }) s
  transmit n (charge acct 8 ((frameBytes p + 63) / 64) s)

/-! ### CL0 policing (R22, R226) -/

/-- The number of a policed source. -/
def srcIx : Cl0Source → Nat
  | .barrier => 0 | .fault => 1 | .time => 2 | .envelope => 3 | .doorbell => 4 | .tray => 5

/-- Depth of a source's bucket. -/
def bucketDepth : Nat := 1024

/-- Whether the source may send one more CL0 packet on the link now. -/
def cl0Allowed (n : Nat) (src : Cl0Source) (s : State) : Bool :=
  decide (mapGet 0 (linkAt n s).used (srcIx src) + 64 ≤ bucketDepth) &&
    !(linkAt n s).held.any (fun h => decide (h.1 = src))

/-- Send a CL0 packet on a link, or hold it at its source, counted (R22). DESIGN CHOICE: the packets held that the KEY of record 0x38
gives are those of this source that wait on this link now, the new one included; the spec does not say whether it is that or a running
count (log 47). -/
def cl0Send (n : Nat) (src : Cl0Source) (acct : Nat) (p : LinkFrame) (s : State) : State :=
  if cl0Allowed n src s then
    linkSend n acct p (updLink n (fun l => { l with used := mapUpd 0 l.used (srcIx src) (· + 64) }) s)
  else
    let s := countReg (aLnk n 0x1C) 1 (updLink n (fun l => { l with held := l.held ++ [(src, p)] }) s)
    report 0x38 oGov (BitVec.ofNat 32 ((linkAt n s).held.filter (fun h => decide (h.1 = src))).length) [BitVec.ofNat 8 n] s

/-- One beat refills every source of a link by 1 % of the link's rate. -/
def refillLink (n : Nat) (s : State) : State :=
  let r := if linkSt n s = lsDegraded then 500 else 1000
  updLink n (fun l => { l with used := l.used.filterMap (fun e => if e.2 ≤ r then none else some (e.1, e.2 - r)) }) s

/-! ### Spraying (R223) -/

/-- The link a CL1 or CL2 packet of the same rack takes. -/
def sprayed (n : Nat) (cls : BitVec 2) (dst : PkgId) (s : State) : Nat :=
  let a := rackIndex (pkgId s)
  let b := rackIndex dst
  let code := regF (aLnk n 0) 7 6 s
  let may := (cls == 2 && (code == 1 || code == 2)) || (cls == 1 && code == 2)
  if n ≠ linkTo a b || !sameRack dst (pkgId s) || !may || decide (queuedBytes n cls s < 4096) then n
  else
    let via := (List.range 63).filter (fun j => regIs (aLnk j 0) 5 s && linkUsable j s && (j == n || segOwn (linkFar a j) b s))
    (via.foldl (fun best j => match best with
      | some i => if queuedBytes j cls s < queuedBytes i cls s then some j else some i
      | none => some j) none).getD n

end Sys2Proof.Machine
end

