-- ==== Sys2Proof/Machine/Transport.lean ====
section
/-! DEFINITION. Host-transport sequence spaces (R238, R239, R243) and sending a message to another package or to a host
(R221, R231, R248). -/

namespace Sys2Proof.Machine

/-! ### Sequence spaces (R239) -/

/-- Session `n`. -/
def sesAt (n : Nat) (s : State) : Session := mapGet Session.closed s.session n

/-- Change session `n`. -/
def updSes (n : Nat) (f : Session → Session) (s : State) : State := { s with session := mapUpd Session.closed s.session n f }

/-- The channel of a sequence space. -/
def chanOf (sp : Space) (s : State) : Chan :=
  match sp with
  | .session n => (sesAt n.toNat s).chan
  | .peer p => mapGet Chan.fresh s.peer p.toNat

/-- Replace the channel of a sequence space. -/
def setChan (sp : Space) (c : Chan) (s : State) : State :=
  match sp with
  | .session n => updSes n.toNat (fun x => { x with chan := c }) s
  | .peer p => { s with peer := mapSet Chan.fresh s.peer p.toNat c }

/-! ### The transmit side of the Ethernet port (R20, R228, R229, R231) -/

/-- NET.PORT_CTRL and NET.PORT_STATUS (R237). -/
def aPortCtrl : Nat := 0x20_0000
def aPort : Nat := 0x20_0004

/-- How the port marks a frame of a class (R229): the 802.1Q tag where NET.PORT_CTRL.VID is set, with the class's priority; the DSCP. -/
def ethTag (cls : BitVec 2) (s : State) : EthTag :=
  ⟨if regF aPortCtrl 27 16 s = 0 then none else some (BitVec.ofNat 12 (regF aPortCtrl 27 16 s)),
   if cls = 0 then 6 else if cls = 1 then 4 else 2,
   if cls = 0 then 48 else if cls = 1 then 34 else 10⟩

/-- How it marks IEEE 1588 messages. -/
def ptpTag (s : State) : EthTag := { ethTag 0 s with pcp := 7, dscp := 56 }

/-- The hall address of a package (R231): the prefix of NET.HALL_PREFIX0 to 3, then its identifier. -/
def hallAddr (p : PkgId) (s : State) : BitVec 128 :=
  BitVec.ofNat 128 (((List.range 4).foldl (fun a i => a + (reg (0x20_0010 + 4 * i) s).toNat * 2 ^ (32 * i)) 0) / 65536 * 65536 + p.toNat)

/-- The IPv6 link-local address: fe80::/64 with the modified EUI-64 of the port's MAC address (R242). -/
def linkLocal : BitVec 128 :=
  let m := Config.macAddress.toNat
  BitVec.ofNat 128 (0xFE80 * 2 ^ 112 + (m / 2 ^ 24 ^^^ 0x20000) * 2 ^ 40 + 0xFFFE * 2 ^ 24 + m % 2 ^ 24)

/-- Put a waiting datagram on the wire. A port that is down carries nothing: its transport sends the datagram again (R239). -/
def ethEmit (e : BitVec 2 × EthOut) (s : State) : State :=
  if !regIs aPort 0 s then s
  else match e.2 with
    | .host n m => emit (.host (ethTag e.1 s) n m) s
    | .peer p m => leftNow (pkgId s) m (emit (.hall (ethTag e.1 s) (hallAddr p s) e.1 p m) s)
    | .peerAck p a => emit (.hallAck (ethTag e.1 s) p a) s

/-- Whether a class may go: priority flow control can hold CL1 (R228). -/
def ethMay (cls : BitVec 2) (s : State) : Bool :=
  cls != 1 || (match s.eth.paused with | some t => decide (t ≤ s.tick) | none => true)

/-- The first datagram of a class that waits. -/
def ethHead (cls : BitVec 2) (s : State) : Option (BitVec 2 × EthOut) :=
  if ethMay cls s then s.eth.queue.find? (fun e => e.1 == cls) else none

/-- Send one waiting datagram, if one can go. -/
def ethOne (s : State) : State :=
  match (nextClass s.eth.turn (fun c => (ethHead c s).isSome)).bind (fun c => ethHead c s) with
  | none => s
  | some e => ethEmit e { s with eth := { s.eth with queue := s.eth.queue.erase e, turn := afterClass s.eth.turn e.1 } }

/-- Send every waiting datagram that can go. -/
def ethPump (s : State) : State := s.eth.queue.foldl (fun s _ => ethOne s) s

/-- Give the port a datagram to send. -/
def ethPut (cls : BitVec 2) (x : EthOut) (s : State) : State :=
  ethPump { s with eth := { s.eth with queue := s.eth.queue ++ [(cls, x)] } }

/-- Whether a host message is an EVENT. -/
def isEvent : HostMsg → Bool
  | .kernelComplete _ => true
  | .jobFault _ _ => true
  | .kernelFault _ _ _ => true
  | .doorbell _ => true
  | _ => false

/-- The class of a datagram (R20, R248): an EVENT is CL0, a package-to-package datagram has its own, and the rest of the host transport
is CL2. -/
def hostClass : HostMsg → BitVec 2
  | .net c _ => c
  | m => if isEvent m then 0 else 2

/-- Put a datagram on the port. -/
def wire (sp : Space) (m : HostMsg) (s : State) : State :=
  match sp with
  | .session n => ethPut (hostClass m) (.host (n.setWidth 16) m) s
  | .peer p => match m with
    | .net c x => ethPut c (.peer p x) s
    | _ => s

/-- Send the datagrams that the window lets go, oldest first. -/
def chanPump : Nat → Space → State → State
  | 0, _, s => s
  | k + 1, sp, s =>
    let c := chanOf sp s
    match c.queued with
    | [] => s
    | m :: r =>
      if c.unacked.length < c.window then
        chanPump k sp (wire sp m (setChan sp
          { c with queued := r, unacked := c.unacked ++ [⟨c.txSeq, 0, s.tick, m⟩], txSeq := c.txSeq + 1 } s))
      else s

/-- Hand a datagram to a sequence space. -/
def chanSend (sp : Space) (m : HostMsg) (s : State) : State :=
  let c := chanOf sp s
  chanPump (c.queued.length + 1) sp (setChan sp { c with queued := c.queued ++ [m] } s)

/-- The acknowledgement number of the other end (R239): the window rises by 1 for each window acknowledged, and an ECN echo
halves it. -/
def chanAck (sp : Space) (ackno : BitVec 32) (ecn : Bool) (s : State) : State :=
  let c := chanOf sp s
  let left := c.unacked.filter (fun d => (ackno - d.seq).getLsbD 31)
  let n := c.unacked.length - left.length
  let grown := c.grown + n
  let w := if grown < c.window then c.window else min 256 (c.window + 1)
  let grown := if grown < c.window then grown else grown - c.window
  let c := { c with unacked := left, grown := grown, window := if ecn then max 1 (w / 2) else w }
  chanPump (c.queued.length) sp (setChan sp c s)

/-- Send to a host session, if it is open. -/
def hostSend (n : Nat) (m : HostMsg) (s : State) : State :=
  if (sesAt n s).isOpen then chanSend (.session (BitVec.ofNat 6 n)) m s else s

/-- Answer a command of session `n` (R245). -/
def respond (n : Nat) (tag : BitVec 16) (status : BitVec 8) (index : Nat) (data : List Byte) (s : State) : State :=
  if (sesAt n s).isOpen then
    hostSend n (.response tag status index data) (updSes n (fun x => { x with cmds := x.cmds - 1 }) s)
  else s

/-- A session number after session `n` has ended: what still runs for it answers to no session. -/
def unbound (n : Nat) (x : BitVec 16) : BitVec 16 := if x.toNat = n then 0xFFFF else x

/-- A session ends (R243): its queued events are discarded and counted, commands not begun are discarded, and what has begun
answers to no session; a command that had begun and was held runs to completion among the orphans. -/
def closeSession (n : Nat) (s : State) : State :=
  let x := sesAt n s
  let ev := (x.chan.queued.filter isEvent).length
  countReg 0x20_0128 ev { s with
    session := mapErase s.session n
    orphans := s.orphans ++ (x.waiting.filter (·.begun)).map (fun w => (n, { x with isOpen := false, chan := Chan.fresh, waiting := [] }, w))
    rops := s.rops.map (fun o => match o.src with | .session m t => { o with src := .session (unbound n m) t } | .tile _ => o)
    att := { s.att with queue := s.att.queue.map (fun q =>
      match q with | .command m t c => .command (unbound n m) t c | .register c => .register c) }
    queue := s.queue.map (fun e => (e.1, { e.2 with
      posted := e.2.posted.map (fun k => { k with ses := unbound n k.ses })
      running := e.2.running.map (fun k => { k with ses := unbound n k.ses }) }))
    clears := s.clears.map (fun c => { c with ses := unbound n c.ses })
    windowWaits := s.windowWaits.map (fun w => (unbound n w.1, w.2)) }

/-! ### Sending to a package -/

/-- Send a message to a package by the first available route (R221). The first part is false where no route is usable. -/
def netSend (cls : BitVec 2) (src : Option Cl0Source) (acct : Nat) (dst : PkgId) (m : NetMsg) (s : State) : Bool × State :=
  match route dst s with
  | none => (false, s)
  | some .die => (true, emit (.net .die cls dst m) s)
  | some .eth =>
    (true, forAll (packets ethMax m) (fun x s => charge acct 9 ((msgBytes x + 63) / 64) (chanSend (.peer dst) (.net cls x) s)) s)
  | some (.link n) =>
    let frame (x : NetMsg) (s : State) : LinkFrame := ⟨0, 0, false, true, cls, pkgId s, dst, some x, 0, 0⟩
    match src with
    | some c => (true, cl0Send n.toNat c acct (frame m s) s)
    | none =>
      (true, forAll (packets linkMax m) (fun x s =>
        linkSend (if cls = 0 then n.toNat else sprayed n.toNat cls dst s) acct (frame x s) s) s)

/-- Send a CL0 message; one that finds no route goes nowhere (R222). -/
def cl0To (src : Cl0Source) (dst : PkgId) (m : NetMsg) (s : State) : State := (netSend 0 (some src) acctIdle dst m s).2

/-- The packages of the rack but this one. -/
def rackPeers (s : State) : List PkgId :=
  ((List.range 64).filter (fun k => k ≠ rackIndex (pkgId s))).map (rackPkg s)

/-- The packages of the tray but this one, in the module role (R353). -/
def trayPeers (s : State) : List PkgId := (rackPeers s).filter (fun p => p.toNat / 4 == (pkgId s).toNat / 4)

end Sys2Proof.Machine
end

