-- ==== Sys2Proof/Machine/Jobs.lean ====
section
/-! DEFINITION. Stopping a job or a kernel (R28 to R30, R82, R168, R253, R488). -/

namespace Sys2Proof.Machine

/-! ### Abandoned work (R63, R77, R117, R136) -/

/-- One unit of an abandoned DMA: written or not, freely. A unit whose source is uncorrectable keeps its old content. -/
def abandonUnit (t : Nat) (d : Dma) (va sa : Nat) (s : State) : State :=
  let ve := mapGet 0 s.vaultErr ((t * vaultSize + va) / 64)
  let se := (List.range 8).any (fun i => mapGet 0 s.scratchErr ((t * scratchSize + sa) / 8 + i) == 2)
  let go := Config.freeBool s.free
  let s := useFree s
  if !go then s
  else if d.v2s then
    if ve = 2 then s
    else
      let k := (t * scratchSize + sa) / 8
      writeScratch t sa (readVault t va 64 s) { s with scratchErr := mapClear s.scratchErr k (k + 8) }
  else if se then s
  else writeVault t va (readScratch t sa 64 s) { s with vaultErr := mapErase s.vaultErr ((t * vaultSize + va) / 64) }

/-- Every unit of an abandoned DMA. -/
def abandonDma (t : Nat) (d : Dma) (s : State) : State :=
  forAll ((List.range d.rows).flatMap (fun i => (List.range (d.len / 64)).map (fun j =>
    (d.vault + i * d.vStride + 64 * j, d.scratch + i * d.sStride + 64 * j)))) (fun u s => abandonUnit t d u.1 u.2 s) s

/-- Accumulators after a matrix instruction is abandoned: every anchor, sum and flag is free (R117). -/
def freeAccs (n : Nat) (x : Tile) : Tile :=
  let acc (i : Nat) : Acc :=
    ⟨(BitVec.ofNat 10 (Config.freeValue (n + i)).toNat).toInt,
     mapSetAll 0 [] ((List.range 4096).map (fun k => (k, Config.freeSum (n + i) k))),
     mapSetAll 0 [] ((List.range 4096).map (fun k => (k, Config.freeFlags (n + i) k)))⟩
  { x with acc := mapSetAll Acc.zero [] ((List.range 4).map (fun i => (i, acc i))) }

/-- D and s[C] after a VATTN is abandoned (R136). -/
def freeAttn (n : Nat) (v : Vattn) (x : Tile) : Tile :=
  let lanes := (List.range (if v.d128 then 128 else 64)).map (fun j => (64 * v.d.toNat + j, Config.freeLane n j))
  { x with vreg := mapSetAll 0 x.vreg lanes,
           sreg := if v.c = 0 then x.sreg else mapSet 0 x.sreg v.c.toNat (Config.freeValue n) }

/-- A tile stops: STATE 7, or 8 if it holds a fault record; its waits end without writing a predicate (R67), its in-flight
work is abandoned. -/
def stopTile (t : Nat) (s : State) : State :=
  let x := tileAt t s
  let s := forAll x.dmas (fun d s => if d.rows * d.len = 0 then s else abandonDma t d s) s
  let n := s.free
  let y := tileAt t s
  let y := if y.mats.isEmpty then y else freeAccs n y
  let y := match y.vattn with | some v => freeAttn (n + 4) v y | none => y
  setTile t { y with st := if y.fault.valid then 8 else 7, wait := .none, dmas := [], mats := [], vattn := none }
    { s with free := n + 5 }

/-- The remote operations that have packets waiting inside this package, on a link's queue, for a package pair's window or at the port. -/
def waitingOps (s : State) : List Nat :=
  let me := pkgId s
  s.link.flatMap (fun e => e.2.queue.filterMap (fun p => if p.src == me then p.body.bind requestId else none)) ++
    s.peer.flatMap (fun e => e.2.queued.filterMap (fun m => match m with | .net _ x => requestId x | _ => none)) ++
    s.eth.queue.filterMap (fun e => match e.2 with | .peer _ x => requestId x | _ => none)

/-- Whether an operation has left the package: it has departed, and none of its packets waits inside (R29, R205). -/
def opLeft (o : RemoteOp) (s : State) : Bool := o.departed && !(waitingOps s).contains o.id

/-- Whether a message is a packet of one of some requests. -/
def requestOf (ids : List Nat) (m : NetMsg) : Bool := match requestId m with | some i => ids.contains i | none => false

/-- Discard the packets of some operations of this package that have not been transmitted (R29). -/
def dropPackets (ids : List Nat) (s : State) : State :=
  let me := pkgId s
  { s with
    link := s.link.map (fun e => (e.1, { e.2 with
      queue := e.2.queue.filter (fun p => !(p.src == me && (match p.body with | some m => requestOf ids m | none => false))) }))
    peer := s.peer.map (fun e => (e.1, { e.2 with
      queued := e.2.queued.filter (fun m => match m with | .net _ x => !requestOf ids x | _ => true) }))
    eth := { s.eth with queue := s.eth.queue.filter (fun e => match e.2 with | .peer _ x => !requestOf ids x | _ => true) } }

/-- Drop remote operations and fences of a tile, with their packets that have not left: the operations that have not left, or all. -/
def dropOps (all : Bool) (t : Nat) (s : State) : State :=
  let mine (o : RemoteOp) : Bool := decide (o.src = .tile (BitVec.ofNat 10 t)) && (all || !opLeft o s)
  let gone := (s.rops.filter mine).map (·.id)
  let fs := s.fences.filter (fun f => decide (f.tile.toNat ≠ t))
  dropPackets gone { s with rops := s.rops.filter (fun o => !mine o),
                            fences := fs.map (fun f => { f with waits := f.waits.filter (fun i => !gone.contains i) }) }

/-! ### Queues -/

/-- Queue `q`. -/
def queueAt (q : Nat) (s : State) : Queue := mapGet Queue.zero s.queue q

/-- Change queue `q`. -/
def updQueue (q : Nat) (f : Queue → Queue) (s : State) : State := { s with queue := mapUpd Queue.zero s.queue q f }

/-- The queue discards its kernels. -/
def queueDrop (q : Nat) (s : State) : State := updQueue q (fun x => { x with posted := [], running := none, ended := 0 }) s

/-- The queue discards its kernels and tells who launched the running one, or the first posted (R253): the event carries the fault
record, where a fault is the reason, and the job number (R248). -/
def queueFault (q : Nat) (job : Option (BitVec 16)) (r : Option Report) (s : State) : State :=
  let x := queueAt q s
  let s := queueDrop q s
  match x.running, x.posted with
  | some k, _ => hostSend k.ses.toNat (.kernelFault k.tag job r) s
  | none, k :: _ => hostSend k.ses.toNat (.kernelFault k.tag job r) s
  | none, [] => s

/-- The queues bound to a partition. -/
def queuesOf (p : Nat) (s : State) : List Nat :=
  (s.queue.filter (fun e => e.2.part == some (BitVec.ofNat 4 p))).map (·.1)

/-! ### Job stop (R29) -/

/-- Whether messages to a package go over the host transport: beyond the pair, or from a card (R30, R220). -/
def viaHall (p : PkgId) (s : State) : Bool := isCard s || !samePair p (pkgId s)

/-- The members of a job that the host transport reaches. -/
def hallMembers (j : Job) (s : State) : List PkgId := j.members.filter (fun p => decide (p ≠ pkgId s) && viaHall p s)

/-- Apply R29 to a job on this package. A stop for a fault is told to every session bound to a partition of the job, with the fault
record (R248); one that no fault caused is told by the queues to those who launched the discarded kernels (R253). -/
def jobStop (j : BitVec 16) (r : Option Report) (s : State) : State :=
  let ps := partsOfJob j s
  let ts := ps.flatMap (fun p => tilesOfPart p s)
  let busy := ts.filter (fun t => decide ((tileAt t s).st ≠ 0))
  let s := updJob j (fun x => { x with stopped := true, stopAt := s.tick }) s
  let s := forAll busy stopTile s
  let s := forAll ts (dropOps true) s
  let s := { s with group := s.group.map (fun e =>
    if ps.contains (e.1 / 16) then (e.1, { e.2 with arrived := 0, sent := false, pkgs := [], held := false }) else e) }
  let qs := ps.flatMap (fun p => queuesOf p s)
  let bound := (s.session.filter (fun e => match e.2.part with | some p => ps.contains p.toNat | none => false)).map (·.1)
  match r with
  | some r => forAll bound (fun n s => hostSend n (.jobFault j r) s) (forAll qs queueDrop s)
  | none => forAll qs (fun q s => queueFault q (some j) none s) s

/-- Send a message about a job to one member: CL0 within the pair, the host transport beyond it (R30). -/
def toMember (m : NetMsg) (p : PkgId) (s : State) : State := (netSend 0 (some .fault) acctIdle p m s).2

/-- The job-stop report of R411: the detecting package and the fault type. -/
def stopReport (org : Origin) (src : PkgId) (cause : Byte) (j : BitVec 16) (s : State) : Report :=
  mkReport 0x11 org (jobKey (some j)) (leBytes 2 src.toNat ++ [cause]) s

/-- An uncorrectable fault of a job detected here (R30): the local stop, the record, and one fault-stop to every member. The fault
record that the hosts get is that of the detection, `r`, and the job-stop record where the detection posts none. -/
def jobFault (cause : Byte) (r : Option Report) (j : BitVec 16) (s : State) : State :=
  match jobAt j s with
  | none => s
  | some x =>
    if x.stopped then s
    else
      let s := jobStop j (some (r.getD (stopReport oGov (pkgId s) cause j s))) s
      let s := report 0x11 oGov (jobKey (some j)) (leBytes 2 (pkgId s).toNat ++ [cause]) s
      let others := x.members.filter (fun p => decide (p ≠ pkgId s))
      let s := updJob j (fun y => { y with unacked := hallMembers x s }) s
      forAll others (toMember (.faultStop j)) s

/-- Whether a package is a member of a job. -/
def isMember (p : PkgId) (j : Job) : Bool := j.members.contains p

/-- A stop that another member reports (R28, R30): applied and recorded, never forwarded. -/
def jobStopFrom (src : PkgId) (cause : Byte) (j : BitVec 16) (s : State) : State :=
  match jobAt j s with
  | none => s
  | some x =>
    if x.stopped || !isMember src x || !jobRunning j s then s
    else
      report 0x11 (oPeer src s) (jobKey (some j)) (leBytes 2 src.toNat ++ [cause])
        (jobStop j (some (stopReport (oPeer src s) src cause j s)) s)

/-- A fault that belongs to every job with a partition on the package (R28), with its record. -/
def everyJobFault (cause : Byte) (r : Option Report) (s : State) : State :=
  forAll (s.jobs.map (·.num)) (fun j s => if jobRunning j s then jobFault cause r j s else s) s

/-! ### Kernel stop (R488) -/

/-- Stop the kernel that queue `q` runs, on all its tiles, with the record of the fault where one is the reason. -/
def kernelStop (q : Nat) (r : Option Report) (s : State) : State :=
  match (queueAt q s).running with
  | none => s
  | some k =>
    let ts := (onesOf k.d.tiles).filter (fun t => decide ((tileAt t s).queue.toNat = q))
    queueFault q (jobOfPart k.part.toNat s) r (forAll ts (fun t s => dropOps false t (stopTile t s)) s)

/-- Stop the kernel of a tile for a fault. -/
def kernelStopTile (t : Nat) (r : Report) (s : State) : State := kernelStop (tileAt t s).queue.toNat (some r) s

end Sys2Proof.Machine
end

