-- ==== Sys2Proof/Machine/Memory.lean ====
section
/-! DEFINITION. Vaults and scratch with their stored errors, scrubbing, refresh and clearing (R151 to R175, R488). -/

namespace Sys2Proof.Machine

/-! ### The uncorrectable and the correctable path (R167, R169, R172, R488) -/

/-- Who reads (MEM.LAST_UE_INFO.READER of R172). -/
def rdLoad : Nat := 1
def rdMatrix : Nat := 2
def rdDma : Nat := 3
def rdVattn : Nat := 4
def rdRemote : Nat := 5
def rdHost : Nat := 6
def rdVaultScrub : Nat := 7
def rdScratchScrub : Nat := 8
def rdMerge : Nat := 9
def rdFetch : Nat := 10
def rdImage : Nat := 11

/-- ORIGIN of a memory report: the tile whose memory holds the error, or 0x4000 when it belongs to no partition (R410). -/
def memOrigin (t : Nat) (s : State) : Origin := if (ownerOf t s).isSome then oTile t s else oGov

/-- Write a tile's fault record (R82, R83, R488). -/
def faultRecord (t code pc : Nat) (word : BitVec 64) (addr : Nat) (s : State) : State :=
  updTile t (fun x => { x with fault := ⟨true, BitVec.ofNat 8 code, BitVec.ofNat 13 pc, word, BitVec.ofNat 64 addr, now s⟩ }) s

/-- An uncorrectable error at a byte of vault or scratch `t` (R167): the MEM registers, the record, the job fault, and for the
tile's own access outside a job the kernel stop of R488 with fault code 0x30. -/
def ueHit (reader : Nat) (scratch : Bool) (t a : Nat) (own : Option (Nat × BitVec 64)) (s : State) : State :=
  let job := jobOfTile t s
  let stops := match job with | some j => !jobStopped j s | none => false
  let sym := (Config.freeValue s.free).toNat % (if scratch then 256 else 16)
  let s := useFree s
  let s := setReg64 0x30_0020 (BitVec.ofNat 64 (if scratch then a else t * vaultSize + a)) s
  let s := setReg 0x30_0028
    (BitVec.ofNat 32 (reader * 2 ^ 28 + b2n scratch * 2 ^ 27 + b2n stops * 2 ^ 26 + t * 2 ^ 16 + sym * 2 ^ 8)) s
  let s := countReg 0x30_0010 1 (setReg64 0x30_0030 (now s) s)
  let bytes := leBytes 4 (reg 0x30_0020 s).toNat ++ leBytes 4 (reg 0x30_0024 s).toNat ++ leBytes 4 (reg 0x30_0028 s).toNat
  let r := mkReport 0x20 (memOrigin t s) (jobKey job) bytes s
  let s := report 0x20 (memOrigin t s) (jobKey job) bytes s
  match job with
  | some j => if stops then jobFault 0x20 (some r) j s else s
  | none =>
    match own with
    | some (pc, word) => kernelStopTile t r (faultRecord t 0x30 pc word a s)
    | none => s

/-- A corrected error of vault or scratch `t` (R169): counts, and a record unless one was posted in the last 1,024 beats. -/
def ceHit (scratch : Bool) (t : Nat) (s : State) : State :=
  let a := 0x30_1000 + 4 * t
  let w := reg a s
  let s := setReg a (if scratch then setFld w 31 16 (min 0xFFFF (fld w 31 16 + 1)) else setFld w 15 0 (min 0xFFFF (fld w 15 0 + 1))) s
  let s := setReg64 0x30_0008 (join64 (reg 0x30_000C s) (reg 0x30_0008 s) + 1) s
  let k := 2 * t + b2n scratch
  let recent := match mapGet none s.ceRecAt k with | some b => decide (s.tick < b + 1024) | none => false
  if recent then s
  else report 0x21 (memOrigin t s) (BitVec.ofNat 32 t) (leBytes 4 (reg a s).toNat)
    { s with ceRecAt := mapSet none s.ceRecAt k (some s.tick) }

/-- Bytes an error code covers: a 64-byte vault unit or an 8-byte scratch word. -/
def grain (scratch : Bool) : Nat := if scratch then 8 else 64

/-- How many grains one tile's memory has. -/
def grains (scratch : Bool) : Nat := if scratch then scratchSize / 8 else vaultSize / 64

/-- Stored errors of one kind of memory: 1 correctable, 2 uncorrectable. -/
def errMap (scratch : Bool) (s : State) : SMap Nat := if scratch then s.scratchErr else s.vaultErr

/-- The grains of `n` bytes at `a` that hold an error of code `c`. -/
def badGrains (scratch : Bool) (t a n c : Nat) (s : State) : List Nat :=
  let lo := t * grains scratch + a / grain scratch
  let hi := t * grains scratch + (a + n + grain scratch - 1) / grain scratch
  ((errMap scratch s).filter (fun e => decide (lo ≤ e.1) && decide (e.1 < hi) && decide (n ≠ 0) && decide (e.2 = c))).map
    (fun e => e.1 - t * grains scratch)

/-- Ask for the write-back of a corrected grain (R163, R164). -/
def askFix (scratch : Bool) (t g : Nat) (s : State) : State :=
  let k := t * grains scratch + g
  if scratch then (if s.scratchFix.contains k then s else { s with scratchFix := s.scratchFix ++ [k] })
  else (if s.vaultFix.contains k then s else { s with vaultFix := s.vaultFix ++ [k] })

/-! ### Dies, banks and rows (R151, R152) -/

/-- The fields of a vault offset (R151): the row within its bank, the unit within the row, the bank within the die, the die. -/
def vaultRowOf (a : Nat) : Nat := bitsN a 26 17
def vaultCol (a : Nat) : Nat := bitsN a 16 12
def vaultBank (a : Nat) : Nat := bitsN a 11 8
def vaultDie (a : Nat) : Nat := bitsN a 7 6

/-- The bank number q of a vault offset: one bank of one die. -/
def bankNo (a : Nat) : Nat := 4 * vaultBank a + vaultDie a

/-- The bank of a scratch address (R156). -/
def scratchBank (a : Nat) : Nat := bitsN a 9 6

/-- The row that is open in bank `q` of vault `t` (R152). -/
def openRow (t q : Nat) (s : State) : Option Nat := let v := mapGet 0 s.vaultRow (64 * t + q); if v = 0 then none else some (v - 1)

/-- An access to the unit at `a` leaves its row open in its bank, in place of any other row of the bank. -/
def openUnit (t a : Nat) (s : State) : State := { s with vaultRow := mapSet 0 s.vaultRow (64 * t + bankNo a) (vaultRowOf a + 1) }

/-- An access to `n` bytes at `a` opens the rows of its units, in order; scratch has no rows. -/
def openRows (scratch : Bool) (t a n : Nat) (s : State) : State :=
  if scratch || n = 0 then s else forAll (List.range (unitsOf a n)) (fun i => openUnit t (a / 64 * 64 + 64 * i)) s

/-- A refresh closes the row of its bank in every vault. -/
def closeBank (q : Nat) (s : State) : State := { s with vaultRow := s.vaultRow.filter (fun e => decide (e.1 % 64 ≠ q)) }

/-- The vaults enter self-refresh, which closes every row (R152, R175). -/
def selfRefreshOn (s : State) : State := { s with selfRefresh := true, vaultRow := [] }

/-! ### Checked accesses (R161 to R164) -/

/-- A read of `n` bytes at `a` (R161, R164): correctable grains are counted and get their write-back; the first uncorrectable
one follows R167. The first part says whether every grain could be read. -/
def checkRead (reader : Nat) (scratch : Bool) (t a n : Nat) (own : Option (Nat × BitVec 64)) (s : State) : Bool × State :=
  let s := forAll (badGrains scratch t a n 1 s) (fun g s => askFix scratch t g (ceHit scratch t s)) (openRows scratch t a n s)
  match badGrains scratch t a n 2 s with
  | [] => (true, s)
  | g :: _ => (false, ueHit reader scratch t (g * grain scratch) own s)

/-- Drop a stored error and a pending write-back of a grain. -/
def clearErr (scratch : Bool) (t g : Nat) (s : State) : State :=
  let k := t * grains scratch + g
  if scratch then { s with scratchErr := mapErase s.scratchErr k, scratchFix := s.scratchFix.filter (· ≠ k) }
  else { s with vaultErr := mapErase s.vaultErr k, vaultFix := s.vaultFix.filter (· ≠ k) }

/-- Whether `n` bytes at `a` cover grain `g` whole. -/
def covers (scratch : Bool) (a n g : Nat) : Bool :=
  decide (a ≤ g * grain scratch) && decide ((g + 1) * grain scratch ≤ a + n)

/-- Raw bytes of one kind of memory. -/
def rawRead (scratch : Bool) (t a n : Nat) (s : State) : List Byte :=
  if scratch then readScratch t a n s else readVault t a n s

/-- Raw write of one kind of memory. -/
def rawWrite (scratch : Bool) (t a : Nat) (bs : List Byte) (s : State) : State :=
  if scratch then writeScratch t a bs s else writeVault t a bs s

/-- A write of bytes at `a` (R162, R164): grains it covers whole lose their error; a grain it covers in part is read, merged
and written whole, and keeps its content when that read is uncorrectable. `count` says whether a corrected error that the merge reads is
still to be counted (R169). The first part says that nothing failed. -/
def memMerge (count scratch : Bool) (t a : Nat) (bs : List Byte) (own : Option (Nat × BitVec 64)) (s : State) : Bool × State :=
  let n := bs.length
  let s := openRows scratch t a n s
  let bad := (badGrains scratch t a n 2 s).filter (fun g => !covers scratch a n g)
  let part := (badGrains scratch t a n 1 s).filter (fun g => !covers scratch a n g)
  let old := rawRead scratch t a n s
  let keep := (bs.zip old).zipIdx.map (fun e => if bad.contains ((a + e.2) / grain scratch) then e.1.2 else e.1.1)
  let s := forAll (if count then part else []) (fun _ s => ceHit scratch t s) s
  let done := (badGrains scratch t a n 1 s ++ badGrains scratch t a n 2 s).filter (fun g => !bad.contains g)
  let lo := t * grains scratch + a / grain scratch
  let hi := t * grains scratch + (a + n + grain scratch - 1) / grain scratch
  let touched (k : Nat) : Bool := decide (lo ≤ k) && decide (k < hi) && decide (n ≠ 0)
  let s := forAll done (fun g s => clearErr scratch t g s) s
  let s := if scratch then { s with scratchFix := s.scratchFix.filter (fun k => !touched k) }
           else { s with vaultFix := s.vaultFix.filter (fun k => !touched k) }
  let s := rawWrite scratch t a (if bad.isEmpty then bs else keep) s
  match bad with
  | [] => (true, s)
  | g :: _ => (false, ueHit rdMerge scratch t (g * grain scratch) own s)

/-- A write whose merge is the only read of what it covers in part. -/
def memStore (scratch : Bool) (t a : Nat) (bs : List Byte) (own : Option (Nat × BitVec 64)) (s : State) : Bool × State :=
  memMerge true scratch t a bs own s

/-! ### Reads that other work overtakes (R117, R145) -/

/-- The 64-byte units that `n` bytes at `a` touch, with their contents. -/
def unitsNow (scratch : Bool) (t a n : Nat) (s : State) : List (Nat × List Byte) :=
  (List.range (unitsOf a n)).map (fun i => (a / 64 + i, rawRead scratch t (64 * (a / 64 + i)) 64 s))

/-- The matrix instructions that have not read all their operands learn of units that have new contents (R117). -/
def noteNew (us : List (Nat × List Byte)) (x : Tile) : Tile :=
  { x with mats := x.mats.map (fun m => { m with job := m.job.map (fun j => { j with late := j.late ++ us }) }) }

/-- A VATTN in progress learns of units that are about to be overwritten (R145). -/
def noteOld (us : List (Nat × List Byte)) (x : Tile) : Tile :=
  { x with vattn := x.vattn.map (fun v => { v with late := v.late ++ us }) }

/-- A write of a DMA or a remote operation, which a matrix instruction's reads of scratch (R117) and a VATTN's reads of the vault (R145)
are not ordered with. -/
def landStore (count scratch : Bool) (t a : Nat) (bs : List Byte) (own : Option (Nat × BitVec 64)) (s : State) : Bool × State :=
  let s := if scratch then s else updTile t (noteOld (unitsNow false t a bs.length s)) s
  let r := memMerge count scratch t a bs own s
  (r.1, if scratch then updTile t (noteNew (unitsNow true t a bs.length r.2)) r.2 else r.2)

/-- What read number `i` of use `use` sees of `bs` at `a`: each 64-byte unit wholly as it stands in `bs` or wholly as one of its other
contents, a free choice (R117, R145). -/
def seenBytes (use i : Nat) (others : Nat → List (List Byte)) (a : Nat) (bs : List Byte) : List Byte :=
  bs.zipIdx.map (fun e =>
    let u := (a + e.2) / 64
    let vs := others u
    match Config.freePick use (i * 2 ^ 22 + u) % (vs.length + 1) with
    | 0 => e.1
    | k + 1 => (vs.getD k []).getD ((a + e.2) % 64) e.1)

/-- The other contents of a unit among those listed. -/
def othersOf (us : List (Nat × List Byte)) (u : Nat) : List (List Byte) := (us.filter (fun e => decide (e.1 = u))).map (·.2)

/-! ### Refresh and scrubbing (R158, R165, R166) -/

/-- Whether tile `t` is being cleared (MEM.CLEAR_BUSY). -/
def clearing (t : Nat) (s : State) : Bool := regIs (0x30_0040 + 4 * (t / 32)) (t % 32) s

/-- Whether MEM.INIT.DONE is set. -/
def memInitDone (s : State) : Bool := regIs 0x30_00C0 0 s

/-- Rail `r`. -/
def railAt (r : Nat) (s : State) : Rail := mapGet Rail.zero s.rails.rail r

/-- SLOT 1 of the companion role, which drives no rail (R349). -/
def isSlot1 (s : State) : Bool := isCompanion s && s.rst.straps.slot == 1

/-- One rail of four. -/
def railsGet (x : Rails) (r : Nat) : Int := match r with | 0 => x.vcore | 1 => x.vsram | 2 => x.vdram | _ => x.vlink

/-- The lower end of a rail's range in 1/64 mV (R328). -/
def railFloor (r : Nat) : Int := match r with | 0 => 35200 | 1 => 44800 | 2 => 67200 | _ => 51200

/-- Whether a rail that SLOT 0 drives supplies SLOT 1: its voltage at the last FRAC 0 lies in its range or above (DEDUCED, log 22). -/
def suppliedTo1 (r : Nat) (s : State) : Bool := decide (railFloor r ≤ railsGet s.gov.railV r)

/-- Whether a rail is in regulation. -/
def railReg (r : Nat) (s : State) : Bool := if isSlot1 s then suppliedTo1 r s else decide ((railAt r s).st = 2)

/-- Whether a rail is in regulation or in retention. -/
def railHolds (r : Nat) (s : State) : Bool :=
  if isSlot1 s then suppliedTo1 r s else decide ((railAt r s).st = 2) || decide ((railAt r s).st = 3)

/-- Whether the vaults are powered: VDRAM in REG or in RET (R175). -/
def vdramOn (s : State) : Bool := railHolds 2 s

/-- VDRAM is switched off: the vaults lose their contents, with the remote operations that wait for them (log 11), and the next power-up
runs cold initialisation (R175). -/
def vaultsLost (s : State) : State :=
  setReg 0x30_00C0 0 { s with vault := [], vaultErr := [], vaultFix := [], vaultRow := [], selfRefresh := false, passed := [] }

/-- The refresh of slot RC (R158): rows 4g to 4g + 3 of bank q in every vault, whose row it closes (R159). -/
def refreshSlot (s : State) : State := closeBank (bitsN s.rc.toNat 5 0) { s with rc := s.rc + 1 }

/-- Refresh at stroke 4, at FRAC 2,048, and whether it is aligned (R158); no event of a beat comes before one of a later FRAC (R37). -/
def execVaultRefresh (s : State) : Res :=
  .next (if s.frac ≤ 2048 then refreshSlot { s with aligned := decide (s.rc = s.beat.setWidth 14), frac := 2048 } else s)

/-- The catch-up refresh at stroke 6, at FRAC 3,072, while refresh is not aligned (R158). -/
def execCatchUpRefresh (s : State) : Res :=
  .next (if s.aligned || decide (3072 < s.frac) then s else refreshSlot { s with frac := 3072 })

/-- Whether a scrubber may read (R165, R166): the interval is not 0 and that many beats have passed since its last read, cold
initialisation is over, the vaults are not in self-refresh, and the tile is not being cleared. -/
def scrubMay (k t : Nat) (s : State) : Bool :=
  let n := regF 0x30_0000 15 0 s
  decide (n ≠ 0) && (match mapGet none s.scrubAt k with | some b => decide (b + n ≤ s.tick) | none => true) &&
    memInitDone s && !s.selfRefresh && !clearing t s

/-- A scrubber reads in this beat. -/
def scrubbed (k : Nat) (s : State) : State := { s with scrubAt := mapSet none s.scrubAt k (some s.tick) }

/-- One read of the vault scrubber of vault `t` (R165, R166). -/
def execVaultScrub (t : TileId) (s : State) : Res :=
  let t := t.toNat
  if !scrubMay (2 * t) t s || !vdramOn s then .next s
  else
    let g := mapGet 0 s.vaultScrub t
    let s := { scrubbed (2 * t) s with vaultScrub := mapSet 0 s.vaultScrub t ((g + 1) % (vaultSize / 64)) }
    let s := onlyIf (decide (t = 0) && decide (g + 1 = vaultSize / 64)) (updReg 0x30_0004 (· + 1)) s
    .next (charge acctIdle 7 1 (checkRead rdVaultScrub false t (64 * g) 64 none s).2)

/-- One read of the scratch scrubber of tile `t` (R165, R166). -/
def execScratchScrub (t : TileId) (s : State) : Res :=
  let t := t.toNat
  if !scrubMay (2 * t + 1) t s then .next s
  else
    let g := mapGet 0 s.scratchScrub t
    let s := { scrubbed (2 * t + 1) s with scratchScrub := mapSet 0 s.scratchScrub t ((g + 1) % (scratchSize / 8)) }
    .next (charge acctIdle 6 1 (checkRead rdScratchScrub true t (8 * g) 8 none s).2)

/-- The write-back of a corrected grain (R163, R164), unless a write dropped it. -/
def writeBack (scratch : Bool) (t g : Nat) (s : State) : State :=
  let k := t * grains scratch + g
  if (if scratch then s.scratchFix else s.vaultFix).contains k then
    clearErr scratch t g (openRows scratch t (g * grain scratch) (grain scratch) s)
  else s

/-- VAULT_WRITE_BACK. A unit outside the vault does not exist (R151). -/
def execVaultWriteBack (t : TileId) (u : Nat) (s : State) : Res :=
  if u < vaultSize / 64 then .next (writeBack false t.toNat u s) else .fault .noSuchAddress

/-- SCRATCH_WRITE_BACK. A word outside scratch does not exist (R156). -/
def execScratchWriteBack (t : TileId) (w : Nat) (s : State) : Res :=
  if w < scratchSize / 8 then .next (writeBack true t.toNat w s) else .fault .noSuchAddress

/-! ### Clearing and initialisation (R173, R174) -/

/-- Zero one tile's scratch and instruction store, with valid check bits. -/
def zeroScratch (t : Nat) (s : State) : State :=
  let s := { s with scratch := mapClear s.scratch (t * scratchSize) ((t + 1) * scratchSize),
                    scratchErr := mapClear s.scratchErr (t * grains true) ((t + 1) * grains true),
                    scratchFix := s.scratchFix.filter (fun k => !decide (k / grains true = t)),
                    istoreErr := mapClear s.istoreErr (t * 8192) ((t + 1) * 8192) }
  updTile t (fun x => { x with istore := [] }) s

/-- Zero one vault and close its window-table entries. Its writes go through the whole vault, so they leave the last row of every bank
open (R151, R152). -/
def zeroVault (t : Nat) (s : State) : State :=
  forAll (List.range 64) (fun q => openUnit t (vaultSize - 4096 + 64 * q))
    { s with
      vault := mapClear s.vault (t * vaultSize) ((t + 1) * vaultSize)
      vaultErr := mapClear s.vaultErr (t * grains false) ((t + 1) * grains false)
      vaultFix := s.vaultFix.filter (fun k => !decide (k / grains false = t))
      window := mapClear s.window (t * 2048) ((t + 1) * 2048) }

/-- The end of a tile's clearing (R173): every unit and word is zero, the windows are closed, the energy is idle. -/
def execClearingComplete (t : TileId) (s : State) : Res :=
  let t := t.toNat
  if memInitDone s && clearing t s then
    let s := regBit (0x30_0040 + 4 * (t / 32)) (t % 32) false (zeroVault t (zeroScratch t s))
    .next (charge acctIdle 6 (scratchSize / 64) (charge acctIdle 7 (vaultSize / 64) s))
  else .next s

/-- MEM.CE_CLEAR (R170). -/
def ceClear (v : BitVec 32) (s : State) : State :=
  if v = 0xFFFFFFFF then { s with regs := mapClear s.regs 0x30_1000 0x30_2000 }
  else if v.toNat < 1024 then setReg (0x30_1000 + 4 * v.toNat) 0 s
  else s

end Sys2Proof.Machine
end

