-- ==== Sys2Proof/Machine/Operands.lean ====
section
/-! DEFINITION. Operand forms of tile instructions, the register files, and issuing an instruction (R46 to R52, R77, R81). -/

namespace Sys2Proof.Machine

/-! ### The instruction word -/

/-- The word of R46. -/
def insWord (cls op : Nat) (f : Ins) : BitVec 64 :=
  BitVec.ofNat 64 (cls * 2 ^ 60 + op * 2 ^ 52 + f.d.toNat * 2 ^ 46 + f.a.toNat * 2 ^ 40 + f.b.toNat * 2 ^ 34 +
    f.p.toNat * 2 ^ 31 + f.imm.toNat)

/-- IMM as a number, and sign-extended to 64 bits. -/
def immU (f : Ins) : Nat := f.imm.toNat
def immS (f : Ins) : BitVec 64 := f.imm.signExtend 64

/-- The third register index, bits [30:25]. -/
def immC (f : Ins) : Nat := f.imm.toNat / 2 ^ 25

/-- Bits `hi` down to `lo` of IMM. -/
def immF (f : Ins) (hi lo : Nat) : Nat := bitsN f.imm.toNat hi lo

/-- Encoding checks of R48 and R49: which of D, A and B the operation uses, which bits of IMM its format requires to be zero,
whether P must be zero, and whether every register index is in range. The lowest code wins (R81). -/
def encOf (d a b : Bool) (zeros : Nat) (index : Bool) (f : Ins) (p0 : Bool := false) : Option Nat :=
  if !((d || f.d == 0) && (a || f.a == 0) && (b || f.b == 0) && decide (f.imm.toNat &&& zeros = 0) && (!p0 || f.p == 0)) then
    some 0x03
  else if !index then some 0x04
  else none

/-- Bits of IMM that the formats of R48 require to be zero. -/
def zReg : Nat := 0x7FFFFFFF
def zReg3 : Nat := 0x01FFFFFF
def zMem : Nat := 0x7FF00000

/-! ### Register files (R50) -/

/-- s0 reads zero. -/
def sGet (x : Tile) (i : Nat) : BitVec 64 := if i = 0 then 0 else mapGet 0 x.sreg i

/-- Writes to s0 are discarded. -/
def sSet (i : Nat) (v : BitVec 64) (x : Tile) : Tile := if i = 0 then x else { x with sreg := mapSet 0 x.sreg i v }

/-- Lane `l` of v[i]. -/
def vGet (x : Tile) (i l : Nat) : BitVec 32 := mapGet 0 x.vreg (64 * i + l)

/-- All lanes of v[i]. -/
def vLanes (x : Tile) (i : Nat) : List (BitVec 32) := (List.range 64).map (vGet x i)

/-- Write a lane. -/
def vSet (i l : Nat) (v : BitVec 32) (x : Tile) : Tile := { x with vreg := mapSet 0 x.vreg (64 * i + l) v }

/-- Write the enabled lanes from a list. -/
def vSetAll (i : Nat) (en : Nat → Bool) (vs : List (BitVec 32)) (x : Tile) : Tile :=
  vs.zipIdx.foldl (fun x e => if en e.2 then vSet i e.2 e.1 x else x) x

/-- p0 reads 1. -/
def pGet (x : Tile) (i : Nat) : Bool := i = 0 || x.pred.getLsbD i

/-- Writes to p0 are discarded. -/
def pSet (i : Nat) (b : Bool) (x : Tile) : Tile := if i = 0 then x else { x with pred := setBit x.pred i b }

/-- Counter `i`. -/
def cGet (x : Tile) (i : Nat) : BitVec 32 := mapGet 0 x.ctr i

/-- Write a counter. -/
def cSet (i : Nat) (v : BitVec 32) (x : Tile) : Tile := { x with ctr := mapSet 0 x.ctr i v }

/-- Add to a counter, modulo 2³² (R64, R66). -/
def cAdd (i : Nat) (v : BitVec 32) (x : Tile) : Tile := cSet i (cGet x i + v) x

/-- An increment that no instruction makes: a completion or a signal. It is remembered until the tile cycle ends or the tile issues, since
a CSET of the same cycle goes first (R66). -/
def cCount (i : Nat) (v : BitVec 32) (x : Tile) : Tile :=
  let y := cAdd i v x
  { y with incs := mapUpd 0 y.incs i (· + v) }

/-- Whether a counter value has reached a target (R64). -/
def reached (c t : BitVec 32) : Bool := !(c - t).getLsbD 31

/-- Accumulator `i`. -/
def mGet (x : Tile) (i : Nat) : Acc := mapGet Acc.zero x.acc i

/-- Write an accumulator. -/
def mSet (i : Nat) (v : Acc) (x : Tile) : Tile := { x with acc := mapSet Acc.zero x.acc i v }

/-- Raise tile flags (R97, R114). -/
def orFlags (v : BitVec 4) (x : Tile) : Tile := { x with flags := x.flags ||| v }

/-! ### Faults (R81, R82) -/

/-- The six words of a program-fault payload (R83, R411). -/
def faultBytes (r : FaultRec) : List Byte :=
  leBytes 4 (b2n r.valid * 2 ^ 31 + r.code.toNat) ++ leBytes 4 r.pc.toNat ++ leBytes 8 r.insn.toNat ++ leBytes 8 r.addr.toNat

/-- A fault under R81: the record, STATE 8, the program-fault event, then the job stop of R82 or, in a partition that belongs
to no job, the kernel stop of R488. -/
def raiseFault (t code pc : Nat) (word : BitVec 64) (addr : Nat) (s : State) : State :=
  let s := updTile t (fun x => { x with st := 8 }) (faultRecord t code pc word addr s)
  let job := jobOfTile t s
  let r := mkReport 0x10 (oTile t s) (jobKey job) (faultBytes (tileAt t s).fault) s
  let s := report 0x10 (oTile t s) (jobKey job) (faultBytes (tileAt t s).fault) s
  match job with
  | some j => jobFault 0x10 (some r) j s
  | none => kernelStopTile t r s

/-! ### Issuing (R51, R52, R77) -/

/-- Whether the cluster of a tile may issue: no halt is in force (R80), and the end of a halt has released it (R283). -/
def clusterOpen (t : Nat) (s : State) : Bool := s.gov.halt == 0 && !s.gov.held.getLsbD (clusterOf t)

/-- What a running VATTN holds back (log 10): the vector class, vector loads and stores, MVR, END and BARRIER, and whatever
names its state registers. -/
def vattnBlocks (v : Vattn) (cls op : Nat) (f : Ins) : Bool :=
  let c := v.c.toNat
  let names (i : Nat) : Bool := decide (i = c) || decide (i = c + 1)
  decide (cls = 3) || (decide (cls = 2) && decide (0x10 ≤ op)) || (decide (cls = 4) && decide (op = 0x11)) ||
    (decide (cls = 8) && (decide (op = 1) || decide (op = 3))) ||
    names f.d.toNat || names f.a.toNat || names f.b.toNat || names (immC f) || names (immC f + 1)

/-- What an outstanding atomic holds back (R189): whatever names the scalar register that receives the old value; a field of the
same number that names another kind of register is held back too, which only delays (log 10). -/
def atomBlocks (f : Ins) (o : RemoteOp) : Bool :=
  decide (o.e ≠ 0) && (decide (f.d = o.e) || decide (f.a = o.e) || decide (f.b = o.e) ||
    decide (immC f = o.e.toNat) || decide (immC f + 1 = o.e.toNat) || decide (immF f 24 19 = o.e.toNat))

/-- What the matrix instructions in flight hold back (R52, R115, R197): while an MMA has not read all its operands, every other matrix
instruction, since the engine executes them one at a time, and the remote operations that travel; until an accumulator is written, what
reads it. -/
def matsBlock (mats : List MatOp) (cls op : Nat) (f : Ins) : Bool :=
  let reading := mats.any (fun m => m.job.isSome)
  let writes (r : BitVec 6) : Bool := mats.any (fun m => decide (m.acc = some (r.setWidth 2)))
  (decide (cls = 4) && decide (op ≠ 0x00) &&
    (reading || (if op = 0x11 ∨ op = 0x20 then writes f.a else decide (op ≠ 0x08) && decide (op ≠ 0x19) && writes f.d))) ||
  (decide (cls = 6) && decide (op ≠ 0x1C) && decide (op ≠ 0x20) && reading)

/-- Whether the tile issues: it runs, it does not wait, and its cluster issues. -/
def tileIssues (t : Nat) (s : State) : Bool :=
  let x := tileAt t s
  x.st == 1 && decide (x.wait = Wait.none) && decide (x.pc < 8192) && clusterOpen t s

/-- Whether the tile can issue this instruction now: it issues, and no interlock with a VATTN, a matrix instruction or an atomic holds
it. -/
def canIssue (t cls op : Nat) (f : Ins) (s : State) : Bool :=
  let x := tileAt t s
  tileIssues t s && (match x.vattn with | some v => !vattnBlocks v cls op f | none => true) && !matsBlock x.mats cls op f &&
    !s.rops.any (fun o => decide (o.src = .tile (BitVec.ofNat 10 t)) && atomBlocks f o)

/-- The fault of running past instruction 8,191 (R82). -/
def pastEnd (t : Nat) (word : BitVec 64) (s : State) : State := raiseFault t 0x10 8191 word 8192 s

/-- Issue moves on to the next instruction. -/
def advance (t : Nat) (word : BitVec 64) (s : State) : State :=
  let pc := (tileAt t s).pc
  if pc = 8191 then pastEnd t word s else updTile t (fun x => { x with pc := pc + 1 }) s

/-- Stop issue until an event: the PC already names the next instruction. -/
def waitFor (t : Nat) (st : BitVec 5) (w : Wait) (s : State) : State :=
  updTile t (fun x => { x with pc := x.pc + 1, st := st, wait := w }) s

/-- The wait ends: issue resumes, or the fetch past instruction 8,191 faults. -/
def resume (t : Nat) (s : State) : State :=
  let s := updTile t (fun x => { x with st := 1, wait := .none }) s
  let x := tileAt t s
  if 8192 ≤ x.pc then pastEnd t (mapGet 0 x.istore 8191) s else s

/-- An instruction has been fetched from the PC: a corrected word is counted and written back, which nothing can come before (R164);
the issue is charged (R402). -/
def fetched (t : Nat) (s : State) : State :=
  let k := t * 8192 + (tileAt t s).pc
  let s := if mapGet 0 s.istoreErr k = 1 then ceHit true t { s with istoreErr := mapErase s.istoreErr k } else s
  charge (acctOfTile t s) 5 1 (updTile t (fun x => { x with incs := [] }) s)

/-- Issue the word at the PC (R51, R81, R164): a fetch that is uncorrectable takes the path of R488; an encoding fault is raised
whatever the predicate; a false predicate does nothing; else `run` is the instruction. -/
def issueWord (t p : Nat) (w : BitVec 64) (enc : Option Nat) (run : Nat → BitVec 64 → State → State) (s : State) : State :=
  let x := tileAt t s
  if mapGet 0 s.istoreErr (t * 8192 + x.pc) = 2 then ueHit rdFetch true t (8 * x.pc) (some (x.pc, w)) s
  else match enc with
    | some c => raiseFault t c x.pc w 0 (fetched t s)
    | none => if pGet x p then run t w (fetched t s) else advance t w (fetched t s)

/-- Issue one instruction, if the tile can. -/
def issue (t : TileId) (cls op : Nat) (f : Ins) (enc : Option Nat) (run : Nat → BitVec 64 → State → State) (s : State) : State :=
  if canIssue t.toNat cls op f s then issueWord t.toNat f.p.toNat (insWord cls op f) enc run s else s

/-- Fault on the instruction at the PC. -/
def faultHere (t code : Nat) (word : BitVec 64) (addr : Nat) (s : State) : State :=
  raiseFault t code (tileAt t s).pc word addr s

/-- A register-only instruction: change the tile, then move on. -/
def onTile (g : Tile → Tile) (t : Nat) (w : BitVec 64) (s : State) : State := advance t w (updTile t g s)

end Sys2Proof.Machine
end

