-- ==== Sys2Proof/Machine/Control.lean ====
section
/-! DEFINITION. Branches, scratch load and store, tile DMA, counters and system instructions (R58 to R73, R86). -/

namespace Sys2Proof.Machine

/-! ### Branch and control, CLASS 0x1 (R58) -/

/-- Go to a target, or fault with the PC left at the branch. -/
def jumpTo (link : Option Nat) (target : Int) (t : Nat) (w : BitVec 64) (s : State) : State :=
  if 0 ≤ target ∧ target ≤ 8191 then
    updTile t (fun x =>
      let x' := match link with | some d => sSet d (BitVec.ofNat 64 (x.pc + 1)) x | none => x
      { x' with pc := target.toNat }) s
  else faultHere t 0x10 w (target % 2 ^ 64).toNat s

/-- PC + offset. -/
def branchTarget (f : Ins) (t : Nat) (s : State) : Int := (tileAt t s).pc + f.imm.toInt

/-- BR. -/
def execBr (t : TileId) (f : Ins) (s : State) : Res :=
  .next (issue t 1 0x00 f (encOf false false false 0 true f) (fun t w s => jumpTo none (branchTarget f t s) t w s) s)

/-- JR: PC = s[A]. -/
def execJr (t : TileId) (f : Ins) (s : State) : Res :=
  .next (issue t 1 0x01 f (encOf false true false zReg true f)
    (fun t w s => jumpTo none (sGet (tileAt t s) f.a.toNat).toNat t w s) s)

/-- CALL: s[D] = PC + 1; PC = PC + offset. -/
def execCall (t : TileId) (f : Ins) (s : State) : Res :=
  .next (issue t 1 0x02 f (encOf true false false 0 true f)
    (fun t w s => jumpTo (some f.d.toNat) (branchTarget f t s) t w s) s)

/-- CALLR: the target is read before s[D] is written. -/
def execCallr (t : TileId) (f : Ins) (s : State) : Res :=
  .next (issue t 1 0x03 f (encOf true true false zReg true f)
    (fun t w s => jumpTo (some f.d.toNat) (sGet (tileAt t s) f.a.toNat).toNat t w s) s)

/-! ### Scratch load and store, CLASS 0x2 (R59) -/

/-- The byte address of a load or store, modulo 2^64. -/
def lsAddr (f : Ins) (x : Tile) : Nat :=
  (sGet x f.a.toNat + sGet x f.b.toNat + (BitVec.ofNat 20 (immF f 19 0)).signExtend 64).toNat

/-- Check a scratch access: alignment first (R59, R81), then range. -/
def lsFault (a width align : Nat) : Option Nat :=
  if a % align ≠ 0 then some 0x11 else if scratchSize < a + width then some 0x12 else none

/-- A checked read of own scratch: the access is charged, errors take their path, and `k` receives the bytes. -/
def ownRead (reader t a n : Nat) (w : BitVec 64) (k : List Byte → State → State) (s : State) : State :=
  let r := checkRead reader true t a n (some ((tileAt t s).pc, w)) (charge (acctOfTile t s) 6 (unitsOf a n) s)
  if r.1 then k (readScratch t a n r.2) r.2 else r.2

/-- A checked write of own scratch; a merge that fails stops as R162 and R164 say. -/
def ownWrite (t a : Nat) (bs : List Byte) (w : BitVec 64) (k : State → State) (s : State) : State :=
  let r := memStore true t a bs (some ((tileAt t s).pc, w)) (charge (acctOfTile t s) 6 (unitsOf a bs.length) s)
  if r.1 then k r.2 else r.2

/-- A scalar load. -/
def loadS (op width : Nat) (signed : Bool) (t : TileId) (f : Ins) (s : State) : Res :=
  .next (issue t 2 op f (encOf true true true zMem true f) (fun t w s =>
    let a := lsAddr f (tileAt t s)
    match lsFault a width width with
    | some c => faultHere t c w a s
    | none => ownRead rdLoad t a width w (fun bs s =>
        let v := BitVec.ofNat (8 * width) (ofLe bs)
        onTile (sSet f.d.toNat (if signed then v.signExtend 64 else v.setWidth 64)) t w s) s) s)

/-- A scalar store of the low bytes of s[D]. -/
def storeS (op width : Nat) (t : TileId) (f : Ins) (s : State) : Res :=
  .next (issue t 2 op f (encOf true true true zMem true f) (fun t w s =>
    let x := tileAt t s
    let a := lsAddr f x
    match lsFault a width width with
    | some c => faultHere t c w a s
    | none => ownWrite t a (leBytes width (sGet x f.d.toNat).toNat) w (advance t w) s) s)

/-- LD.U8. -/
def execLdU8 (t : TileId) (f : Ins) (s : State) : Res := loadS 0x00 1 false t f s
/-- LD.U16. -/
def execLdU16 (t : TileId) (f : Ins) (s : State) : Res := loadS 0x01 2 false t f s
/-- LD.U32. -/
def execLdU32 (t : TileId) (f : Ins) (s : State) : Res := loadS 0x02 4 false t f s
/-- LD.64. -/
def execLd64 (t : TileId) (f : Ins) (s : State) : Res := loadS 0x03 8 false t f s
/-- LD.S8. -/
def execLdS8 (t : TileId) (f : Ins) (s : State) : Res := loadS 0x04 1 true t f s
/-- LD.S16. -/
def execLdS16 (t : TileId) (f : Ins) (s : State) : Res := loadS 0x05 2 true t f s
/-- LD.S32. -/
def execLdS32 (t : TileId) (f : Ins) (s : State) : Res := loadS 0x06 4 true t f s
/-- ST.8. -/
def execSt8 (t : TileId) (f : Ins) (s : State) : Res := storeS 0x08 1 t f s
/-- ST.16. -/
def execSt16 (t : TileId) (f : Ins) (s : State) : Res := storeS 0x09 2 t f s
/-- ST.32. -/
def execSt32 (t : TileId) (f : Ins) (s : State) : Res := storeS 0x0A 4 t f s
/-- ST.64. -/
def execSt64 (t : TileId) (f : Ins) (s : State) : Res := storeS 0x0B 8 t f s

/-- VLD: all 64 lanes. -/
def execVld (t : TileId) (f : Ins) (s : State) : Res :=
  .next (issue t 2 0x10 f (encOf true true true zMem true f) (fun t w s =>
    let a := lsAddr f (tileAt t s)
    match lsFault a 256 64 with
    | some c => faultHere t c w a s
    | none => ownRead rdLoad t a 256 w (fun bs s => onTile (vSetAll f.d.toNat (fun _ => true) (wordsOf 64 bs)) t w s) s) s)

/-- The 256-byte image of a vector register (R122). -/
def vBytes (ls : List (BitVec 32)) : List Byte := ls.flatMap (fun l => leBytes 4 l.toNat)

/-- VST: all 64 lanes. -/
def execVst (t : TileId) (f : Ins) (s : State) : Res :=
  .next (issue t 2 0x11 f (encOf true true true zMem true f) (fun t w s =>
    let x := tileAt t s
    let a := lsAddr f x
    match lsFault a 256 64 with
    | some c => faultHere t c w a s
    | none => ownWrite t a (vBytes (vLanes x f.d.toNat)) w (advance t w) s) s)

/-! ### Tile DMA, CLASS 0x5 (R60 to R63) -/

/-- The rectangle of a DMA instruction. -/
def dmaOf (v2s : Bool) (f : Ins) (x : Tile) (w : BitVec 64) : Dma :=
  let c := sGet x (immC f)
  let c1 := sGet x (immC f + 1)
  { id := x.nextDma, v2s := v2s, ctr := f.d, vault := (sGet x f.a.toNat).toNat, scratch := (sGet x f.b.toNat).toNat,
    rows := bitsN c.toNat 47 32, len := bitsN c.toNat 20 0, sStride := bitsN c1.toNat 63 32,
    vStride := bitsN c1.toNat 31 0, pc := x.pc, word := w }

/-- The checks of R61, in its order: the code, and the address that fails. -/
def dmaFault (c : BitVec 64) (d : Dma) : Option (Nat × Nat) :=
  if bitsN c.toNat 63 48 ≠ 0 ∨ bitsN c.toNat 31 21 ≠ 0 then some (0x03, 0)
  else if d.rows * d.len = 0 then none
  else if d.vault % 64 ≠ 0 ∨ d.vStride % 64 ≠ 0 then some (0x13, d.vault)
  else if d.scratch % 64 ≠ 0 ∨ d.sStride % 64 ≠ 0 ∨ d.len % 64 ≠ 0 then some (0x13, d.scratch)
  else if vaultSize < d.vault + (d.rows - 1) * d.vStride + d.len then some (0x14, d.vault)
  else if scratchSize < d.scratch + (d.rows - 1) * d.sStride + d.len then some (0x14, d.scratch)
  else none

/-- A DMA instruction: a 17th waits at issue (R62). -/
def dmaIns (op : Nat) (v2s : Bool) (t : TileId) (f : Ins) (s : State) : Res :=
  .next (if 16 ≤ (tileAt t.toNat s).dmas.length && pGet (tileAt t.toNat s) f.p.toNat then s else
    issue t 5 op f (encOf true true true zReg3 (decide (immC f ≤ 62)) f) (fun t w s =>
      let x := tileAt t s
      let d := dmaOf v2s f x w
      match dmaFault (sGet x (immC f)) d with
      | some (c, a) => faultHere t c w a s
      | none => onTile (fun x => { x with dmas := x.dmas ++ [d], nextDma := x.nextDma + 1 }) t w s) s)

/-- DMA.V2S. -/
def execDmaV2s (t : TileId) (f : Ins) (s : State) : Res := dmaIns 0x00 true t f s
/-- DMA.S2V. -/
def execDmaS2v (t : TileId) (f : Ins) (s : State) : Res := dmaIns 0x01 false t f s

/-- One 64-byte unit of a DMA: the path of an uncorrectable source (R63), or the copy. -/
def dmaUnit (t : Nat) (d : Dma) (va sa : Nat) (r : Bool × State) : Bool × State :=
  let own := some (d.pc, d.word)
  let c := if d.v2s then checkRead rdDma false t va 64 own r.2 else checkRead rdDma true t sa 64 own r.2
  if c.1 then
    let bs := rawRead (!d.v2s) t (if d.v2s then va else sa) 64 c.2
    (r.1, (landStore true d.v2s t (if d.v2s then sa else va) bs own c.2).2)
  else (false, c.2)

/-- The units of a DMA, rows in order of increasing i. -/
def dmaUnits (d : Dma) : List (Nat × Nat) :=
  (List.range d.rows).flatMap (fun i =>
    (List.range (d.len / 64)).map (fun j => (d.vault + i * d.vStride + 64 * j, d.scratch + i * d.sStride + 64 * j)))

/-- Move the data of a DMA: all of it, or, when a source unit is uncorrectable, a free choice of the other units (R63). -/
def dmaMove (t : Nat) (d : Dma) (s : State) : Bool × State :=
  let us := if d.rows * d.len = 0 then [] else dmaUnits d
  let src (u : Nat × Nat) : Nat := if d.v2s then u.1 else u.2
  let bad := us.any (fun u => !(badGrains (!d.v2s) t (src u) 64 2 s).isEmpty)
  if bad then
    us.foldl (fun r u =>
      if !(badGrains (!d.v2s) t (src u) 64 2 r.2).isEmpty then
        (if r.1 then dmaUnit t d u.1 u.2 r else r)
      else if Config.freeBool r.2.free then (r.1, (dmaUnit t d u.1 u.2 (true, useFree r.2)).2) else (r.1, useFree r.2))
      (true, s)
  else us.foldl (fun r u => dmaUnit t d u.1 u.2 r) (true, s)

/-- What the DMAs in flight that write one kind of memory would leave in each unit (R117, R145): of the tile's DMAs before number `mark`. -/
def dmaComing (scratch : Bool) (mark t : Nat) (s : State) : List (Nat × List Byte) :=
  ((tileAt t s).dmas.filter (fun d => d.v2s == scratch && decide (d.id < mark))).flatMap (fun d =>
    if d.rows * d.len = 0 then [] else (dmaUnits d).map (fun u =>
      if scratch then (u.2 / 64, readVault t u.1 64 s) else (u.1 / 64, readScratch t u.2 64 s)))

/-- Whether a DMA may not yet touch scratch: a matrix instruction before it has not read all its operands (R62). -/
def dmaHeld (d : Dma) (x : Tile) : Bool :=
  x.mats.any (fun m => match m.job with | some j => decide (j.mark ≤ d.id) | none => false)

/-- A DMA completes: its last byte is written, then its counter rises by 1 (R63). One that met an uncorrectable source never
completes; one that moves bytes waits while the vaults are in self-refresh (R175) and for the matrix instructions before it (R62). -/
def execDmaComplete (t : TileId) (id : Nat) (s : State) : Res :=
  let t := t.toNat
  let q := takeFirst (fun d : Dma => decide (d.id = id)) (tileAt t s).dmas
  match q.1 with
  | none => .next s
  | some d =>
    if (s.selfRefresh || dmaHeld d (tileAt t s)) && decide (d.rows * d.len ≠ 0) then .next s
    else
      let s := charge (acctOfTile t s) 7 (d.rows * d.len / 64) s
      let r := dmaMove t d (updTile t (fun x => { x with dmas := q.2 }) s)
      .next (if r.1 then updTile t (cCount d.ctr.toNat 1) r.2 else r.2)

/-! ### Counters and waits, CLASS 0x7 (R64 to R67) -/

/-- CRD: s[D] = c[A]. -/
def execCrd (t : TileId) (f : Ins) (s : State) : Res :=
  .next (issue t 7 0x00 f (encOf true true false zReg true f)
    (onTile (fun x => sSet f.d.toNat ((cGet x f.a.toNat).setWidth 64) x)) s)

/-- CSET: c[D] = s[A][31:0], before the increments that reach the counter in the same tile cycle (R66). -/
def execCset (t : TileId) (f : Ins) (s : State) : Res :=
  let late := mapGet 0 (tileAt t.toNat s).incs f.d.toNat
  .next (issue t 7 0x01 f (encOf true true false zReg true f)
    (onTile (fun x => cSet f.d.toNat ((sGet x f.a.toNat).setWidth 32 + late) x)) s)

/-- CADD. -/
def execCadd (t : TileId) (f : Ins) (s : State) : Res :=
  .next (issue t 7 0x02 f (encOf true true false zReg true f)
    (onTile (fun x => cAdd f.d.toNat ((sGet x f.a.toNat).setWidth 32) x)) s)

/-- CADDI: IMM unsigned. -/
def execCaddi (t : TileId) (f : Ins) (s : State) : Res :=
  .next (issue t 7 0x03 f (encOf true false false 0 true f)
    (onTile (fun x => cAdd f.d.toNat (f.imm.setWidth 32) x)) s)

/-- Wait until a counter has reached a target (R64, R65). -/
def waitCounter (c : BitVec 6) (target : BitVec 32) (t : Nat) (w : BitVec 64) (s : State) : State :=
  if reached (cGet (tileAt t s) c.toNat) target then advance t w s else waitFor t 2 (.counter c target) s

/-- CWAIT. -/
def execCwait (t : TileId) (f : Ins) (s : State) : Res :=
  .next (issue t 7 0x08 f (encOf false true true zReg true f)
    (fun t w s => waitCounter f.a ((sGet (tileAt t s) f.b.toNat).setWidth 32) t w s) s)

/-- CWAITI. -/
def execCwaiti (t : TileId) (f : Ins) (s : State) : Res :=
  .next (issue t 7 0x09 f (encOf false true false 0 true f) (waitCounter f.a (f.imm.setWidth 32)) s)

/-- CWAIT.T (R65, R67): the counter is tested in the cycle of issue; with s[C] = 0 it does not wait. -/
def execCwaitT (t : TileId) (f : Ins) (s : State) : Res :=
  .next (issue t 7 0x0A f (encOf true true true zReg3 (decide (f.d.toNat < 8)) f) (fun t w s =>
    let x := tileAt t s
    let target := (sGet x f.b.toNat).setWidth 32
    let ok := reached (cGet x f.a.toNat) target
    let n := sGet x (immC f)
    if ok || n == 0 then onTile (pSet f.d.toNat ok) t w s else waitFor t 2 (.timed f.a target n f.d) s) s)

/-- SLEEP: IMM beat boundaries; 0 does not wait (R86). -/
def execSleep (t : TileId) (f : Ins) (s : State) : Res :=
  .next (issue t 7 0x10 f (encOf false false false 0 true f) (fun t w s =>
    if f.imm = 0 then advance t w s else waitFor t 2 (.sleep (f.imm.setWidth 64)) s) s)

/-- A waited-for counter has reached its target (R64, R67). -/
def execCounterReached (t : TileId) (s : State) : Res :=
  let t := t.toNat
  let x := tileAt t s
  match x.wait with
  | .counter c g => .next (if reached (cGet x c.toNat) g then resume t s else s)
  | .timed c g _ p => .next (if reached (cGet x c.toNat) g then resume t (updTile t (pSet p.toNat true) s) else s)
  | _ => .next s

/-- The beats of a CWAIT.T have passed (R67): the counter decides p[D]. -/
def execWaitTimeout (t : TileId) (s : State) : Res :=
  let t := t.toNat
  let x := tileAt t s
  match x.wait with
  | .timed c g n p =>
    .next (if n = 0 then resume t (updTile t (pSet p.toNat (reached (cGet x c.toNat) g)) s) else s)
  | _ => .next s

/-- The beats of a SLEEP have passed. -/
def execSleepEnd (t : TileId) (s : State) : Res :=
  match (tileAt t.toNat s).wait with
  | .sleep n => .next (if n = 0 then resume t.toNat s else s)
  | _ => .next s

/-- One beat boundary passes for a waiting tile (R67). -/
def waitBeat (x : Tile) : Tile :=
  match x.wait with
  | .timed c g n p => { x with wait := .timed c g (if n = 0 then 0 else n - 1) p }
  | .sleep n => { x with wait := .sleep (if n = 0 then 0 else n - 1) }
  | _ => x

/-! ### System, CLASS 0x8 (R68 to R73) -/

/-- NOP. -/
def execNop (t : TileId) (f : Ins) (s : State) : Res :=
  .next (issue t 8 0x00 f (encOf false false false zReg true f) advance s)

/-- END (R73): stop issue and wait for every DMA and remote operation; P must be 0 (R51). -/
def execEndK (t : TileId) (f : Ins) (s : State) : Res :=
  .next (issue t 8 0x01 f (encOf false false false zReg true f true) (fun t _ s => waitFor t 4 .drainEnd s) s)

/-- Tile `t` writes a partition's phase tag in tile cycle `c`; of several tiles that write it in one cycle the highest wins (R70). -/
def tagWrite (t c : Nat) (k : BitVec 4) (x : Part) : Part :=
  if x.tagBy.1 = c ∧ t < x.tagBy.2 then x else { x with tag := k, tagBy := (c, t) }

/-- PHASE (R70): the tag of the tile's partition. -/
def execPhase (t : TileId) (f : Ins) (s : State) : Res :=
  .next (issue t 8 0x02 f (encOf false false false 0x7FFFFFF0 true f) (fun t w s =>
    advance t w (match ownerOf t s with
      | some p => updPart p (tagWrite t s.cycle (BitVec.ofNat 4 (immU f))) s
      | none => s)) s)

/-- The key of a partition's barrier group. -/
def groupKey (p g : Nat) : Nat := 16 * p + g

/-- A barrier group. -/
def groupAt (p g : Nat) (s : State) : Group := mapGet Group.zero s.group (groupKey p g)

/-- BARRIER (R71): a tile outside the group faults; a member stops issue and drains before it arrives. -/
def execBarrier (t : TileId) (f : Ins) (s : State) : Res :=
  .next (issue t 8 0x03 f (encOf false false false 0x7FFFFFF0 true f true) (fun t w s =>
    let g := immF f 3 0
    if (match ownerOf t s with | some p => (groupAt p g s).tiles.getLsbD t | none => false) then
      waitFor t 4 (.drainBarrier (BitVec.ofNat 4 g)) s
    else faultHere t 0x18 w 0 s) s)

/-- RDTS: the time stamp at issue. -/
def execRdts (t : TileId) (f : Ins) (s : State) : Res :=
  .next (issue t 8 0x04 f (encOf true false false zReg true f) (fun t w s => onTile (sSet f.d.toNat (now s)) t w s) s)

/-- The identity word of R69. -/
def identityWord (t : Nat) (s : State) : BitVec 64 :=
  let x := tileAt t s
  BitVec.ofNat 64 (((jobOfTile t s).getD 0xFFFF).toNat * 2 ^ 48 + (pkgId s).toNat * 2 ^ 32 + x.queue.toNat * 2 ^ 24 +
    x.part.toNat * 2 ^ 20 + clusterOf t * 2 ^ 10 + t)

/-- RDID. -/
def execRdid (t : TileId) (f : Ins) (s : State) : Res :=
  .next (issue t 8 0x05 f (encOf true false false zReg true f)
    (fun t w s => onTile (sSet f.d.toNat (identityWord t s)) t w s) s)

/-- RDCYC: tile cycles since launch. -/
def execRdcyc (t : TileId) (f : Ins) (s : State) : Res :=
  .next (issue t 8 0x06 f (encOf true false false zReg true f)
    (fun t w s => onTile (fun x => sSet f.d.toNat (BitVec.ofNat 64 (s.cycle - x.launchCycle)) x) t w s) s)

/-- TRAP: IMM[15:0] is recorded as the fault address (R83). -/
def execTrap (t : TileId) (f : Ins) (s : State) : Res :=
  .next (issue t 8 0x07 f (encOf false false false 0x7FFF0000 true f) (fun t w s => faultHere t 0x3F w (immF f 15 0) s) s)

/-! ### Words outside the operation lists (R47, R49) -/

/-- Whether a class lists an operation (R47, R54 to R68, R99, R125, R184). -/
def opListed (cls op : Nat) : Bool :=
  match cls with
  | 0 => [0x00, 0x01, 0x02, 0x03, 0x04, 0x05, 0x06, 0x08, 0x09, 0x0A, 0x0B, 0x0C, 0x0D, 0x0E, 0x10, 0x11, 0x12, 0x13, 0x14,
          0x15, 0x18, 0x20, 0x21, 0x22, 0x23, 0x24, 0x25, 0x28, 0x29, 0x2A, 0x2B, 0x80, 0x82, 0x88, 0x89, 0x8A, 0x8C, 0x8D,
          0x8E, 0x90, 0x91, 0xA0, 0xA1, 0xA2, 0xA3, 0xA4, 0xA5].contains op
  | 1 => decide (op ≤ 3)
  | 2 => decide (op ≤ 6) || (decide (8 ≤ op) && decide (op ≤ 0xB)) || op == 0x10 || op == 0x11
  | 3 => decide (op ≤ 0xB) || (decide (0x10 ≤ op) && decide (op ≤ 0x1A)) || op == 0x20 || op == 0x21 ||
         (decide (0x28 ≤ op) && decide (op ≤ 0x2C)) || (decide (0x30 ≤ op) && decide (op ≤ 0x35)) ||
         (decide (0x38 ≤ op) && decide (op ≤ 0x3D)) || (decide (0x40 ≤ op) && decide (op ≤ 0x44)) ||
         (decide (0x48 ≤ op) && decide (op ≤ 0x4A)) || [0x50, 0x51, 0x58, 0x59, 0x5C].contains op
  | 4 => [0x00, 0x08, 0x10, 0x11, 0x18, 0x19, 0x20].contains op
  | 5 => decide (op ≤ 1)
  | 6 => rmtListed op
  | 7 => decide (op ≤ 3) || (decide (8 ≤ op) && decide (op ≤ 0xA)) || op == 0x10
  | 8 => decide (op ≤ 7)
  | _ => false
where
  /-- The operations of the remote class (R183). -/
  rmtListed (op : Nat) : Bool := [0x00, 0x01, 0x02, 0x08, 0x09, 0x0A, 0x10, 0x18, 0x1C, 0x20].contains op

/-- The tile issues a word of no operation: fault 0x01 for its class, 0x02 for its OP. A word of a listed operation is that
operation's own command. -/
def execIllegalInstruction (t : TileId) (w : BitVec 64) (s : State) : Res :=
  let cls := bitsN w.toNat 63 60
  let op := bitsN w.toNat 59 52
  .next (if tileIssues t.toNat s && !opListed cls op then
      issueWord t.toNat 0 w (some (if 9 ≤ cls then 0x01 else 0x02)) advance s
    else s)

end Sys2Proof.Machine
end

