-- ==== Sys2Proof/Machine/Fp.lean ====
section
/-! DEFINITION. Exact values, rounding, FP32 arithmetic, and the bounded functions of R130 and R146. -/

namespace Sys2Proof.Machine

/-! ### Exact values -/

/-- An exact value (R94): a NaN, an infinity, or a signed ratio with a positive denominator (so zeros keep their sign). -/
inductive Val where
  | nan
  | inf (neg : Bool)
  | fin (neg : Bool) (num den : Nat)
deriving DecidableEq, Repr

/-- The value 2 to the power `k`, times `n`. -/
def dyadic (neg : Bool) (n : Nat) (k : Int) : Val :=
  if k < 0 then .fin neg n (2 ^ k.natAbs) else .fin neg (n * 2 ^ k.natAbs) 1

/-- A signed ratio as a value; a zero is +0. -/
def ofRatio (num : Int) (den : Nat) : Val := .fin (decide (num < 0)) num.natAbs den

/-- The signed numerator. -/
def sgn (neg : Bool) (n : Nat) : Int := if neg then -(n : Int) else n

/-- The binary exponent of a positive ratio: the largest `e` with 2^e at most `num / den`. -/
def log2Ratio (num den : Nat) : Int :=
  let e : Int := (Nat.log2 num : Int) - (Nat.log2 den : Int)
  let le (e : Int) : Bool := if e < 0 then decide (den ≤ num * 2 ^ e.natAbs) else decide (den * 2 ^ e.natAbs ≤ num)
  if le e then e else e - 1

/-- Round a ratio to an integer magnitude (R95): 0 nearest even, 1 towards zero, 2 towards −∞, 3 towards +∞. -/
def roundNat (rm : Nat) (neg : Bool) (num den : Nat) : Nat :=
  let q := num / den
  let r := num % den
  let up :=
    if rm = 0 then decide (den < 2 * r) || (decide (2 * r = den) && decide (q % 2 = 1))
    else if rm = 1 then false
    else if rm = 2 then neg && decide (0 < r)
    else !neg && decide (0 < r)
  if up then q + 1 else q

/-- A ratio divided by 2 to the power `k`. -/
def scaleDown (num den : Nat) (k : Int) : Nat × Nat :=
  if k < 0 then (num * 2 ^ k.natAbs, den) else (num, den * 2 ^ k.natAbs)

/-! ### Encoding into a floating-point layout -/

/-- A floating-point layout of R89: mantissa bits, the smallest normal's exponent, and the code of the largest finite value. -/
structure Layout where
  width : Nat
  mb : Nat
  emin : Int
  maxCode : Nat
deriving DecidableEq, Repr

/-- The code of a finite magnitude rounded as if the exponent had no upper bound (R96). -/
def encodeMag (l : Layout) (rm : Nat) (neg : Bool) (num den : Nat) : Nat :=
  if num = 0 then 0
  else
    let e := max (log2Ratio num den) l.emin
    let q := scaleDown num den (e - l.mb)
    ((e - l.emin).toNat) * 2 ^ l.mb + roundNat rm neg q.1 q.2

/-- The magnitude that a finite code stands for. -/
def decodeMag (l : Layout) (code : Nat) : Nat × Int :=
  let e := code / 2 ^ l.mb
  let m := code % 2 ^ l.mb
  if e = 0 then (m, l.emin - l.mb) else (2 ^ l.mb + m, l.emin - l.mb + (e - 1 : Nat))

/-- Whether a finite code is exactly the magnitude. -/
def exactMag (l : Layout) (code num den : Nat) : Bool :=
  match dyadic false (decodeMag l code).1 (decodeMag l code).2 with
  | .fin _ n d => decide (n * den = num * d)
  | _ => false

/-- FP32 (R89). -/
def layFp32 : Layout := ⟨32, 23, -126, 0x7F7FFFFF⟩

/-- The canonical FP32 NaN (R97). -/
def nan32 : BitVec 32 := 0x7FC00000

/-- Plus or minus infinity. -/
def inf32 (neg : Bool) : BitVec 32 := if neg then 0xFF800000 else 0x7F800000

/-- Decode FP32 to its exact value. -/
def dec32 (b : BitVec 32) : Val :=
  let neg := b.getLsbD 31
  let mag := b.toNat % 2 ^ 31
  if mag > 0x7F800000 then .nan
  else if mag = 0x7F800000 then .inf neg
  else dyadic neg (decodeMag layFp32 mag).1 (decodeMag layFp32 mag).2

/-- Attach a sign to a magnitude code. -/
def sign32 (neg : Bool) (mag : Nat) : BitVec 32 := BitVec.ofNat 32 (mag + if neg then 2 ^ 31 else 0)

/-- Encode into FP32 in a rounding mode, overflow as IEEE 754 for the mode (R96, SAT = 0). -/
def enc32 (rm : Nat) : Val → BitVec 32
  | .nan => nan32
  | .inf neg => inf32 neg
  | .fin neg n d =>
    let c := encodeMag layFp32 rm neg n d
    if c ≤ layFp32.maxCode then sign32 neg c
    else if rm = 1 || (rm = 2 && !neg) || (rm = 3 && neg) then sign32 neg layFp32.maxCode
    else inf32 neg

/-- One FP32 rounding to nearest, ties to even (R126). -/
def rne (v : Val) : BitVec 32 := enc32 0 v

/-- Whether an FP32 word is a NaN. -/
def isNan (b : BitVec 32) : Bool := decide (b.toNat % 2 ^ 31 > 0x7F800000)

/-! ### Exact arithmetic on values -/

/-- Exact sum; an exact zero from operands of unlike sign is +0 (IEEE 754, ties-to-even attribute). -/
def addV : Val → Val → Val
  | .nan, _ => .nan
  | _, .nan => .nan
  | .inf a, .inf b => if a = b then .inf a else .nan
  | .inf a, _ => .inf a
  | _, .inf b => .inf b
  | .fin a n d, .fin b m e =>
    let x := sgn a n * e + sgn b m * d
    if x = 0 then .fin (a && b && decide (n = 0) && decide (m = 0)) 0 1 else .fin (decide (x < 0)) x.natAbs (d * e)

/-- Change the sign. -/
def negV : Val → Val
  | .nan => .nan
  | .inf a => .inf (!a)
  | .fin a n d => .fin (!a) n d

/-- Exact product. -/
def mulV : Val → Val → Val
  | .nan, _ => .nan
  | _, .nan => .nan
  | .inf a, .inf b => .inf (a != b)
  | .inf a, .fin b m _ => if m = 0 then .nan else .inf (a != b)
  | .fin a n _, .inf b => if n = 0 then .nan else .inf (a != b)
  | .fin a n d, .fin b m e => .fin (a != b) (n * m) (d * e)

/-- Exact quotient; a finite value over zero is an infinity, zero over zero a NaN. -/
def divV : Val → Val → Val
  | .nan, _ => .nan
  | _, .nan => .nan
  | .inf _, .inf _ => .nan
  | .inf a, .fin b _ _ => .inf (a != b)
  | .fin a _ _, .inf b => .fin (a != b) 0 1
  | .fin a n d, .fin b m e =>
    if m = 0 then (if n = 0 then .nan else .inf (a != b)) else .fin (a != b) (n * e) (d * m)

/-- The largest integer whose square is at most `n`, found bit by bit from bit `k`. -/
def isqrtFrom (n : Nat) : Nat → Nat → Nat
  | 0, r => r
  | k + 1, r => let c := r + 2 ^ k; isqrtFrom n k (if c * c ≤ n then c else r)

/-- Integer square root. -/
def isqrt (n : Nat) : Nat := isqrtFrom n (Nat.log2 n / 2 + 1) 0

/-- A square root to 200 more bits than its operand, with a trailing bit that says it is inexact; rounding it to FP32 is
correct rounding. -/
def sqrtV : Val → Val
  | .nan => .nan
  | .inf neg => if neg then .nan else .inf false
  | .fin neg n d =>
    if n = 0 then .fin neg 0 1
    else if neg then .nan
    else
      let x := n * 2 ^ 400 * d
      let r := isqrt x
      .fin false (2 * r + if r * r = x then 0 else 1) (2 * 2 ^ 200 * d)

/-- Compare two finite or infinite values. -/
def ltV : Val → Val → Bool
  | .inf a, .inf b => a && !b
  | .inf a, .fin _ _ _ => a
  | .fin _ _ _, .inf b => !b
  | .fin a n d, .fin b m e => decide (sgn a n * e < sgn b m * d)
  | _, _ => false

/-- Equality of values; the zeros are equal. -/
def eqV : Val → Val → Bool
  | .inf a, .inf b => a == b
  | .fin a n d, .fin b m e => decide (sgn a n * e = sgn b m * d)
  | _, _ => false

/-! ### FP32 operations (R126, R307) -/

/-- FP32 addition. -/
def fadd (a b : BitVec 32) : BitVec 32 := rne (addV (dec32 a) (dec32 b))

/-- FP32 subtraction. -/
def fsub (a b : BitVec 32) : BitVec 32 := rne (addV (dec32 a) (negV (dec32 b)))

/-- FP32 multiplication. -/
def fmul (a b : BitVec 32) : BitVec 32 := rne (mulV (dec32 a) (dec32 b))

/-- FP32 fused multiply-add, one rounding. -/
def ffma (a b c : BitVec 32) : BitVec 32 := rne (addV (mulV (dec32 a) (dec32 b)) (dec32 c))

/-- FP32 division. -/
def fdiv (a b : BitVec 32) : BitVec 32 := rne (divV (dec32 a) (dec32 b))

/-- FP32 square root. -/
def fsqrt (a : BitVec 32) : BitVec 32 := rne (sqrtV (dec32 a))

/-- Less than; false when either is a NaN. -/
def flt (a b : BitVec 32) : Bool := !isNan a && !isNan b && ltV (dec32 a) (dec32 b)

/-- Equality; false when either is a NaN; +0 and −0 are equal. -/
def feq (a b : BitVec 32) : Bool := !isNan a && !isNan b && eqV (dec32 a) (dec32 b)

/-- Less than or equal. -/
def fle (a b : BitVec 32) : Bool := flt a b || feq a b

/-- Whether a sorts below b, −0 below +0. -/
def flo (a b : BitVec 32) : Bool := flt a b || (feq a b && a.getLsbD 31 && !b.getLsbD 31)

/-- minimumNumber (R126). -/
def fmin (a b : BitVec 32) : BitVec 32 :=
  if isNan a then (if isNan b then nan32 else b) else if isNan b then a else if flo a b then a else b

/-- maximumNumber (R126). -/
def fmax (a b : BitVec 32) : BitVec 32 :=
  if isNan a then (if isNan b then nan32 else b) else if isNan b then a else if flo a b then b else a

/-- Sign bit cleared. -/
def fabs (a : BitVec 32) : BitVec 32 := a &&& 0x7FFFFFFF

/-- Sign bit inverted. -/
def fneg (a : BitVec 32) : BitVec 32 := a ^^^ 0x80000000

/-- An integer as FP32, rounded in a mode. -/
def ofInt32 (rm : Nat) (i : Int) : BitVec 32 := enc32 rm (ofRatio i 1)

/-- A ratio as FP32, rounded to nearest even. -/
def ofRat32 (q : Rat) : BitVec 32 := rne (ofRatio q.num q.den)

/-- A finite FP32 value times `m`, rounded down to an integer (0 for a NaN or infinity). -/
def floorTimes (a : BitVec 32) (m : Nat) : Int :=
  match dec32 a with
  | .fin neg n d => floorDiv (sgn neg n * m) d
  | _ => 0

/-- A finite FP32 value as a ratio (0 for a NaN or infinity). -/
def ratOf32 (a : BitVec 32) : Rat :=
  match dec32 a with
  | .fin neg n d => mkRat (sgn neg n) d
  | _ => 0

/-! ### Approximations in fixed point with 160 fraction bits -/

/-- π × 2^160, rounded down. -/
def piFix : Int := 0x3243f6a8885a308d313198a2e03707344a4093822

/-- ln 2 × 2^160, rounded down. -/
def ln2Fix : Int := 0xb17217f7d1cf79abc9e3b39803f2f6af40f34326

/-- One in fixed point, as a natural number. -/
def oneNat : Nat := 2 ^ 160

/-- One in fixed point. -/
def oneFix : Int := oneNat

/-- Fixed-point product. -/
def mulFix (a b : Int) : Int := a * b / oneFix

/-- A ratio in fixed point. -/
def ratioFix (num : Int) (den : Nat) : Int := num * oneFix / (den : Int)

/-- The sum of the first `n` terms of a power series whose next term is `t`, each term `x / (k + 1)` times the last. -/
def expTerms (x : Int) : Nat → Nat → Int → Int
  | 0, _, _ => 0
  | n + 1, k, t => t + expTerms x n (k + 1) (mulFix t x / ((k + 1 : Nat) : Int))

/-- e^x for a fixed-point x of magnitude below 1. -/
def expFix (x : Int) : Int := expTerms x 45 0 oneFix

/-- Sine (from k = 1) or cosine (from k = 0) terms: each next term is −x²/((k+1)(k+2)) times the last. -/
def trigTerms (x2 : Int) : Nat → Nat → Int → Int
  | 0, _, _ => 0
  | n + 1, k, t => t + trigTerms x2 n (k + 2) (-(mulFix t x2) / (((k + 1) * (k + 2) : Nat) : Int))

/-- z + z³/3 + z⁵/5 + …, the inverse hyperbolic tangent: `p` is the running power. -/
def atanhTerms (z2 : Int) : Nat → Nat → Int → Int
  | 0, _, _ => 0
  | n + 1, k, p => p / (k : Int) + atanhTerms z2 n (k + 2) (mulFix p z2)

/-- e^x as a positive ratio, for a fixed-point x; magnitudes above 300 are taken as 300. -/
def expRatio (x : Int) : Nat × Nat :=
  let x := clampI (-300 * oneFix) (300 * oneFix) x
  let k := floorDiv x ln2Fix
  let r := (expFix (x - k * ln2Fix)).toNat
  if k < 0 then (r, 2 ^ (160 + k.natAbs)) else (r * 2 ^ k.natAbs, 2 ^ 160)

/-- ln of a positive ratio in fixed point. -/
def lnFix (num den : Nat) : Int :=
  let e := log2Ratio num den
  let m := scaleDown num den e
  let z := ((m.1 : Int) - m.2) * oneFix / ((m.1 : Int) + m.2)
  2 * atanhTerms (mulFix z z) 55 1 z + e * ln2Fix

/-- cos and sin of `phase` / 2^64 turns in fixed point: reduced to an eighth of a turn around a multiple of a quarter. -/
def cosSinFix (phase : BitVec 64) : Int × Int :=
  let q : Nat := (phase.toNat + 2 ^ 61) / 2 ^ 62
  let r : Int := (phase.toNat : Int) - (q * 2 ^ 62 : Nat)
  let a := 2 * piFix * r / 2 ^ 64
  let c := trigTerms (mulFix a a) 24 0 oneFix
  let s := trigTerms (mulFix a a) 24 1 a
  match q % 4 with
  | 0 => (c, s)
  | 1 => (-s, c)
  | 2 => (-c, -s)
  | _ => (s, -c)

/-! ### Bounded functions (R130) -/

/-- Whether FP32 word `y` (an infinity counting as 2^128) lies within `b` ulp of the signed ratio `num / den`; the ulp is the
FP32 spacing at the ratio. -/
def withinUlp (b : Nat) (y : BitVec 32) (num : Int) (den : Nat) : Bool :=
  if isNan y then false
  else
    let m := decodeMag layFp32 (y.toNat % 2 ^ 31)
    let e : Int := if num = 0 then -126 else max (log2Ratio num.natAbs den) (-126)
    match dyadic (y.getLsbD 31) m.1 m.2, dyadic false b (e - 23) with
    | .fin s n d, .fin _ un ud => decide (((sgn s n) * den - num * d).natAbs * ud ≤ un * (d * den))
    | _, _ => false

/-- The word that function `code` answers for input `x` when the exact result is near `num / den`: what the unit answers where
that keeps the bound, else the nearest word (log 12). An exact result beyond the largest finite value overflows. -/
def bounded (code b : Nat) (x : BitVec 32) (num : Int) (den : Nat) : BitVec 32 :=
  let y := Config.transcendental code x
  let r := rne (ofRatio num den)
  if r.toNat % 2 ^ 31 = 0x7F800000 then r else if withinUlp b y num den then y else r

/-- VEXP. -/
def vexp (x : BitVec 32) : BitVec 32 :=
  match dec32 x with
  | .nan => nan32
  | .inf neg => if neg then 0 else inf32 false
  | .fin neg n d =>
    if n = 0 then 0x3F800000
    else let r := expRatio (ratioFix (sgn neg n) d); bounded 0x38 2 x r.1 r.2

/-- VEXP2, exact for integers. -/
def vexp2 (x : BitVec 32) : BitVec 32 :=
  match dec32 x with
  | .nan => nan32
  | .inf neg => if neg then 0 else inf32 false
  | .fin neg n d =>
    if n % d = 0 then rne (dyadic false 1 (clampI (-300) 300 (sgn neg (n / d))))
    else let r := expRatio (mulFix (clampI (-300 * oneFix) (300 * oneFix) (ratioFix (sgn neg n) d)) ln2Fix)
         bounded 0x39 1 x r.1 r.2

/-- VLOG. -/
def vlog (x : BitVec 32) : BitVec 32 :=
  match dec32 x with
  | .nan => nan32
  | .inf neg => if neg then nan32 else inf32 false
  | .fin neg n d =>
    if n = 0 then inf32 true else if neg then nan32 else if n = d then 0
    else bounded 0x3A 1 x (lnFix n d) oneNat

/-- VLOG2, exact for powers of two. -/
def vlog2 (x : BitVec 32) : BitVec 32 :=
  match dec32 x with
  | .nan => nan32
  | .inf neg => if neg then nan32 else inf32 false
  | .fin neg n d =>
    if n = 0 then inf32 true else if neg then nan32 else if n = d then 0
    else
      let e := log2Ratio n d
      if eqV (dyadic false 1 e) (.fin false n d) then ofInt32 0 e
      else bounded 0x3B 1 x (lnFix n d * oneFix / ln2Fix) oneNat

/-- VTANH; below 2^-20 by its series, since the quotient of exponentials would cancel. -/
def vtanh (x : BitVec 32) : BitVec 32 :=
  match dec32 x with
  | .nan => nan32
  | .inf neg => if neg then 0xBF800000 else 0x3F800000
  | .fin neg n d =>
    if n = 0 then x
    else if n * 2 ^ 20 < d then
      bounded 0x3C 2 x (sgn neg (n * (15 * d ^ 4 - 5 * n ^ 2 * d ^ 2 + 2 * n ^ 4))) (15 * d ^ 5)
    else
      let r := expRatio (2 * ratioFix n d)
      bounded 0x3C 2 x (sgn neg (r.1 - r.2)) (r.1 + r.2)

/-- VSIGM. -/
def vsigm (x : BitVec 32) : BitVec 32 :=
  match dec32 x with
  | .nan => nan32
  | .inf neg => if neg then 0 else 0x3F800000
  | .fin neg n d =>
    let r := expRatio (-(ratioFix (sgn neg n) d))
    bounded 0x3D 2 x r.2 (r.1 + r.2)

/-- VRCP. -/
def vrcp (x : BitVec 32) : BitVec 32 :=
  match dec32 x with
  | .nan => nan32
  | .inf neg => sign32 neg 0
  | .fin neg n d => if n = 0 then inf32 neg else bounded 0x0A 1 x (sgn neg d) n

/-- VRSQRT. -/
def vrsqrt (x : BitVec 32) : BitVec 32 :=
  match dec32 x with
  | .nan => nan32
  | .inf neg => if neg then nan32 else 0
  | .fin neg n d =>
    if n = 0 then inf32 neg else if neg then nan32
    else match sqrtV (.fin false d n) with
      | .fin _ a b => bounded 0x0B 1 x a b
      | _ => nan32

/-- One output of VPHASE: what the unit answers where it lies within 2^-24 of the exact value, else the nearest word. -/
def boundedAbs (y : BitVec 32) (v : Int) : BitVec 32 :=
  match dec32 y with
  | .fin s n d => if ((sgn s n) * oneNat - v * d).natAbs * 2 ^ 24 ≤ oneNat * d then y else rne (ofRatio v oneNat)
  | _ => rne (ofRatio v oneNat)

/-- The cosine and sine of a phase (R146, R150). -/
def rotaryOf (phase : BitVec 64) : BitVec 32 × BitVec 32 :=
  if phase = 0 then (0x3F800000, 0)
  else
    let f := Config.rotary phase
    let e := cosSinFix phase
    (boundedAbs f.1 e.1, boundedAbs f.2 e.2)

/-! ### Reductions (R129) -/

/-- One level of the pairwise order: neighbours combined. -/
def pairUp {α : Type} (op : α → α → α) : List α → List α
  | a :: b :: r => op a b :: pairUp op r
  | l => l

/-- The fixed pairwise order over `2 ^ n` values. -/
def tree {α : Type} (op : α → α → α) (d : α) : Nat → List α → α
  | 0, l => l.headD d
  | n + 1, l => tree op d n (pairUp op l)

/-- A tree sum of FP32 values (64 with `n = 6`, 128 with `n = 7`). -/
def treeSum (n : Nat) (l : List (BitVec 32)) : BitVec 32 := tree fadd 0 n l

/-- The tree maximum of 64 FP32 values. -/
def treeMax (l : List (BitVec 32)) : BitVec 32 := tree fmax (inf32 true) 6 l

end Sys2Proof.Machine
end

