-- ==== Sys2Proof/Machine/Palette.lean ====
section
/-! DEFINITION. The two coefficient palettes (R293, R304, R316, R344, R383). -/

namespace Sys2Proof.Machine

/-! ### Entries (R304) -/

/-- The register that palette entry `k` holds, as a control-space address. -/
def palReg (k : Nat) : Option Nat :=
  if k < 0x13 then
    (if [0, 2, 3, 4, 5, 6, 7, 8, 9, 10, 11, 12].contains k then some (0x10_0000 + 4 * k) else none)
  else if 0x40 ≤ k ∧ k < 0x140 then some (0x10_0100 + 4 * (k - 0x40))
  else if 0x180 ≤ k ∧ k < 0x280 then
    let r := (k - 0x180) / 0x40
    let j := (k - 0x180) % 0x40
    if (3 ≤ j ∧ j ≤ 9) ∨ (j = 2 ∧ r ≠ 0) then some (aRail r (4 * j)) else none
  else if 0x284 ≤ k ∧ k ≤ 0x287 then some (0x13_0000 + 4 * (k - 0x280))
  else none

/-- The palette entry that holds the register at an address: the registers marked P. -/
def palOf (a : Nat) : Option Nat :=
  let k :=
    if 0x10_0000 ≤ a ∧ a < 0x10_0034 then (a - 0x10_0000) / 4
    else if 0x10_0100 ≤ a ∧ a < 0x10_0500 then 0x40 + (a - 0x10_0100) / 4
    else if 0x12_0000 ≤ a ∧ a < 0x12_0400 then 0x180 + 0x40 * ((a - 0x12_0000) / 0x100) + a % 0x100 / 4
    else if 0x13_0010 ≤ a ∧ a < 0x13_0020 then 0x280 + (a - 0x13_0000) / 4
    else 0x800
  match palReg k with
  | some b => if b = a then some k else none
  | none => none

/-- Reset values of the loop coefficients (R269, R304), from entry 0x144. -/
def coefResets : List Nat :=
  [0x3F000000, 0x3C23D70A, 0x42800000, 0x3A83126F, 0x40000000, 0x3D4CCCCD, 0x42800000, 0, 0x42800000, 0x3CA3D70A,
   0x42800000, 0, 0x3E800000, 0x3A83126F, 0x42800000, 0, 0x3F800000, 0x3D4CCCCD, 0x42800000, 0, 0, 0, 0x42800000, 0]

/-- The reset value of palette entry `k`. -/
def palReset (k : Nat) : BitVec 32 :=
  match palReg k with
  | some a => regReset a
  | none =>
    if 0x144 ≤ k ∧ k < 0x15C then BitVec.ofNat 32 (coefResets.getD (k - 0x144) 0)
    else if 0x180 ≤ k ∧ k < 0x280 then
      (match (k - 0x180) % 0x40 with
       | 0x10 => 0x3C75C28F
       | 0x11 => 0x40800000
       | 0x12 => 0x3A83126F
       | _ => 0)
    else if k = 0x290 then 0x43960000
    else if k = 0x291 then 0x41200000
    else 0

/-- The writable bits of palette entry `k`: none for a reserved entry or one without a register marked P. -/
def palMask (k : Nat) : Nat :=
  match palReg k with
  | some a => (match regAt a with | some r => r.rw | none => 0)
  | none =>
    if 0x144 ≤ k ∧ k < 0x15C then allBits
    else if 0x180 ≤ k ∧ k < 0x280 then (if 0x10 ≤ (k - 0x180) % 0x40 then allBits else 0)
    else if 0x290 ≤ k ∧ k < 0x380 then allBits
    else if 0x400 ≤ k ∧ k < 0x800 then allBits
    else 0

/-- Clamp bits `hi` down to `lo` of a word. -/
def clampF (v : BitVec 32) (hi lo a b : Nat) : BitVec 32 := setFld v hi lo (max a (min b (fld v hi lo)))

/-- The range of a rail in 0.5 mV (R328). -/
def railRange (r : Nat) : Nat × Nat :=
  match r with
  | 0 => (1100, 1700) | 1 => (1400, 1800) | 2 => (2100, 2400) | _ => (1600, 1900)

/-- The largest ILIM of a rail in A (R328). -/
def ilimMax (r : Nat) : Nat := if r = 2 then 40 else 60

/-- A written value after the clamps that the register tables state (R278, R284, R295, R328, R351, R384). -/
def palClamp (k : Nat) (v : BitVec 32) : BitVec 32 :=
  let v := v &&& BitVec.ofNat 32 (palMask k)
  if k = 0x3 then clampF v 7 0 60 105
  else if k = 0x4 then clampF v 22 16 10 120
  else if k = 0xB then clampF (clampF v 27 16 100 480) 11 0 100 2880
  else if 0x180 ≤ k ∧ k < 0x280 then
    let r := (k - 0x180) / 0x40
    match (k - 0x180) % 0x40 with
    | 2 => clampF v 11 0 (railRange r).1 (railRange r).2
    | 3 => clampF v 4 0 1 20
    | 5 => clampF v 23 16 0 (ilimMax r)
    | 7 => clampF v 15 8 10 80
    | _ => v
  else if k = 0x287 then clampF v 15 0 1 300
  else v

/-! ### Reading and writing -/

/-- An entry of the active palette, and of the inactive one. -/
def palAct (k : Nat) (s : State) : BitVec 32 := mapGet (palReset k) (if s.loop.palIsB then s.loop.palB else s.loop.palA) k
def palInact (k : Nat) (s : State) : BitVec 32 := mapGet (palReset k) (if s.loop.palIsB then s.loop.palA else s.loop.palB) k

/-- The entry that fixed-function readers latched at FRAC 0 (R316, R320). -/
def palFix (k : Nat) (s : State) : BitVec 32 := mapGet (palReset k) s.loop.latched k

/-- Bits `hi` down to `lo` of a latched entry. -/
def palF (k hi lo : Nat) (s : State) : Nat := fld (palFix k s) hi lo

/-- The key of an entry of palette A or B among the uncorrectable ones. -/
def palKey (isB : Bool) (k : Nat) : Nat := if isB then 4096 + k else k

/-- Whether an entry of the active palette is uncorrectable (R315). -/
def palBad (k : Nat) (s : State) : Bool := s.loop.palErr.contains (palKey s.loop.palIsB k)

/-- An entry stays uncorrectable until it is written (R315). -/
def palMend (isB : Bool) (k : Nat) (l : Loop) : Loop := { l with palErr := l.palErr.filter (fun e => decide (e ≠ palKey isB k)) }

/-- Store an entry of the inactive palette. -/
def setInact (k : Nat) (v : BitVec 32) (s : State) : State :=
  let l := palMend (!s.loop.palIsB) k s.loop
  { s with loop := if l.palIsB then { l with palA := mapSet (palReset k) l.palA k v }
                   else { l with palB := mapSet (palReset k) l.palB k v } }

/-- Store an entry of the active palette. -/
def setAct (k : Nat) (v : BitVec 32) (s : State) : State :=
  let l := palMend s.loop.palIsB k s.loop
  { s with loop := if l.palIsB then { l with palB := mapSet (palReset k) l.palB k v }
                   else { l with palA := mapSet (palReset k) l.palA k v } }

/-- Swap the palettes; the copy of R318 makes the new inactive palette equal to the new active one. -/
def palSwap (s : State) : State :=
  { s with loop := { s.loop with palIsB := !s.loop.palIsB, copying := true } }

/-- The uncorrectable entries after the copy of R318: the copy of such an entry is uncorrectable too (DESIGN CHOICE, log 27). -/
def palErrCopy (l : Loop) : List Nat :=
  let ks := (l.palErr.filter (fun e => decide (4096 ≤ e) == l.palIsB)).map (· % 4096)
  ks.map (palKey true) ++ ks.map (palKey false)

/-- The copy of R318: the inactive palette becomes the active one, except at the given entries. -/
def palCopy (keep : List Nat) (s : State) : State :=
  let l := { s.loop with palErr := palErrCopy s.loop }
  let act := if l.palIsB then l.palB else l.palA
  let old := keep.map (fun k => (k, palInact k s))
  let s := { s with loop := if l.palIsB then { l with palA := act } else { l with palB := act } }
  forAll old (fun e s => setInact e.1 e.2 s) s

/-- Bits `hi` down to `lo` of an entry of the active palette, as the loop program reads it: with direct writes at once (R320). -/
def palA (k hi lo : Nat) (s : State) : Nat := fld (palAct k s) hi lo

/-- FP32 value of a palette entry as the loop program reads it. -/
def palRat (k : Nat) (s : State) : Rat := ratOf32 (palAct k s)

/-- GOV.CTRL's role bits at cold reset (R296): in the card and companion roles ENV_EN, HB_EN and PACK_EN are 0. -/
def palRole (s : State) : State :=
  if isModule s then s
  else setInact 0 8 (setAct 0 8 { s with loop := { s.loop with latched := mapSet (palReset 0) s.loop.latched 0 8 } })

/-- Entries that a write of the program is masked by: PACK_EN reads 0 and ignores writes outside the module role (R296). -/
def palWritten (k : Nat) (v : BitVec 32) (s : State) : BitVec 32 :=
  let v := palClamp k v
  if k = 0 ∧ !isModule s then setBit v 2 false else v

/-! ### Values of the Governor's fields, with the values that act as others -/

/-- f50 of an operating point (R266). -/
def f50 (op : Nat) : Nat :=
  match op with
  | 7 => 32 | 6 => 29 | 5 => 26 | 4 => 23 | 3 => 20 | 2 => 17 | 1 => 14 | _ => 11

/-- VCORE level of an operating point in 0.5 mV (chapter 0, "Operating points"). -/
def opVcore (op : Nat) : Nat :=
  match op with
  | 7 => 1600 | 6 => 1520 | 5 => 1440 | 4 => 1360 | 3 => 1300 | 2 => 1240 | 1 => 1180 | _ => 1120

/-- GOV.CTRL enables (R296). -/
def envEn (s : State) : Bool := (palFix 0 s).getLsbD 0
def hbEn (s : State) : Bool := (palFix 0 s).getLsbD 1
def packEn (s : State) : Bool := (palFix 0 s).getLsbD 2 && isModule s
def washEn (s : State) : Bool := (palFix 0 s).getLsbD 3

end Sys2Proof.Machine
end

