-- ==== Sys2Proof/Machine/Rails.lean ====
section
/-! DEFINITION. The four rails: phases, the stroke voltage loop, targets, states, limits, shedding, burst, retention and fault
records (R328 to R352). -/

namespace Sys2Proof.Machine

/-! ### Rails and phases -/

/-- Change rail `r`. -/
def updRail (r : Nat) (f : Rail → Rail) (s : State) : State :=
  { s with rails := { s.rails with rail := mapUpd Rail.zero s.rails.rail r f } }

/-- The first phase of a rail and how many it has (R328). -/
def phaseBase (r : Nat) : Nat := match r with | 0 => 0 | 1 => 48 | 2 => 54 | _ => 60
def phaseCount (r : Nat) : Nat := match r with | 0 => 48 | 1 => 6 | 2 => 6 | _ => 4

/-- The rail of a phase. -/
def railOfPhase (ph : Nat) : Nat := if ph < 48 then 0 else if ph < 54 then 1 else if ph < 60 then 2 else 3

/-- The phases of a rail, rising. -/
def phasesOf (r : Nat) : List Nat := (List.range (phaseCount r)).map (phaseBase r + ·)

/-- The healthy phases of a rail, and the active ones. -/
def healthyOf (r : Nat) (s : State) : List Nat := (phasesOf r).filter (fun i => !s.rails.phFault.getLsbD i)
def activeOf (r : Nat) (s : State) : List Nat := (phasesOf r).filter (fun i => s.rails.phActive.getLsbD i)

/-- Make exactly these phases of a rail active; the others go to mid level (R329). -/
def setActive (r : Nat) (l : List Nat) (s : State) : State :=
  { s with rails := { s.rails with
      phActive := (phasesOf r).foldl (fun m i => setBit m i (l.contains i)) s.rails.phActive
      level := (phasesOf r).foldl (fun m i => if l.contains i then m else mapErase m i) s.rails.level } }

/-- The latched value of a palette register of a rail: bits `hi` down to `lo` of the register at offset 4j. -/
def railP (r j hi lo : Nat) (s : State) : Nat := palF (0x180 + 0x40 * r + j) hi lo s

/-- ILIM in 1/256 mA (0 acts as 1), BAND in 1/256 mA (0 acts as 1). -/
def ilimOf (r : Nat) (s : State) : Int := (max 1 (railP r 5 23 16 s) : Nat) * 256000
def bandOf (r : Nat) (s : State) : Int := (max 1 (railP r 5 7 0 s) : Nat) * 64000

/-- UV and OV in 1/64 mV; values below 10 mV act as 10. -/
def uvOf (r : Nat) (s : State) : Int := (max 10 (railP r 6 7 0 s) : Nat) * 64
def ovOf (r : Nat) (s : State) : Int := (max 10 (railP r 6 15 8 s) : Nat) * 64

/-- SLEW in 1/64 mV per stroke: 1 mV/µs is 8/64 mV. -/
def slewOf (r : Nat) (s : State) : Int := (railP r 3 4 0 s : Nat) * 8

/-- The rail enable: RAIL.CTRL.EN. -/
def railEn (r : Nat) (s : State) : Bool := regIs (aRail r 0) 0 s

/-- The target of a rail with its trim, clamped to its range, in 1/64 mV (R279, R328, R344). -/
def targetOf (r : Nat) (s : State) : Int :=
  let base : Nat := if r = 0 then opVcore s.gov.opTgt.toNat else railP r 2 11 0 s
  clampI ((railRange r).1 * 32 : Nat) ((railRange r).2 * 32 : Nat) ((base * 32 : Nat) + (railAt r s).trim)

/-- The retention level of a rail in 1/64 mV; 0 is off. VSRAM and VDRAM stay at their targets while RETAIN holds its reset value, which
R328 gives as the unchanged target (DESIGN CHOICE, log 23). -/
def retainOf (r : Nat) (s : State) : Int :=
  let v := railP r 9 11 0 s
  if (r = 1 ∨ r = 2) ∧ v = railTarget r then targetOf r s else (v * 32 : Nat)

/-! ### States (R335, R336, R343) -/

/-- Whether the package drives its phase outputs: not SLOT 1 of the companion role (R349), and not in the safe role (R11, R430). -/
def drivesRails (s : State) : Bool := !isSlot1 s && !s.rst.safe

/-- A rail goes to OFF, WAIT or LATCHED: every phase at mid level. -/
def railDown (r : Nat) (st : BitVec 3) (s : State) : State :=
  let was := (railAt r s).st
  let s := setActive r [] (updRail r (fun x =>
    { x with st := st, acc := 0, iPh := 0, iTotal := 0, burst := false, asleep := false, uv := 0, ov := 0 }) s)
  if r = 2 && (was == 2 || was == 3 || was == 1) then vaultsLost s else s

/-- Switch the rails off in reverse order, one per beat, the first in beat `n` or later (R336). -/
def switchOff (n : Nat) (s : State) : State :=
  { s with rails := { s.rails with offSeq := true, offAt := n, start := false, retain := false } }

/-- Start the sequence of R336. -/
def startRails (s : State) : State := { s with rails := { s.rails with start := true, offSeq := false } }

/-- Retention (R343): the vaults enter self-refresh first; every rail that is on moves to its RETAIN level at 20 mV/µs, and a RETAIN
of 0 switches off. -/
def retention (s : State) : State :=
  let s := selfRefreshOn s
  let s := { s with rails := { s.rails with retain := true, start := false } }
  forAll [0, 1, 2, 3] (fun r s =>
    let x := railAt r s
    if x.st == 1 || x.st == 2 then
      (if retainOf r s = 0 then railDown r 0 s
       else updRail r (fun x => { x with st := 3, tgt := retainOf r s }) s)
    else s) s

/-- The vaults leave self-refresh, unless a VAUX warning stands (R175). -/
def selfRefreshOff (s : State) : State := if s.rst.vauxWarn then s else { s with selfRefresh := false }

/-- The rails leave retention: each goes back to its target at a later beat boundary, in the order of R336, and one that was switched off
soft-starts (R343). -/
def leaveRetention (s : State) : State := startRails (selfRefreshOff { s with rails := { s.rails with retain := false } })

/-- Whether every enabled rail before rail `r` has entered REG before the beat that now begins (R336). -/
def predecessors (r : Nat) (s : State) : Bool :=
  (List.range r).all (fun q => !railEn q s || ((railAt q s).st == 2 && decide ((railAt q s).regAt < s.tick)))

/-- Whether a rail may enter SOFT at a beat boundary (R336): the package drives rails, the rail is OFF with EN, the rails before it have
entered REG, no trip or coolant stop stands, and no rail is LATCHED, which keeps every rail off (R339). -/
def maySoft (r : Nat) (s : State) : Bool :=
  drivesRails s && (railAt r s).st == 0 && railEn r s && s.rails.start && !s.rails.offSeq && !s.rails.retain &&
    !regIs aGovStatus 8 s && !regIs aGovStatus 9 s &&
    [0, 1, 2, 3].all (fun q => (railAt q s).st != 5) && predecessors r s

/-! ### Fault records (R346 to R348) -/

/-- Flash addresses of the two fault-record slots. -/
def aFrec (k : Nat) : Nat := 0x3FF_E000 + 0x1000 * k

/-- One above the newest valid record of two slots (R346, R381); the first record is numbered 0 (DEDUCED, log 23). -/
def nextSlotSeq (a b : List Byte) : BitVec 32 :=
  match newestSlot a b with
  | some 0 => slotSeq a + 1
  | some _ => slotSeq b + 1
  | none => 0

/-- The slot that does not hold the newest valid record (R347). -/
def otherSlot (a b : List Byte) : Nat := match newestSlot a b with | some 0 => 1 | _ => 0

/-- The 16 bytes of one rail in a snapshot. -/
def snapRail (s : State) (r : Nat) : List Byte :=
  let x := railAt r s
  leBytes 2 (x.ref / 32).toNat ++ leBytes 2 (x.vSense / 32).toNat ++ leBytes 2 (x.iSum / 1000).toNat ++
    [x.st.setWidth 8, BitVec.ofNat 8 (activeOf r s).length] ++
    leBytes 4 (ofRat32 (mkRat x.acc 256000)).toNat ++ leBytes 4 0

/-- The 256-byte snapshot of R346, before its SEQ, LOST and CRC are set for a write. -/
def snapshot (code rails phase left seq lost : Nat) (s : State) : List Byte :=
  let low := (List.range 4).find? (fun r => (BitVec.ofNat 4 rails).getLsbD r)
  let tr := (railAt (low.getD (railOfPhase phase)) s).trace
  let trace := ((tr.take 32).reverse).flatMap (fun v => leBytes 2 (v / 32).toNat)
  let body := leBytes 4 seq ++ leBytes 8 (now s).toNat ++
    [BitVec.ofNat 8 code, BitVec.ofNat 8 rails, BitVec.ofNat 8 phase, BitVec.ofNat 8 left] ++ leBytes 4 lost ++
    leBytes 2 (pkgId s).toNat ++ [BitVec.ofNat 8 (s.gov.opTgt.toNat * 16 + s.gov.opNow.toNat), 0] ++
    leBytes 2 (s.gov.power / 64000000).toNat ++ leBytes 2 s.rails.busV ++ leBytes 2 (BitVec.ofInt 16 s.gov.hot).toNat ++
    leBytes 2 s.gov.lam ++ (List.range 4).flatMap (snapRail s) ++ leBytes 8 s.rails.phFault.toNat ++
    leBytes 8 s.rails.phActive.toNat ++ padTo 64 (List.replicate (64 - trace.length) 0 ++ trace)
  withCrc (padTo 252 body)

/-- Start writing a record to flash: its SEQ, its LOST count and its CRC are of this moment. -/
def startFrec (bs : List Byte) (s : State) : State :=
  let seq := nextSlotSeq (flashRead (aFrec 0) 256 s) (flashRead (aFrec 1) 256 s)
  let body := leBytes 4 seq.toNat ++ (bs.drop 4).take 12 ++ leBytes 4 s.rails.frecLost.toNat ++ (bs.drop 20).take 232
  { s with rails := { s.rails with writing := some (withCrc body), waiting := none, frecLost := 0 } }

/-- Whether a write of a fault record or of a capacity record holds the flash (R347, R381). -/
def flashBusy (s : State) : Bool := s.rails.writing.isSome || (s.pack.capStarted && s.pack.capWrite.isSome)

/-- The next write that waits for the flash begins, unless writes are deferred (R25, R347, R348). -/
def flashNext (s : State) : State :=
  if flashBusy s || s.nvDeferred then s
  else match s.rails.waiting with
    | some w => startFrec w s
    | none => { s with pack := { s.pack with capStarted := s.pack.capWrite.isSome } }

/-- Capture a snapshot (R346, R348): it shows at once, and is written, or waits, replacing one that waits. -/
def capture (bs : List Byte) (s : State) : State :=
  flashNext { s with rails := { s.rails with
    frec := bs, frecSrc := false, waiting := some bs,
    frecLost := if s.rails.waiting.isSome then s.rails.frecLost + 1 else s.rails.frecLost } }

/-- The writer finishes (R347): the slot holds the record, and what waits for the flash goes next. -/
def execFrecWriteDone (s : State) : Res :=
  match s.rails.writing with
  | none => .next s
  | some bs =>
    let k := otherSlot (flashRead (aFrec 0) 256 s) (flashRead (aFrec 1) 256 s)
    let s := flashSector (aFrec k) bs s
    .next (flashNext { s with rails := { s.rails with writing := none } })

/-- A reset that interrupts the writer leaves its slot torn (R347): erased, so that it is not valid. -/
def tearFrec (s : State) : State :=
  if s.rails.writing.isSome then
    flashSector (aFrec (otherSlot (flashRead (aFrec 0) 256 s) (flashRead (aFrec 1) 256 s))) (List.replicate 256 0xFF) s
  else s

/-! ### Rail faults (R338) -/

/-- SEQ that a snapshot shows. -/
def frecSeq (s : State) : Nat := (nextSlotSeq (flashRead (aFrec 0) 256 s) (flashRead (aFrec 1) 256 s)).toNat

/-- The rails of a list fault with their codes (R338): mid level, WAIT or LATCHED, the others switch off, the snapshot and its
event, and a job fault for every job on the package. -/
def railFaults (l : List (Nat × Nat)) (phase : Nat) (s : State) : State :=
  match l with
  | [] => s
  | (r0, c0) :: _ =>
    let mask := l.foldl (fun m e => m + 2 ^ e.1) 0
    let dec (e : Nat × Nat) (x : Rail) : BitVec 4 := if e.2 ≠ 4 && x.left ≠ 0 then x.left - 1 else x.left
    let bs := snapshot c0 mask phase (dec (r0, c0) (railAt r0 s)).toNat (frecSeq s) s.rails.frecLost.toNat s
    let rec80 := mkReport 0x80 oGov (BitVec.ofNat 32 c0) (bs.take 176) s
    let s := report 0x80 oGov (BitVec.ofNat 32 c0) (bs.take 176) (capture bs s)
    let s := { s with rails := { s.rails with faulted := true } }
    let s := forAll l (fun e s =>
      let x := railAt e.1 s
      let wait := e.2 ≠ 4 && x.left ≠ 0
      let s := railDown e.1 (if wait then 4 else 5) s
      countReg (aRail e.1 0x30) 1
        (updRail e.1 (fun x => { x with left := dec e x, lastFault := BitVec.ofNat 4 e.2, waitAt := s.tick }) s)) s
    everyJobFault 0x80 (some rec80) (switchOff (s.tick + 1) s)

/-! ### The stroke (R331 to R334, R337, R340 to R342) -/

/-- The reference in SOFT at stroke `j` after the entry (R337): on a straight line that reaches the target at n + 2,000, rounded down to
1/64 mV; a new target starts a new line from the present reference. After n + 2,000 it follows a new target at SLEW. -/
def softRef (j : Nat) (slew : Int) (x : Rail) : Rail :=
  let x := if x.tgt = x.softTgt then x else { x with lineAt := j - 1, softFrom := x.ref, softTgt := x.tgt }
  if j < 16000 then
    { x with ref := x.softFrom + (x.softTgt - x.softFrom) * ((j - x.lineAt : Nat) : Int) / ((16000 - x.lineAt : Nat) : Int) }
  else if x.lineAt < 16000 then { x with ref := x.softTgt }
  else { x with ref := x.ref + clampI (-slew) slew (x.softTgt - x.ref) }

/-- The reference steps towards its target (R333, R337); retention moves at 20 mV/µs (R343). -/
def stepRef (r k : Nat) (s : State) (x : Rail) : Rail :=
  if x.st == 1 then softRef (8 * (s.tick - x.softAt) + k) (slewOf r s) x
  else
    let d := if x.st == 3 then 160 else slewOf r s
    { x with ref := x.ref + clampI (-d) d (x.tgt - x.ref) }

/-- The voltage loop of R331 up to i_total, with feed-forward at stroke 0. -/
def loopStep (r k : Nat) (s : State) (x : Rail) : Rail :=
  let h : Int := ((healthyOf r s).length : Nat)
  let kp : Int := (railP r 4 31 16 s : Nat)
  let ki : Int := (railP r 4 15 0 s : Nat)
  let x := stepRef r k s x
  let e := x.ref - x.vSense
  let acc := clampI (-(h * ilimOf r s)) (h * ilimOf r s) (x.acc + ki * e * 4)
  let ff := if k = 0 && r = 0 && x.st != 1 then s.gov.dff else 0
  let acc := acc + ff
  { x with err := e, acc := acc, iTotal := acc + kp * e * 4, dff := ff }

/-- The common current command (R331) for `n` active phases; an upper bound of ILIM (R330), and in SOFT no sinking current (R337). -/
def phaseCmd (r n : Nat) (s : State) (x : Rail) : Rail :=
  let lo := if x.st == 1 then 0 else -(bandOf r s)
  { x with iPh := if n = 0 || x.asleep then 0 else clampI lo (ilimOf r s) (x.iTotal / (n : Nat)) }

/-- Make at least `n` phases of a rail active: healthy ones in increasing phase number beside those that are (R341). -/
def addTo (r n : Nat) (s : State) : State :=
  let on := activeOf r s
  let more := ((healthyOf r s).filter (fun i => !on.contains i)).take (n - on.length)
  setActive r (on ++ more) s

/-- Phases that a stroke adds on its own (R341): until the quotient is at most 80 % of ILIM, or all are active. -/
def addPhases (r : Nat) (s : State) : State :=
  let x := railAt r s
  let h := (healthyOf r s).length
  let need := (List.range h).find? (fun n => decide (x.iTotal * 100 ≤ 80 * ilimOf r s * ((n + 1 : Nat) : Int)))
  if x.st == 2 || x.st == 3 then addTo r ((need.map (· + 1)).getD h) s else s

/-- Burst mode (R342). -/
def burstStep (r : Nat) (s : State) (x : Rail) : Rail :=
  let bb : Int := (railP r 7 23 16 s * 64 : Nat)
  let stop := !x.reqBurst || decide (x.reqPhases > 1) || (decide (r = 0) && decide (s.gov.dff > 0)) || decide (x.vSense < x.tgt - 2 * bb)
  let may := (x.st == 2 || x.st == 3) && decide ((activeOf r s).length = 1)
  if stop || !may then { x with burst := false, asleep := false }
  else
    let sleeps := if x.asleep then decide (x.vSense > x.tgt - bb) else decide (x.vSense ≥ x.tgt + bb)
    { x with burst := true, asleep := sleeps }

/-- Absolute overvoltage in 1/64 mV (R340). -/
def absOv (r : Nat) : Int := match r with | 0 => 60800 | 1 => 64000 | 2 => 83200 | _ => 67200

/-- The voltage limits at a stroke (R340): the counters, and the code of a fault. -/
def limitStep (r : Nat) (s : State) (x : Rail) : Rail × Option Nat :=
  let uv := if (x.st == 2 || x.st == 3) && decide (x.vSense < x.ref - uvOf r s) then x.uv + 1 else 0
  let ov := if x.st != 0 && decide (x.vSense > x.ref + ovOf r s) then x.ov + 1 else 0
  let x := { x with uv := uv, ov := ov }
  if ov ≥ 2 || decide (x.vSense > absOv r) then (x, some 4)
  else if uv ≥ 8 then (x, some 3)
  else (x, none)

/-- The level of an active phase that senses `cur` (R329): high below the band, low above it, between the two as it was. In SOFT a phase
that would be low without a current to carry goes to mid level, so that it sinks none (R337). -/
def phaseLevel (band cur : Int) (x : Rail) (was : BitVec 2) : BitVec 2 :=
  let l := if cur < x.iPh - band then 2 else if x.iPh + band < cur then 1 else was
  if x.st == 1 && l == 1 && decide (cur ≤ 0) then 0 else l

/-- The phase outputs of a rail follow the currents that its phases sense, in mA. -/
def drivePhases (r : Nat) (ph : List Int) (s : State) : State :=
  let x := railAt r s
  { s with rails := { s.rails with level := (activeOf r s).foldl (fun m i =>
      mapSet 0 m i (if x.asleep then 0 else phaseLevel (bandOf r s) (ph.getD i 0 * 256) x (mapGet 0 m i))) s.rails.level } }

/-- The sum of the currents that the phases of a rail sense, in mA. -/
def phaseSum (r : Nat) (ph : List Int) : Int := (phasesOf r).foldl (fun a i => a + ph.getD i 0) 0

/-- One rail at a stroke edge: the loop, the phases it needs, burst mode, the command and the outputs; then its limits. -/
def railStroke (k r : Nat) (v : Int) (ph : List Int) (s : State) : State × Option Nat :=
  let s := updRail r (fun x => { x with vSense := v, iSum := phaseSum r ph, dff := 0 }) s
  let x := railAt r s
  let s :=
    if x.st == 1 || x.st == 2 || x.st == 3 then
      let s := addPhases r (updRail r (loopStep r k s) s)
      drivePhases r ph (updRail r (fun x => phaseCmd r (activeOf r s).length s (burstStep r s x)) s)
    else s
  let q := limitStep r s (railAt r s)
  (updRail r (fun _ => q.1) s, q.2)

/-- A stroke joins the voltages that a later fault record traces (R346). -/
def traced (r : Nat) (s : State) : State := updRail r (fun x => { x with trace := x.vSense :: x.trace.take 31 }) s

/-- The strokes of all four rails, and their faults together. SLOT 1 regulates none (R349). -/
def strokeRails (k : Nat) (inp : StrokeInputs) (s : State) : State :=
  let s := { s with rails := { s.rails with busV := inp.busV } }
  if isSlot1 s then s
  else
    let q := [0, 1, 2, 3].foldl (fun (q : State × List (Nat × Nat)) r =>
      let p := railStroke k r (railsGet inp.v r) inp.ph q.1
      (p.1, match p.2 with | some c => q.2 ++ [(r, c)] | none => q.2)) (s, [])
    forAll [0, 1, 2, 3] traced (railFaults q.2 0xFF q.1)

/-! ### Soft start, retry and switch-off (R336, R337, R339) -/

/-- Entry into SOFT at a beat boundary, from the sensed voltage `v` in 1/64 mV. -/
def execRailSoftStart (r : RailId) (v : Nat) (s : State) : Res :=
  let r := r.toNat
  if maySoft r s && decide (s.frac = 0) then
    .next (setActive r (healthyOf r s) (updRail r (fun x =>
      { x with st := 1, ref := v, vSense := v, tgt := targetOf r s, acc := 0, softAt := s.tick, lineAt := 0, softFrom := v,
               softTgt := targetOf r s }) s))
  else .next s

/-- The check at n + 1,500 (R337) on the FRAC 0 latch: a short is a voltage below 40 % of the target with every active phase at ILIM. -/
def execShortCheck (r : RailId) (s : State) : Res :=
  let r := r.toNat
  let x := railAt r s
  if x.st == 1 && decide (s.tick = x.softAt + 1500) && decide (railsGet s.gov.railV r * 100 < 40 * x.tgt) &&
      decide (x.iPh = ilimOf r s) then
    .next (railFaults [(r, 1)] 0xFF s)
  else .next s

/-- Whether a rail lies within its UV window (R340). -/
def inWindow (r : Nat) (s : State) : Bool :=
  let x := railAt r s
  decide (x.ref - uvOf r s ≤ x.vSense) && decide (x.vSense ≤ x.ref + ovOf r s)

/-- A rail enters REG. -/
def enterReg (r : Nat) (s : State) : State := updRail r (fun x => { x with st := 2, regAt := s.tick }) s

/-- From n + 2,000 a rail within its window enters REG (R337). -/
def execSoftStartEnd (r : RailId) (s : State) : Res :=
  let r := r.toNat
  let x := railAt r s
  .next (if x.st == 1 && decide (x.softAt + 2000 ≤ s.tick) && inWindow r s then enterReg r s else s)

/-- At n + 2,500 a rail in SOFT that is not within its window has failed; one that is enters REG (R337). -/
def execSoftStartTimeout (r : RailId) (s : State) : Res :=
  let r := r.toNat
  let x := railAt r s
  .next (if x.st == 1 && decide (x.softAt + 2500 ≤ s.tick) then
      (if inWindow r s then enterReg r s else railFaults [(r, 2)] 0xFF s)
    else s)

/-- The delay of a rail in WAIT, in beats; 0 acts as 1 (R339). -/
def retryBeats (r : Nat) (s : State) : Nat := max 1 (railP r 8 15 8 s) * 10000

/-- A rail in WAIT restarts the sequence from VCORE (R339). -/
def execRailRetry (r : RailId) (s : State) : Res :=
  let r := r.toNat
  let x := railAt r s
  if x.st == 4 && decide (x.waitAt + retryBeats r s ≤ s.tick) then
    .next (startRails (updRail r (fun x => { x with st := 0 }) s))
  else .next s

/-- COUNT_LEFT reloads after 10 s in REG (R339). -/
def execCountLeftReload (r : RailId) (s : State) : Res :=
  let r := r.toNat
  let x := railAt r s
  if x.st == 2 && decide (x.regAt + 10000000 ≤ s.tick) then
    .next (updRail r (fun x => { x with left := BitVec.ofNat 4 (railP r 8 3 0 s) }) s)
  else .next s

/-- The rails that are on, the last of the sequence first. -/
def railsOn (s : State) : List Nat := [3, 2, 1, 0].filter (fun r => let st := (railAt r s).st; st == 1 || st == 2 || st == 3)

/-- One beat of a switch-off: the last rail that is on goes to OFF (R336). -/
def execRailSwitchOff (s : State) : Res :=
  if s.rails.offSeq && decide (s.rails.offAt ≤ s.tick) then
    match railsOn s with
    | r :: rest =>
      let s := railDown r 0 s
      .next { s with rails := { s.rails with offSeq := !rest.isEmpty, offAt := s.tick + 1 } }
    | [] => .next { s with rails := { s.rails with offSeq := false } }
  else .next s

/-- RAIL.CTRL.CLEAR in LATCHED or WAIT: COUNT_LEFT reloads and the sequence starts (R339, R352). -/
def railClear (r : Nat) (s : State) : State :=
  let st := (railAt r s).st
  if st == 4 || st == 5 then
    startRails (updRail r (fun x => { x with st := 0, left := BitVec.ofNat 4 (railP r 8 3 0 s) }) s)
  else s

/-- RAIL.CTRL.EN: 0 is OFF, but a LATCHED rail stays as it is (R339); 0 to 1 lets the rail start after its predecessor (R335, R336). A
package that drives no rails keeps EN at 0 (R352, R430). -/
def railEnSet (r : Nat) (en : Bool) (s : State) : State :=
  let was := railEn r s
  if !drivesRails s || was = en then s
  else
    let s := regBit (aRail r 0) 0 en s
    if en then { s with rails := { s.rails with start := s.rails.start || !s.rails.offSeq } }
    else if (railAt r s).st == 5 then s
    else railDown r 0 s

/-! ### Phase faults (R330) -/

/-- A phase, active or not, senses more than 1.5 × ILIM: it is marked and goes to mid level; with fewer than half of the rail's phases
healthy it is a rail fault too. -/
def execPhaseFault (ph : BitVec 6) (mA : Nat) (s : State) : Res :=
  let i := ph.toNat
  let r := railOfPhase i
  if !isSlot1 s && !s.rails.phFault.getLsbD i && decide (3 * ilimOf r s < 2 * ((mA * 256 : Nat) : Int)) then
    let h := (healthyOf r s).length - 1
    let s := { s with rails := { s.rails with phFault := setBit s.rails.phFault i true } }
    if 2 * h < phaseCount r then .next (railFaults [(r, 5)] i s)
    else
      let bs := snapshot 5 0 i (railAt r s).left.toNat (frecSeq s) s.rails.frecLost.toNat s
      let s := report 0x81 oGov 5 (bs.take 176) (capture bs s)
      .next (setActive r ((activeOf r s).filter (· ≠ i)) s)
  else .next s

/-- RAIL.PH_FAULT: a 1 returns the phase to regulation (R351); in SOFT every healthy phase is active (R341). -/
def phFaultClear (hi : Bool) (v : BitVec 32) (s : State) : State :=
  let m := if hi then join64 v 0 else join64 0 v
  let s := { s with rails := { s.rails with phFault := s.rails.phFault &&& ~~~m } }
  forAll [0, 1, 2, 3] (fun r s => if (railAt r s).st == 1 then setActive r (healthyOf r s) s else s) s

/-! ### The beat boundary (R333, R334, R341) -/

/-- A rail in retention that has left it goes back to its target, in the order of R336 (R343). -/
def leaveRet (r : Nat) (s : State) : State :=
  if (railAt r s).st == 3 && !s.rails.retain && !s.rails.offSeq && predecessors r s then
    updRail r (fun x => { x with tgt := targetOf r s }) (enterReg r s)
  else s

/-- The phases at a beat boundary (R341): a request that rose adds phases at once, and at most one phase is removed. -/
def shedPhases (r : Nat) (s : State) : State :=
  let x := railAt r s
  let h := (healthyOf r s).length
  let n := (activeOf r s).length
  let req := max 1 (min h x.reqPhases)
  if n < req then addTo r req s
  else if req < n && !(decide (r = 0) && decide (s.gov.dff > 0)) &&
      decide (x.iTotal * 100 ≤ 50 * ilimOf r s * ((n - 1 : Nat) : Int)) then
    setActive r ((activeOf r s).take (n - 1)) s
  else s

/-- At FRAC 0 the outer loop's outputs and new targets take effect. -/
def railBeat (r : Nat) (iAvg : Int) (s : State) : State :=
  let s := leaveRet r (updRail r (fun x =>
    { x with iAvg := iAvg, tgt := if x.st == 1 || x.st == 2 then targetOf r s else x.tgt }) s)
  let x := railAt r s
  if x.st == 2 || x.st == 3 then shedPhases r s else s

end Sys2Proof.Machine
end

