-- ==== Sys2Proof/Machine/Governor.lean ====
section
/-! DEFINITION. The Governor's fixed-function part: levels, halts, feathered releases, admissions under the slew budget, the
peak guard, burst mode, thermal and coolant stops, heartbeat and pack answers (R266 to R292, R461). -/

namespace Sys2Proof.Machine

/-! ### Clusters and releases (R282, R283) -/

/-- Causes of a halt, one bit each of `Gov.halt`. -/
def haltTrip : Nat := 0
def haltFlow : Nat := 1
def haltVaux : Nat := 2
def haltEject : Nat := 3
def haltBurst : Nat := 4
def haltReset : Nat := 5

/-- ORDER key of a cluster (R283). -/
def orderKey (c : Nat) (s : State) : Nat :=
  if palF 4 12 12 s = 1 then (List.range 6).foldl (fun a i => a + (c / 2 ^ i % 2) * 2 ^ (5 - i)) 0 else c

/-- Clusters in order of ORDER key: the bit reversal is its own inverse. -/
def inOrder (p : Nat → Bool) (s : State) : List Nat := ((List.range 64).map (fun k => orderKey k s)).filter p

/-- Whether a tile holds its cluster's admission: it runs or waits, not at a barrier (DEDUCED, log 26). -/
def holdsAdmission (x : Tile) : Bool := x.st == 1 || x.st == 2 || x.st == 4

/-- Clusters with a tile that satisfies a test. -/
def clustersWith (p : Tile → Bool) (s : State) : BitVec 64 :=
  s.tile.foldl (fun m e => if p e.2 then setBit m (clusterOf e.1) true else m) 0

/-- SPAN; values above 1,024 act as 1,024. -/
def spanOf (s : State) : Nat := min 1024 (palF 4 10 0 s)

/-- A feathered release of the clusters `cs` with release beat `r` (R282, R283), for a barrier group or the end of a halt. -/
def feather (r : Nat) (cs : BitVec 64) (g : Option Nat) (s : State) : State :=
  let l := inOrder (fun c => cs.getLsbD c) s
  let due := l.zipIdx.map (fun e => (r + e.2 * spanOf s / 64, BitVec.ofNat 6 e.1, g))
  { s with gov := { s.gov with due := s.gov.due ++ due,
                               held := if g.isNone then s.gov.held ||| (cs &&& ~~~s.gov.admitted) else s.gov.held } }

/-! ### Halts (R80) -/

/-- Every cluster halts for a cause: nothing is admitted and no wash runs, which GOV.STATUS.WASH shows (R289, R297). -/
def haltFor (cause : Nat) (s : State) : State :=
  let due := s.gov.due.filter (fun e => e.2.2.isSome)
  regBit aGovStatus 2 false
    { s with gov := { s.gov with halt := setBit s.gov.halt cause true, admitted := 0, wash := 0, held := 0, due := due } }

/-- A cause ends; when it was the last, the clusters that hold work are released: feathered for the causes of R282, else
admitted as launched clusters are (DEDUCED, log 26). -/
def endHalt (cause r : Nat) (s : State) : State :=
  if !s.gov.halt.getLsbD cause then s
  else
    let s := { s with gov := { s.gov with halt := setBit s.gov.halt cause false, haltEnded := s.gov.haltEnded || decide (s.tick < r) } }
    let cs := clustersWith holdsAdmission s
    if s.gov.halt ≠ 0 then s
    else if cause = haltTrip ∨ cause = haltFlow ∨ cause = haltBurst then feather r cs none s
    else { s with gov := { s.gov with launched := s.gov.launched ||| cs } }

/-! ### Barrier release (R72) -/

/-- A package releases a held group at beat `r`: its waiting members feel a feathered wait until their cluster is released. -/
def releaseGroup (k r : Nat) (s : State) : State :=
  let g := mapGet Group.zero s.group k
  if !g.held then s
  else
    let ts := (tilesIn s).filter (fun t => g.tiles.getLsbD t && (tileAt t s).st == 3)
    let cs : BitVec 64 := ts.foldl (fun m t => setBit m (clusterOf t) true) 0
    let s := { s with group := mapUpd Group.zero s.group k (fun g => { g with held := false, arrived := 0, sent := false, pkgs := [] }) }
    feather r cs (some k) (forAll ts (fun t s => updTile t (fun x => { x with st := 6 }) s) s)

/-- The members of group `k` in cluster `c` that wait for their release go on. -/
def resumeMembers (k c : Nat) (s : State) : State :=
  let g := mapGet Group.zero s.group k
  let ts := (tilesIn s).filter (fun t => g.tiles.getLsbD t && (tileAt t s).st == 6 && clusterOf t == c)
  forAll ts resume s

/-! ### Levels (R266 to R268, R276) -/

/-- Lowest operating point that delivers a level (R267). -/
def opFor (lam : Nat) : Nat := ((List.range 8).find? (fun op => decide (max lam 11 ≤ 64 * f50 op))).getD 7

/-- The preferred level of a palette point (R268); L below 4 acts as 4, above 256 as 256. -/
def pointLevel (v : BitVec 32) : Nat := f50 (fld v 18 16) * max 4 (min 256 (fld v 8 0)) / 4

/-- Whether a partition is active (R268). -/
def partActive (p : Nat) (s : State) : Bool :=
  s.tile.any (fun e => e.2.assigned && e.2.part.toNat == p && decide (1 ≤ e.2.st.toNat) && decide (e.2.st.toNat ≤ 6))

/-- Latch the tags and form the preferred levels (R70, R268). -/
def latchTags (s : State) : State :=
  let s := { s with part := s.part.map (fun e => (e.1, { e.2 with latched := e.2.tag })) }
  let act := (List.range 16).filter (fun p => partActive p s)
  let lp := act.map (fun p => (p, pointLevel (palFix (0x40 + 16 * p + (partAt p s).latched.toNat) s)))
  let pref := lp.foldl (fun m e => max m e.2) 0
  { s with gov := { s.gov with lamPart := lp, lamPref := if act.isEmpty then 64 * f50 (palF 0 10 8 s) else pref } }

/-- The cluster level of R268. -/
def lamOf (c : Nat) (s : State) : Nat :=
  let ps := (s.tile.filter (fun e => e.2.assigned && clusterOf e.1 == c)).map (fun e => e.2.part.toNat)
  let l := s.gov.lamPart.filter (fun e => ps.contains e.1)
  if l.isEmpty then s.gov.lamPref else l.foldl (fun m e => max m e.2) 0

/-- The issue limit that the level asks of a cluster (R267, R276). -/
def limitFor (c : Nat) (s : State) : Nat :=
  let f := f50 s.gov.opNow.toNat
  if s.gov.burst.isSome || s.gov.partnerHold then 4
  else max 4 (min 256 ((4 * min s.gov.lam (lamOf c s) + f - 1) / f))

/-- A burst period begins at beat `n` (R276). -/
def burstStart (n : Nat) (s : State) : State :=
  let run := 1024 * s.gov.lam / 11
  let s := { s with gov := { s.gov with burst := some (n, run) } }
  if run = 0 then haltFor haltBurst s else endHalt haltBurst n s

/-- Burst mode at beat `n` (R276): periods, run beats, and its end. A level of 0 within the run beats halts while it lasts (R267). -/
def burstBeat (n : Nat) (s : State) : State :=
  if 11 ≤ s.gov.lam then
    endHalt haltBurst n { s with gov := { s.gov with burst := none } }
  else
    let s := match s.gov.burst with
      | none => burstStart n s
      | some (b, _) => if b + 1024 ≤ n then burstStart n s else s
    match s.gov.burst with
    | some (b, run) =>
      if s.gov.lam = 0 || decide (b + run ≤ n) then (if s.gov.halt.getLsbD haltBurst then s else haltFor haltBurst s)
      else endHalt haltBurst n s
    | none => s

/-! ### Operating point (R279) -/

/-- The clock switches up at the boundary after a latch that showed VCORE within 2.5 mV of its target. -/
def clockUp (s : State) : State :=
  if s.gov.upReady then { s with gov := { s.gov with opNow := s.gov.opTgt, upReady := false } } else s

/-- A new target operating point takes effect: downwards at once. -/
def setOpTgt (op : Nat) (s : State) : State :=
  let o := BitVec.ofNat 3 op
  { s with gov := { s.gov with opTgt := o, opNow := if op < s.gov.opNow.toNat then o else s.gov.opNow } }

/-- Whether a latched VCORE lies within 2.5 mV (160/64 mV) of its target, in regulation. -/
def vcoreReady (v : Int) (s : State) : Bool :=
  let t := targetOf 0 s
  (railAt 0 s).st == 2 && decide (t - 160 ≤ v) && decide (v ≤ t + 160) && decide (s.gov.opNow.toNat < s.gov.opTgt.toNat)

/-! ### Admissions and the slew budget (R280, R284, R289) -/

/-- What a plan has spent: the state, the room left in 1/256 mA, whether it has stopped admitting, and whether the next
candidate is the first. -/
structure Plan where
  s : State
  room : Int
  stop : Bool
  first : Bool

/-- AMPS × f50, in 1/256 mA per unit of L. -/
def ampsF (s : State) : Int := (palF 10 15 0 s * f50 s.gov.opNow.toNat : Nat)

/-- Try to admit one cluster with its target limit; what it adds to I_pred is beyond the limit at which it washes already (R284). -/
def tryAdmit (c : Nat) (wash : Bool) (p : Plan) : Plan :=
  let l := limitFor c p.s
  let now := if p.s.gov.wash.getLsbD c then mapGet 0 p.s.gov.limit c else 0
  let cost := ampsF p.s * ((l : Int) - now)
  if p.stop || !(decide (cost ≤ p.room) || p.first) then { p with stop := true, first := false }
  else
    let g := p.s.gov
    { p with room := p.room - cost, first := false,
             s := { p.s with gov := { g with limit := mapSet 0 g.limit c l,
                                             admitted := if wash then g.admitted else setBit g.admitted c true,
                                             wash := if wash then setBit g.wash c true else g.wash } } }

/-- Step 1: due clusters of feathered releases, in rank order. -/
def admitDue (n : Nat) (p : Plan) : Plan :=
  let q := p.s.gov.due
  let p := { p with s := { p.s with gov := { p.s.gov with due := [] } } }
  q.foldl (fun p e =>
    let c := e.2.1.toNat
    let keep (p : Plan) : Plan := { p with s := { p.s with gov := { p.s.gov with due := p.s.gov.due ++ [e] } } }
    let done (p : Plan) : Plan :=
      let s := { p.s with gov := { p.s.gov with held := setBit p.s.gov.held c false } }
      { p with s := match e.2.2 with | some k => resumeMembers k c s | none => s }
    if n < e.1 then keep p
    else if p.s.gov.admitted.getLsbD c then done p
    else
      let p := tryAdmit c false p
      if p.s.gov.admitted.getLsbD c then done p else keep p) p

/-- Step 2: launched clusters, in ORDER-key order. -/
def admitLaunched (p : Plan) : Plan :=
  (inOrder (fun c => p.s.gov.launched.getLsbD c && !p.s.gov.held.getLsbD c) p.s).foldl (fun p c =>
    let p := if p.s.gov.admitted.getLsbD c then p else tryAdmit c false p
    if p.s.gov.admitted.getLsbD c then
      { p with s := { p.s with gov := { p.s.gov with launched := setBit p.s.gov.launched c false } } }
    else p) p

/-- What an equal step of `d` adds to every cluster of a list of gaps. -/
def stepCost (gaps : List (Nat × Nat)) (d : Nat) : Nat := gaps.foldl (fun a e => a + min d e.2) 0

/-- Step 3: rises of L in issuing clusters, by the largest equal step that fits. -/
def raiseLimits (p : Plan) : Plan :=
  let g := p.s.gov
  let gaps := ((onesOf (g.admitted ||| g.wash)).map (fun c => (c, limitFor c p.s - mapGet 0 g.limit c))).filter (fun e => decide (e.2 ≠ 0))
  let top := gaps.foldl (fun m e => max m e.2) 0
  if gaps.isEmpty then p
  else if p.stop then p
  else
    let fits := (List.range (top + 1)).filter (fun d => decide (ampsF p.s * (stepCost gaps d : Nat) ≤ p.room))
    let d := fits.getLastD 0
    { p with room := p.room - ampsF p.s * (stepCost gaps d : Nat), stop := decide (d < top),
             s := { p.s with gov := { g with limit := gaps.foldl (fun m e => mapUpd 0 m e.1 (· + min d e.2)) g.limit } } }

/-- The wash set of R289: the highest ORDER keys, for a demand in W (R303). -/
def washWanted (s : State) : BitVec 64 :=
  let watts := max 1 (palF 12 7 0 s)
  let d := floorTimes s.gov.washDemand (2 ^ 20)
  let cnt := min 64 ((d + (watts * 2 ^ 20 : Nat) - 1) / (watts * 2 ^ 20 : Nat)).toNat
  let ok := washEn s && envEn s && s.gov.winner == 0 && s.gov.halt == 0 && s.gov.burst.isNone && s.gov.guard == 2048
  if ok && decide (0 < d) then ((inOrder (fun _ => true) s).drop (64 - cnt)).foldl (fun m c => setBit m c true) 0 else 0

/-- Step 4: added wash clusters; one in an admitted cluster costs nothing. -/
def admitWash (want : BitVec 64) (p : Plan) : Plan :=
  (inOrder (fun c => want.getLsbD c) p.s).reverse.foldl (fun p c =>
    if p.s.gov.wash.getLsbD c then p
    else if p.s.gov.admitted.getLsbD c then { p with s := { p.s with gov := { p.s.gov with wash := setBit p.s.gov.wash c true } } }
    else tryAdmit c true p) p

/-- Σ L over the clusters that issue or wash. -/
def sumLimits (s : State) : Nat :=
  (onesOf (s.gov.admitted ||| s.gov.wash)).foldl (fun a c => a + mapGet 0 s.gov.limit c) 0

/-- The allocator at the start of beat `n`: falls at once, then the budget in the order of R284, then ΔI (R280). A clock that
rose lowers the limits first, so that I_pred rises only by the budget (DEDUCED, log 26). -/
def admitClusters (n : Nat) (s : State) : State :=
  let old := s.gov.iPred
  if s.gov.halt ≠ 0 then
    { s with gov := { s.gov with admitted := 0, wash := 0, slewHeld := false, iPred := 0, dff := -old, limit := [] } }
  else
    let live := clustersWith holdsAdmission s
    let want := washWanted s
    let g := s.gov
    let s := { s with gov := { g with admitted := g.admitted &&& live, wash := g.wash &&& want } }
    let on := onesOf (s.gov.admitted ||| s.gov.wash)
    let fall := on.map (fun c => (c, min (mapGet 0 s.gov.limit c) (limitFor c s)))
    let base := ampsF s * ((fall.foldl (fun a e => a + e.2) 0 : Nat) : Int)
    let fall := if old < base then fall.map (fun e => (e.1, max 4 ((e.2 : Int) * old / base).toNat)) else fall
    let s := { s with gov := { s.gov with limit := fall.filter (fun e => decide (e.2 ≠ 0)) } }
    let budget : Int := (max 10 (min 120 (palF 4 22 16 s)) * 256000 : Nat)
    let p : Plan := ⟨s, old + budget - ampsF s * (sumLimits s : Nat), false, true⟩
    let p := raiseLimits (admitLaunched (admitDue n p))
    let waits := p.stop
    let p := if p.stop then p else admitWash want p
    let i := ampsF p.s * (sumLimits p.s : Nat)
    { p.s with gov := { p.s.gov with slewHeld := waits, iPred := i, dff := i - old } }

/-! ### The beat boundary -/

/-- The operating point of a beat: the package's own, or on a companion carrier SLOT 0's, from the larger of the two levels
(R279, R281). -/
def opBeat (lam : Nat) (s : State) : State :=
  match s.gov.partner with
  | some m =>
    if isSlot1 s then
      (if s.gov.partnerHold then s else { s with gov := { s.gov with opTgt := m.opTgt, opNow := m.opNow } })
    else if isCompanion s then setOpTgt (opFor (max lam m.level)) (clockUp s)
    else setOpTgt (opFor lam) (clockUp s)
  | none => if isSlot1 s then s else setOpTgt (opFor lam) (clockUp s)

/-- The outputs of the last beat take effect (R267, R271, R276, R279): level, winner, operating point, burst mode, admissions. -/
def govApply (n lamSel winner : Nat) (s : State) : State :=
  let lam := min lamSel s.gov.guard
  let w := if s.gov.guard < lamSel then 7 else winner
  let s := countReg (0x10_0080 + 4 * w) 1 { s with gov := { s.gov with
    lam := lam, lamSel := lamSel, winner := w,
    lowBeats := if lam < 11 then s.gov.lowBeats + 1 else 0,
    okBeats := if lam < 11 then 0 else s.gov.okBeats + 1 } }
  let s := admitClusters n (burstBeat n (opBeat lam s))
  regBit aGovStatus 2 (decide (s.gov.wash ≠ 0)) s

/-- Package power of a beat in 1/64 µW: Σ rail voltage × rail current (R26). -/
def packagePower (inp : BeatInputs) : Int :=
  inp.railV.vcore * inp.railI.vcore + inp.railV.vsram * inp.railI.vsram + inp.railV.vdram * inp.railI.vdram +
    inp.railV.vlink * inp.railI.vlink

/-- One watt in 1/64 µW. -/
def oneW : Int := 64000000

/-- The peak guard (R275): excess energy in 1/64 pJ. -/
def peakGuard (s : State) : State :=
  let p := s.gov.power
  let b := max 0 (s.gov.guardB + (p - 2000 * oneW))
  let g := if 2400 * oneW < p ∨ 4000000 * oneW ≤ b then s.gov.guard - 256 else if b = 0 then 2048 else s.gov.guard
  regBit aGovStatus 0 (decide (g < 2048)) { s with gov := { s.gov with guardB := b, guard := g } }

/-- The hottest sensor and its index (R278); the first of equal ones. -/
def hottest (l : List Int) : Int × Nat :=
  l.zipIdx.foldl (fun m e => if m.1 < e.1 then e else m) (l.headD 0, 0)

/-- Share in force (R285, R286), in mW: the rating, the share, a hold, the decay, or the return. -/
def shareBeat (s : State) : State :=
  let orphan := palFix 7 s
  let rating := fld orphan 31 16
  let o := rating * min 100 (fld orphan 6 0) * 10
  let rise := palF 6 31 16 s
  let fall := palF 6 15 0 s
  let target := palF 5 15 0 s * 1000
  let cur := s.gov.shareMw
  let next :=
    if !envEn s then rating * 1000
    else if regIs aGovStatus 4 s then (if cur ≤ o then cur else max o (cur - fall))
    else if regIs aGovStatus 3 s then cur
    else if s.gov.returning then (if cur ≤ target then min target (cur + rise) else max target (cur - fall))
    else target
  { s with gov := { s.gov with shareMw := next, returning := s.gov.returning && decide (next ≠ target) && envEn s } }

/-- The latest answer at a latch (R287): missing answers are counted; none for three latches clears what it said. -/
def packLatch (s : State) : State :=
  let k := s.gov.pack
  let s := { s with gov := { s.gov with pack := { k with missed := if k.fresh then 0 else k.missed + 1, fresh := false } } }
  let live := packEn s && decide (s.gov.pack.missed < 3)
  let s := if live || !packEn s then govBit 5 false s else s
  let up := live && s.gov.pack.shelf
  govBit 6 up s

/-- Whether the answers count (R287). -/
def packLive (s : State) : Bool := packEn s && decide (s.gov.pack.missed < 3)

/-- R461: with no pack the bus below 47 V for 1,000 latches stops the package's draw; 49.5 V for 100,000 latches ends it. -/
def busLatch (s : State) : State :=
  let k := s.gov.pack
  let low := if regIs aGovStatus 5 s && s.gov.busV < 4700 then k.busLow + 1 else 0
  let high := if 4950 ≤ s.gov.busV then k.busHigh + 1 else 0
  { s with gov := { s.gov with pack := { k with busLow := low, busHigh := high } } }

/-- The inputs latched at FRAC 0 (R33) as the Governor takes them. -/
def govLatch (inp : BeatInputs) (s : State) : State :=
  let h := hottest inp.temps
  let s := { s with gov := { s.gov with power := packagePower inp, busV := inp.busV, railV := inp.railV, railI := inp.railI,
                                        hot := h.1, hotIdx := h.2, flowOk := inp.flowOk, eject := inp.eject,
                                        flowGood := if inp.flowOk then s.gov.flowGood + 1 else 0,
                                        ejectGone := if inp.eject then 0 else s.gov.ejectGone + 1 } }
  let s := peakGuard s
  let s := onlyIf (decide (1680 < h.1)) (govBit 7 true) s
  let s := busLatch (packLatch (shareBeat (latchTags s)))
  { s with gov := { s.gov with upReady := vcoreReady inp.railV.vcore s } }

/-! ### Events with rows of their own -/

/-- BURST_PERIOD: a burst period is due in this beat (R276). It takes the level of the beat; BEAT_START does the same where the row has not
come (log 24). -/
def execBurstPeriod (s : State) : Res :=
  let n := s.tick
  match s.gov.burst with
  | some (b, _) => .next (if s.gov.lam < 11 && decide (b + 1024 ≤ n) then burstStart n s else s)
  | none => .next (if s.gov.lam < 11 then burstStart n s else s)

/-- CAP_UNATT: set after 16 beats below the floor, cleared after 16 beats at or above it (R276). -/
def execCapUnatt (s : State) : Res :=
  .next (if 16 ≤ s.gov.lowBeats then govBit 1 true s else if 16 ≤ s.gov.okBeats then govBit 1 false s else s)

/-- THERMAL_TRIP: a sensor at 115 °C or more (R278). -/
def execThermalTrip (temp : Int) (s : State) : Res :=
  if temp < 1840 then .next s
  else
    let s := onlyIf true (govBit 7 true) s
    if regIs aGovStatus 8 s then .next s
    else
      let s := everyJobFault 0x60 none (haltFor haltTrip s)
      .next (retention (govBit 8 true { s with gov := { s.gov with tripAt := some s.tick } }))

/-- TRIP_SWITCH_OFF: a sensor still at 115 °C 10 ms after the trip (R278). -/
def execTripSwitchOff (temp : Int) (s : State) : Res :=
  match s.gov.tripAt with
  | some b =>
    if b + 10000 ≤ s.tick then
      let s := { s with gov := { s.gov with tripAt := none } }
      .next (if 1840 ≤ temp then switchOff s.tick s else s)
    else .next s
  | none => .next s

/-- The trip latch clears, and its halt ends. -/
def tripEnd (s : State) : State := endHalt haltTrip (s.tick + 1) (govBit 8 false { s with gov := { s.gov with tripAt := none } })

/-- The W1C of GOV.STATUS.TRIP (R278): no effect while the hottest sensor reads at or above the target. Its clear ends the halt,
and the rails leave retention (DEDUCED, log 26). -/
def tripW1c (s : State) : State :=
  if regIs aGovStatus 8 s && decide (s.gov.hot < (palF 3 7 0 s * 16 : Nat)) then
    let s := tripEnd s
    if regIs aGovStatus 9 s then s else leaveRetention s
  else s

/-- CLOCK_SWITCH_UP (R279). -/
def execClockSwitchUp (s : State) : Res := .next (clockUp s)

/-- HB_LOST: no heartbeat for 100 ms (R286). -/
def execHbLost (s : State) : Res :=
  .next (if hbEn s && decide (s.gov.hbAt + 100000 ≤ s.tick) then govBit 3 true s else s)

/-- ORPHAN: the hold of 10 s ends with a share above the orphan share (R286); a change-log record of origin 0x4000. -/
def execOrphan (s : State) : Res :=
  let v := palFix 7 s
  let o := fld v 31 16 * min 100 (fld v 6 0) * 10
  if hbEn s && regIs aGovStatus 3 s && !regIs aGovStatus 4 s && decide (s.gov.hbAt + 10100000 ≤ s.tick) && decide (o < s.gov.shareMw) then
    let old := reg aGovStatus s
    let s := govBit 4 true s
    .next (logHw 4 aGovStatus (old.setWidth 64) ((reg aGovStatus s).setWidth 64) s)
  else .next s

/-- A heartbeat (R286): the sequence, the age, and the end of a loss. -/
def heartbeatIn (v : BitVec 32) (s : State) : State :=
  let s := setReg 0x10_0044 (v &&& 0xFFFF) { s with gov := { s.gov with hbAt := s.tick } }
  if regIs aGovStatus 3 s || regIs aGovStatus 4 s then
    let old := reg aGovStatus s
    let s := govBit 4 false (govBit 3 false s)
    logHw 4 aGovStatus (old.setWidth 64) ((reg aGovStatus s).setWidth 64) { s with gov := { s.gov with returning := true } }
  else s

/-- PACK_ANSWER: the latest answer (R287, R288, R364): only from the highest epoch seen in a brush notice. -/
def packAnswerIn (a : PackAns) (s : State) : State :=
  let k := s.gov.pack
  if packEn s && decide (k.epoch.toNat ≤ a.epoch.toNat) then
    { s with gov := { s.gov with pack := { k with cPack := a.cPack, cAbs := a.cAbs, pRide := a.pRide, shelf := a.shelfLost, fresh := true } } }
  else s

/-- PACK_ANSWER. -/
def execPackAnswer (a : PackAns) (s : State) : Res := .next (packAnswerIn a s)

/-- NO_PACK: no answer for three consecutive latches (R287). -/
def execNoPack (s : State) : Res :=
  .next (if packEn s && decide (3 ≤ s.gov.pack.missed) then govBit 5 true s else s)

/-- NO_PACK_BUS_LOW and its end (R461). -/
def execNoPackBusLow (s : State) : Res :=
  .next (if isModule s && regIs aGovStatus 5 s && decide (1000 ≤ s.gov.pack.busLow) then
    { s with gov := { s.gov with pack := { s.gov.pack with forced := true } } } else s)

/-- NO_PACK_BUS_RESTORED (R461). -/
def execNoPackBusRestored (s : State) : Res :=
  .next (if s.gov.pack.forced && decide (100000 ≤ s.gov.pack.busHigh) then
    { s with gov := { s.gov with pack := { s.gov.pack with forced := false } } } else s)

/-- FLOW_LOST: the first latch with FLOW_OK_N deasserted (R290). -/
def execFlowLost (s : State) : Res :=
  if s.gov.flowOk || regIs aGovStatus 9 s then .next s
  else
    let s := everyJobFault 0x60 none (haltFor haltFlow s)
    .next (retention (govBit 9 true { s with gov := { s.gov with flowLostAt := some s.tick, flowOff := false } }))

/-- FLOW_SWITCH_OFF: flow has not returned 10 ms later (R290). -/
def execFlowSwitchOff (s : State) : Res :=
  match s.gov.flowLostAt with
  | some b =>
    if regIs aGovStatus 9 s && decide (b + 10000 ≤ s.tick) && !s.gov.flowOff then
      .next (switchOff s.tick { s with gov := { s.gov with flowOff := true } })
    else .next s
  | none => .next s

/-- FLOW_RETURN: asserted at 1,000 consecutive latches (R290): the rails leave retention, or soft-start. -/
def execFlowReturn (s : State) : Res :=
  if regIs aGovStatus 9 s && decide (1000 ≤ s.gov.flowGood) then
    let off := s.gov.flowOff
    let s := govBit 9 false { s with gov := { s.gov with flowLostAt := none, flowOff := false } }
    let s := endHalt haltFlow (s.tick + 1) s
    .next (if regIs aGovStatus 8 s then s
           else if off then startRails (selfRefreshOff { s with rails := { s.rails with retain := false } })
           else leaveRetention s)
  else .next s

/-- The message between the packages of a carrier (R281, R349): SLOT 1 follows SLOT 0's operating point, SLOT 0 takes the larger
level and SLOT 1's ΔI, and a rail fault of SLOT 0 is one of SLOT 1's jobs too. -/
def levelIn (m : LevelMsg) (s : State) : State :=
  if !isCompanion s || (isSlot1 s != m.fromSlot0) then s
  else
    let s := { s with gov := { s.gov with partner := some m, levelMiss := 0, partnerHold := false } }
    if isSlot1 s && m.railFault then everyJobFault 0x80 none s else s

/-- LEVEL_MESSAGE. -/
def execLevelMessage (m : LevelMsg) (s : State) : Res := .next (levelIn m s)

/-- LEVEL_MESSAGE_MISSING: after 3 beats SLOT 1 holds its operating point and applies L = 4 (R281). -/
def execLevelMessageMissing (s : State) : Res :=
  .next (if isSlot1 s && decide (3 ≤ s.gov.levelMiss) then { s with gov := { s.gov with partnerHold := true } } else s)

end Sys2Proof.Machine
end

