-- ==== Sys2Proof/Machine/Formats.lean ====
section
/-! DEFINITION. The eleven element formats, block scales, conversions and MX quantisation (R87 to R98). -/

namespace Sys2Proof.Machine

/-! ### Formats -/

/-- Width of a format's elements in bits; 0 for T3, which packs five to a byte, and for reserved codes (R87). -/
def fmtWidth (c : Nat) : Nat :=
  match c with
  | 0 => 32 | 1 => 16 | 2 => 16 | 3 => 8 | 4 => 8 | 5 => 6 | 6 => 6 | 7 => 4 | 8 => 8 | 9 => 4 | _ => 0

/-- The layout of a floating-point format (R89); the maximum code is the largest finite value. -/
def fmtLayout (c : Nat) : Option Layout :=
  match c with
  | 0 => some layFp32
  | 1 => some ⟨16, 7, -126, 0x7F7F⟩
  | 2 => some ⟨16, 10, -14, 0x7BFF⟩
  | 3 => some ⟨8, 3, -6, 0x7E⟩
  | 4 => some ⟨8, 2, -14, 0x7B⟩
  | 5 => some ⟨6, 2, -2, 0x1F⟩
  | 6 => some ⟨6, 3, 0, 0x1F⟩
  | 7 => some ⟨4, 1, 0, 0x7⟩
  | _ => none

/-- Whether the format has infinities. -/
def fmtHasInf (c : Nat) : Bool := decide (c = 0) || decide (c = 1) || decide (c = 2) || decide (c = 4)

/-- The canonical NaN of R97; 0 where the format has none. -/
def fmtNan (c : Nat) : Nat :=
  match c with
  | 0 => 0x7FC00000 | 1 => 0x7FC0 | 2 => 0x7E00 | 3 => 0x7F | 4 => 0x7E | _ => 0

/-- Whether the format has a NaN. -/
def fmtHasNan (c : Nat) : Bool := decide (c < 5)

/-- Bytes of a row of `n` elements (R90, R91, R101). -/
def rowBytes (c n : Nat) : Nat := if c = 10 then (n + 4) / 5 else (fmtWidth c * n + 7) / 8

/-- The largest and the most negative integer of INT8, INT4 and T3. -/
def intRange (c : Nat) : Int × Int :=
  match c with
  | 8 => (127, -128)
  | 9 => (7, -8)
  | _ => (1, -1)

/-- An integer as an exact value. -/
def intV (i : Int) : Val := .fin (decide (i < 0)) i.natAbs 1

/-- Decode an element that is not T3 (R89). -/
def decodeElem (c bits : Nat) : Val :=
  match fmtLayout c with
  | some l =>
    let top := 2 ^ (l.width - 1)
    let neg := decide (bits / top % 2 = 1)
    let mag := bits % top
    if mag ≤ l.maxCode then dyadic neg (decodeMag l mag).1 (decodeMag l mag).2
    else if fmtHasInf c && decide (mag = l.maxCode + 1) then .inf neg
    else .nan
  | none =>
    let w := fmtWidth c
    intV (if bits < 2 ^ (w - 1) then bits else (bits : Int) - 2 ^ w)

/-- The digit of a T3 byte at a position as a value; an invalid byte holds five zeros (R91). -/
def t3Digit (b pos : Nat) : Val :=
  if 243 ≤ b then .fin false 0 1
  else match b / 3 ^ pos % 3 with
    | 1 => .fin false 1 1
    | 2 => .fin true 1 1
    | _ => .fin false 0 1

/-- The first `n` elements of a row (R90, R91). -/
def decodeRow (c n : Nat) (bs : List Byte) : List Val :=
  if c = 10 then (List.range n).map (fun i => t3Digit (bs.getD (i / 5) 0).toNat (i % 5))
  else
    let v := ofLe bs
    let w := fmtWidth c
    (List.range n).map (fun i => decodeElem c (v / 2 ^ (w * i) % 2 ^ w))

/-- Whether a T3 row of `n` elements holds an invalid byte. -/
def rowInvalid (c n : Nat) (bs : List Byte) : Bool :=
  decide (c = 10) && (bs.take (rowBytes c n)).any (fun b => decide (243 ≤ b.toNat))

/-! ### Encoding -/

/-- What an encoding answers: the element's bits and the conversion flags CNV_INX, CNV_OVF and CNV_INV. -/
structure Enc where
  bits : Nat
  inx : Bool
  ovf : Bool
  inv : Bool
deriving DecidableEq, Repr

/-- Encode an integer as the bits of INT8, INT4 or (as a digit) T3. -/
def intBits (c : Nat) (i : Int) : Nat :=
  if c = 10 then (if i < 0 then 2 else i.toNat) else (i % (2 ^ fmtWidth c : Nat)).toNat

/-- Encode an exact value into a format under a rounding mode and SAT (R94 to R97). A T3 element is given as its digit. -/
def encodeElem (c rm : Nat) (sat : Bool) (v : Val) : Enc :=
  match fmtLayout c with
  | some l =>
    let signed (neg : Bool) (m : Nat) : Nat := if neg then 2 ^ (l.width - 1) + m else m
    let overflowed (neg : Bool) : Nat :=
      let away := decide (rm = 0) || (decide (rm = 2) && neg) || (decide (rm = 3) && !neg)
      if sat || !(fmtHasInf c || decide (c = 3)) || !away then signed neg l.maxCode
      else if c = 3 then 0x7F else signed neg (l.maxCode + 1)
    match v with
    | .nan => ⟨fmtNan c, false, false, !fmtHasNan c⟩
    | .inf neg =>
      if fmtHasInf c && !sat then ⟨signed neg (l.maxCode + 1), false, false, false⟩
      else if c = 3 && !sat then ⟨0x7F, true, true, false⟩
      else ⟨signed neg l.maxCode, true, true, false⟩
    | .fin neg n d =>
      let m := encodeMag l rm neg n d
      if m ≤ l.maxCode then ⟨signed neg m, !exactMag l m n d, false, false⟩
      else ⟨overflowed neg, true, true, false⟩
  | none =>
    let r := intRange c
    match v with
    | .nan => ⟨0, false, false, true⟩
    | .inf neg => ⟨intBits c (if neg then r.2 else r.1), true, true, false⟩
    | .fin neg n d =>
      let x := sgn neg (roundNat rm neg n d)
      let y := clampI r.2 r.1 x
      ⟨intBits c y, decide (y * d ≠ sgn neg n), decide (x ≠ y), false⟩

/-- Pack elements into bytes: a bit stream, or five T3 digits to a byte (R90, R91). -/
def packRow (c : Nat) (es : List Nat) : List Byte :=
  let n := rowBytes c es.length
  if c = 10 then
    (List.range n).map (fun j =>
      BitVec.ofNat 8 ((List.range 5).foldl (fun a p => a + es.getD (5 * j + p) 0 * 3 ^ p) 0))
  else leBytes n ((es.foldr (fun e a => e + 2 ^ fmtWidth c * a) 0))

/-- Tile flags: bit 0 CNV_INX, 1 CNV_OVF, 2 CNV_INV, 3 TINV (R114). -/
def flagsOf (es : List Enc) : BitVec 4 :=
  BitVec.ofNat 4 (b2n (es.any (·.inx)) + 2 * b2n (es.any (·.ovf)) + 4 * b2n (es.any (·.inv)))

/-! ### Scales (R92, R93) -/

/-- The value of a scale code; mode 0 is 1. -/
def scaleVal (mode code : Nat) : Val :=
  if mode = 0 then .fin false 1 1
  else if mode = 1 then (if code = 255 then .nan else dyadic false 1 ((code : Int) - 127))
  else if 0x7F ≤ code then .nan
  else
    let e := code / 8
    let m := code % 8
    if e = 0 then dyadic false m (-9) else dyadic false (8 + m) ((e : Int) - 10)

/-- Elements per scale. -/
def perScale (mode : Nat) : Nat := if mode = 1 then 32 else 16

/-! ### MX quantisation (R98) -/

/-- emax of a format for mode 1. -/
def emaxOf (c : Nat) : Int :=
  match c with
  | 3 => 8 | 4 => 15 | 5 => 4 | 6 => 2 | 7 => 2 | 8 => 6 | 9 => 2 | _ => 0

/-- vmax of a format for mode 2. -/
def vmaxOf (c : Nat) : Nat :=
  match c with
  | 7 => 6 | 9 => 7 | _ => 1

/-- The larger of two ratios. -/
def maxRatio (a b : Nat × Nat) : Nat × Nat := if a.1 * b.2 < b.1 * a.2 then b else a

/-- The largest finite magnitude of a block. -/
def amaxOf (vs : List Val) : Nat × Nat :=
  vs.foldl (fun a v => match v with | .fin _ n d => maxRatio a (n, d) | _ => a) (0, 1)

/-- The layout of UE4M3 magnitudes. -/
def layUe4m3 : Layout := ⟨8, 3, -6, 0x7E⟩

/-- Quantise one block: the scale code and the elements (R98). The third part says that the block held a NaN. The other elements of such a
block, which become zero, set CNV_INV alone, not CNV_INX or CNV_OVF (DESIGN CHOICE, log 48). -/
def quantise (c mode : Nat) (vs : List Val) : Nat × List Enc × Bool :=
  let a := amaxOf vs
  let nan := vs.any (fun v => decide (v = Val.nan))
  if nan then (if mode = 1 then 255 else 0x7F, vs.map (fun _ => ⟨0, false, false, true⟩), true)
  else if mode = 1 then
    let e : Int := if a.1 = 0 then -127 else clampI (-127) 127 (log2Ratio a.1 a.2 - emaxOf c)
    ((e + 127).toNat, vs.map (fun v => encodeElem c 0 true (divV v (dyadic false 1 e))), false)
  else
    let code := if a.1 = 0 then 0 else min 0x7E (encodeMag layUe4m3 3 false a.1 (a.2 * vmaxOf c))
    if code = 0 then (0, vs.map (fun v => match v with | .inf _ => ⟨0, true, true, false⟩ | _ => ⟨0, false, false, false⟩), false)
    else (code, vs.map (fun v => encodeElem c 0 true (divV v (scaleVal 2 code))), false)

end Sys2Proof.Machine
end

