-- ==== Sys2Proof/Machine/Matrix.lean ====
section
/-! DEFINITION. The matrix class, CLASS 0x4 (R99 to R118). -/

namespace Sys2Proof.Machine

/-! ### Accumulators -/

/-- Element flags of R104: INX, RNG, PINF, NINF, NAN in bits 0 to 4. -/
def elInx : BitVec 5 := 1
def elRng : BitVec 5 := 2
def elNan : BitVec 5 := 16
def elInf (neg : Bool) : BitVec 5 := if neg then 8 else 4

/-- Element 64 × i + j of an accumulator. -/
def accX (m : Acc) (k : Nat) : BitVec 96 := mapGet 0 m.x k
def accF (m : Acc) (k : Nat) : BitVec 5 := mapGet 0 m.fl k

/-- An accumulator with the same anchor whose elements are given one by one. -/
def accOf (anchor : Int) (el : Nat → BitVec 96 × BitVec 5) : Acc :=
  let es := (List.range 4096).map (fun k => (k, el k))
  ⟨anchor, es.filterMap (fun e => if e.2.1 = 0 then none else some (e.1, e.2.1)),
   es.filterMap (fun e => if e.2.2 = 0 then none else some (e.1, e.2.2))⟩

/-- Whether a value is a finite zero, and whether it is an infinity, and its sign. -/
def isZeroV : Val → Bool
  | .fin _ n _ => decide (n = 0)
  | _ => false
def isInfV : Val → Bool
  | .inf _ => true
  | _ => false
def negOf : Val → Bool
  | .nan => false
  | .inf s => s
  | .fin s _ _ => s

/-- One product into one element (R105). -/
def mmaStep (anchor : Int) (e : BitVec 96 × BitVec 5) (a sa b sb : Val) : BitVec 96 × BitVec 5 :=
  let fs := [a, sa, b, sb]
  let inf := isInfV a || isInfV b
  if fs.any (fun v => decide (v = Val.nan)) then (e.1, e.2 ||| elNan)
  else if inf && fs.any isZeroV then (e.1, e.2 ||| elNan)
  else if inf then (e.1, e.2 ||| elInf (negOf a != negOf b))
  else match mulV (mulV a sa) (mulV b sb) with
    | .fin neg n d =>
      let g := scaleDown n d (anchor - 48)
      let q := roundNat 0 neg g.1 g.2
      let fl := if q * g.2 = g.1 then e.2 else e.2 ||| elInx
      if 2 ^ 95 ≤ q then (e.1, fl ||| elRng ||| elInf neg)
      else (e.1 + BitVec.ofInt 96 (sgn neg q), fl)
    | _ => e

/-- One element of an MMA: the products of a row of A and a row of B, each factor with its scale. -/
def mmaElem (anchor : Int) (e : BitVec 96 × BitVec 5) (as bs : List (Val × Val)) : BitVec 96 × BitVec 5 :=
  (as.zip bs).foldl (fun e p => mmaStep anchor e p.1.1 p.1.2 p.2.1 p.2.2) e

/-! ### Pairings and rates (R102) -/

/-- The rate class of a pairing in either order: 0 rate 1, 1 rate 2, 2 rate 4, 3 rate 0.5; none for a combination R102 does
not list. -/
def pairRate (fa fb : Nat) : Option Nat :=
  let lo := min fa fb
  let hi := max fa fb
  let six (f : Nat) : Bool := f == 5 || f == 6 || f == 7
  if lo = 3 ∧ 3 ≤ hi ∧ hi ≤ 7 then some 0
  else if six lo && six hi then some 1
  else if lo = 8 ∧ hi ≤ 9 then some 0
  else if lo = 9 ∧ hi = 9 then some 1
  else if hi = 10 ∧ (lo = 8 ∨ lo = 3) then some 2
  else if lo = hi ∧ (lo = 1 ∨ lo = 2) then some 3
  else none

/-- Whether a scale mode is allowed on a format (R102). -/
def scaleAllowed (f m : Nat) : Bool :=
  m == 0 || (m == 1 && f != 1 && f != 2) || (m == 2 && (f == 7 || f == 9 || f == 10))

/-- Active cycles of an MMA (R116). -/
def activeCycles (rate k : Nat) : Nat :=
  match rate with
  | 0 => k
  | 1 => k / 2
  | 2 => k / 4
  | _ => 2 * k

/-! ### Operands (R100, R101, R109) -/

/-- Both operands and K of an MMA. -/
def mmaOperands (f : Ins) (x : Tile) : Operand × Operand × Nat :=
  let c := (sGet x (immC f)).toNat
  let c1 := (sGet x (immC f + 1)).toNat
  (⟨immF f 24 21, immF f 16 15, (sGet x f.a.toNat).toNat, bitsN c 35 16, bitsN c1 51 32, bitsN c1 63 52⟩,
   ⟨immF f 20 17, immF f 14 13, (sGet x f.b.toNat).toNat, bitsN c 55 36, bitsN c1 19 0, bitsN c1 31 20⟩,
   bitsN c 15 0)

/-- Bytes of scales in a row of `k` elements. -/
def scaleBytes (o : Operand) (k : Nat) : Nat := if o.mode = 0 then 0 else k / perScale o.mode

/-- Whether every row and scale row of an operand lies in scratch (R109, check 6). -/
def inScratch (o : Operand) (k : Nat) : Bool :=
  decide (o.base + 63 * o.stride + rowBytes o.fmt k ≤ scratchSize) &&
    (o.mode == 0 || decide (o.sBase + 63 * o.sStride + scaleBytes o k ≤ scratchSize))

/-- The checks of R109 after the encoding, in order: none when K is 0 or all pass. -/
def mmaFault (c : BitVec 64) (a b : Operand) (k : Nat) : Option (Nat × Nat) :=
  if bitsN c.toNat 63 56 ≠ 0 then some (0x03, 0)
  else if pairRate a.fmt b.fmt = none || !scaleAllowed a.fmt a.mode || !scaleAllowed b.fmt b.mode then some (0x20, 0)
  else if k = 0 then none
  else if k % 32 ≠ 0 then some (0x21, 0)
  else if a.base % 8 ≠ 0 ∨ a.stride % 8 ≠ 0 then some (0x22, a.base)
  else if b.base % 8 ≠ 0 ∨ b.stride % 8 ≠ 0 then some (0x22, b.base)
  else if !inScratch a k then some (0x23, a.base)
  else if !inScratch b k then some (0x23, b.base)
  else none

/-- A row of an operand: each element with its scale (R93). -/
def operandRow (o : Operand) (k : Nat) (data scales : List Byte) : List (Val × Val) :=
  (decodeRow o.fmt k data).zipIdx.map (fun e =>
    (e.1, scaleVal o.mode (if o.mode = 0 then 0 else (scales.getD (e.2 / perScale o.mode) 0).toNat)))

/-- The scratch ranges an operand reads. -/
def operandRanges (o : Operand) (k : Nat) : List (Nat × Nat) :=
  (List.range 64).flatMap (fun i =>
    [(o.base + i * o.stride, rowBytes o.fmt k), (o.sBase + i * o.sStride, scaleBytes o k)])

/-- Read ranges of own scratch for the matrix engine: charged, errors take their path. -/
def readRanges (t : Nat) (rs : List (Nat × Nat)) (w : BitVec 64) (s : State) : Bool × State :=
  rs.foldl (fun r e =>
    let c := checkRead rdMatrix true t e.1 e.2 (some ((tileAt t r.2).pc, w))
      (charge (acctOfTile t r.2) 6 (unitsOf e.1 e.2) r.2)
    (r.1 && c.1, c.2)) (true, s)

/-- Put a matrix instruction that is not an MMA in flight (R115, R116). -/
def matFlight (acc : Option (BitVec 2)) (drain : Nat) (t : Nat) (s : State) : State :=
  updTile t (fun x => { x with mats := x.mats ++ [⟨acc, 0, 0, drain, false, none⟩] }) s

/-- The whole of an MMA on one accumulator (R105): `rows` are A's rows and scale rows in turn, then B's, as it reads them. -/
def mmaAcc (a b : Operand) (k : Nat) (rows : List (List Byte)) (m : Acc) : Acc :=
  let row (o : Operand) (r : Nat) : List (Val × Val) := operandRow o k (rows.getD (2 * r) []) (rows.getD (2 * r + 1) [])
  let ra := (List.range 64).map (row a)
  let rb := (List.range 64).map (fun j => row b (64 + j))
  accOf m.anchor (fun e => mmaElem m.anchor (accX m e, accF m e) (ra.getD (e / 64) []) (rb.getD (e % 64) []))

/-- Whether a T3 row among those read holds an invalid byte (R91). -/
def mmaInvalid (a b : Operand) (k : Nat) (rows : List (List Byte)) : Bool :=
  let bad (o : Operand) (r : Nat) : Bool := o.fmt == 10 && rowInvalid o.fmt k (rows.getD (2 * r) [])
  (List.range 64).any (bad a) || (List.range 64).any (fun j => bad b (64 + j))

/-- What an MMA reads, as scratch stands when it is dispatched. -/
def mmaRows (t : Nat) (a b : Operand) (k : Nat) (s : State) : List (Nat × List Byte) :=
  (operandRanges a k ++ operandRanges b k).map (fun e => (e.1, readScratch t e.1 e.2 s))

/-- MMA is dispatched: it is checked, and its active cycles begin when the engine is free (R115). Its result is written when they end. -/
def execMma (t : TileId) (f : Ins) (s : State) : Res :=
  .next (issue t 4 0x00 f (encOf true true true 0x1FFF (decide (f.d.toNat ≤ 3) && decide (immC f ≤ 62)) f) (fun t w s =>
    let x := tileAt t s
    let (a, b, k) := mmaOperands f x
    match mmaFault (sGet x (immC f)) a b k with
    | some (c, ad) => faultHere t c w ad s
    | none =>
      if k = 0 then advance t w s
      else
        let r := readRanges t (operandRanges a k ++ operandRanges b k) w s
        if !r.1 then r.2
        else
          let rate := (pairRate a.fmt b.fmt).getD 0
          let op : MatOp := ⟨some (f.d.setWidth 2), BitVec.ofNat 2 rate, activeCycles rate k, 20, true,
            some ⟨f.d.toNat, a, b, k, mmaRows t a b k r.2, [], x.nextDma⟩⟩
          onTile (fun x => { x with mats := x.mats ++ [op] }) t w r.2) s)

/-- The result of an MMA (R105, R117): `others` are the other contents of a unit that its reads may have seen, and `use` the free choice
among them. -/
def mmaDone (use : Nat) (others : Nat → List (List Byte)) (j : MmaJob) (x : Tile) : Tile :=
  let rows := j.rows.zipIdx.map (fun e => seenBytes use e.2 others e.1.1 e.1.2)
  orFlags (if mmaInvalid j.a j.b j.k rows then 8 else 0) (mSet j.d (mmaAcc j.a j.b j.k rows (mGet x j.d)) x)

/-- MZERO (R108). -/
def execMzero (t : TileId) (f : Ins) (s : State) : Res :=
  .next (issue t 4 0x08 f (encOf true false false 0x7FFFFC00 (decide (f.d.toNat ≤ 3)) f) (fun t w s =>
    onTile (mSet f.d.toNat ⟨(BitVec.ofNat 10 (immU f)).toInt, [], []⟩) t w
      (matFlight (some (f.d.setWidth 2)) 4 t s)) s)

/-! ### Reading out (R110 to R112) -/

/-- The value an element reads as. -/
def readOut (m : Acc) (sh : Int) (k : Nat) : Val :=
  let fl := accF m k
  let p := fl.getLsbD 2
  let n := fl.getLsbD 3
  if fl.getLsbD 4 || (p && n) then .nan
  else if p then .inf false
  else if n then .inf true
  else
    let x := (accX m k).toInt
    if x = 0 then .fin false 0 1 else dyadic (decide (x < 0)) x.natAbs (m.anchor - 48 + sh)

/-- SH of a read-out, signed. -/
def immSh (f : Ins) : Int := (BitVec.ofNat 8 (immF f 23 16)).toInt

/-- A scratch rectangle of 64 rows: alignment, then range. -/
def rowsFault (align bytes : Nat) (a st : Nat) : Option Nat :=
  if a % align ≠ 0 ∨ st % align ≠ 0 then some 0x22 else if scratchSize < a + 63 * st + bytes then some 0x23 else none

/-- Write 64 rows to own scratch, each charged, in rising order of i: of rows that overlap the later one stays (DESIGN CHOICE, log 48: R111
and R113 name no order). -/
def writeRows (t a st : Nat) (rows : List (List Byte)) (w : BitVec 64) (s : State) : State :=
  rows.zipIdx.foldl (fun s e =>
    (memStore true t (a + e.2 * st) e.1 (some ((tileAt t s).pc, w))
      (charge (acctOfTile t s) 6 (unitsOf (a + e.2 * st) e.1.length) s)).2) s

/-- MST (R111). -/
def execMst (t : TileId) (f : Ins) (s : State) : Res :=
  .next (issue t 4 0x10 f (encOf true true true 0xFFFF (decide (f.d.toNat ≤ 3)) f) (fun t w s =>
    let x := tileAt t s
    let fmt := immF f 30 27
    let a := (sGet x f.a.toNat).toNat
    let st := (sGet x f.b.toNat).toNat
    if 11 ≤ fmt then faultHere t 0x20 w 0 s
    else match rowsFault 8 (rowBytes fmt 64) a st with
      | some c => faultHere t c w a s
      | none =>
        let m := mGet x f.d.toNat
        let rows := (List.range 64).map (fun i => (List.range 64).map (fun j =>
          encodeElem fmt (immF f 26 25) (decide (immF f 24 24 = 1)) (readOut m (immSh f) (64 * i + j))))
        let s := writeRows t a st (rows.map (fun r => packRow fmt (r.map (·.bits)))) w (matFlight none 76 t s)
        onTile (orFlags (flagsOf rows.flatten)) t w s) s)

/-- MVR (R112). -/
def execMvr (t : TileId) (f : Ins) (s : State) : Res :=
  .next (issue t 4 0x11 f (encOf true true true 0x7800FFFF (decide (f.a.toNat ≤ 3)) f) (fun t w s =>
    let x := tileAt t s
    let row := (sGet x f.b.toNat).toNat % 64
    let m := mGet x f.a.toNat
    let es := (List.range 64).map (fun j =>
      encodeElem 0 (immF f 26 25) (decide (immF f 24 24 = 1)) (readOut m (immSh f) (64 * row + j)))
    onTile (fun x => orFlags (flagsOf es) (vSetAll f.d.toNat (fun _ => true) (es.map (fun e => BitVec.ofNat 32 e.bits)) x))
      t w (matFlight none 8 t s)) s)

/-! ### Exact sums (R113) -/

/-- The 16-byte image of one element. -/
def exsBytes (m : Acc) (k : Nat) : List Byte :=
  leBytes 12 (accX m k).toNat ++ leBytes 2 (m.anchor % 2 ^ 16).toNat ++ [(accF m k).setWidth 8, 0]

/-- X, anchor and flags of an image; none when a reserved bit is set. -/
def exsParse (bs : List Byte) : Option (BitVec 96 × Int × BitVec 5) :=
  let fl := bs.getD 14 0
  if fl.toNat < 32 && bs.getD 15 0 == 0 then
    some (BitVec.ofNat 96 (ofLe (bs.take 12)), (BitVec.ofNat 16 (ofLe ((bs.drop 12).take 2))).toInt, fl.setWidth 5)
  else none

/-- MSTX: format REG. -/
def execMstx (t : TileId) (f : Ins) (s : State) : Res :=
  .next (issue t 4 0x18 f (encOf true true true zReg (decide (f.d.toNat ≤ 3)) f) (fun t w s =>
    let x := tileAt t s
    let a := (sGet x f.a.toNat).toNat
    let st := (sGet x f.b.toNat).toNat
    match rowsFault 16 1024 a st with
    | some c => faultHere t c w a s
    | none =>
      let m := mGet x f.d.toNat
      let rows := (List.range 64).map (fun i => (List.range 64).flatMap (fun j => exsBytes m (64 * i + j)))
      advance t w (writeRows t a st rows w (matFlight none 268 t s))) s)

/-- MLDX: every EXS is checked before any is added. -/
def execMldx (t : TileId) (f : Ins) (s : State) : Res :=
  .next (issue t 4 0x19 f (encOf true true true zReg (decide (f.d.toNat ≤ 3)) f) (fun t w s =>
    let x := tileAt t s
    let a := (sGet x f.a.toNat).toNat
    let st := (sGet x f.b.toNat).toNat
    match rowsFault 16 1024 a st with
    | some c => faultHere t c w a s
    | none =>
      let r := readRanges t ((List.range 64).map (fun i => (a + i * st, 1024))) w s
      if !r.1 then r.2
      else
        let m := mGet x f.d.toNat
        let es := (List.range 4096).map (fun k => exsParse (readScratch t (a + k / 64 * st + k % 64 * 16) 16 r.2))
        if es.all (fun e => match e with | some e => decide (e.2.1 = m.anchor) | none => false) then
          let m' := accOf m.anchor (fun k =>
            match es.getD k none with
            | some e => (accX m k + e.1, accF m k ||| e.2.2)
            | none => (accX m k, accF m k))
          onTile (mSet f.d.toNat m') t w (matFlight (some (f.d.setWidth 2)) 268 t r.2)
        else faultHere t 0x24 w a r.2) s)

/-- The status word of MFLG (R114). -/
def mflgWord (x : Tile) (m : Acc) : BitVec 64 :=
  let or5 := m.fl.foldl (fun a e => a ||| e.2) (0 : BitVec 5)
  BitVec.ofNat 64 ((m.anchor % 2 ^ 16).toNat * 2 ^ 16 + x.flags.toNat * 2 ^ 8 + or5.toNat)

/-- MFLG: with IMM[0] the tile flags clear after they are read. -/
def execMflg (t : TileId) (f : Ins) (s : State) : Res :=
  .next (issue t 4 0x20 f (encOf true true false 0x7FFFFFFE (decide (f.a.toNat ≤ 3)) f) (fun t w s =>
    onTile (fun x =>
      let v := mflgWord x (mGet x f.a.toNat)
      sSet f.d.toNat v (if f.imm.getLsbD 0 then { x with flags := 0 } else x)) t w (matFlight none 2 t s)) s)

/-! ### Credit (R76, R78) -/

/-- Whether the first instruction of a list is an MMA. -/
def mmaNext : List MatOp → Bool
  | m :: _ => m.mma
  | [] => false

/-- What one tile cycle does to the matrix instructions in flight (R115): they run one at a time in program order, the first taking an
active cycle when `go` or else draining; only an MMA begins beside the drain of an MMA before it. -/
def matCycle (go : Bool) : List MatOp → List MatOp
  | [] => []
  | m :: r =>
    if m.active ≠ 0 then (if go then { m with active := m.active - 1 } else m) :: r
    else (if m.drain ≤ 1 then [] else [{ m with drain := m.drain - 1 }]) ++ (if m.mma && mmaNext r then matCycle go r else r)

/-- The instruction whose active cycle is next. -/
def matReady : List MatOp → Option MatOp
  | [] => none
  | m :: r => if m.active ≠ 0 then some m else if m.mma && mmaNext r then matReady r else none

end Sys2Proof.Machine
end

