-- ==== Sys2Proof/Machine/Kernel.lean ====
section
/-! DEFINITION. Kernels, barriers and the tile cycle: launch, END's completion, barrier arrival and release, the issue credit
(R70 to R78, R253). -/

namespace Sys2Proof.Machine

/-! ### Launch (R74, R253) -/

/-- Whether a tile runs a kernel: it issues, waits or drains. -/
def tileBusy (x : Tile) : Bool := decide (1 ≤ x.st.toNat) && decide (x.st.toNat ≤ 6)

/-- A tile right after launch (R74, R108): `i` is its index in the kernel's tile set, `n` the size of that set. The time of its last
remote-error record stays (R204). -/
def launched (k : Kernel) (i n cycle : Nat) (words : List (BitVec 64)) (x : Tile) : Tile :=
  { x with
    istore := words.zipIdx.foldl (fun m e => mapSet 0 m e.2 e.1) x.istore, pc := 0,
    sreg := mapSetAll 0 [] [(1, k.d.arg), (2, BitVec.ofNat 64 i), (3, BitVec.ofNat 64 n)], vreg := [], acc := [], pred := 0,
    ctr := if k.d.flags.getLsbD 0 then x.ctr else [], flags := 0, wait := .none, st := 1, queue := k.d.queue, dmas := [], mats := [],
    vattn := none, credit := 0, launchCycle := cycle, rstat := 0, incs := [] }

/-- Read one tile's image from its own vault; an uncorrectable unit takes R167, with the index of its instruction. -/
def loadImage (k : Kernel) (t : Nat) (s : State) : Bool × State :=
  let a := k.d.imageOff.toNat
  let n := 8 * k.d.imageLen.toNat
  let ix := match badGrains false t a n 2 s with | g :: _ => (g * 64 - a) / 8 | [] => 0
  checkRead rdImage false t a n (some (ix, 0)) (charge (acctQueue k.d.queue.toNat) 7 (unitsOf a n) s)

/-- Load the images of a kernel's tiles until one fails. -/
def loadImages (k : Kernel) (ts : List Nat) (s : State) : Bool × State :=
  ts.foldl (fun r t => if r.1 then loadImage k t r.2 else r) (true, s)

/-- Start tile `t` as member `i` of `n`. -/
def startTile (k : Kernel) (t i n : Nat) (s : State) : State :=
  let len := k.d.imageLen.toNat
  let bs := readVault t k.d.imageOff.toNat (8 * len) s
  let ws := (List.range len).map (fun j => BitVec.ofNat 64 (ofLe ((bs.drop (8 * j)).take 8)))
  updTile t (launched k i n s.cycle ws) { s with istoreErr := mapClear s.istoreErr (t * 8192) (t * 8192 + len) }

/-- KERNEL_START: the first posted kernel of an idle queue starts on all its tiles, when none of them runs another, and when the vaults
that hold its images are not in self-refresh (R175). -/
def execKernelStart (q : BitVec 8) (s : State) : Res :=
  let q := q.toNat
  let x := queueAt q s
  match x.running, x.posted with
  | none, k :: rest =>
    let ts := onesOf k.d.tiles
    let p := k.part.toNat
    if s.selfRefresh || ts.any (fun t => tileBusy (tileAt t s)) || !ts.all (fun t => ownerOf t s == some p) then .next s
    else
      let first := !partActive p s
      let s := updQueue q (fun x => { x with posted := rest, running := some k, ended := 0 }) s
      let s := forAll ts (fun t s => updTile t (fun x => { x with queue := k.d.queue }) s) s
      let r := loadImages k ts s
      if !r.1 then .next r.2
      else
        let s := if first then updPart p (fun x => { x with tag := 0 }) r.2 else r.2
        let s := forAll ts.zipIdx (fun e s => startTile k e.1 e.2 ts.length s) s
        let cs : BitVec 64 := ts.foldl (fun m t => setBit m (clusterOf t) true) 0
        .next { s with gov := { s.gov with launched := s.gov.launched ||| (cs &&& ~~~s.gov.admitted) } }
  | _, _ => .next s

/-- Whether everything that tile `t` issued has completed (R73): its DMAs, remote operations and fences. -/
def drained (t : Nat) (s : State) : Bool :=
  (tileAt t s).dmas.isEmpty && !s.rops.any (fun o => decide (o.src = .tile (BitVec.ofNat 10 t))) &&
    !s.fences.any (fun f => decide (f.tile.toNat = t))

/-- END_COMPLETION (R73, R253): the tile is idle; with its last tile the kernel is complete, and its session is told. -/
def execEndCompletion (t : TileId) (s : State) : Res :=
  let t := t.toNat
  let x := tileAt t s
  if x.wait = Wait.drainEnd && drained t s then
    let q := x.queue.toNat
    let s := updQueue q (fun y => { y with ended := setBit y.ended t true }) (updTile t (fun x => { x with st := 0, wait := .none }) s)
    match (queueAt q s).running with
    | some k =>
      if (queueAt q s).ended &&& k.d.tiles = k.d.tiles then
        .next (hostSend k.ses.toNat (.kernelComplete k.tag) (updQueue q (fun y => { y with running := none, ended := 0 }) s))
      else .next s
    | none => .next s
  else .next s

/-! ### Barriers (R71, R72) -/

/-- The root of a group: its member package with the lowest identifier. -/
def rootOf (g : Group) : PkgId := g.members.foldl (fun m p => if p.toNat < m.toNat then p else m) (g.members.headD 0)

/-- Change group `k`. -/
def updGroup (k : Nat) (f : Group → Group) (s : State) : State := { s with group := mapUpd Group.zero s.group k f }

/-- The root releases when it holds the arrival of every member (R72). -/
def tryRelease (k : Nat) (j : BitVec 16) (s : State) : State :=
  let g := mapGet Group.zero s.group k
  if rootOf g = pkgId s && !g.members.isEmpty && g.members.all (fun p => g.pkgs.contains p) then
    let s := updGroup k (fun g => { g with epoch := g.epoch + 1, pkgs := [], held := true }) s
    forAll (g.members.filter (fun p => decide (p ≠ pkgId s)))
      (fun p s => cl0To .barrier p (.barrierRelease j (BitVec.ofNat 4 (k % 16))) s) s
  else s

/-- BARRIER_ARRIVE (R71): the tile has drained and arrives; the last local member sends the package's arrival. -/
def execBarrierArrive (t : TileId) (s : State) : Res :=
  let t := t.toNat
  match (tileAt t s).wait, ownerOf t s with
  | .drainBarrier g, some p =>
    if drained t s then
      let k := groupKey p g.toNat
      let s := updTile t (fun x => { x with st := 3, wait := .barrier g }) s
      let s := updGroup k (fun y => { y with arrived := setBit y.arrived t true }) s
      let y := mapGet Group.zero s.group k
      match jobOfPart p s with
      | some j =>
        if y.arrived = y.tiles && !y.sent then
          let s := updGroup k (fun y => { y with sent := true }) s
          if rootOf y = pkgId s then .next (tryRelease k j (updGroup k (fun y => { y with pkgs := pkgId s :: y.pkgs }) s))
          else .next (cl0To .barrier (rootOf y) (.barrierArrive j g) s)
        else .next s
      | none => .next s
    else .next s
  | _, _ => .next s

/-- The configured groups `g` of a job's partitions on this package. -/
def groupsOf (j : BitVec 16) (g : BitVec 4) (s : State) : List Nat :=
  ((partsOfJob j s).map (fun p => groupKey p g.toNat)).filter (fun k => (mapGet Group.zero s.group k).tiles != 0)

/-- A package's arrival reaches the root. -/
def arrivalIn (j : BitVec 16) (g : BitVec 4) (src : PkgId) (s : State) : State :=
  forAll (groupsOf j g s) (fun k s =>
    let y := mapGet Group.zero s.group k
    if y.members.contains src && rootOf y = pkgId s && !y.pkgs.contains src then
      tryRelease k j (updGroup k (fun y => { y with pkgs := src :: y.pkgs }) s)
    else s) s

/-- A release reaches a member, which holds it until the next beat boundary. -/
def releaseIn (j : BitVec 16) (g : BitVec 4) (s : State) : State :=
  forAll (groupsOf j g s) (fun k s => if (mapGet Group.zero s.group k).sent then updGroup k (fun y => { y with held := true }) s else s) s

/-- BARRIER_ARRIVAL. -/
def execBarrierArrival (job : BitVec 16) (g : BitVec 4) (src : PkgId) (s : State) : Res := .next (arrivalIn job g src s)

/-- BARRIER_RELEASE_MESSAGE. -/
def execBarrierReleaseMessage (job : BitVec 16) (g : BitVec 4) (s : State) : Res := .next (releaseIn job g s)

/-- BARRIER_RELEASE: the package releases a held group at the beat boundary that comes. -/
def execBarrierRelease (part g : BitVec 4) (s : State) : Res :=
  .next (releaseGroup (groupKey part.toNat g.toNat) (s.tick + 1) s)

/-! ### The tile cycle (R76, R78) -/

/-- What one tile cycle does to one tile: its credit, its matrix instructions, or a wash cycle. The account and class of an
active cycle come with the tile. -/
def tileStep (halted on wash : Bool) (limit acct : Nat) (x : Tile) : Tile × Option (Nat × Nat) :=
  let x := { x with incs := [] }
  if halted then ({ x with credit := 0 }, none)
  else
    let c := if on then min (x.credit + limit) 1024 else 0
    match matReady x.mats with
    | some m =>
      if on && decide (256 ≤ c) then ({ x with credit := c - 256, mats := matCycle true x.mats }, some (acct, m.rate.toNat))
      else ({ x with credit := c, mats := matCycle false x.mats }, none)
    | none =>
      let x := { x with mats := matCycle false x.mats }
      if wash && decide (c = 1024) then ({ x with credit := c - 256 }, some (acctWash, 10)) else ({ x with credit := c }, none)

/-- An MMA whose active cycles are over writes its accumulator, from the contents that its reads saw over those cycles (R105, R117). -/
def mmaFinish (t : Nat) (s : State) : State :=
  let x := tileAt t s
  match x.mats.findSome? (fun m => if m.active = 0 then m.job else none) with
  | some j =>
    let x := mmaDone s.free (othersOf (j.late ++ dmaComing true j.mark t s)) j x
    setTile t { x with mats := x.mats.map (fun m => if m.active = 0 then { m with job := none } else m) } (useFree s)
  | none => s

/-- One tile's cycle in its cluster. -/
def tileCycle (t : Nat) (s : State) : State :=
  let c := clusterOf t
  let g := s.gov
  let q := tileStep (g.halt != 0 || g.held.getLsbD c) (g.admitted.getLsbD c || g.wash.getLsbD c) (g.wash.getLsbD c)
    (mapGet 0 g.limit c) (acctOfTile t s) (tileAt t s)
  let s := mmaFinish t (setTile t q.1 s)
  match q.2 with
  | some e => charge e.1 e.2 1 s
  | none => s

/-- The tiles whose cycle can change anything: those that hold something, and those of clusters that issue or wash. -/
def cycleTiles (s : State) : List Nat :=
  (List.range 1024).filter (fun t => (s.gov.admitted ||| s.gov.wash).getLsbD (clusterOf t) || (tilesIn s).contains t)

/-- TILE_CYCLE (R76). -/
def execTileCycle (s : State) : Res := .next (forAll (cycleTiles s) tileCycle { s with cycle := s.cycle + 1 })

/-! ### Tile registers (R83 to R85) -/

/-- TILE.STATUS with the overlays 5 and 6 that the cluster gives (R84). -/
def tileStatus (t : Nat) (s : State) : BitVec 32 :=
  let x := tileAt t s
  let st := if x.st == 1 || x.st == 2 || x.st == 4 then
      (if s.gov.halt != 0 then 5 else if s.gov.held.getLsbD (clusterOf t) then 6 else x.st.toNat) else x.st.toNat
  BitVec.ofNat 32 (x.queue.toNat * 2 ^ 24 + x.part.toNat * 2 ^ 20 + b2n x.assigned * 2 ^ 19 + st)

/-- A write of 1 to TILE.FAULT.VALID clears the whole record (R85); the tile stays stopped (R84). -/
def faultClear (t : Nat) (s : State) : State :=
  updTile t (fun x => { x with fault := FaultRec.zero, st := if x.st == 8 then 7 else x.st }) s

end Sys2Proof.Machine
end

