-- ==== Sys2Proof/Machine/Mailbox.lean ====
section
/-! DEFINITION. Rights of an origin, the mailbox channels, doorbells, masks and the compatibility mode (R244, R256 to R264). -/

namespace Sys2Proof.Machine

/-! ### Rights (R241, R264) -/

/-- RST.OPT (R435). -/
def aRstOpt : Nat := 0x1_0014

/-- Whether an origin holds right `i`: 0 READ, 1 BASIC, 2 EXPERT, 3 LEGACY. -/
def hasRight (i : Nat) (o : Origin) (s : State) : Bool :=
  match sessionOf o with
  | some n => (sesAt n s).rights.getLsbD i
  | none =>
    if o = oRack then decide (i < 2) || (i == 2 && regIs aRstOpt 0 s) || (i == 3 && regIs aRstOpt 1 s)
    else isSteward o && decide (i < 3)

/-- The four rights. -/
def rRead : Nat := 0
def rBasic : Nat := 1
def rExpert : Nat := 2
def rLegacy : Nat := 3

/-- A host session that holds a right. -/
def hostWith (i : Nat) (o : Origin) (s : State) : Bool := (sessionOf o).isSome && hasRight i o s

/-- A peer package of this package's tray. -/
def trayPeer (o : Origin) (s : State) : Bool :=
  decide (0x3000 ≤ o.toNat) && decide (o.toNat < 0x3040) && decide (o.toNat % 64 / 4 = rackIndex (pkgId s) / 4)

/-- A package that may hold the brush (R354). -/
def candidateHere (s : State) : Bool := isModule s && (s.rst.straps.packcand == 1 || s.rst.straps.packcand == 2)

/-! ### Channels (R256, R257, R259) -/

/-- Channel `c`. -/
def mbxAt (c : Nat) (s : State) : Mbox := mapGet Mbox.zero s.mbox c

/-- Change channel `c`. -/
def updMbx (c : Nat) (f : Mbox → Mbox) (s : State) : State := { s with mbox := mapUpd Mbox.zero s.mbox c f }

/-- What origin `o` has staged for channel `c`. -/
def stagedAt (o : Origin) (c : Nat) (s : State) : Staged := mapGet Staged.zero s.staged (32 * o.toNat + c)

/-- Change what an origin has staged. -/
def updStaged (o : Origin) (c : Nat) (f : Staged → Staged) (s : State) : State :=
  { s with staged := mapUpd Staged.zero s.staged (32 * o.toNat + c) f }

/-- A register of a channel. -/
def aMbx (c off : Nat) : Nat := 0x3_0000 + 0x80 * c + off

/-- Receivers of R260. -/
def mbxReceiver (c : Nat) : Nat :=
  if c < 8 then 0 else if c < 12 then 1 else if c < 14 then 2 else if c = 14 then 3 else if c = 15 then 5
  else if c < 20 then 4 else if c < 24 then 5 else 0

/-- Whether an origin is the receiver of a channel. -/
def isReceiver (c : Nat) (o : Origin) (s : State) : Bool :=
  match mbxReceiver c with
  | 0 => isSteward o
  | 1 => o == oGov
  | 2 => o == oPack
  | 3 => o == oVarnish
  | 4 => o == oRack
  | _ => match sessionOf o with | some n => (sesAt n s).isOpen | none => false

/-- Whether a channel is in the compatibility mode (R262, R263). -/
def isCompat (c : Nat) (s : State) : Bool := decide (28 ≤ c) && (mbxAt c s).compat

/-- Whether an origin may send on a channel (R256, R263). -/
def maySend (c : Nat) (o : Origin) (s : State) : Bool :=
  if isCompat c s then hasRight rLegacy o s
  else if c < 8 || decide (28 ≤ c) then hostWith rBasic o s || o == oRack
  else if c < 12 then isSteward o
  else if c < 14 then isSteward o || (candidateHere s && trayPeer o s)
  else if c = 14 then hasRight rRead o s
  else if c = 15 then o == oVarnish
  else if c < 20 then isSteward o || o == oGov
  else if c < 24 then isSteward o || o == oGov || o == oPack
  else isSteward o

/-- VSRAM supplies the Steward (R259). -/
def vsramOn (s : State) : Bool := railHolds 1 s

/-- Whether the domain of a channel's receiver has its supply (R259). -/
def mbxPowered (c : Nat) (s : State) : Bool :=
  match mbxReceiver c with
  | 0 => vsramOn s
  | 3 => s.varnish.supply
  | _ => true

/-- MBX.ERR (R261): origin, channel and cause. -/
def mbxErr (o : Origin) (c cause : Nat) (s : State) : State :=
  setReg aMbxErr (BitVec.ofNat 32 (o.toNat * 65536 + c * 256 + cause)) s

/-- A rights refusal on a channel. -/
def mbxRights (o : Origin) (c a : Nat) (s : State) : Resp × State :=
  (.rights, refuseRights o (BitVec.ofNat 32 a) (mbxErr o c 3 s))

/-! ### Doorbells (R260, R261) -/

/-- The doorbell of a receiver, and its mask. -/
def aBell (r : Nat) : Nat := 0x3_1000 + 0x10 * r
def aMask (r : Nat) : Nat := 0x3_1004 + 0x10 * r

/-- A notification in the receiver's own way (R260): the Governor and the pack controller take theirs at the next beat's latch. -/
def notify (r : Nat) (s : State) : State :=
  if r = 1 ∨ r = 2 then { s with bellsDue := setBit s.bellsDue r true }
  else
    let s := emit (.interrupt (BitVec.ofNat 3 r)) s
    if r = 5 then hostSend 0 (.doorbell (reg (aBell 5) s)) s else s

/-- FRAC 0: the Governor and the pack controller take their notifications (R33, R260). -/
def bellsLatch (s : State) : State :=
  forAll ([1, 2].filter (fun r => s.bellsDue.getLsbD r)) (fun r s => emit (.interrupt (BitVec.ofNat 3 r)) s) { s with bellsDue := 0 }

/-- Set bell `c` of receiver `r`; a bell that rises raises a notification unless it is masked. -/
def ringBell (r c : Nat) (always : Bool) (s : State) : State :=
  let was := regIs (aBell r) c s
  let s := regBit (aBell r) c true s
  if always || (!was && regIs (aMask r) c s) then notify r s else s

/-- A write of a mask (R260): an enable that is written while its bell is set raises a notification. -/
def maskWrite (r : Nat) (v : BitVec 32) (s : State) : State :=
  let bells := reg (aBell r) s
  let s := setReg (aMask r) v s
  if v &&& bells ≠ 0 then notify r s else s

/-! ### Posting (R258, R263) -/

/-- A message enters an empty channel. -/
def mbxTake (c : Nat) (o : Origin) (msg : List (BitVec 32)) (s : State) : State :=
  let compat := isCompat c s
  let s := updMbx c (fun m => { m with msg := msg, origin := o, stamp := now s, full := true, lock := true }) s
  ringBell (mbxReceiver c) c compat s

/-- The message that an origin has staged: `n` registers, unwritten ones zero. -/
def stagedMsg (o : Origin) (c n : Nat) (s : State) : List (BitVec 32) :=
  (List.range n).map (fun k => mapGet 0 (stagedAt o c s).regs k)

/-- The Steward posts a message of its own (R376, R462). The spec gives neither which core sends it nor what it says, so both are free
values (log 29); a Steward that does not run posts nothing, and a full channel refuses it. -/
def stewardPost (c : Nat) (s : State) : State :=
  if !s.rst.steward || !railHolds 1 s then s
  else
    let o : Origin := BitVec.ofNat 16 (0x2000 + (Config.freeValue s.free).toNat % 4)
    let msg := (List.range 8).map (fun k => (Config.freeValue (s.free + 1 + k)).setWidth 32)
    let s := { s with free := s.free + 9 }
    if (mbxAt c s).full then mbxErr o c 1 s else mbxTake c o msg s

/-- GO on a channel of this package. -/
def postLocal (o : Origin) (c n : Nat) (s : State) : Resp × State :=
  if (mbxAt c s).full then (.busError, mbxErr o c 1 s)
  else if 16 < n then (.error, mbxErr o c 6 s)
  else
    let msg := stagedMsg o c n s
    (.ok 0, mbxTake c o msg (updStaged o c (fun _ => Staged.zero) s))

/-- The cause of R261 of a refused message, and the response that has it (R258, R259). -/
def causeResp (cause : Nat) : Resp :=
  match cause with
  | 0 => .ok 0
  | 1 => .busError
  | 2 => .poweredDown
  | 3 => .rights
  | 4 => .unreachable
  | _ => .error

/-- GO on channels 24 to 27 (R258): the message goes to the destination on CL1, and the write waits for the destination's answer. -/
def postRemote (o : Origin) (c n : Nat) (s : State) : Resp × State :=
  let d := (stagedAt o c s).dest
  let dst := if d.getLsbD 6 then partnerPkg (rackPkg s (d.toNat % 64)) else rackPkg s (d.toNat % 64)
  if dst = pkgId s then postLocal o c n s
  else if 16 < n then (.error, mbxErr o c 6 s)
  else
    let q := netSend 1 none acctIdle dst (.mbox (BitVec.ofNat 5 c) (stagedMsg o c n s)) s
    if !q.1 then (.unreachable, mbxErr o c 4 s)
    else (.held, { q.2 with goWaits := q.2.goWaits ++ [(o, BitVec.ofNat 5 c, dst)] })

/-- The destination's answer completes the oldest GO that waits for it (R258): a message that was taken leaves the sender's staged
registers, a refusal leaves them and sets MBX.ERR. -/
def mboxReplyIn (src : PkgId) (ch : BitVec 5) (cause : Nat) (s : State) : State :=
  let q := takeFirst (fun w => decide (w.2 = (ch, src))) s.goWaits
  match q.1 with
  | some w =>
    let s := { s with goWaits := q.2 }
    let s := if cause = 0 then updStaged w.1 ch.toNat (fun _ => Staged.zero) s else mbxErr w.1 ch.toNat cause s
    emit (.access w.1 (BitVec.ofNat 24 (aMbx ch.toNat 0x40)) (causeResp cause)) s
  | none => s

/-- Post what an origin has staged. -/
def postStaged (o : Origin) (c : Nat) (s : State) : Resp × State :=
  let n := if isCompat c s then 8 else (stagedAt o c s).len.toNat + 8
  if 24 ≤ c && decide (c < 28) then postRemote o c n s else postLocal o c n s

/-- A write of MBX.MSGk (R257, R263). A `late` one was held, so its rights were tested when it was made. -/
def msgWrite (late : Bool) (o : Origin) (c k : Nat) (v : BitVec 32) (s : State) : Resp × State :=
  let a := aMbx c (4 * k)
  if !late && !maySend c o s then mbxRights o c a s
  else if !mbxPowered c s then
    if isCompat c s then (.held, { s with compatHeld := s.compatHeld ++ [⟨o, BitVec.ofNat 24 a, v⟩] })
    else (.poweredDown, mbxErr o c 2 s)
  else
    let s := updStaged o c (fun x => { x with regs := mapSet 0 x.regs k v }) s
    if isCompat c s && decide (k = 7) && v.getLsbD 31 then
      let q := postStaged o c s
      (q.1, if q.1 = .ok 0 then logWrite o a 0 0 v q.2 else q.2)
    else (.ok 0, s)

/-- RELEASE by the receiver empties the channel. -/
def mbxRelease (c : Nat) (s : State) : State := updMbx c (fun m => { m with msg := [], full := false }) s

/-- RELEASE, the staged fields and GO of a write of MBX.CTRL (R257, R258, R263). -/
def ctrlRest (late : Bool) (o : Origin) (c : Nat) (v : BitVec 32) (s : State) : Resp × State :=
  let a := aMbx c 0x40
  let go := v.getLsbD 31
  let rel := v.getLsbD 30
  let send := maySend c o s || (late && !isSteward o)
  if (rel && !isReceiver c o s) || (!rel && !send) || (go && !send && !isCompat c s) then mbxRights o c a s
  else if !mbxPowered c s then
    if isCompat c s then (.held, { s with compatHeld := s.compatHeld ++ [⟨o, BitVec.ofNat 24 a, v⟩] })
    else (.poweredDown, mbxErr o c 2 s)
  else
    let s := if rel then mbxRelease c s else s
    if isCompat c s || !send then (.ok 0, s)
    else
      let s := updStaged o c (fun x => { x with
        len := BitVec.ofNat 4 (fld v 3 0), dest := if 24 ≤ c && decide (c < 28) then BitVec.ofNat 7 (fld v 22 16) else x.dest }) s
      if go then postStaged o c s else (.ok 0, s)

/-- A write of MBX.CTRL: COMPAT first, by an EXPERT origin while it is not locked (R262), then the rest. -/
def ctrlWrite (late : Bool) (o : Origin) (c : Nat) (v : BitVec 32) (s : State) : Resp × State :=
  let a := aMbx c 0x40
  let on := v.getLsbD 28
  if decide (28 ≤ c) && (on != (mbxAt c s).compat) then
    if !late && !hasRight rExpert o s then mbxRights o c a s
    else if !mbxPowered c s then
      if isCompat c s then (.held, { s with compatHeld := s.compatHeld ++ [⟨o, BitVec.ofNat 24 a, v⟩] })
      else (.poweredDown, mbxErr o c 2 s)
    else if (mbxAt c s).lock then (.error, mbxErr o c 5 s)
    else
      let s := logWrite o a 0 (BitVec.ofNat 32 (b2n (!on) * 2 ^ 28)) (BitVec.ofNat 32 (b2n on * 2 ^ 28)) (updMbx c (fun m => { m with compat := on }) s)
      if (v.getLsbD 30 && isReceiver c o s) || (!v.getLsbD 30 && maySend c o s) then ctrlRest late o c v s else (.ok 0, s)
  else ctrlRest late o c v s

/-- Ring bell `b` of the Steward of a package of the rack pair: [6] across link 63, [5:0] rack index. -/
def ringGo (o : Origin) (b d : Nat) (s : State) : Resp × State :=
  let here := rackPkg s (d % 64)
  let dst := if d / 64 = 1 then partnerPkg here else here
  if dst = pkgId s then (.ok 0, ringBell 0 b false s)
  else
    let q := netSend 0 (some .doorbell) acctIdle dst (.ring (BitVec.ofNat 5 b)) s
    if q.1 then (.ok 0, q.2) else (.unreachable, mbxErr o b 4 s)

/-- A write of MBX.RING (R261): a bell from 24 to 27 of another package's Steward. -/
def ringWrite (o : Origin) (v : BitVec 32) (s : State) : Resp × State :=
  let b := fld v 4 0
  if !isSteward o || b < 24 || 27 < b then mbxRights o b 0x3_1104 s else ringGo o b (fld v 22 16) s

/-- A bell that a peer rings (R261). -/
def ringIn (o : Origin) (b : Nat) (s : State) : State :=
  if 24 ≤ b ∧ b ≤ 27 then ringBell 0 b false s else (mbxRights o b 0x3_1104 s).2

/-- A message from a peer package (R258): posted, or refused with its record. The first part is the cause, 0 for posted. -/
def mbxRemote (o : Origin) (c : Nat) (msg : List (BitVec 32)) (s : State) : Nat × State :=
  let may := (decide (24 ≤ c) && decide (c < 28)) || ((c == 12 || c == 13) && candidateHere s && trayPeer o s)
  if !may then (3, (mbxRights o c (aMbx c 0x40) s).2)
  else if !mbxPowered c s then (2, mbxErr o c 2 s)
  else if (mbxAt c s).full then (1, mbxErr o c 1 s)
  else if msg.length < 8 || 16 < msg.length then (6, mbxErr o c 6 s)
  else (0, mbxTake c o msg s)

/-- The package that a peer's origin identity names (R244). -/
def peerPkg (o : Origin) (s : State) : PkgId :=
  let p := rackPkg s (o.toNat % 64)
  if o.getLsbD 6 then partnerPkg p else p

/-- A message from a peer package, with the answer that its sender's GO waits for (R258). -/
def mboxIn (src : PkgId) (o : Origin) (ch : BitVec 5) (msg : List (BitVec 32)) (s : State) : State :=
  let q := mbxRemote o ch.toNat msg s
  (netSend 1 none acctIdle src (.mboxReply ch (BitVec.ofNat 4 q.1)) q.2).2

/-- A read of a channel register (R257, R259, R263). -/
def mbxRead (o : Origin) (c off : Nat) (s : State) : Resp × State :=
  let m := mbxAt c s
  if isCompat c s && !hasRight rLegacy o s && !isSteward o then mbxRights o c (aMbx c off) s
  else if !mbxPowered c s then (.poweredDown, mbxErr o c 2 s)
  else if off < 0x40 then (.ok (m.msg.getD (off / 4) 0), s)
  else if off = 0x40 then
    let x := stagedAt o c s
    (.ok (BitVec.ofNat 32 (b2n m.full * 2 ^ 29 + b2n m.compat * 2 ^ 28 + b2n m.lock * 2 ^ 27 +
      x.dest.toNat * 65536 + (if isCompat c s then 0 else x.len.toNat))), s)
  else if off = 0x44 then (.ok (if isCompat c s then 0xFFFF else m.origin.setWidth 32), s)
  else if off = 0x48 then (.ok (lo32 m.stamp), s)
  else (.ok (hi32 m.stamp), s)

/-- A held write of a compatibility channel takes effect, or waits on for room in the change log (R421). -/
def compatLate (h : HeldWrite) (s : State) : State :=
  if logRoom s then
    let a := h.addr.toNat - 0x3_0000
    let q := if a % 0x80 < 0x40 then msgWrite true h.origin (a / 0x80) (a % 0x80 / 4) h.value s
             else ctrlWrite true h.origin (a / 0x80) h.value s
    emit (.access h.origin h.addr q.1) q.2
  else { s with changes := { s.changes with heldWrites := s.changes.heldWrites ++ [h] } }

/-- COMPAT_HELD_RELEASE: VSRAM is in regulation, and the held writes take effect in order (R263). -/
def compatRelease (s : State) : State :=
  if vsramOn s then forAll s.compatHeld compatLate { s with compatHeld := [] } else s

/-- MBX_REMOTE_POST (R258). -/
def execMbxRemotePost (o : Origin) (ch : BitVec 5) (msg : List (BitVec 32)) (s : State) : Res :=
  .next (mboxIn (peerPkg o s) o ch msg s)

/-- RING_RECEIVE (R261). -/
def execRingReceive (o : Origin) (bit : BitVec 5) (s : State) : Res := .next (ringIn o bit.toNat s)

end Sys2Proof.Machine
end

