-- ==== Sys2Proof/Machine/Loop.lean ====
section
/-! DEFINITION. The loop engine: operands, ports, the operations of a loaded program, the run, the sketchbook, loading and
verifying (R299 to R315, R322 to R324). -/

namespace Sys2Proof.Machine

/-! ### Sketchbook (R322 to R324) -/

/-- A register of CTL. -/
def aCtl (off : Nat) : Nat := 0x11_0000 + off

/-- CTL.STATUS as read: the stored flags and the engine's state (R326). -/
def ctlStatus (s : State) : BitVec 32 :=
  let l := s.loop
  reg aCtlStatus s ||| BitVec.ofNat 32 (l.source.toNat * 512 + b2n l.palIsB * 256 + b2n l.stage.isSome * 128 +
    b2n l.copying * 64 + b2n (!l.entries.isEmpty) * 32 + b2n l.commit.isSome * 16)

/-- A loop-engine event: KEY is CTL.STATUS after the change (R411). -/
def ctlEvent (i : Nat) (up : Bool) (s : State) : State := statusReport 0x70 oGov (ctlStatus s) i up s

/-- A stroke node of R345 as FP32. -/
def strokeNode (ix : Nat) (s : State) : BitVec 32 :=
  let x := railAt (ix / 8) s
  if 32 ≤ ix then 0
  else match ix % 8 with
    | 0 => ofRat32 (mkRat x.ref 64000)
    | 1 => ofRat32 (mkRat x.vSense 64000)
    | 2 => ofRat32 (mkRat x.err 64000)
    | 3 => ofRat32 (mkRat x.acc 256000)
    | 4 => ofRat32 (mkRat x.iTotal 256000)
    | 5 => ofInt32 0 ((activeOf (ix / 8) s).length : Nat)
    | 6 => ofRat32 (mkRat x.iSum 1000)
    | _ => ofRat32 (mkRat x.dff 256000)

/-- The present value of a sketchbook source. -/
def skValue (src : Nat) (s : State) : BitVec 32 :=
  let ix := src % 256
  match src / 256 % 4 with
  | 0 => mapGet 0 s.loop.vars ix
  | 1 => if ix < 128 then mapGet 0 s.loop.input (0x100 + ix) else 0
  | 2 => if ix < 128 then mapGet (mapGet 0 s.loop.output (0x100 + ix)) s.loop.staged (0x100 + ix) else 0
  | _ => strokeNode ix s

/-- Governor events that trigger (R291, R323). -/
def govEventBits : BitVec 32 := 0x3FA

/-- Kind and interval of channel `n` (R322). -/
def skKind (n : Nat) (s : State) : Nat := regF (aCtl (0xA0 + 4 * n)) 9 8 s
def skDec (n : Nat) (s : State) : Nat := regF (aCtl (0xA0 + 4 * n)) 13 10 s

/-- Whether channel `n` records in this beat or stroke. -/
def skDue (n : Nat) (s : State) : Bool :=
  let t := if skKind n s = 3 then s.beat.toNat * 8 + s.frac.toNat / 512 else s.beat.toNat
  decide (t % 2 ^ skDec n s = 0)

/-- One more than the number of the present beat, or for a stroke channel of the present stroke. -/
def skStamp (n : Nat) (s : State) : Nat := if skKind n s = 3 then 8 * s.tick + s.frac.toNat / 512 + 1 else s.tick + 1

/-- Record channel `n` once. A trigger sample that was still to come is now the latest (R324). -/
def skPush (n : Nat) (s : State) : State :=
  let k := s.loop.sk
  let late := k.late.contains n
  let more := k.st == 2 && !late
  if !skDue n s || (more && mapGet 0 k.left n == 0) then s
  else
    let src := regF (aCtl (0xA0 + 4 * n)) 9 0 s
    let l := (skValue src s :: mapGet [] k.samples n).take 8192
    let k := { k with samples := mapSet [] k.samples n l, seen := mapSet 0 k.seen n (skStamp n s), late := k.late.filter (· ≠ n),
                      left := if more then mapSet 0 k.left n (mapGet 0 k.left n - 1) else k.left,
                      tpos := if more then mapSet 0 k.tpos n (min 8191 (mapGet 0 k.tpos n + 1)) else k.tpos }
    { s with loop := { s.loop with sk := k } }

/-- The sketchbook stops when every channel has recorded its trigger sample and POST more. -/
def skEnd (s : State) : State :=
  let k := s.loop.sk
  if k.st == 2 && k.late.isEmpty && (List.range 8).all (fun n => mapGet 0 k.left n == 0) then
    { s with loop := { s.loop with sk := { k with st := 3 } } }
  else s

/-- The trigger: the sample that a channel takes in this beat, or stroke, is its trigger sample, whether it has been taken or is still to
come, and POST more follow (R323, R324). -/
def skFire (s : State) : State :=
  let post := min 8192 (regF (aCtl 0x80) 13 0 s)
  let late := (List.range 8).filter (fun n => skDue n s && decide (mapGet 0 s.loop.sk.seen n ≠ skStamp n s))
  let k := { s.loop.sk with trig := true, stamp := now s, tpos := [], st := 2, late := late,
                            left := mapSetAll 0 [] ((List.range 8).map (fun n => (n, post))) }
  skEnd { s with loop := { s.loop with sk := k } }

/-- Whether a sample of the trigger source meets COND. -/
def skMeets (cond : Nat) (prev : Option (BitVec 32)) (v lev : BitVec 32) : Bool :=
  match prev with
  | none => false
  | some p =>
    if cond = 1 then flt lev v && fle p lev
    else if cond = 2 then flt v lev && fle lev p
    else if cond = 3 then flt lev (fabs (fsub v p))
    else false

/-- Governor events since `was` (R291, R323): a bit that was set, or CAP_UNATT that changed. -/
def govEvents (was seen : BitVec 32) : Bool := seen &&& ~~~was != 0 || was.getLsbD 1 != seen.getLsbD 1

/-- Whether the trigger of R323 fires at a sampling of the sources of the kinds listed. -/
def skTrigger (kinds : List Nat) (miss : Bool) (k : Sketch) (s : State) : Bool :=
  let cond := regF (aCtl 0x80) 28 26 s
  let tsrc := regF (aCtl 0x80) 25 16 s
  (kinds.contains (tsrc / 256) && skMeets cond k.prev (skValue tsrc s) (reg (aCtl 0x88) s)) || (cond = 4 && miss) ||
    (cond = 5 && !s.loop.followRun.isEmpty) || (cond = 6 && govEvents k.govSeen (reg aGovStatus s &&& govEventBits))

/-- One sampling of the sources of the kinds listed (R322, R323). `miss` is set for a missed beat. -/
def skSample (kinds : List Nat) (miss : Bool) (s : State) : State :=
  let k := s.loop.sk
  let done (s : State) : State := { s with loop := { s.loop with followRun := [] } }
  if !(k.st == 1 || k.st == 2) then done s
  else
    let s := forAll ((List.range 8).filter (fun n => kinds.contains (skKind n s))) skPush s
    let s :=
      if k.st == 1 then
        let tsrc := regF (aCtl 0x80) 25 16 s
        let fire := skTrigger kinds miss k s
        let s := { s with loop := { s.loop with sk := { s.loop.sk with
          prev := if kinds.contains (tsrc / 256) then some (skValue tsrc s) else k.prev, govSeen := reg aGovStatus s &&& govEventBits } } }
        if fire then skFire s else s
      else s
    skEnd (done s)

/-- ARM clears the buffers (R323). -/
def skArm (s : State) : State :=
  { s with loop := { s.loop with followRun := [], sk := { Sketch.zero with st := 1, govSeen := reg aGovStatus s &&& govEventBits } } }

/-- FORCE triggers at once in ARMED. -/
def skForce (s : State) : State := if s.loop.sk.st == 1 then skFire s else s

/-- STOP from ARMED or TRIGGERED. -/
def skStop (s : State) : State :=
  if s.loop.sk.st == 1 || s.loop.sk.st == 2 then { s with loop := { s.loop with sk := { s.loop.sk with st := 3 } } } else s

/-- POST_COMPLETE: every channel has recorded its POST samples. -/
def execPostComplete (s : State) : Res := .next (skEnd s)

/-! ### Operands and ports (R300 to R303) -/

/-- A source operand. -/
def loopGet (code : Nat) (s : State) : BitVec 32 :=
  if code < 0x100 then mapGet 0 s.loop.shadow code
  else if code < 0x180 then mapGet 0 s.loop.input code
  else 0

/-- Round an FP32 value down and clamp it; an infinity goes to its bound. -/
def floorClamp (v : BitVec 32) (lo hi : Int) : Int :=
  clampI lo hi (if v = inf32 false then hi else if v = inf32 true then lo else floorTimes v 1)

/-- The same as FP32. -/
def floorPort (v : BitVec 32) (lo hi : Int) : BitVec 32 := ofInt32 0 (floorClamp v lo hi)

/-- Clamp an FP32 value between FP32 bounds. -/
def clampF32 (v lo hi : BitVec 32) : BitVec 32 := fmin (fmax v lo) hi

/-- An output port's own range (R303, R344, R383). -/
def portConv (code : Nat) (v : BitVec 32) (s : State) : BitVec 32 :=
  if code = 0x100 then floorPort v 0 2048
  else if code = 0x101 then floorPort v 0 6
  else if code = 0x102 then floorPort v 0 32767
  else if 0x120 ≤ code ∧ code < 0x140 then
    let r := (code - 0x120) / 8
    match (code - 0x120) % 8 with
    | 0 => clampF32 v 0xBCA3D70A 0x3CA3D70A
    | 1 => floorPort v 1 (max 1 (healthyOf r s).length : Nat)
    | _ => v
  else v

/-- Whether an output port is assigned (R303, R344, R383). -/
def portAssigned (code : Nat) : Bool :=
  (decide (0x100 ≤ code) && decide (code ≤ 0x103)) ||
    (decide (0x120 ≤ code) && decide (code < 0x140) && decide ((code - 0x120) % 8 < 3)) ||
    (decide (0x140 ≤ code) && decide (code ≤ 0x143))

/-- Stage a value for an output port (R303): a NaN is discarded. -/
def stagePort (code : Nat) (v : BitVec 32) (s : State) : State :=
  if isNan v then regBit aCtlStatus 2 true s
  else { s with loop := { s.loop with staged := (code, portConv code v s) :: s.loop.staged.filter (fun e => decide (e.1 ≠ code)) } }

/-- Write a destination operand. -/
def loopSet (code : Nat) (v : BitVec 32) (s : State) : State :=
  if code < 0x100 then { s with loop := { s.loop with shadow := mapSet 0 s.loop.shadow code v } }
  else if code < 0x180 then (if portAssigned code then stagePort code v s else s)
  else s

/-! ### Runs (R313, R314) -/

/-- The last cycle of a run. -/
def deadline : Nat := 910

/-- CTL.CYCLES after a run. -/
def setCycles (n : Nat) (s : State) : State :=
  updReg (aCtl 0x14) (fun v => setFld (setFld v 11 0 n) 27 16 (max n (fld v 27 16))) s

/-- A run finishes: the shadow becomes the variables; the outputs wait for the next FRAC 0. -/
def finishRun (s : State) : State :=
  let l := s.loop
  let s := { s with loop := { l with vars := l.shadow, running := false, missedRun := false, misses := 0 } }
  skSample [0, 2] false (setCycles l.cycles s)

/-- A missed beat (R314, R315): shadow and staged outputs are discarded, and the ROM may be due. -/
def missRun (s : State) : State :=
  let l := s.loop
  let m := l.misses + 1
  let lim := regF (aCtl 0) 15 8 s
  let s := { s with loop := { l with shadow := [], staged := [], running := false, missedRun := true, misses := m,
                                     romNext := l.romNext || (decide (lim ≠ 0) && decide (lim ≤ m)) } }
  let s := countReg (aCtl 0x10) 1 (setCycles deadline s)
  let s := regBit aCtlStatus 0 true s
  let s := if m = 1 then ctlEvent 0 true s else s
  skSample [0, 2] true s

/-- LOOP_DEADLINE_MISS: 950 ns with a run unfinished. -/
def execLoopDeadlineMiss (s : State) : Res := .next (if s.loop.running then missRun s else s)

/-- The fields of a loop instruction word (R305). -/
def loopFields (w : Nat) : Nat × LoopIns :=
  (bitsN w 63 58, ⟨BitVec.ofNat 9 (bitsN w 57 49), BitVec.ofNat 9 (bitsN w 48 40), BitVec.ofNat 9 (bitsN w 39 31),
    BitVec.ofNat 9 (bitsN w 30 22), BitVec.ofNat 11 (bitsN w 21 11), BitVec.ofNat 11 (bitsN w 10 0)⟩)

/-- The word of the active bank at the run's PC. -/
def activeWord (s : State) : BitVec 64 := mapGet 0 (if s.loop.source = 1 then s.loop.bankA else s.loop.bankB) s.loop.pc

/-- Whether that word is uncorrectable (R315). -/
def activeBad (s : State) : Bool := s.loop.wordErr.contains (s.loop.pc + if s.loop.source = 1 then 0 else 512)

/-- An uncorrectable word or palette entry aborts the run as a missed beat (R315). -/
def memMiss (s : State) : State := regBit aCtlStatus 3 true (missRun s)

/-- Operation `op` with fields `i` of a bank's run (R306, R315): it runs where the word at the PC spells it and its cycles fit before the
deadline; an uncorrectable word, after which the ROM is due, or one of the `reads` palette entries that it reads aborts the run. -/
def loopAt (op : Nat) (i : LoopIns) (reads cycles : Nat) (f : State → State) (s : State) : State :=
  let l := s.loop
  if !l.running || l.source == 0 then s
  else if activeBad s then memMiss { s with loop := { l with romNext := true } }
  else if !decide (loopFields (activeWord s).toNat = (op, i)) || decide (deadline < l.cycles + cycles) then s
  else if (List.range reads).any (fun j => palBad (i.k.toNat + j) s) then memMiss s
  else f { s with loop := { l with cycles := l.cycles + cycles } }

/-- An operation that moves on, past the last instruction to the end of the run. -/
def loopStepOp (op : Nat) (i : LoopIns) (reads cycles : Nat) (jump : Option Nat) (f : State → State) (s : State) : State :=
  loopAt op i reads cycles (fun s =>
    let s := f s
    let s := { s with loop := { s.loop with pc := s.loop.pc + jump.getD 1 } }
    if s.loop.len ≤ s.loop.pc then finishRun s else s) s

/-- Every NaN result is 0x7FC0_0000 (R307). -/
def canonNan (v : BitVec 32) : BitVec 32 := if isNan v then nan32 else v

/-- An operation that writes D. -/
def loopOp (op reads cycles : Nat) (i : LoopIns) (f : State → BitVec 32) (s : State) : Res :=
  .next (loopStepOp op i reads cycles none (fun s => loopSet i.d.toNat (canonNan (f s)) s) s)

/-- FP32 one. -/
def one32 : BitVec 32 := 0x3F800000

/-- A condition as 1.0 or 0.0. -/
def flag32 (b : Bool) : BitVec 32 := if b then one32 else 0

/-- A > 0; a NaN gives false. -/
def pos32 (v : BitVec 32) : Bool := flt 0 v

/-! ### Operations (R306 to R310) -/

/-- Sources of an instruction. -/
def srcA (i : LoopIns) (s : State) : BitVec 32 := loopGet i.a.toNat s
def srcB (i : LoopIns) (s : State) : BitVec 32 := loopGet i.b.toNat s
def srcC (i : LoopIns) (s : State) : BitVec 32 := loopGet i.c.toNat s

/-- D as an operation reads it (R308): the variable, or the output port's value as staged or held (R300, R303). -/
def srcD (i : LoopIns) (s : State) : BitVec 32 :=
  let d := i.d.toNat
  if d < 0x100 then mapGet 0 s.loop.shadow d
  else mapGet (mapGet 0 s.loop.output d) s.loop.staged d

/-- pal[K + j]. -/
def palK (i : LoopIns) (j : Nat) (s : State) : BitVec 32 := palAct (i.k.toNat + j) s

/-- NOP. -/
def execLoopNop (i : LoopIns) (s : State) : Res := .next (loopStepOp 0x00 i 0 1 none id s)
/-- END. -/
def execLoopEnd (i : LoopIns) (s : State) : Res := .next (loopAt 0x01 i 0 1 finishRun s)
/-- MOV. -/
def execLoopMov (i : LoopIns) (s : State) : Res := loopOp 0x02 0 1 i (srcA i) s

/-- LDK: the entry as FP32, or a field of it. -/
def ldkValue (i : LoopIns) (s : State) : BitVec 32 :=
  let f := i.f.toNat
  let w := palK i 0 s
  let lo := f / 16 % 32
  let n := f % 16 + 1
  let v := bitsN w.toNat (lo + n - 1) lo
  match f / 512 with
  | 0 => w
  | 1 => ofInt32 0 (v : Nat)
  | 2 => ofInt32 0 (if v < 2 ^ (n - 1) then (v : Int) else (v : Int) - 2 ^ n)
  | _ => 0

/-- LDK. -/
def execLoopLdk (i : LoopIns) (s : State) : Res := loopOp 0x03 1 1 i (ldkValue i) s
/-- ADD. -/
def execLoopAdd (i : LoopIns) (s : State) : Res := loopOp 0x04 0 1 i (fun s => fadd (srcA i s) (srcB i s)) s
/-- SUB. -/
def execLoopSub (i : LoopIns) (s : State) : Res := loopOp 0x05 0 1 i (fun s => fsub (srcA i s) (srcB i s)) s
/-- MUL. -/
def execLoopMul (i : LoopIns) (s : State) : Res := loopOp 0x06 0 1 i (fun s => fmul (srcA i s) (srcB i s)) s
/-- FMA: one rounding. -/
def execLoopFma (i : LoopIns) (s : State) : Res := loopOp 0x07 0 2 i (fun s => ffma (srcA i s) (srcB i s) (srcC i s)) s
/-- DIV. -/
def execLoopDiv (i : LoopIns) (s : State) : Res := loopOp 0x08 0 4 i (fun s => fdiv (srcA i s) (srcB i s)) s
/-- MIN. -/
def execLoopMin (i : LoopIns) (s : State) : Res := loopOp 0x09 0 1 i (fun s => fmin (srcA i s) (srcB i s)) s
/-- MAX. -/
def execLoopMax (i : LoopIns) (s : State) : Res := loopOp 0x0A 0 1 i (fun s => fmax (srcA i s) (srcB i s)) s
/-- CLAMP: MIN(MAX(A, B), C). -/
def execLoopClamp (i : LoopIns) (s : State) : Res := loopOp 0x0B 0 1 i (fun s => fmin (fmax (srcA i s) (srcB i s)) (srcC i s)) s
/-- ABS. -/
def execLoopAbs (i : LoopIns) (s : State) : Res := loopOp 0x0C 0 1 i (fun s => fabs (srcA i s)) s
/-- SEL. -/
def execLoopSel (i : LoopIns) (s : State) : Res := loopOp 0x0D 0 1 i (fun s => if pos32 (srcC i s) then srcA i s else srcB i s) s
/-- CGT. -/
def execLoopCgt (i : LoopIns) (s : State) : Res := loopOp 0x0E 0 1 i (fun s => flag32 (flt (srcB i s) (srcA i s))) s
/-- CGE. -/
def execLoopCge (i : LoopIns) (s : State) : Res := loopOp 0x0F 0 1 i (fun s => flag32 (fle (srcB i s) (srcA i s))) s
/-- CEQ. -/
def execLoopCeq (i : LoopIns) (s : State) : Res := loopOp 0x10 0 1 i (fun s => flag32 (feq (srcA i s) (srcB i s))) s
/-- BR. -/
def execLoopBr (i : LoopIns) (s : State) : Res := .next (loopStepOp 0x11 i 0 1 (some i.f.toNat) id s)
/-- BRP. -/
def execLoopBrp (i : LoopIns) (s : State) : Res := .next (loopStepOp 0x12 i 0 1 (if pos32 (srcA i s) then some i.f.toNat else none) id s)
/-- BRN. -/
def execLoopBrn (i : LoopIns) (s : State) : Res := .next (loopStepOp 0x13 i 0 1 (if pos32 (srcA i s) then none else some i.f.toNat) id s)

/-- FLT with its roundings (R308). -/
def fltOp (d a k : BitVec 32) : BitVec 32 := ffma k (fsub a d) d
/-- SLEW with its roundings. -/
def slewOp (d a rise fall : BitVec 32) : BitVec 32 := fadd d (clampF32 (fsub a d) (fneg fall) rise)
/-- HYST mode 0. -/
def hystOp (d a b k : BitVec 32) : BitVec 32 :=
  if flt (fadd b k) a then one32 else if flt a (fsub b k) then 0 else d
/-- HYST mode 1: band hold. -/
def holdOp (d a k : BitVec 32) : BitVec 32 := if flt k (fabs (fsub a d)) then a else d

/-- FLT. -/
def execFlt (i : LoopIns) (s : State) : Res := loopOp 0x18 1 2 i (fun s => fltOp (srcD i s) (srcA i s) (palK i 0 s)) s
/-- SLEW. -/
def execSlew (i : LoopIns) (s : State) : Res := loopOp 0x19 2 2 i (fun s => slewOp (srcD i s) (srcA i s) (palK i 0 s) (palK i 1 s)) s
/-- HYST. -/
def execHyst (i : LoopIns) (s : State) : Res := loopOp 0x1A 1 2 i (fun s =>
  if i.f.getLsbD 0 then holdOp (srcD i s) (srcA i s) (palK i 0 s)
  else hystOp (srcD i s) (srcA i s) (srcB i s) (palK i 0 s)) s
/-- PI: C + pal[K] × A, fused. -/
def execPi (i : LoopIns) (s : State) : Res := loopOp 0x1B 1 2 i (fun s => ffma (palK i 0 s) (srcA i s) (srcC i s)) s

/-- Round an FP32 mode to the nearest integer (R309), ties to even. -/
def roundMode (v : BitVec 32) : Int :=
  let f := floorTimes v 2
  if f % 2 = 0 then f / 2
  else if ofInt32 0 f = fmul v 0x40000000 then (if (f / 2) % 2 = 0 then f / 2 else f / 2 + 1) else f / 2 + 1

/-- Conditional integration (R309). -/
def piuOp (d a mode ki : BitVec 32) : BitVec 32 :=
  let m := if isNan mode then 0 else if mode = inf32 false ∨ mode = inf32 true then 0 else roundMode mode
  if m = 1 ∨ (m = 2 ∧ fle a 0) ∨ (m = 3 ∧ fle 0 a) then ffma ki a d else d

/-- PIU. -/
def execPiu (i : LoopIns) (s : State) : Res := loopOp 0x1C 2 2 i (fun s => piuOp (srcD i s) (srcA i s) (srcB i s) (palK i 1 s)) s
/-- TRK. -/
def execTrk (i : LoopIns) (s : State) : Res := loopOp 0x1D 3 2 i (fun s => fmin (srcD i s) (fadd (srcA i s) (palK i 2 s))) s

/-- FLW: the timer after one beat (R310). -/
def flwOp (d a b thr : BitVec 32) : BitVec 32 := if flt thr (fabs (fsub a b)) then fadd d one32 else 0

/-- The flag of FLW rises when the timer equals its limit, at least 1. -/
def flwFlag (j : Nat) (d lim : BitVec 32) (s : State) : State :=
  if feq d (fmax lim one32) then
    let rises := !regIs (aCtl 0x18) j s
    let s := regBit (aCtl 0x18) j true { s with loop := { s.loop with followRun := if rises then j :: s.loop.followRun else s.loop.followRun } }
    report 0x70 oGov (ctlStatus s) [BitVec.ofNat 8 (32 + j)] s
  else s

/-- FLW. -/
def execFlw (i : LoopIns) (s : State) : Res :=
  .next (loopStepOp 0x1E i 2 2 none (fun s =>
    let d := flwOp (srcD i s) (srcA i s) (srcB i s) (palK i 0 s)
    flwFlag (i.f.toNat % 32) d (palK i 1 s) (loopSet i.d.toNat d s)) s)

/-! ### Loading and verifying (R305, R311, R312) -/

/-- The inactive bank is B while A is active, else A. -/
def inactiveIsB (s : State) : Bool := s.loop.source == 1

/-- Word `n` of the inactive bank. -/
def bankWord (n : Nat) (s : State) : BitVec 64 := mapGet 0 (if inactiveIsB s then s.loop.bankB else s.loop.bankA) n

/-- What an operation is (R306): cycles; whether it uses D, A, B and C; the highest palette offset it reads; the bits of F it
uses. -/
structure LoopOpInfo where
  cycles : Nat
  d : Bool
  a : Bool
  b : Bool
  c : Bool
  k : Option Nat
  f : Nat

/-- The operations of R306 by their code. -/
def loopInfo (op : Nat) : Option LoopOpInfo :=
  if op = 0x00 ∨ op = 0x01 then some ⟨1, false, false, false, false, none, 0⟩
  else if op = 0x02 ∨ op = 0x0C then some ⟨1, true, true, false, false, none, 0⟩
  else if op = 0x03 then some ⟨1, true, false, false, false, some 0, 0x7FF⟩
  else if [0x04, 0x05, 0x06, 0x09, 0x0A, 0x0E, 0x0F, 0x10].contains op then some ⟨1, true, true, true, false, none, 0⟩
  else if op = 0x07 then some ⟨2, true, true, true, true, none, 0⟩
  else if op = 0x08 then some ⟨4, true, true, true, false, none, 0⟩
  else if op = 0x0B ∨ op = 0x0D then some ⟨1, true, true, true, true, none, 0⟩
  else if op = 0x11 then some ⟨1, false, false, false, false, none, 0x7FF⟩
  else if op = 0x12 ∨ op = 0x13 then some ⟨1, false, true, false, false, none, 0x7FF⟩
  else if op = 0x18 then some ⟨2, true, true, false, false, some 0, 0⟩
  else if op = 0x19 then some ⟨2, true, true, false, false, some 1, 0⟩
  else if op = 0x1A then some ⟨2, true, true, true, false, some 0, 0x1⟩
  else if op = 0x1B then some ⟨2, true, true, false, true, some 0, 0⟩
  else if op = 0x1C then some ⟨2, true, true, true, false, some 1, 0⟩
  else if op = 0x1D then some ⟨2, true, true, false, false, some 2, 0⟩
  else if op = 0x1E then some ⟨2, true, true, true, false, some 1, 0x1F⟩
  else none

/-- The lowest of ERR 2 to ERR 5 that applies to the instruction at `pc` of `n` (R311). -/
def loopErr (w : BitVec 64) (pc n : Nat) : Option Nat :=
  let q := loopFields w.toNat
  let i := q.2
  let f := i.f.toNat
  match loopInfo q.1 with
  | none => some 2
  | some x =>
    let field := q.1 = 3 ∧ f / 512 ≠ 0
    let used := if q.1 = 3 ∧ f / 512 = 0 then 0x600 else x.f
    let src (u : Bool) (v : BitVec 9) : Bool := if u then decide (v.toNat < 0x180) else v == 0
    let dst : Bool := if x.d then decide (i.d.toNat < 0x100) || portAssigned i.d.toNat else i.d == 0
    if q.1 = 3 ∧ f / 512 = 3 then some 2
    else if field ∧ 32 ≤ f / 16 % 32 + f % 16 then some 2
    else if !(src x.a i.a && src x.b i.b && src x.c i.c && dst && (x.k.isSome || i.k == 0) && decide (f &&& used = f) &&
        !(decide (q.1 = 0x1A) && i.f.getLsbD 0 && i.b != 0)) then some 3
    else if (q.1 = 0x11 ∨ q.1 = 0x12 ∨ q.1 = 0x13) ∧ (f = 0 ∨ n ≤ pc + f) then some 4
    else if 2047 < i.k.toNat + x.k.getD 0 then some 5
    else none

/-- Cycles of an instruction; one that is not listed adds none. -/
def loopCycles (w : BitVec 64) : Nat := ((loopInfo (loopFields w.toNat).1).map (·.cycles)).getD 0

/-- The verifier (R311, R312): ERR, ERR_PC, WCET. -/
def verifyBank (s : State) : Nat × Nat × Nat :=
  let n := regF (aCtl 0x20) 9 0 s
  if n = 0 ∨ 512 < n then (1, 0, 0)
  else
    let ws := (List.range n).map (fun i => bankWord i s)
    let wcet := ws.foldl (fun a w => a + loopCycles w) 0
    let sums := ws.foldl (fun (a : List Nat × Nat) w => (a.1 ++ [a.2 + loopCycles w], a.2 + loopCycles w)) ([], 0)
    match ws.zipIdx.findSome? (fun e => (loopErr e.1 e.2 n).map (fun c => (c, e.2))) with
    | some e => (e.1, e.2, wcet)
    | none =>
      if deadline < wcet && !regIs (aCtl 0x20) 30 s then (6, (sums.1.findIdx? (fun a => decide (deadline < a))).getD 0, wcet)
      else (0, 0, wcet)

/-- PROG_STATUS.VERIFIED. -/
def isVerified (s : State) : Bool := regIs (aCtl 0x24) 31 s

/-- VERIFY_DONE: PROG_STATUS holds the result. -/
def execVerifyDone (s : State) : Res :=
  if s.loop.verifying then
    let q := verifyBank s
    .next (setReg (aCtl 0x24)
      (BitVec.ofNat 32 (b2n (q.1 == 0) * 2 ^ 31 + q.1 * 2 ^ 27 + q.2.1 * 2 ^ 18 + min 4095 q.2.2))
      { s with loop := { s.loop with verifying := false } })
  else .next s

/-- A write to the bank or to LEN (R311, R317): VERIFIED clears, and a COMMIT of the program that waits may lapse. -/
def bankTouched (s : State) : State :=
  let s := { s with loop := { s.loop with commit := s.loop.commit.map (fun c => { c with lapsed := c.lapsed || c.prog }) } }
  regBit (aCtl 0x24) 31 false s

/-- PROG_DATA_HI: store the word at PROG_ADDR and step it (R311). -/
def storeWord (lo hi : BitVec 32) (s : State) : State :=
  let n := regF (aCtl 0x28) 8 0 s
  let w := join64 hi lo
  let l := s.loop
  let l := if inactiveIsB s then { l with bankB := mapSet 0 l.bankB n w, wordErr := l.wordErr.filter (· ≠ n + 512) }
           else { l with bankA := mapSet 0 l.bankA n w, wordErr := l.wordErr.filter (· ≠ n) }
  bankTouched (setReg (aCtl 0x28) (BitVec.ofNat 32 ((n + 1) % 512)) { s with loop := l })

/-! ### Commit and palettes (R315 to R320) -/

/-- Extend a measurement slot (R446). -/
def extendMs (k : Nat) (d : BitVec 256) (s : State) : State :=
  { s with att := { s.att with ms := mapUpd 0 s.att.ms k (fun m => sha3 (digestBytes m ++ digestBytes d)) } }

/-- The number of instructions of the ROM program, and its digest's bytes (R299, R446): the spec gives neither (log 27). -/
def romBytes : List Byte := (List.range 512).flatMap (fun n => leBytes 8 (Config.romWord n).toNat)

/-- The ROM program becomes active (R315). -/
def toRom (s : State) : State :=
  let s := ctlEvent 1 true <| regBit aCtlStatus 1 true { s with loop := { s.loop with source := 0, romNext := false } }
  extendMs 4 (sha3 romBytes) s

/-- The program of the inactive bank becomes active (R317). -/
def toBank (clr : Bool) (s : State) : State :=
  let n := regF (aCtl 0x20) 9 0 s
  let bytes := (List.range n).flatMap (fun i => leBytes 8 (bankWord i s).toNat)
  let s := extendMs 4 (sha3 bytes) s
  let s := regBit aCtlStatus 1 false { s with loop := { s.loop with source := if inactiveIsB s then 2 else 1, len := n, romNext := false } }
  let s := if clr then { s with loop := { s.loop with vars := mapClear s.loop.vars 64 256 } } else s
  regBit (aCtl 0x24) 31 false s

/-- The entry commits that wait for the boundary (R319): each is copied into the active palette and logged. -/
def entriesApply (s : State) : State :=
  let l := s.loop.entries
  let s := forAll l (fun e s =>
    let old := palAct e.1 s
    let v := palInact e.1 s
    logHwBy e.2 3 e.1 (old.setWidth 64) (v.setWidth 64) (setAct e.1 v s)) s
  { s with loop := { s.loop with entries := [] } }

/-- A COMMIT at its boundary (R317, R318): it lapses, or swaps and activates. -/
def commitApply (s : State) : State :=
  match s.loop.commit with
  | none => s
  | some c =>
    let s := { s with loop := { s.loop with commit := none } }
    if c.lapsed then ctlEvent 11 true (regBit aCtlStatus 11 true s)
    else
      let s := if c.pal then
          let was : Nat := b2n s.loop.palIsB
          let s := palSwap s
          logHwBy c.origin 3 (aCtl 8) (BitVec.ofNat 64 was) (BitVec.ofNat 64 (1 - was)) (palCopy [] s)
        else s
      if c.prog then toBank c.clr s else s

/-- The boundary of the loop engine (R315, R317, R319): entry commits, the COMMIT, and a fallback that no COMMIT overrides. -/
def loopBoundary (s : State) : State :=
  let prog := match s.loop.commit with | some c => c.prog && !c.lapsed | none => false
  let fall := s.loop.romNext && !prog && decide (s.loop.source ≠ 0)
  let s := commitApply (entriesApply s)
  let s := if fall then toRom s else { s with loop := { s.loop with romNext := false } }
  { s with loop := { s.loop with latched := if s.loop.palIsB then s.loop.palB else s.loop.palA } }

/-- LOOP_FALLBACK (R315). -/
def execLoopFallback (s : State) : Res :=
  let prog := match s.loop.commit with | some c => c.prog && !c.lapsed | none => false
  .next (if s.loop.romNext && !prog && decide (s.loop.source ≠ 0) then toRom s else s)

/-- COMMIT_APPLY: the boundary of a COMMIT has come (R317). -/
def execCommitApply (s : State) : Res := .next (commitApply s)

/-- ENTRY_COMMIT_APPLY (R319). -/
def execEntryCommitApply (s : State) : Res := .next (entriesApply s)

/-- PALETTE_COPY_END: the copy of R318 has ended. -/
def execPaletteCopyEnd (s : State) : Res := .next { s with loop := { s.loop with copying := false } }

/-- The stage closes without a commit (R320): the inactive palette returns to the active one, but for pending entries. -/
def stageAbort (s : State) : State :=
  let s := palCopy (s.loop.entries.map (·.1)) s
  { s with loop := { s.loop with stage := none, copying := true } }

/-- STAGE_TIMEOUT (R320): an event whose subcode is the clearing of STAGE_OPEN. -/
def execStageTimeout (s : State) : Res :=
  let t := regF (aCtl 0) 31 16 s
  match s.loop.stage with
  | some (_, b) =>
    if t ≠ 0 ∧ b + t * 1000 ≤ s.tick then
      let s := stageAbort s
      .next (ctlEvent 7 false s)
    else .next s
  | none => .next s

/-- A palette write of origin `o` to entry `k` (R316, R319, R320): staged, or for GOV.CAP, GOV.ENV_SHARE and GOV.PPT of anyone but
the stage's owner an entry commit. -/
def entryCommits (k : Nat) : Bool := k == 2 || k == 5 || (decide (0x40 ≤ k) && decide (k < 0x140))

/-- A later write overwrites an entry commit that waits (R319). -/
def dropEntry (k : Nat) (s : State) : State :=
  { s with loop := { s.loop with entries := s.loop.entries.filter (fun e => decide (e.1 ≠ k)) } }

/-- An entry commit: the inactive entry now, the active one at the boundary. -/
def entryCommit (o : Origin) (k : Nat) (v : BitVec 32) (s : State) : State :=
  let s := setInact k (palWritten k v s) s
  { s with loop := { s.loop with entries := s.loop.entries.filter (fun e => decide (e.1 ≠ k)) ++ [(k, o)] } }

end Sys2Proof.Machine
end

