-- ==== Sys2Proof/WellFormed.lean ====
section
/-! DEFINITION. Which operands a command of the block can carry: what the rules fix of the lengths and ranges that the types
leave open. -/

namespace Sys2Proof

/-- A cell monitor's reply: monitors 0 to 2, eight cells, two temperatures (R371). -/
def MonReply.wf (m : MonReply) : Bool := decide (m.mon.toNat < 3) && m.cells.length == 8 && m.temps.length == 2

/-- A job's member list (R254). -/
def membersWf (l : List PkgId) : Bool := decide (l.length ≤ 4096)

/-- Whether the operands are ones the hardware can see. -/
def Instr.wf : Instr → Bool
  | .beatStart inp => inp.temps.length == 68
  | .registerWrite _ _ width _ => width == 8 || width == 16 || width == 32 || width == 64
  | .remoteOpArrive op => decide (op.data.length ≤ 65536) && decide (op.len ≤ 65536)
  | .cableReady _ _ bytes => decide (bytes.length ≤ 72)
  | .cablePoll _ low x => low.length == 4 && x.flags.length == 6 && x.mon.length == 12
  | .regWrite _ _ vals => decide (vals.length ≤ 64)
  | .regRead _ _ count => decide (count ≤ 64)
  | .memWrite _ _ data => decide (data.length ≤ 8176)
  | .memRead _ _ count => decide (count < 65536)
  | .jobCreate _ _ _ ms => membersWf ms
  | .barrierSet _ _ _ _ ms => membersWf ms
  | .mbxPost _ _ _ msg => decide (msg.length ≤ 16)
  | .mbxRemotePost _ _ msg => decide (8 ≤ msg.length) && decide (msg.length ≤ 16)
  | .monitorReply m => m.wf
  | .monitorTimeout mon => decide (mon.toNat < 3)
  | .farSegmentRequest q => decide (q.brk.toNat < 3)
  | .farSegmentValues ms => ms.all MonReply.wf
  | .swBlock _ data => data.length == 256
  | .feedFrame data => data.length == 128
  | .bootPacket _ data => decide (data.length ≤ 512)
  | .clockGood k => decide (k.toNat < 6)
  | .clockFail k => decide (k.toNat < 6)
  | .mbxMaskWrite _ r _ => decide (r.toNat < 6)
  | _ => true

end Sys2Proof
end

