-- ==== Sys2Proof/Machine/Pack.lean ====
section
/-! DEFINITION. The pack controller: setpoint bus, brush, reports and answers, hardware limits, cell chain, balancing, state of
charge, capacity runs and hibernation (R353 to R386, R462). -/

namespace Sys2Proof.Machine

/-! ### Registers and roles (R354, R384 to R386) -/

/-- A register of PACK. -/
def aPack (off : Nat) : Nat := 0x13_0000 + off

/-- Bits of a PACK register that is not a palette field, and of one that is. -/
def packR (off hi lo : Nat) (s : State) : Nat := regF (aPack off) hi lo s
def packP (j hi lo : Nat) (s : State) : Nat := palF (0x280 + j) hi lo s

/-- The end a package is strapped to: 0 A, 1 B (R430). -/
def packEnd (s : State) : Option Nat :=
  if !isModule s then none
  else if s.rst.straps.packcand == 1 then some 0 else if s.rst.straps.packcand == 2 then some 1 else none

/-- A candidate (R354). -/
def isCandidate (s : State) : Bool := (packEnd s).isSome

/-- Roles of R386. -/
def isHolder (s : State) : Bool := s.pack.role == 2
def isStandby (s : State) : Bool := s.pack.role == 1

/-- Change the pack controller. -/
def updPack (f : Pack → Pack) (s : State) : State := { s with pack := f s.pack }

/-- PACK.STATUS as read (R386): stored are DIAG, CAP_DEFAULT, REF_OVERDUE, HIB, LIMITED, FAULT and FOLLOW. -/
def packStatus (s : State) : BitVec 32 :=
  let p := s.pack
  reg aPackStatus s ||| BitVec.ofNat 32 (p.crPhase.toNat * 2 ^ 28 + b2n (p.capWrite.isSome || p.capNext.isSome) * 2 ^ 13 +
    b2n p.brokenAt.isSome * 256 + b2n p.lat.contactor * 64 + b2n p.lat.busform * 32 + p.role.toNat)

/-- A pack event: KEY is PACK.STATUS after the change (R411). -/
def packEvent (sub : Nat) (s : State) : State := report 0x90 oPack (packStatus s) [BitVec.ofNat 8 sub] s

/-- Set a stored flag, with the event of its rise. -/
def packFlag (i : Nat) (s : State) : State :=
  if regIs aPackStatus i s then s else packEvent i (regBit aPackStatus i true s)

/-- Hibernation (R382). -/
def hibernating (s : State) : Bool := regIs aPackStatus 10 s

/-- Whether a capacity run is in progress (R379). -/
def crRunning (s : State) : Bool := decide (1 ≤ s.pack.crPhase.toNat) && decide (s.pack.crPhase.toNat ≤ 4)

/-! ### Frames to the stage (R356) -/

/-- Send a command frame. -/
def stageSend (type : Byte) (epoch : BitVec 32) (value : Int) (s : State) : State :=
  let q := s.pack.frameSeq
  emit (.stage type epoch value q) (updPack (fun p => { p with frameSeq := q + 1 }) s)

/-- SETPOINT, sent only when it changes (R366). -/
def sendSetpoint (i : Int) (s : State) : State :=
  if s.pack.iSet = i then s else stageSend 0x01 s.pack.epoch i (updPack (fun p => { p with iSet := i }) s)

/-! ### Estimator quantities (R375, R377, R380) -/

/-- CUT in percent, C_L in As, and the pack current in A of a sample. -/
def cutPct (s : State) : Rat := mkRat (packR 0x48 7 0 s) 10
def capAs (s : State) : Rat := mkRat s.pack.est.cL 1000
def ampsOf (x : StageStatus) : Rat := mkRat x.iPack 100

/-- Clamp a rational. -/
def clampR (lo hi x : Rat) : Rat := if x < lo then lo else if hi < x then hi else x

/-- A quotient; a setting of zero below the line gives one that the spec leaves open (log 28). -/
def divR (a b : Rat) : Rat := if b = 0 then Config.overZero a else a / b

/-- Count `q` As of discharge, with the error growth of `e` As, on the estimator (R375, R377). -/
def countCharge (q e : Rat) (s : State) : State :=
  let c := capAs s
  updPack (fun p => { p with est := { p.est with
    socInt := clampR 0 100 (p.est.socInt - divR (100 * q) c),
    err := clampR 0 100 (p.est.err + divR (100 * e) c),
    socRep := clampR 0 100 (p.est.socRep - divR (100 * q) c * divR 100 (100 - cutPct s)) } }) s

/-- The energy of R368, in J. -/
def packEnergy (s : State) : Rat :=
  let e := s.pack.est
  let v := mkRat (max 1 (packR 0x64 15 0 s)) 100
  (if e.socRep - e.err < 0 then 0 else e.socRep - e.err) / 100 * capAs s * (1 - cutPct s / 100) * v

/-- STAGE_EFF and GOV.COEF.EFF. -/
def stageEff (s : State) : Rat := mkRat (packR 0x24 31 16 s) 1000
def govEff (s : State) : Rat := mkRat (palF 10 31 16 s) 1000

/-- V_pack in V, and the stage's pack power at the bus in W, of a sample. -/
def voltsOf (x : StageStatus) : Rat := mkRat x.vPack 100
def busPower (x : StageStatus) (s : State) : Rat :=
  let p := ampsOf x * voltsOf x
  if 0 ≤ x.iPack then p * stageEff s else divR p (stageEff s)

/-! ### Cells (R371 to R374) -/

/-- A cell's voltage in 0.1 mV and its age; a cell that no sweep has read has the greatest age (DEDUCED, log 28). -/
def cellV (i : Nat) (s : State) : Nat := mapGet 0 s.pack.cells i
def cellAge (i : Nat) (s : State) : Nat := mapGet 255 s.pack.cellAge i

/-- The fresh cells (R373). -/
def freshCells (s : State) : List Nat := (List.range 24).filter (fun i => decide (cellAge i s ≤ 3))

/-- The voltage of a limit code in 0.1 mV (R384). -/
def cellCode (hi lo : Nat) (s : State) : Nat := 10000 + 100 * packR 0x20 hi lo s

/-- Temperatures in 0.1 °C. -/
def packTemps (s : State) : List Int := (List.range 6).map (fun i => mapGet 0 s.pack.temps i)

/-- Highest and lowest of a list. -/
def maxI (l : List Int) : Int := l.foldl max (l.headD 0)
def minI (l : List Int) : Int := l.foldl min (l.headD 0)

/-- LIMITED. -/
def isLimited (s : State) : Bool := regIs aPackStatus 9 s

/-! ### Hardware limits (R366) -/

/-- The limits of a beat, on the latched sample: P_dis_max and P_chg_max in W. -/
def packLimits (s : State) : Rat × Rat :=
  let p := s.pack
  let x := p.lat
  let amps := max 1 (min 300 (packP 7 15 0 s))
  let lim : Rat := if isLimited s then mkRat (amps * packP 7 23 16 s) 100 else (amps : Rat)
  let hot : Rat := mkRat (maxI (packTemps s)) 10
  let cold : Rat := mkRat (minI (packTemps s)) 10
  let up := clampR 0 1 ((55 - hot) / 10)
  let fd := if cold < -20 then up / 2 else up
  let fc := if cold < -20 then 0 else if cold < 0 then up / 2 else up
  let tgtHi : Rat := (min 100 (packP 5 7 0 s) : Nat)
  let loSet : Rat := (min 100 (packP 5 15 8 s) : Nat)
  let lo := if x.busform then 0 else loSet
  let soc := p.est.socRep
  let df := if p.crPhase == 3 then 1 else clampR 0 1 ((soc - lo) / 5)
  let cf := if p.crPhase == 1 || p.crPhase == 4 then 1 else clampR 0 1 ((tgtHi - soc) / 5)
  let cap (w : Rat) : Rat := if 10000 < w then 10000 else w
  let dis := cap (lim * voltsOf x * stageEff s) * df * fd
  let chg := cap (divR (lim * voltsOf x) (stageEff s)) * cf * fc
  let cells := freshCells s
  let low := cells.any (fun i => decide (cellV i s ≤ cellCode 23 16 s))
  let high := cells.any (fun i => decide (cellCode 31 24 s ≤ cellV i s))
  if !x.contactor then (0, 0) else (if low then 0 else dis, if high then 0 else chg)

/-! ### Reports (R364, R365) -/

/-- The report of slot `k` of the tray. -/
def repAt (k : Nat) (s : State) : TrayRep := mapGet TrayRep.zero s.pack.reports k

/-- Reports that enter the sums. -/
def countedReps (s : State) : List PackRep :=
  (List.range 4).filterMap (fun k => let r := repAt k s; if r.excluded then none else r.latched)

/-- LOAD, REF and SHARE at module input, in W. -/
def trayLoad (s : State) : Rat := divR (((countedReps s).foldl (fun a r => a + r.p) 0 : Int) : Rat) (govEff s)
def trayRef (s : State) : Rat := divR (((countedReps s).foldl (fun a r => a + r.pRef) 0 : Int) : Rat) (govEff s)
def trayShare (s : State) : Rat := divR (((countedReps s).foldl (fun a r => a + r.share) 0 : Int) : Rat) (govEff s)

/-- P_ref in force: output port 0x102 (R303). -/
def pRefW (s : State) : Int := floorTimes (mapGet 0 s.loop.output 0x102) 1

/-- Clamp to the signed 16-bit power fields. -/
def w16 (x : Int) : Int := clampI (-32768) 32767 x

/-- This package's own report. -/
def ownReport (s : State) : PackRep :=
  ⟨pkgId s, w16 (s.gov.power / oneW), w16 (pRefW s), w16 (floorTimes s.gov.dem 1), w16 ((s.gov.shareMw / 1000 : Nat)), anyRunning s, s.gov.eject⟩

/-- The capacity run ends in an abort, with an event (R379). -/
def crAbort (s : State) : State :=
  if crRunning s then packEvent 66 (updPack (fun p => { p with crPhase := 6 }) s) else s

/-- A report is received (R364, R379). -/
def reportIn (x : PackRep) (s : State) : State :=
  let k := x.pkg.toNat % 4
  if !isCandidate s || x.pkg.toNat / 4 ≠ (pkgId s).toNat / 4 then s
  else
    let s := updPack (fun p => { p with reports := mapUpd TrayRep.zero p.reports k (fun r => { r with rep := some x, fresh := true }) }) s
    if x.jobRun && isHolder s then crAbort s else s

/-- PACK_REPORT. -/
def execPackReport (x : PackRep) (s : State) : Res := .next (reportIn x s)

/-- Send this package's report to the candidates of its tray: the sender does not know which they are, so every package of the
tray gets it (DEDUCED, log 28). -/
def sendReport (s : State) : State :=
  if packEn s && pkgKnown s then reportIn (ownReport s) (forAll (trayPeers s) (fun p s => cl0To .tray p (.report (ownReport s)) s) s) else s

/-- The reports latched at FRAC 0. -/
def latchReports (s : State) : State :=
  updPack (fun p => { p with reports := mapSetAll TrayRep.zero p.reports ((List.range 4).map (fun k =>
    let r := repAt k s
    (k, if r.fresh then { r with latched := r.rep, fresh := false, missing := 0, excluded := false }
        else if r.rep.isSome then { r with missing := r.missing + 1 } else r))) }) s

/-- PACKAGE_EXCLUDED: reports missing for 1,000 latches (R364). -/
def execPackageExcluded (slot : BitVec 2) (s : State) : Res :=
  let r := repAt slot.toNat s
  if isHolder s && !r.excluded && decide (1000 ≤ r.missing) then
    .next (packEvent 64 (updPack (fun p => { p with reports := mapSet TrayRep.zero p.reports slot.toNat { r with excluded := true } }) s))
  else .next s

/-! ### The brush (R359 to R363, R378) -/

/-- The estimator state of a notice. -/
def brushInfo (s : State) : BrushInfo :=
  let e := s.pack.est
  ⟨s.pack.epoch, e.cL, e.socInt, e.socRep, e.err, e.refAge, e.rest, packR 0x48 7 0 s⟩

/-- Send a notice to the packages of the tray. -/
def sendNotice (m : NetMsg) (s : State) : State := forAll (trayPeers s) (fun p s => cl0To .tray p m s) s

/-- The holder stops holding (R359, R363): it sends nothing more to the stage and runs self-diagnosis. -/
def loseBrush (s : State) : State :=
  updPack (fun p => { p with role := 1, diagPending := true, claiming := false, renewSeq := none, released := false,
                             handover := false, openNext := false, got := none, farUsed := false, farAt := none }) (crAbort s)

/-- CLAIM for the epoch after the one in the stage's status (R358, R360). -/
def sendClaim (s : State) : State :=
  let e := s.pack.stage.epoch + 1
  stageSend 0x03 e 0 (updPack (fun p => { p with claiming := true, epoch := e }) s)

/-- Whether a standby claims on the status it has (R360, R362). -/
def mayClaim (s : State) : Bool :=
  let p := s.pack
  let open_ := p.stageSeen && p.stage.lease != 0
  isStandby s && !p.diagPending && !p.claiming && open_ &&
    (decide (p.noticeAt + 22000 ≤ s.tick) || p.handover ||
      (packEnd s == some 0 && p.stage.lease == 3) ||
      (packEnd s == some 1 && (match p.noneSince with | some b => decide (b + 50000 ≤ s.tick) | none => false)))

/-- The bus-side power of a setpoint at a sample's pack voltage: the conversion of R366 turned round. -/
def setpointPower (i : Int) (x : StageStatus) (s : State) : Rat :=
  let w := mkRat i 100 * voltsOf x
  if 0 ≤ i then w * stageEff s else divR w (stageEff s)

/-- The claim is accepted (R360, R378): the role, the notice to the tray, the setpoint in force, and the charge since the last
notice. -/
def takeBrush (x : StageStatus) (s : State) : State :=
  let dt := s.tick - s.pack.noticeAt
  let w := setpointPower x.iSet x s
  let s := countReg (aPack 0x180) 1 (updPack (fun p => { p with
    role := 2, claiming := false, epoch := x.epoch, claimAt := s.tick, renewAt := s.tick, renewSeq := none, handover := false,
    iSet := x.iSet, noneSince := none, got := none, ownOk := 0, cmd := w, brokenAt := none, brokenSweeps := 0, farUsed := false,
    farAt := none }) s)
  let s := { s with gov := { s.gov with pack := { s.gov.pack with epoch := x.epoch } } }
  let q : Rat := mkRat x.iSet 100 * mkRat dt 1000000
  sendNotice (.notice (brushInfo s)) (countCharge q 0 s)

/-- A status frame arrives (R357 to R362). On a standby it answers a QUERY, so the standby claims on it when it may. -/
def execStatusFrame (x : StageStatus) (s : State) : Res :=
  if !x.crcOk || !isCandidate s then .next s
  else
    let mine := packEnd s == some (b2n x.holdPort)
    let none_ := if x.lease == 3 then (match s.pack.noneSince with | some b => some b | none => some s.tick) else none
    let s := setReg (aPack 8) x.epoch (updPack (fun p => { p with stage := x, stageSeen := true, noneSince := none_ }) s)
    if isHolder s then
      if decide (s.pack.epoch.toNat < x.epoch.toNat) || !mine then .next (loseBrush s)
      else if s.pack.renewSeq == some x.ackSeq then
        let s := updPack (fun p => { p with renewAt := s.tick, renewSeq := none }) s
        .next (sendNotice (.notice (brushInfo s)) s)
      else .next s
    else if s.pack.claiming then
      if x.lease == 0 && mine && x.epoch == s.pack.epoch then .next (takeBrush x s)
      else if x.claimRefused then .next (countReg (aPack 0x184) 1 (updPack (fun p => { p with claiming := false }) s))
      else .next s
    else if mayClaim s then .next (sendClaim s)
    else .next s

/-- RENEW at every 4,000th beat from the claim (R359). -/
def execRenew (s : State) : Res :=
  if isHolder s && decide (s.tick ≠ s.pack.claimAt) && decide ((s.tick - s.pack.claimAt) % 4000 = 0) then
    .next (stageSend 0x02 s.pack.epoch 0 (updPack (fun p => { p with renewSeq := some p.frameSeq }) s))
  else .next s

/-- BRUSH_LOST: no RENEW acknowledged for 16,000 beats (R359). -/
def execBrushLost (s : State) : Res :=
  .next (if isHolder s && decide (s.pack.renewAt + 16000 ≤ s.tick) then loseBrush s else s)

/-- Keep a notice's estimator state (R378); every package of the tray takes its epoch (R364). -/
def noticeIn (hand : Bool) (src : PkgId) (x : BrushInfo) (s : State) : State :=
  if !isModule s || src.toNat / 4 ≠ (pkgId s).toNat / 4 then s
  else
    let k := s.gov.pack
    let s := { s with gov := { s.gov with pack := { k with epoch := if k.epoch.toNat < x.epoch.toNat then x.epoch else k.epoch } } }
    if isCandidate s && !isHolder s && decide (s.pack.role ≠ 0) then
      let s := updReg (aPack 0x48) (fun v => setFld v 7 0 x.cut) s
      updPack (fun p => { p with
        noticeAt := s.tick, handover := p.handover || hand,
        est := { p.est with cL := x.cL, socInt := x.socInt, socRep := x.socRep, err := x.err, refAge := x.refAge, rest := x.rest, seeded := true } }) s
    else s

/-- BRUSH_NOTICE. -/
def execBrushNotice (src : PkgId) (x : BrushInfo) (s : State) : Res := .next (noticeIn false src x s)

/-- HANDOVER_NOTICE (R362). -/
def execHandoverNotice (src : PkgId) (x : BrushInfo) (s : State) : Res := .next (noticeIn true src x s)

/-- Beats from one QUERY to the next (R360); a standby that holds a hand-over notice looks for the release at every beat (R362). -/
def queryEvery (s : State) : Nat :=
  if s.pack.handover then 1 else if s.pack.noticeAt + 20000 ≤ s.tick then 100 else 1000

/-- STANDBY_QUERY (R360). A claim that no status frame has answered since the last QUERY was not accepted. -/
def execStandbyQuery (s : State) : Res :=
  if isStandby s && !s.pack.diagPending && decide (s.pack.queryAt + queryEvery s ≤ s.tick) then
    .next (stageSend 0x06 0 0 (updPack (fun p => { p with queryAt := s.tick, claiming := false }) s))
  else .next s

/-- END_B_CLAIM: lease state none for 50,000 beats (R360, R460). -/
def execEndBClaim (s : State) : Res :=
  .next (if packEnd s == some 1 && mayClaim s then sendClaim s else s)

/-- HANDOVER on the holder (R362): the notice now, RELEASE in the next beat. Whether the other candidate stands by is not known
here, so it is a free value (log 28). The first part is false for the error response. -/
def handoverStart (s : State) : Bool × State :=
  if !isHolder s || crRunning s then (false, s)
  else
    let standby := Config.freeBool s.free
    let s := useFree s
    if standby then (true, updPack (fun p => { p with released := true }) (sendNotice (.handover (brushInfo s)) s)) else (false, s)

/-- SELF_DIAGNOSIS (R363): standby, or out with the first check that failed. -/
def execSelfDiagnosis (stageOk eccOk slotsReadable : Bool) (s : State) : Res :=
  if !s.pack.diagPending then .next s
  else
    let code := if !stageOk then 1 else if !eccOk then 2 else if !slotsReadable then 3 else 0
    let role : BitVec 2 := if !regIs (aPack 0) 0 s then 0 else if code = 0 then 1 else 3
    let s := updReg aPackStatus (fun v => setFld v 27 24 code) (updPack (fun p => { p with diagPending := false, role := role }) s)
    .next (if code = 0 then s else packEvent 1 s)

/-- Whether every fresh cell and every temperature is inside the absolute limits (R367). -/
def insideLimits (s : State) : Bool :=
  (freshCells s).all (fun i => decide (cellV i s ≤ cellCode 15 8 s) && decide (cellCode 7 0 s ≤ cellV i s)) &&
    (packTemps s).all (fun t => decide (t < (packR 0x24 15 8 s * 10 : Nat)))

/-- REARM (R363, R367, R462): self-diagnosis again, or the contactor closes. -/
def rearm (s : State) : State :=
  if s.pack.role == 3 then updPack (fun p => { p with diagPending := true }) s
  else if isHolder s && insideLimits s && (regIs aPackStatus 7 s || !s.pack.stage.contactor) then
    stageSend 0x05 s.pack.epoch 1 (updPack (fun p => { p with openNext := false }) (regBit aPackStatus 7 false s))
  else s

/-- PACK.CTRL.EN (R385): a candidate acts, or its role is none. A holder that stops so owes self-diagnosis, and one that failed it stays
out (R363). -/
def packEnSet (en : Bool) (s : State) : State :=
  let s := regBit (aPack 0) 0 en s
  if !isCandidate s then s
  else if en then
    let role : BitVec 2 := if packR 4 27 24 s = 0 then 1 else 3
    if s.pack.role == 0 then updPack (fun p => { p with role := role, noticeAt := s.tick }) s else s
  else
    let s := if isHolder s then loseBrush s else s
    updPack (fun p => { p with role := 0, claiming := false, handover := false, farUsed := false, farAt := none }) s

/-! ### Sweeps (R371 to R374) -/

/-- Beats of a sweep period. -/
def sweepBeat (s : State) : Nat := s.beat.toNat % 10000

/-- The monitors the holder can reach from its own end: those before a break, or all. -/
def reachable (s : State) : List Nat :=
  let order := if packEnd s == some 1 then [2, 1, 0] else [0, 1, 2]
  match s.pack.brokenAt with
  | none => order
  | some b => if s.pack.brokenSweeps % 100 = 0 then order else order.takeWhile (fun m => decide (m ≠ b.toNat))

/-- The monitors that a standby has been asked to read: from its own end to the break (R372). -/
def farMonitors (brk : BitVec 2) (s : State) : List Nat :=
  if packEnd s == some 1 then [2, 1, 0].filter (fun m => decide (brk.toNat ≤ m)) else [0, 1, 2].filter (fun m => decide (m ≤ brk.toNat))

/-- The monitors this end reads in a sweep, nearest first. -/
def readOrder (s : State) : List Nat :=
  if isHolder s then reachable s else match s.pack.farAt with | some b => farMonitors b s | none => []

/-- BALANCE to monitors, each with its part of a mask (R371, R374). -/
def sendBalance (ms : List Nat) (mask : BitVec 24) (s : State) : State :=
  forAll ms (fun k s => emit (.chainBalance (BitVec.ofNat 2 k) (BitVec.ofNat 8 (mask.toNat / 2 ^ (8 * k)))) s) s

/-- BALANCE_PAUSE at s − 600: every mask 0, at both ends of a broken chain (R372, R374). -/
def execBalancePause (s : State) : Res :=
  .next (if decide (sweepBeat s = 9400) then sendBalance (readOrder s) 0 (updPack (fun p => { p with bleed := 0 }) s) else s)

/-- READ of the monitor after those that have been read (R372). -/
def readNext (rest : List Nat) (s : State) : State :=
  match rest with
  | m :: _ => emit (.chainRead (BitVec.ofNat 2 m)) s
  | [] => s

/-- SWEEP_LATCH on the beats of R35, or of R382 in hibernation: the LATCH frame, then the nearest monitor is read (R372). -/
def execSweepLatch (s : State) : Res :=
  let due := if hibernating s then s.beat.toNat % 60000000 = 0 else sweepBeat s = 0
  if (isHolder s || s.pack.farAt.isSome) && due then
    let far := if isHolder s then s.pack.farUsed else true
    let s := updPack (fun p => { p with got := some [], ownOk := 0, tries := [], slot := s.beat.toNat / 10000, farUsed := far }) s
    .next (readNext (readOrder s) (emit .chainLatch s))
  else .next s

/-- A failed attempt: two retries, then the chain is broken at that monitor, and those beyond it go unread in this sweep (R372). -/
def readFailed (mon : BitVec 2) (s : State) : State :=
  let n := mapGet 0 s.pack.tries mon.toNat + 1
  let s := updPack (fun p => { p with tries := mapSet 0 p.tries mon.toNat n }) s
  if n < 3 then emit (.chainRead mon) s
  else if isHolder s then updPack (fun p => { p with brokenAt := some mon }) s
  else s

/-- A monitor's values, kept until the sweep closes. -/
def keepReply (m : MonReply) (s : State) : State := updPack (fun p => { p with got := p.got.map (fun l => l ++ [m]) }) s

/-- A monitor's values as this end reads them; the next monitor is read. -/
def replyOwn (m : MonReply) (s : State) : State :=
  let s := keepReply m (updPack (fun p => { p with ownOk := setBit p.ownOk m.mon.toNat true }) s)
  readNext ((readOrder s).dropWhile (fun k => decide (k ≠ m.mon.toNat))).tail s

/-- Whether this end is reading the chain. -/
def reading (s : State) : Bool := s.pack.got.isSome && (isHolder s || s.pack.farUsed)

/-- MONITOR_REPLY (R371, R372): the holder keeps it; a standby that reads the far segment returns it on CL0. -/
def execMonitorReply (m : MonReply) (s : State) : Res :=
  if !m.wf || !reading s then .next s
  else if !m.crcOk then .next (readFailed m.mon s)
  else
    let s := replyOwn m s
    .next (if isHolder s then s else sendNotice (.farValues [m]) s)

/-- MONITOR_TIMEOUT: 100 µs without an answer (R372). -/
def execMonitorTimeout (mon : BitVec 2) (s : State) : Res := .next (if reading s then readFailed mon s else s)

/-- FAR_SEGMENT_REQUEST: the standby sends the BALANCE frames of the far segment and reads it in the next sweep (R372). -/
def farRequestIn (brk : BitVec 2) (mask : BitVec 24) (s : State) : State :=
  if !isStandby s then s
  else sendBalance (farMonitors brk s) mask (updPack (fun p => { p with farAt := some brk, farUsed := false, got := none }) s)

/-- FAR_SEGMENT_REQUEST. -/
def execFarSegmentRequest (q : FarRequest) (s : State) : Res := .next (farRequestIn q.brk q.mask s)

/-- FAR_SEGMENT_VALUES: the holder takes what the standby read. -/
def farValuesIn (ms : List MonReply) (s : State) : State :=
  if isHolder s && s.pack.farUsed then forAll ms (fun m s => if m.wf && m.crcOk then keepReply m s else s) s else s

/-- FAR_SEGMENT_VALUES. -/
def execFarSegmentValues (ms : List MonReply) (s : State) : Res := .next (farValuesIn ms s)

/-- Open-circuit voltage table entry `i`: 0.01 % and 0.1 mV. -/
def ocvAt (i : Nat) (s : State) : Nat × Nat :=
  let v := reg (aPack (0x80 + 4 * i)) s
  (fld v 31 16, fld v 15 0)

/-- OCV_inverse in percent (R375): linear between the entries; outside the table the spec states no value, so a free one. -/
def ocvInverse (v : Rat) (s : State) : Rat × State :=
  match (List.range 15).find? (fun i => decide (((ocvAt i s).2 : Rat) ≤ v) && decide (v ≤ ((ocvAt (i + 1) s).2 : Rat)) &&
      decide ((ocvAt i s).2 < (ocvAt (i + 1) s).2)) with
  | some i =>
    let a := ocvAt i s
    let b := ocvAt (i + 1) s
    ((a.1 + (v - a.2) * ((b.1 : Rat) - a.1) / ((b.2 : Rat) - a.2)) / 100, s)
  | none => (mkRat ((Config.freeValue s.free).toNat * 100) (2 ^ 64), useFree s)

/-- Mean fresh cell voltage in 0.1 mV. -/
def meanCell (s : State) : Rat :=
  let l := freshCells s
  if l.isEmpty then 0 else mkRat (l.foldl (fun a i => a + cellV i s) 0) l.length

/-- Load-compensate a cell voltage in 0.1 mV for a current in A: R_CELL in µΩ. -/
def compensate (v i : Rat) (s : State) : Rat := v - i * (packR 0x48 31 16 s : Rat) / 100

/-- SOC_t of R377. -/
def socTarget (s : State) : Rat := clampR 0 100 (divR (100 * (s.pack.est.socInt - cutPct s)) (100 - cutPct s))

/-- What a complete sweep does to the estimator (R375 to R377). -/
def estSweep (s : State) : State :=
  let i := ampsOf s.pack.lat
  let restBeats := max 1 (packR 0x44 7 0 s) * 60000000
  if !s.pack.est.seeded then
    let q := ocvInverse (compensate (meanCell s) i s) s
    let s := updPack (fun p => { p with est := { p.est with socInt := clampR 0 100 q.1, err := 10, seeded := true } }) q.2
    updPack (fun p => { p with est := { p.est with socRep := socTarget s } }) s
  else
    let s :=
      if restBeats ≤ s.pack.est.rest then
        let q := ocvInverse (meanCell s) s
        let s := updPack (fun p => { p with
          crRef := true,
          est := { p.est with socInt := clampR 0 100 q.1, err := 3 / 2, refAge := 0, rest := 0 } }) q.2
        regBit aPackStatus 11 false s
      else if hibernating s then s
      else
        let q := ocvInverse (compensate (meanCell s) i s) s
        if q.1 < (packR 0x4C 7 0 s : Rat) ∨ (packR 0x4C 15 8 s : Rat) < q.1 then
          updPack (fun p => { p with est := { p.est with socInt := clampR 0 100 (p.est.socInt + (q.1 - p.est.socInt) / 360000) } }) q.2
        else q.2
    if hibernating s then s
    else
      let d := socTarget s - s.pack.est.socRep
      updPack (fun p => { p with est := { p.est with socRep := clampR 0 100 (p.est.socRep + clampR (-1 / 6000) (1 / 6000) d) } }) s

/-- The balance mask of a sweep (R374). -/
def balanceMask (s : State) : BitVec 24 :=
  let l := freshCells s
  let low := l.foldl (fun m i => min m (cellV i s)) (cellV (l.headD 0) s)
  if packR 0x58 8 8 s = 0 || isLimited s || hibernating s then 0
  else l.foldl (fun m i => if i % 2 = s.pack.slot % 2 && decide (low + 10 * packR 0x58 7 0 s < cellV i s) then setBit m i true else m) 0

/-- Temperatures within a range of whole °C. -/
def tempsWithin (lo hi : Int) (s : State) : Bool := (packTemps s).all (fun t => decide (10 * lo ≤ t) && decide (t ≤ 10 * hi))

/-- Whether a sweep has a monitor's values, through either end. -/
def sweepHas (k : Nat) (s : State) : Bool := (s.pack.got.getD []).any (fun m => decide (m.mon.toNat = k))

/-- The values that a sweep read (R371, R372). -/
def sweepValues (s : State) : State :=
  forAll (s.pack.got.getD []) (fun m s => updPack (fun p => { p with
    cells := mapSetAll 0 p.cells (m.cells.zipIdx.map (fun e => (8 * m.mon.toNat + e.2, e.1))),
    temps := mapSetAll 0 p.temps (m.temps.zipIdx.map (fun e => (2 * m.mon.toNat + e.2, e.1))) }) s) s

/-- Ages, the run of good sweeps and the broken segment at the end of a sweep; a partial sweep is counted, and a sweep of the whole
chain from this end clears BROKEN (R372, R373). -/
def sweepAged (ok : Bool) (s : State) : State :=
  let ages (n : Nat) (per : Nat) (m : SMap Nat) : SMap Nat := (List.range n).foldl (fun m i =>
    if sweepHas (i / per) s then mapSet 255 m i 0 else mapUpd 255 m i (fun a => min 255 (a + 1))) m
  let brk := if s.pack.ownOk == 7 then none else s.pack.brokenAt
  let s := updPack (fun p => { p with
    cellAge := ages 24 8 p.cellAge, tempAge := ages 6 2 p.tempAge, sweeps := (ok :: p.sweeps).take 16,
    goodRun := if ok then p.goodRun + 1 else 0, brokenAt := brk,
    brokenSweeps := if brk.isSome then p.brokenSweeps + 1 else 0, farUsed := brk.isSome, got := none }) s
  if ok then s else countReg (aPack 0x188) 1 s

/-- LIMITED (R373). -/
def sweepFlag (s : State) : State :=
  if 3 ≤ (s.pack.sweeps.filter (fun b => !b)).length && decide (s.pack.goodRun = 0) then packFlag 9 s
  else if 100 ≤ s.pack.goodRun then regBit aPackStatus 9 false s else s

/-- The estimator and the limits after a sweep (R367, R375, R379). -/
def sweepLimits (ok : Bool) (s : State) : State :=
  let s := onlyIf (isLimited s) crAbort s
  let s := if ok then estSweep s else s
  let s := if !insideLimits s && !regIs aPackStatus 7 s then
      packFlag 7 (updPack (fun p => { p with openNext := true }) (sendSetpoint 0 s)) else s
  if tempsWithin 10 45 s then s else crAbort s

/-- Balancing until the next sweep, and the request to the far end of a broken segment (R372, R374). -/
def sweepBalance (s : State) : State :=
  let m := balanceMask s
  let s := sendBalance (reachable s) m (updPack (fun p => { p with bleed := m }) s)
  match s.pack.brokenAt with | some b => sendNotice (.farRequest b m) s | none => s

/-- SWEEP_CLOSE at s + 2,000 (R367, R372 to R377): the holder's sweep is complete with all three monitors; a standby's reading of the
far segment ends. -/
def execSweepClose (s : State) : Res :=
  if sweepBeat s ≠ 2000 ∨ s.pack.got = none then .next s
  else if isHolder s then
    let ok := (List.range 3).all (fun k => sweepHas k s)
    .next (sweepBalance (sweepLimits ok (sweepFlag (sweepAged ok (sweepValues s)))))
  else .next (updPack (fun p => { p with got := none, farUsed := false, farAt := none }) s)

/-- REF_OVERDUE (R376): the flag, its event, and the Steward's request to session 0. -/
def execRefOverdue (s : State) : Res :=
  .next (if isHolder s && !regIs aPackStatus 11 s && decide (packR 0x44 31 16 s * 3600000000 < s.pack.est.refAge) then
    stewardPost 20 (packFlag 11 s) else s)

/-! ### Capacity runs (R379 to R381) -/

/-- CAPRUN (R379): the conditions of the start. The first part is false for the error response. -/
def capRunStart (s : State) : Bool × State :=
  let ok := isHolder s && !crRunning s && (countedReps s).all (fun r => !r.jobRun) && !anyRunning s && s.pack.brokenAt.isNone &&
    s.pack.sweeps.head? == some true && !isLimited s && !s.pack.lat.busform && tempsWithin 15 40 s
  if ok then (true, updPack (fun p => { p with crPhase := 1, qRun := 0, crBeats := 0, crRef := false }) s) else (false, s)

/-- Highest and lowest fresh cell in 0.1 mV, the lowest load-compensated. -/
def highCell (s : State) : Nat := (freshCells s).foldl (fun m i => max m (cellV i s)) 0
def lowCell (s : State) : Rat :=
  let l := freshCells s
  compensate (l.foldl (fun m i => min m (cellV i s)) (cellV (l.headD 0) s) : Nat) (ampsOf s.pack.lat) s

/-- Flash addresses of the capacity slots (R381). -/
def aCapSlot (k : Nat) : Nat := 0x3FF_C000 + 0x1000 * k

/-- Bytes [59:4] of the capacity record of R381. -/
def capRecord (s : State) : List Byte :=
  let p := s.pack
  let ts := packTemps s
  let mean := ts.foldl (· + ·) 0 / 6
  padTo 56 (leBytes 8 (now s).toNat ++ leBytes 4 p.est.cL ++ leBytes 4 (p.qRun * 1000).floor.toNat ++
    leBytes 2 (packR 0x48 31 16 s) ++ leBytes 2 (BitVec.ofInt 16 mean).toNat ++ leBytes 2 (packR 0x48 7 0 s * 10) ++
    leBytes 2 (p.crBeats / 1000000))

/-- The record as it is written: SEQ is one above the newest valid record of this package's own slots, and the CRC comes last
(R381). -/
def capSealed (body : List Byte) (s : State) : List Byte :=
  withCrc (leBytes 4 (nextSlotSeq (flashRead (aCapSlot 0) 64 s) (flashRead (aCapSlot 1) 64 s)).toNat ++ padTo 56 body)

/-- A capacity record is to be written: now, or when the flash is free and no warning defers it; a record that comes while another is
being written waits behind it (R25, R381). -/
def capPend (body : List Byte) (s : State) : State :=
  flashNext (updPack (fun p =>
    if p.capStarted && p.capWrite.isSome then { p with capNext := some body } else { p with capWrite := some body }) s)

/-- Deferred flash writes start, unless a VAUX warning or an ejection still defers them (R25, R462). -/
def flashResume (s : State) : State :=
  if s.rst.vauxWarn || s.gov.ejectAt.isSome then s else flashNext { s with nvDeferred := false }

/-- CAPACITY_ACCEPT (R380). -/
def capAccept (s : State) : State :=
  let c := divR s.pack.qRun (1 - cutPct s / 100)
  let nom : Rat := mkRat (reg (aPack 0x3C) s).toNat 1000
  if nom / 2 ≤ c ∧ c ≤ nom * 11 / 10 then
    let s := regBit aPackStatus 12 false (updPack (fun p => { p with est := { p.est with
      cL := (c * 1000).floor.toNat, socInt := cutPct s, socRep := 0, err := 1, refAge := 0 } }) s)
    let s := regBit aPackStatus 11 false s
    let bs := capRecord s
    sendNotice (.capRecord bs) (capPend bs s)
  else packEvent 65 s

/-- CAPRUN_PHASE_END (R379). -/
def execCaprunPhaseEnd (s : State) : Res :=
  if !isHolder s then .next s
  else
    let p := s.pack
    let i := ampsOf p.lat
    let small := decide (-1 < i) && decide (i < 1)
    if p.crPhase == 1 && small && decide (27000 ≤ highCell s) then
      .next (updPack (fun p => { p with crPhase := 2, crRef := false, est := { p.est with rest := 0 } }) s)
    else if p.crPhase == 2 && p.crRef then .next (updPack (fun p => { p with crPhase := 3, qRun := 0, crBeats := 0 }) s)
    else if p.crPhase == 3 && decide (lowCell s ≤ 18000) then .next (updPack (fun p => { p with crPhase := 4 }) (capAccept s))
    else if p.crPhase == 4 && decide (((min 100 (packP 5 23 16 s) : Nat) : Rat) ≤ p.est.socRep) then .next (updPack (fun p => { p with crPhase := 5 }) s)
    else .next s

/-- A capacity record from the holder: the standby writes its own slots (R381). -/
def capRecordIn (bs : List Byte) (s : State) : State := if isStandby s then capPend bs s else s

/-- CAP_RECORD_WRITE_DONE. -/
def execCapRecordWriteDone (s : State) : Res :=
  match s.pack.capWrite with
  | some bs =>
    if s.pack.capStarted then
      let k := otherSlot (flashRead (aCapSlot 0) 64 s) (flashRead (aCapSlot 1) 64 s)
      let s := flashSector (aCapSlot k) (capSealed bs s) s
      .next (flashNext (updPack (fun p => { p with capWrite := p.capNext, capNext := none, capStarted := false }) s))
    else .next s
  | none => .next s

/-! ### Eject (R370, R462) -/

/-- Leaving notices to every member of every job with a partition here, and the local stop (R428, R462). -/
def leaveAll (s : State) : State :=
  forAll (s.jobs.filter (fun j => !(partsOfJob j.num s).isEmpty)) (fun j s =>
    let others := j.members.filter (fun p => decide (p ≠ pkgId s))
    let s := if jobStopped j.num s then s else jobStop j.num none s
    forAll others (toMember (.leaving j.num)) s) s

/-- EJECT: EJECT_N latched asserted. Leaving notices, the local stop, the halt, no further flash write, retention, and for the
holder SETPOINT 0 with the contactor to open in the next beat. -/
def execEject (s : State) : Res :=
  if !s.gov.eject || s.gov.ejectAt.isSome then .next s
  else
    let s := leaveAll (haltFor haltEject { s with nvDeferred := true, gov := { s.gov with ejectAt := some s.tick } })
    let s := stewardPost 20 (stewardPost 16 (retention s))
    .next (if isHolder s then updPack (fun p => { p with openNext := true }) (sendSetpoint 0 (crAbort s)) else s)

/-- EJECT_SWITCH_OFF: from n + 1,000 the rails switch off (R462). -/
def execEjectSwitchOff (s : State) : Res :=
  match s.gov.ejectAt with
  | some b => .next (if b + 1000 ≤ s.tick && !s.rails.offSeq then switchOff s.tick s else s)
  | none => .next s

/-- EJECT_RELEASE: deasserted at 1,000 consecutive latches, the rails soft-start (R462). -/
def execEjectRelease (s : State) : Res :=
  if s.gov.ejectAt.isSome && decide (1000 ≤ s.gov.ejectGone) then
    let s := endHalt haltEject (s.tick + 1) { s with gov := { s.gov with ejectAt := none } }
    .next (flashResume (leaveRetention s))
  else .next s

/-! ### Hibernation (R382) -/

/-- HIBERNATE: balancing stops with the rest. -/
def execHibernate (s : State) : Res :=
  .next (if isHolder s && !hibernating s && !crRunning s && !s.pack.lat.busform &&
      decide (max 1 (packR 0x54 15 0 s) * 1000000 ≤ s.pack.est.quiet) then
    sendBalance (readOrder s) 0 (regBit aPackStatus 10 true (updPack (fun p => { p with
      bleed := 0, est := { p.est with hibAcc := 0, hibErr := 0 } }) s)) else s)

/-- The estimator wakes and applies the accumulated charge in full. -/
def wakeUp (s : State) : State :=
  if hibernating s then
    let e := s.pack.est
    updPack (fun p => { p with est := { p.est with hibAcc := 0, hibErr := 0, quiet := 0 } })
      (countCharge e.hibAcc e.hibErr (regBit aPackStatus 10 false s))
  else s

/-! ### The beat (R33, R366, R368, R375) -/

/-- The FP32 of an output port as a number of watts. -/
def portW (code : Nat) (s : State) : Rat := ratOf32 (mapGet 0 s.loop.output code)

/-- The command of a beat before the limits: the pack law's, or the capacity run's (R379). While a charge holds the highest cell
at 2.70 V its power is a free part of the full one. -/
def packCommand (s : State) : Rat × State :=
  let x := s.pack.lat
  let room := trayShare s - trayLoad s
  let chg : Rat := divR ((packR 0x50 23 16 s : Nat) * voltsOf x) (stageEff s)
  let full := if room < 0 then 0 else if room < chg then room else chg
  match s.pack.crPhase.toNat with
  | 1 => if 27000 ≤ highCell s then (-(full * mkRat (Config.freeValue s.free).toNat (2 ^ 64)), useFree s) else (-full, s)
  | 2 => (0, s)
  | 3 => ((packR 0x50 31 24 s : Nat) * voltsOf x * stageEff s, s)
  | 4 => if 27000 ≤ highCell s then (-(full * mkRat (Config.freeValue s.free).toNat (2 ^ 64)), useFree s) else (-full, s)
  | _ => (portW 0x140 s, s)

/-- The answer to each package of the tray (R364, R368, R379). In a capacity run the ports are not used (R383), and the spec gives only
the discharge phase's C_pack and C_abs: the other fields are free values (log 28). -/
def answerFor (r : PackRep) (n : Nat) (s : State) : PackAns :=
  let x := s.pack.lat
  let share (q : Rat) : Int := if n = 0 then 0 else w16 (q / (n : Rat)).floor
  let open_ (k : Nat) : Int := ((Config.freeValue (s.free + k)).setWidth 16).toInt
  if s.pack.crPhase == 3 then
    let t := govEff s * ((packR 0x50 31 24 s : Nat) * voltsOf x * stageEff s + (packR 0x50 15 0 s : Nat)) / (max 1 n : Nat)
    let d := t - (r.pRef : Rat)
    ⟨s.pack.epoch, w16 (if d < 0 then 0 else d.floor), w16 (-d).floor, open_ 0, x.busform⟩
  else if crRunning s then ⟨s.pack.epoch, open_ 0, open_ 1, open_ 2, x.busform⟩
  else ⟨s.pack.epoch, share (portW 0x141 s), share (portW 0x142 s), share (portW 0x143 s), x.busform⟩

/-- The end of a beat on the holder: the command within the limits, SETPOINT when it changes, and the answers. -/
def packSend (s : State) : State :=
  if !isHolder s then s
  else
    let q := packCommand s
    let s := q.2
    let cmd := (clampR (-s.pack.pChg) s.pack.pDis q.1)
    let v := voltsOf s.pack.lat
    let amps : Rat := if cmd = 0 then 0 else if 0 ≤ cmd then divR cmd (v * stageEff s) else divR (cmd * stageEff s) v
    let stop := s.gov.eject || regIs aPackStatus 7 s
    let changed := decide (cmd ≠ s.pack.cmd)
    let s := updPack (fun p => { p with cmd := if stop then 0 else cmd }) s
    let s := if stop then sendSetpoint 0 s
             else if changed then sendSetpoint (if 0 ≤ amps then (amps * 100).floor else -(-amps * 100).floor) s else s
    let reps := countedReps s
    forAll reps (fun r s =>
      let a := answerFor r reps.length s
      let s := if crRunning s then { s with free := s.free + 3 } else s
      if r.pkg = pkgId s then packAnswerIn a s else cl0To .tray r.pkg (.answer a) s) s

/-- The frames that are due at FRAC 0: a released brush, the contactor's opening, the beat's synchronisation. -/
def packFrames (s : State) : State :=
  let s := if isHolder s && s.pack.released then loseBrush (stageSend 0x04 s.pack.epoch 0 s) else s
  let s := if isHolder s && s.pack.openNext then stageSend 0x05 s.pack.epoch 0 (updPack (fun p => { p with openNext := false }) s) else s
  if isHolder s then emit .stageSync s else s

/-- The charge of the beat in A·s and the growth of its error. -/
def beatCharge (s : State) : Rat × Rat :=
  let i := ampsOf s.pack.lat
  let mag := if i < 0 then -i else i
  (i / 1000000, (mag / 200 + mkRat (packR 0x48 15 8 s) 100) / 1000000)

/-- The estimator's timers and the charge of a beat (R375, R376, R379, R382). -/
def packCount (s : State) : State :=
  let i := ampsOf s.pack.lat
  let mag := if i < 0 then -i else i
  let q := (beatCharge s).1
  let e := (beatCharge s).2
  let s := updPack (fun p => { p with
    est := { p.est with
      refAge := p.est.refAge + 1
      rest := if mag ≤ mkRat (packR 0x44 15 8 s) 10 then p.est.rest + 1 else 0
      quiet := if mag ≤ 1 / 2 then p.est.quiet + 1 else 0 },
    qRun := if p.crPhase == 3 then p.qRun + q else p.qRun, crBeats := if p.crPhase == 3 then p.crBeats + 1 else p.crBeats }) s
  if hibernating s then updPack (fun p => { p with est := { p.est with hibAcc := p.est.hibAcc + q, hibErr := p.est.hibErr + e } }) s
  else countCharge q e s

/-- What ends hibernation at a latch (R382). -/
def packWakes (s : State) : State :=
  let i := ampsOf s.pack.lat
  let mag := if i < 0 then -i else i
  if hibernating s && (decide (1 / 2 < mag) || s.gov.eject || s.pack.lat.busform) then wakeUp s else s

/-- FRAC 0 on a candidate: the frames that were due, the latched sample, the limits, and the estimator's count. -/
def packLatchBeat (s : State) : State :=
  if !isCandidate s then s
  else
    let s := latchReports (updPack (fun p => { p with lat := p.stage }) (packFrames s))
    if !isHolder s then s
    else
      let s := packCount (packWakes s)
      let s := if s.pack.lat.busform || s.gov.eject || anyRunning s then crAbort s else s
      updPack (fun p => { p with pDis := (packLimits s).1, pChg := (packLimits s).2 }) s

/-- The pack input ports of R383. -/
def packPorts (s : State) : List (Nat × BitVec 32) :=
  if !isCandidate s then []
  else
    let x := s.pack.lat
    let f (q : Rat) : BitVec 32 := ofRat32 q
    [(0x140, f (voltsOf x)), (0x141, f (ampsOf x)), (0x142, f (mkRat x.vBus 100)), (0x143, f (busPower x s)),
     (0x144, f (trayLoad s)), (0x145, f (trayRef s)), (0x146, f (trayShare s)), (0x147, f ((countedReps s).length : Nat)),
     (0x148, f s.pack.est.socRep), (0x149, f s.pack.est.err), (0x14A, f s.pack.pDis), (0x14B, f s.pack.pChg),
     (0x14C, f (if isHolder s then 1 else 0)), (0x14D, f (if x.busform then 1 else 0)), (0x14E, f (s.pack.crPhase.toNat : Nat)),
     (0x14F, f (packEnergy s))]

end Sys2Proof.Machine
end

