-- ==== Sys2Proof/Machine/Release.lean ====
section
/-! DEFINITION. The companion flash's images, measurement slots as the boot ROM extends them, and the release of each block from
reset by its clock and its supply (R174, R433, R436, R440 to R446). -/

namespace Sys2Proof.Machine

/-- Change the reset record. -/
def updRst (f : Rst → Rst) (s : State) : State := { s with rst := f s.rst }

/-! ### Registers computed from the reset record -/

/-- SYS.STRAPS (R432). -/
def strapsReg (s : State) : BitVec 32 :=
  let x := s.rst.straps
  BitVec.ofNat 32 (b2n s.rst.conflict * 65536 + x.bootsrc.toNat * 256 + x.clkmode.toNat * 64 + x.role.toNat * 16 +
    x.packcand.toNat * 4 + x.slot.toNat)

/-- RST.CAUSE (R441). -/
def causeReg (s : State) : BitVec 32 :=
  BitVec.ofNat 32 (s.rst.kind.toNat * 65536 + s.rst.count.toNat * 256 + s.rst.last.toNat)

/-- RST.STATUS (R453). -/
def rstStatus (s : State) : BitVec 32 :=
  BitVec.ofNat 32 (s.rst.clkFail.toNat * 65536 + s.rst.clkGood.toNat * 256 + s.rst.phase.toNat)

/-- RST.OPT_STATUS and RST.BOOT_STATUS (R452). -/
def optStatus (s : State) : BitVec 32 := BitVec.ofNat 32 (s.rst.skipped.toNat * 256 + s.rst.optSrc.toNat)
def bootStatus (s : State) : BitVec 32 :=
  BitVec.ofNat 32 (s.rst.bootFail.toNat * 2 ^ 28 + s.rst.bootSrc.toNat * 16 + s.rst.bootCopy.toNat)

/-- BOOTSRC in force: the reserved code acts as 0 (R430). -/
def bootSource (s : State) : Nat := if s.rst.straps.bootsrc = 3 then 0 else s.rst.straps.bootsrc.toNat

/-! ### Images (R433, R443) -/

/-- A little-endian word of a list of bytes. -/
def wordAt (bs : List Byte) (a : Nat) : Nat := ofLe ((bs.drop a).take 4)

/-- The option copy at a flash address, header and entries, if it is valid. -/
def optCopy (a : Nat) (s : State) : Option (List Byte) :=
  let h := flashRead a 32 s
  let n := ofLe ((h.drop 10).take 2)
  let e := flashRead (a + 32) (8 * n) s
  if wordAt h 0 = 0x4B474F42 && decide (ofLe ((h.drop 8).take 2) = 1) && decide (n ≤ 4092) &&
      decide (crc32c (h.take 28 ++ e) = BitVec.ofNat 32 (wordAt h 28)) then some (h ++ e)
  else none

/-- The option copy used (R433): 1 for A, 2 for B. -/
def optUsed (s : State) : Option (Nat × List Byte) :=
  match optCopy 0 s, optCopy 0x8000 s with
  | some a, some b =>
    if (BitVec.ofNat 32 (wordAt a 4) - BitVec.ofNat 32 (wordAt b 4)).getLsbD 31 then some (2, b) else some (1, a)
  | some a, none => some (1, a)
  | none, some b => some (2, b)
  | none, none => none

/-- Whether the bytes are one intact image of at most `room` bytes: MAGIC, LENGTH and CRC (R443). -/
def imageIntact (room : Nat) (bs : List Byte) : Bool :=
  let n := wordAt bs 4
  decide (64 ≤ bs.length) && decide (wordAt bs 0 = 0x4B47494D) && decide (n % 64 = 0) && decide (n + 64 ≤ room) &&
    decide (n + 64 = bs.length) && decide (crc32c (bs.drop 64) = BitVec.ofNat 32 (wordAt bs 12))

/-- The image at a flash address, header included, if it is intact. -/
def flashImage (a room : Nat) (s : State) : Option (List Byte) :=
  let n := wordAt (flashRead a 8 s) 4
  if n + 64 ≤ room then
    let bs := flashRead a (n + 64) s
    if imageIntact room bs then some bs else none
  else none

/-- The first intact copy of two, with its number (R443). -/
def intactOf (a b room : Nat) (s : State) : Option (Nat × List Byte) :=
  match flashImage a room s with
  | some x => some (0, x)
  | none => (flashImage b room s).map (fun x => (1, x))

/-- The microcode and the Steward firmware in flash (R442). -/
def microImage (s : State) : Option (Nat × List Byte) := intactOf 0x110_0000 0x120_0000 0x10_0000 s
def stewardImage (s : State) : Option (Nat × List Byte) := intactOf 0x10_0000 0x90_0000 0x80_0000 s

/-! ### Link states as the release of the ports sets them -/

/-- Whether the role leaves the link unused (R220). -/
def linkUnused (n : Nat) (s : State) : Bool := isCard s && decide (n ≠ 0)

/-- Enter a link state. Leaving ACTIVE or DEGRADED starts the time of R214; reaching either ends it and the failures. -/
def enterSt (n st : Nat) (s : State) : State :=
  let was := linkUsable n s
  let now := decide (st = lsActive) || decide (st = lsDegraded)
  let lanes := if now then (linkAt n s).lanes.toNat else 0
  let s := updReg (aLnk n 4) (fun v => setFld (setFld v 3 0 st) 9 8 lanes) s
  updLink n (fun l =>
    { l with
      since := s.tick
      fails := if now then 0 else l.fails
      declared := if now then false else l.declared
      leftAt := if now then none else if was then some s.tick else l.leftAt }) s

/-! ### Release (R436) -/

/-- Whether the rails of block `k` are in regulation. In the safe role the port serves without its rail (R430). -/
def powered (k : Nat) (s : State) : Bool :=
  match k with
  | 0 => true
  | 1 => railReg 1 s
  | 2 => railReg 2 s
  | 3 => railReg 0 s && railReg 1 s
  | 4 => railReg 3 s
  | _ => s.rst.safe || railReg 3 s

/-- Whether block `k` may leave reset. -/
def mayRelease (k : Nat) (s : State) : Bool :=
  s.rst.clkGood.getLsbD k && powered k s && (match k with
    | 0 => s.rst.optDone
    | 3 => memInitDone s
    | 4 => s.rst.micro
    | 5 => s.rst.safe || s.rst.micro
    | _ => true)

/-- Whether the supply of block `k` holds its state. -/
def supplied (k : Nat) (s : State) : Bool :=
  match k with
  | 0 => true
  | 1 => railHolds 1 s
  | 2 => railHolds 2 s
  | 3 => railHolds 0 s && railHolds 1 s
  | 4 => railHolds 3 s
  | _ => s.rst.safe || railHolds 3 s

/-- The reset-cause record (R440). -/
def reportCause (s : State) : State := report 0xB0 oGov (causeReg s) [] s

/-- The records of a reset at which the straps are sampled: its cause, and a strap conflict where there is one (R4, R430, R440). -/
def reportReset (s : State) : State :=
  onlyIf s.rst.conflict (report 0x52 oGov (strapsReg s) []) (updRst (fun x => { x with reported := true }) (reportCause s))

/-- The fault record of a slot, if any, becomes readable. -/
def loadFault (slot : Option Nat) (s : State) : State :=
  match slot with
  | some k => { s with rails := { s.rails with frec := flashRead (aFrec k) 256 s, frecSrc := true } }
  | none => s

/-- The learned capacity of a slot; with none, PACK.CAP_NOM, and CAP_DEFAULT says so (R381). -/
def loadCap (slot : Option Nat) (s : State) : State :=
  match slot with
  | some k => updPack (fun p => { p with est := { p.est with cL := wordAt (flashRead (aCapSlot k) 64 s) 12 } }) s
  | none => regBit aPackStatus 12 true (updPack (fun p => { p with est := { p.est with cL := (reg (aPack 0x3C) s).toNat } }) s)

/-- What the quiet domain loads from flash when it starts: the newest fault record, and on a candidate the newest capacity
record (R347, R381). -/
def loadRecords (s : State) : State :=
  let s := loadFault (newestSlot (flashRead (aFrec 0) 256 s) (flashRead (aFrec 1) 256 s)) s
  if isCandidate s then loadCap (newestSlot (flashRead (aCapSlot 0) 64 s) (flashRead (aCapSlot 1) 64 s)) s else s

/-- The boot ROM starts: once after a cold reset it extends MS0 and MS1 (R446). The watchdog counts from here, and the reset that this
start ends discards nothing more (R427). -/
def bootStart (s : State) : State :=
  let first := s.rst.starting && decide (s.rst.kind = 0)
  let s := updRst (fun x => { x with
    starting := false, bootRuns := true, steward := false, bootAt := s.tick, wdogAt := s.tick, bootReqAt := none }) s
  if first then extendMs 1 s.rst.optDigest (extendMs 0 Config.bootRomHash s) else s

/-- Every bit of MEM.CLEAR_BUSY (R173). -/
def clearBusyAll (v : BitVec 32) (s : State) : State := forAll (List.range 32) (fun i s => setReg (0x30_0040 + 4 * i) v s) s

/-- A block leaves reset. -/
def release (k : Nat) (s : State) : State :=
  let s := updRst (fun x => { x with released := setBit x.released k true }) s
  match k with
  | 0 => loadRecords (if s.rst.reported then s else reportReset s)
  | 1 => bootStart s
  | 2 => if memInitDone s then s else clearBusyAll 0xFFFFFFFF s
  | 3 => endHalt haltReset s.tick s
  | 4 => forAll (List.range 64) (fun n s =>
      if regIs (aLnk n 0) 0 s && !linkUnused n s && decide (linkSt n s = lsDisabled) then enterSt n lsDetect s else s) s
  | _ => s

/-- A block loses its supply and goes back into reset. -/
def unrelease (k : Nat) (s : State) : State :=
  let s := updRst (fun x => { x with released := setBit x.released k false }) s
  match k with
  | 1 => updRst (fun x => { x with bootRuns := false, steward := false }) s
  | 3 => haltFor haltReset s
  | 4 => forAll (List.range 64) (fun n s => if linkSt n s = lsDisabled then s else enterSt n lsDetect s) s
  | 5 => setReg aPort 0 s
  | _ => s

/-- Clock `k` is enabled when the rails of its block reach regulation, and stops when they no longer hold it (R436, R437). -/
def clockEnable (k : Nat) (s : State) : State :=
  if !supplied k s then updRst (fun x => { x with clkAt := mapSet none x.clkAt k none, clkGood := setBit x.clkGood k false }) s
  else if powered k s && (mapGet none s.rst.clkAt k).isNone then
    updRst (fun x => { x with clkAt := mapSet none x.clkAt k (some s.tick) }) s
  else s

/-- Every block leaves reset, or goes back into it, as its clock and supply stand. -/
def releaseBlocks (s : State) : State :=
  forAll (List.range 6) (fun k s =>
    let s := clockEnable k s
    if s.rst.released.getLsbD k then (if supplied k s then s else unrelease k s)
    else if mayRelease k s then release k s else s) s

/-- A tile after its reset: its registers are zero, and its owner keeps it. -/
def tileReset (x : Tile) : Tile := { Tile.zero with part := x.part, assigned := x.assigned }

/-- The last row of every bank of every vault, which cold initialisation leaves open (R151, R152, log 49). -/
def lastRows : SMap Nat := (List.range 65536).map (fun k => (k, vaultSize / 64 / 64 / 32))

/-- MEM_INIT_DONE: the end of cold initialisation (R173, R174), which begins as the vault controllers are released: everything is zero,
the windows are closed, MEM.CLEAR_BUSY ends, and the energy is idle. -/
def execMemInitDone (s : State) : Res :=
  if vdramOn s && s.rst.released.getLsbD 2 && !memInitDone s then
    let s := updAllTiles tileReset
      { s with vault := [], vaultErr := [], vaultFix := [], vaultRow := lastRows, window := [], scratch := [], scratchErr := [],
               scratchFix := [], istoreErr := [] }
    let s := charge acctIdle 6 (1024 * (scratchSize / 64)) (charge acctIdle 7 (1024 * (vaultSize / 64)) s)
    .next (releaseBlocks (setReg 0x30_00C0 1 (clearBusyAll 0 s)))
  else .next s

/-- CLOCK_GOOD (R436): of a clock that runs. -/
def execClockGood (k : BitVec 3) (s : State) : Res :=
  .next (if k.toNat < 6 && supplied k.toNat s then
      releaseBlocks (updRst (fun x => { x with clkGood := setBit x.clkGood k.toNat true }) s) else s)

/-- CLOCK_FAIL: 1 ms after it was enabled the clock has not reported good. The bit and an event, whose type and KEY the spec does not
give, so both are free (log 36); the clock is tried again 10 ms later. The quiet clock is what counts the beats, so its 1 ms is not
theirs. -/
def execClockFail (k : BitVec 3) (s : State) : Res :=
  let w := Config.freeValue s.free
  let late := match mapGet none s.rst.clkAt k.toNat with | some b => decide (b + 1000 ≤ s.tick) | none => false
  .next (if k.toNat < 6 && !s.rst.clkGood.getLsbD k.toNat && (k = 0 || late) then
      report (w.extractLsb' 0 8) oGov (w.extractLsb' 32 32) []
        (useFree (updRst (fun x => { x with
          clkFail := setBit x.clkFail k.toNat true, clkAt := mapSet none x.clkAt k.toNat (some (s.tick + 10000)) }) s))
    else s)

end Sys2Proof.Machine
end

