-- ==== Sys2Proof/Machine/Remote.lean ====
section
/-! DEFINITION. Windows and remote memory operations: issue, departure, the checks and effects at the target, completion, fences
and timeouts (R176 to R207, R490). -/

namespace Sys2Proof.Machine

/-! ### The window table (R176 to R180) -/

/-- A register of WIN. -/
def aWin (off : Nat) : Nat := 0x31_0000 + off

/-- The entry of a window. -/
def winAt (w : Nat) (s : State) : BitVec 64 := mapGet 0 s.window w

/-- The tile beneath a window's vault. -/
def winTile (w : Nat) : Nat := w / 2048

/-- Fields of an entry (R177). -/
def weScope (e : BitVec 64) : Nat := bitsN e.toNat 1 0
def weJob (e : BitVec 64) : BitVec 16 := BitVec.ofNat 16 (bitsN e.toNat 63 48)
def weSigHi (e : BitVec 64) : Nat := bitsN e.toNat 47 42
def weSigLo (e : BitVec 64) : Nat := bitsN e.toNat 41 36
def weSlot (e : BitVec 64) : Nat := bitsN e.toNat 35 32

/-- Whether a write narrows an entry (R179). -/
def narrows (old new : BitVec 64) : Bool :=
  (decide (weScope old ≠ 0) && decide (weScope old ≠ weScope new)) ||
    [2, 3, 4, 5, 6].any (fun i => old.getLsbD i && !new.getLsbD i) ||
    (decide (weScope old = 2) && decide (weJob old ≠ weJob new)) ||
    (decide (weSigLo old ≤ weSigHi old) && !(decide (weSigLo new ≤ weSigLo old) && decide (weSigHi old ≤ weSigHi new))) ||
    decide (old.getLsbD 7 ≠ new.getLsbD 7) || decide (weSlot old ≠ weSlot new)

/-- Whether the entry's reserved bits are zero. -/
def weClean (e : BitVec 64) : Bool := decide (bitsN e.toNat 31 8 = 0)

/-- Commit an entry (R179): the kind 1 record, and BUSY when it narrows; or discard it (R180). -/
def winWrite (o : Origin) (w : Nat) (e : BitVec 64) (s : State) : State :=
  let t := winTile w
  if (ownerOf t s).isNone || clearing t s || !weClean e then
    report 0x28 o (BitVec.ofNat 32 w) (leBytes 8 e.toNat) (regBit (aWin 0xC) 1 true s)
  else
    let old := winAt w s
    let s := logEntry ⟨o, 1, now s, BitVec.ofNat 32 w, 0, old, e, markNow s⟩ { s with window := mapSet 0 s.window w e }
    onlyIf (narrows old e) (regBit (aWin 0xC) 0 true) s

/-! ### Codes -/

/-- The OP of a kind (R183). -/
def rkOp : RKind → Nat
  | .put => 0x00 | .get => 0x01 | .puts => 0x02 | .aadd => 0x08 | .cas => 0x09 | .swap => 0x0A | .xacc => 0x10 | .notify => 0x18

/-- Whether a kind is an atomic. -/
def rkAtomic (k : RKind) : Bool := k == .aadd || k == .cas || k == .swap

/-- Whether a kind takes its length from s[C]. -/
def rkLong (k : RKind) : Bool := k == .put || k == .get || k == .xacc

/-! ### Completion (R193, R194, R204) -/

/-- Forget a completed operation wherever something waits for it. -/
def forgetOp (id : Nat) (s : State) : State :=
  { s with rops := (s.rops.filter (fun o => decide (o.id ≠ id))).map (fun o => { o with waits := o.waits.filter (· ≠ id) }),
           fences := s.fences.map (fun f => { f with waits := f.waits.filter (· ≠ id) }) }

/-- The status word after an error return. -/
def rstatError (err : BitVec 4) (o : RemoteOp) (old : BitVec 64) : BitVec 64 :=
  BitVec.ofNat 64 (o.dest.toNat * 2 ^ 48 + min 0xFFFF (bitsN old.toNat 47 32 + 1) * 2 ^ 32 + err.toNat * 2 ^ 24 +
    o.ctr.toNat * 2 ^ 18 + o.op.toNat)

/-- An error return at a tile: its status, and one record in 1,024 beats. -/
def tileError (t : Nat) (err : BitVec 4) (o : RemoteOp) (s : State) : State :=
  let s := updTile t (fun x => { x with rstat := rstatError err o x.rstat }) s
  let x := tileAt t s
  let recent := match x.lastErrRec with | some b => decide (s.tick < b + 1024) | none => false
  if recent then s
  else report 0x30 (oTile t s) (lo32 x.rstat) (leBytes 4 (hi32 x.rstat).toNat) (updTile t (fun x => { x with lastErrRec := some s.tick }) s)

/-- What a success brings back to the tile: GET's bytes, an atomic's old value. -/
def tileResult (t : Nat) (o : RemoteOp) (data : List Byte) (s : State) : State :=
  if o.pkt.kind = .get then
    (landStore true true t o.laddr (padTo o.pkt.len data) (some (o.pc, o.word))
      (charge (acctOfTile t s) 6 (unitsOf o.laddr o.pkt.len) s)).2
  else if rkAtomic o.pkt.kind then updTile t (sSet o.e.toNat (BitVec.ofNat 64 (ofLe (data.take (if o.pkt.sz32 then 4 else 8))))) s
  else s

/-- An operation completes at its source: with error 0 its result is written first; c[D] rises by 1 whatever the error. -/
def completeOp (o : RemoteOp) (err : BitVec 4) (data : List Byte) (s : State) : State :=
  let s := forgetOp o.id s
  match o.src with
  | .tile t =>
    let t := t.toNat
    let s := if err = 0 then tileResult t o data s else tileError t err o s
    updTile t (cCount o.ctr.toNat 1) s
  | .session n tag =>
    let status : BitVec 8 := if err = 0 then 0 else 16 + err.setWidth 8
    respond n.toNat tag status 0 (if err = 0 && decide (o.pkt.kind = .get) then padTo o.pkt.len data else []) s

/-! ### Departure (R181, R191, R197, R205) -/

/-- The origin word of a tile (R181). -/
def tileOrigin (t : Nat) (s : State) : BitVec 64 :=
  let x := tileAt t s
  BitVec.ofNat 64 ((pkgId s).toNat * 2 ^ 48 + ((jobOfTile t s).getD 0xFFFF).toNat * 2 ^ 32 + x.part.toNat * 2 ^ 24 +
    x.queue.toNat * 2 ^ 16 + t)

/-- The origin word of a session (R181, R241). -/
def sessionOrigin (n : Nat) (s : State) : BitVec 64 :=
  let p := (sesAt n s).part
  let job := (p.bind (fun p => jobOfPart p.toNat s)).getD 0xFFFF
  BitVec.ofNat 64 ((pkgId s).toNat * 2 ^ 48 + job.toNat * 2 ^ 32 + 2 ^ 28 + (p.getD 0).toNat * 2 ^ 24 + n)

/-- The origin word of a source. -/
def originOf (src : RSrc) (s : State) : BitVec 64 :=
  match src with
  | .tile t => tileOrigin t.toNat s
  | .session n _ => sessionOrigin n.toNat s

/-- The account that carries an operation's packets. -/
def acctOfSrc (src : RSrc) (s : State) : Nat :=
  match src with
  | .tile t => acctOfTile t.toNat s
  | .session n _ => match (sesAt n.toNat s).part with | some p => acctPart p.toNat | none => acctIdle

/-- An operation leaves: hardware stamps its origin (R181), and it travels to its target, or with no route completes with error 1
(R203). -/
def departOp (id : Nat) (s : State) : State :=
  match s.rops.find? (fun o => decide (o.id = id)) with
  | none => s
  | some o =>
    let p := { o.pkt with origin := originOf o.src s }
    let s := { s with rops := mapIf (fun x => decide (x.id = id)) (fun x => { x with departed := true, since := s.tick, pkt := p }) s.rops }
    let q := netSend (msgClass (.remote p)) none (acctOfSrc o.src s) o.dest (.remote p) s
    if q.1 then q.2 else completeOp o 1 [] q.2

/-- NOTIFY_DEPART: every earlier operation of the tile to the same package has completed. -/
def execNotifyDepart (id : Nat) (s : State) : Res :=
  match s.rops.find? (fun o => decide (o.id = id)) with
  | some o => .next (if !o.departed && o.waits.isEmpty then departOp id s else s)
  | none => .next s

/-! ### Issue (R184 to R192) -/

/-- Fields of an RMT word (R184). -/
def rmE (f : Ins) : BitVec 6 := BitVec.ofNat 6 (immF f 24 19)
def rmG (f : Ins) : BitVec 6 := BitVec.ofNat 6 (immF f 18 13)
def rmSen (f : Ins) : Bool := f.imm.getLsbD 12
def rmBulk (f : Ins) : Bool := f.imm.getLsbD 11
def rmSz32 (f : Ins) : Bool := f.imm.getLsbD 10
def rmFsc (f : Ins) : Bool := f.imm.getLsbD 9

/-- Masks of the fields. -/
def zC : Nat := 0x7E000000
def zE : Nat := 0x01F80000
def zG : Nat := 0x0007E000
def zSen : Nat := 0x1000
def zBulk : Nat := 0x800
def zSz : Nat := 0x400
def zFsc : Nat := 0x200
def zLow : Nat := 0x1FF

/-- The fields of R185 that must be zero for a kind. -/
def rmZeros (k : RKind) : Nat :=
  zLow + zFsc + (match k with
    | .put => zE + zSz
    | .get => zE + zG + zSen + zSz
    | .puts => zC + zE + zBulk
    | .aadd => zC + zG + zSen + zBulk
    | .swap => zC + zG + zSen + zBulk
    | .cas => zG + zSen + zBulk
    | .xacc => zE + zBulk + zSz
    | .notify => zC + zE + zSen + zBulk + zSz)

/-- Encoding checks of a kind: with SEN = 0 a kind that may signal needs G = 0. -/
def rmEnc (k : RKind) (f : Ins) : Option Nat :=
  let opt := (k == .put || k == .puts || k == .xacc) && !rmSen f
  encOf true true true (rmZeros k + if opt then zG else 0) true f

/-- Package, window and offset of a global address (R9). -/
def gaPkg (a : Nat) : PkgId := BitVec.ofNat 16 (bitsN a 52 37)
def gaWin (a : Nat) : BitVec 21 := BitVec.ofNat 21 (bitsN a 36 16)
def gaOff (a : Nat) : BitVec 16 := BitVec.ofNat 16 (bitsN a 15 0)

/-- The length of an operation (R186). -/
def rmLen (k : RKind) (c : Nat) (sz32 : Bool) : Nat :=
  if rkLong k then c else if k == .notify then 0 else if sz32 then 4 else 8

/-- Checks 3 to 7 of R186, in order: the code and the address that fails. A PUT or XACC of length 0 makes check 3 alone (R201). -/
def rmFault (k : RKind) (ga len local_ : Nat) : Option (Nat × Nat) :=
  let off := ga % 65536
  if ga / 2 ^ 53 ≠ 0 then some (0x2A, ga)
  else if rkLong k ∧ len = 0 then none
  else if rkLong k ∧ (65536 < len ∨ (k = .xacc ∧ len % 16 ≠ 0)) then some (0x2B, ga)
  else if k ≠ .notify ∧ 65536 < off + len then some (0x2C, ga)
  else if k = .xacc ∧ (off % 16 ≠ 0 ∨ local_ % 16 ≠ 0) then some (0x2D, ga)
  else if !(rkLong k || k == .notify) ∧ off % len ≠ 0 then some (0x2D, ga)
  else if rkLong k ∧ scratchSize < local_ + len then some (0x2E, local_)
  else none

/-- Operations of a tile that are outstanding. -/
def tileOps (t : Nat) (s : State) : List RemoteOp := s.rops.filter (fun o => decide (o.src = .tile (BitVec.ofNat 10 t)))

/-- FENCEs of a tile that are not satisfied, which are outstanding as well. -/
def tileFences (t : Nat) (s : State) : List Fence := s.fences.filter (fun f => decide (f.tile.toNat = t))

/-- Whether a remote instruction must wait at issue: a FENCE of the tile is not satisfied (R192), or 64 operations are outstanding
(R196). -/
def remoteHeld (t : Nat) (s : State) : Bool :=
  !(tileFences t s).isEmpty || decide (64 ≤ (tileOps t s).length + (tileFences t s).length)

/-- Issue a remote instruction when nothing holds it. -/
def issueRm (t : TileId) (op : Nat) (f : Ins) (enc : Option Nat) (run : Nat → BitVec 64 → State → State) (s : State) : State :=
  if pGet (tileAt t.toNat s) f.p.toNat && remoteHeld t.toNat s then s else issue t 6 op f enc run s

/-- The instruction of one kind, past its encoding. The next instruction issues in a later cycle, so what has been counted by now comes before
its CSET (R66). -/
def rmRun (k : RKind) (f : Ins) (t : Nat) (w : BitVec 64) (s : State) : State :=
  let x := tileAt t s
  let ga := (sGet x f.a.toNat).toNat
  let c := (sGet x (immC f)).toNat
  let len := rmLen k c (rmSz32 f)
  let loc := (sGet x f.b.toNat).toNat
  if rkLong k && decide (len = 0) && !rmSen f then onTile (cAdd f.d.toNat 1) t w s
  else match rmFault k ga len loc with
    | some e => faultHere t e.1 w e.2 s
    | none =>
      let reads := k == .put || k == .xacc
      let r := if reads then checkRead rdRemote true t loc len (some (x.pc, w)) (charge (acctOfTile t s) 6 (unitsOf loc len) s) else (true, s)
      if !r.1 then r.2
      else
        let s := r.2
        let id := s.nextOp
        let p : RemotePkt := { id := id, origin := tileOrigin t s, kind := k, window := gaWin ga, offset := gaOff ga, len := len,
                               data := if reads then readScratch t loc len s else [], value := sGet x f.b.toNat,
                               comparand := sGet x (immC f), sz32 := rmSz32 f, sen := rmSen f, g := rmG f, bulk := rmBulk f }
        let dest := gaPkg ga
        let waits := if k == .notify then ((tileOps t s).filter (fun o => decide (o.dest = dest))).map (·.id) else []
        let op : RemoteOp := { id := id, src := .tile (BitVec.ofNat 10 t), pkt := p, dest := dest, laddr := loc, ctr := f.d,
                               e := if rkAtomic k then rmE f else 0, op := BitVec.ofNat 8 (rkOp k), bulk := rmBulk f, departed := false,
                               since := s.tick, waits := waits, pc := x.pc, word := w }
        let s := { s with rops := s.rops ++ [op], nextOp := id + 1 }
        advance t w (if waits.isEmpty then updTile t (fun x => { x with incs := [] }) (departOp id s) else s)

/-- A remote instruction of one kind. -/
def remoteIns (k : RKind) (t : TileId) (f : Ins) (s : State) : Res := .next (issueRm t (rkOp k) f (rmEnc k f) (rmRun k f) s)

/-- PUT. -/
def execPut (t : TileId) (f : Ins) (s : State) : Res := remoteIns .put t f s
/-- GET. -/
def execGet (t : TileId) (f : Ins) (s : State) : Res := remoteIns .get t f s
/-- PUTS. -/
def execPuts (t : TileId) (f : Ins) (s : State) : Res := remoteIns .puts t f s
/-- AADD. -/
def execAadd (t : TileId) (f : Ins) (s : State) : Res := remoteIns .aadd t f s
/-- CAS. -/
def execCas (t : TileId) (f : Ins) (s : State) : Res := remoteIns .cas t f s
/-- SWAP. -/
def execSwap (t : TileId) (f : Ins) (s : State) : Res := remoteIns .swap t f s
/-- XACC. -/
def execXacc (t : TileId) (f : Ins) (s : State) : Res := remoteIns .xacc t f s
/-- NOTIFY. -/
def execNotify (t : TileId) (f : Ins) (s : State) : Res := remoteIns .notify t f s

/-- FENCE past its encoding (R192): with FSC = 1 its address is checked (R186); with nothing earlier in its scope c[D] rises at once. -/
def fenceRun (f : Ins) (t : Nat) (w : BitVec 64) (s : State) : State :=
  let ga := (sGet (tileAt t s) f.a.toNat).toNat
  if rmFsc f && decide (ga / 2 ^ 53 ≠ 0) then faultHere t 0x2A w ga s
  else
    let ws := ((tileOps t s).filter (fun o => !rmFsc f || decide (o.dest = gaPkg ga))).map (·.id)
    if ws.isEmpty then onTile (cAdd f.d.toNat 1) t w s
    else advance t w { s with fences := s.fences ++ [⟨s.nextOp, BitVec.ofNat 10 t, f.d, ws⟩], nextOp := s.nextOp + 1 }

/-- FENCE. -/
def execFence (t : TileId) (f : Ins) (s : State) : Res :=
  .next (issueRm t 0x1C f (encOf true (rmFsc f) false (zLow + zC + zE + zG + zSen + zBulk + zSz) true f) (fenceRun f) s)

/-- FENCE_SATISFIED: every earlier operation in its scope has completed. -/
def execFenceSatisfied (id : Nat) (s : State) : Res :=
  match s.fences.find? (fun f => decide (f.id = id)) with
  | some f =>
    .next (if f.waits.isEmpty then
      updTile f.tile.toNat (cCount f.ctr.toNat 1) { s with fences := s.fences.filter (fun g => decide (g.id ≠ id)) } else s)
  | none => .next s

/-- RSTAT (R193): with CLR, COUNT and CODE clear after they are read. -/
def execRstat (t : TileId) (f : Ins) (s : State) : Res :=
  .next (issueRm t 0x20 f (encOf true false false 0x7FFFFFFE true f)
    (onTile (fun x =>
      let y := sSet f.d.toNat x.rstat x
      if f.imm.getLsbD 0 then { y with rstat := x.rstat &&& 0xFFFF0000F0FFFFFF } else y)) s)

/-! ### At the target (R178, R182, R187 to R191, R195) -/

/-- Whether an origin word is admitted to a window of tile `t` (R178). -/
def admitted (org e : BitVec 64) (t : Nat) (s : State) : Bool :=
  let own := ownerOf t s
  let here := decide (BitVec.ofNat 16 (bitsN org.toNat 63 48) = pkgId s)
  let mine := here && decide (own = some (bitsN org.toNat 27 24))
  let host := decide (bitsN org.toNat 31 28 = 1)
  let job : BitVec 16 := BitVec.ofNat 16 (bitsN org.toNat 47 32)
  match weScope e with
  | 1 => mine
  | 2 => jobOfTile t s == some (weJob e) && job == weJob e && decide (bitsN org.toNat 31 28 ≤ 1)
  | 3 => mine && host
  | _ => false

/-- The bit of an entry that gives the right a kind needs. -/
def rightBit : RKind → Option Nat
  | .get => some 2 | .put => some 3 | .puts => some 3 | .aadd => some 4 | .cas => some 4 | .swap => some 4 | .xacc => some 5
  | .notify => none

/-- Whether an operation is a signal alone: NOTIFY, or a zero-length PUT or XACC. -/
def signalOnly (p : RemotePkt) : Bool := p.kind == .notify || (rkLong p.kind && decide (p.len = 0))

/-- Checks 1 to 5 of R182; 0 is no error. -/
def targetCheck (p : RemotePkt) (s : State) : BitVec 4 :=
  let t := winTile p.window.toNat
  let e := winAt p.window.toNat s
  let stopped := match jobOfTile t s with | some j => jobStopped j s | none => false
  let names := p.kind == .notify || p.sen
  if stopped then 2
  else if weScope e = 0 ∨ clearing t s then 3
  else if !admitted p.origin e t s then 4
  else if (match rightBit p.kind with | some b => !signalOnly p && !e.getLsbD b | none => false) then 4
  else if names && (!e.getLsbD 6 || decide (p.g.toNat < weSigLo e) || decide (weSigHi e < p.g.toNat)) then 4
  else 0

/-- Where a window's bytes lie under its entry: scratch or vault of the tile, and the byte address (R155, R187). -/
def targetAt (p : RemotePkt) (e : BitVec 64) : Bool × Nat :=
  if e.getLsbD 7 then (true, weSlot e * 65536 + p.offset.toNat) else (false, p.window.toNat % 2048 * 65536 + p.offset.toNat)

/-- The word of an atomic after it (R189). -/
def atomResult (p : RemotePkt) (old : Nat) : Nat :=
  let n := if p.sz32 then 2 ^ 32 else 2 ^ 64
  match p.kind with
  | .aadd => (old + p.value.toNat % n) % n
  | .swap => p.value.toNat % n
  | .cas => if old = p.comparand.toNat % n then p.value.toNat % n else old
  | _ => old

/-- One EXS added to another (R190); none when they do not match. -/
def exsAdd (src tgt : List Byte) : Option (List Byte) :=
  match exsParse src, exsParse tgt with
  | some a, some b =>
    if a.2.1 = b.2.1 then some (leBytes 12 (a.1 + b.1).toNat ++ (tgt.drop 12).take 2 ++ [(a.2.2 ||| b.2.2).setWidth 8, 0]) else none
  | _, _ => none

/-- All EXS of an XACC; none when any of them does not match. -/
def xaccBytes : Nat → List Byte → List Byte → Option (List Byte)
  | 0, _, _ => some []
  | n + 1, src, tgt =>
    match exsAdd (src.take 16) (tgt.take 16), xaccBytes n (src.drop 16) (tgt.drop 16) with
    | some a, some r => some (a ++ r)
    | _, _ => none

/-- The uncorrectable grains that stop an operation (check 7): all it reads, or those a write covers in part. -/
def targetBad (p : RemotePkt) (sc : Bool) (t a : Nat) (s : State) : List Nat :=
  let bad := badGrains sc t a p.len 2 s
  if p.kind == .put || p.kind == .puts then bad.filter (fun g => !covers sc a p.len g) else bad

/-- The reader that a remote operation is (R172): the host transport where a session issued it. -/
def opReader (p : RemotePkt) : Nat := if bitsN p.origin.toNat 31 28 = 1 then rdHost else rdRemote

/-- Apply an operation that has passed checks 1 to 5 under the entry `e`: the error, what goes back, and the state. -/
def applyOp (p : RemotePkt) (e : BitVec 64) (s : State) : BitVec 4 × List Byte × State :=
  let t := winTile p.window.toNat
  let m := targetAt p e
  let signal (n : BitVec 32) (s : State) : State := updTile t (cCount p.g.toNat n) s
  if p.kind == .notify then (0, [], signal (p.value.setWidth 32) s)
  else if rkLong p.kind && decide (p.len = 0) then (0, [], if p.sen then signal 1 s else s)
  else
    let s := charge (acctOwner t s) (if m.1 then 6 else 7) (unitsOf m.2 p.len) s
    match targetBad p m.1 t m.2 s with
    | g :: _ => (6, [], ueHit (opReader p) m.1 t (g * grain m.1) none s)
    | [] =>
      let write (bs : List Byte) (s : State) : State := (landStore true m.1 t m.2 bs none s).2
      let update (bs : List Byte) (s : State) : State := (landStore false m.1 t m.2 bs none s).2
      let done (s : State) : State := if p.sen then signal 1 s else s
      let read (s : State) : State := (checkRead (opReader p) m.1 t m.2 p.len none s).2
      let old := rawRead m.1 t m.2 p.len s
      match p.kind with
      | .get => (0, old, read s)
      | .put => (0, [], done (write (padTo p.len p.data) s))
      | .puts => (0, [], done (write (leBytes p.len p.value.toNat) s))
      | .xacc =>
        (match xaccBytes (p.len / 16) p.data old with
         | some bs => (0, [], done (update bs (read s)))
         | none => (5, [], read s))
      | _ => (0, old, update (leBytes p.len (atomResult p (ofLe old))) (read s))

/-- A refusal at the target is counted and shown (R204, R206). -/
def refuseOp (p : RemotePkt) (err : BitVec 4) (s : State) : State :=
  setReg64 (aWin 0x24) (now s) <| setReg64 (aWin 0x1C) p.origin <|
    setReg (aWin 0x18) (BitVec.ofNat 32 (err.toNat * 2 ^ 28 + p.window.toNat)) (countReg (aWin 0x14) 1 s)

/-- The outcome of an operation goes back to its source, with the operation's class. -/
def answerOp (p : RemotePkt) (q : BitVec 4 × List Byte × State) : State :=
  let s := if q.1 = 0 then q.2.2 else refuseOp p q.1 q.2.2
  let m : NetMsg := .response p.origin p.id q.1 q.2.1 p.offset p.bulk
  (netSend (msgClass m) none (acctOwner (winTile p.window.toNat) s) (BitVec.ofNat 16 (bitsN p.origin.toNat 63 48)) m s).2

/-- An operation arrives (R179, R182): the checks at once, under the entry of its window as it stands; then its effect, and the response to
its source. While the vaults are in self-refresh it waits with the entry it passed under (R175, R196). -/
def remoteIn (p : RemotePkt) (s : State) : State :=
  let err := targetCheck p s
  let e := winAt p.window.toNat s
  if err ≠ 0 then answerOp p (err, [], s)
  else if s.selfRefresh then { s with passed := s.passed ++ [(p, e)] }
  else answerOp p (applyOp p e s)

/-- The operations that waited for self-refresh to end are applied, in the order of their arrival (log 11). -/
def applyPassed (s : State) : State :=
  if s.selfRefresh then s else forAll s.passed (fun x s => answerOp x.1 (applyOp x.1 x.2 s)) { s with passed := [] }

/-- REMOTE_OP_ARRIVE. -/
def execRemoteOpArrive (op : RemotePkt) (s : State) : Res := .next (remoteIn op s)

/-- A response reaches its source; one that nothing waits for is discarded. -/
def responseIn (id : Nat) (err : BitVec 4) (data : List Byte) (s : State) : State :=
  match s.rops.find? (fun o => decide (o.id = id)) with
  | some o => if o.departed then completeOp o err data s else s
  | none => s

/-- REMOTE_OP_COMPLETE. -/
def execRemoteOpComplete (id : Nat) (err : BitVec 4) (data : List Byte) (s : State) : Res := .next (responseIn id err data s)

/-! ### Timeouts (R205, R490) -/

/-- The job of an operation's source. -/
def opJob (o : RemoteOp) (s : State) : Option (BitVec 16) :=
  match o.src with
  | .tile t => jobOfTile t.toNat s
  | .session n _ => (sesAt n.toNat s).part.bind (fun p => jobOfPart p.toNat s)

/-- An operation ends as its timer would end it: the link fault of R28 when the destination is a member of the source's job, else
error 7; a host command is answered with status 23 in both cases. -/
def timeoutOp (o : RemoteOp) (s : State) : State :=
  let member := match opJob o s with
    | some j => (match jobAt j s with | some x => isMember o.dest x | none => false)
    | none => false
  let stop (s : State) : State := match opJob o s with | some j => jobFault 0x40 none j s | none => s
  match o.src with
  | .session _ _ => let s := completeOp o 7 [] s; if member then stop s else s
  | .tile _ => if member then stop (forgetOp o.id s) else completeOp o 7 [] s

/-- REMOTE_OP_TIMEOUT: the timer runs from the moment the operation left (R205). -/
def execRemoteOpTimeout (id : Nat) (s : State) : Res :=
  let lim := regF (aWin 0x10) 15 0 s
  match s.rops.find? (fun o => decide (o.id = id)) with
  | some o => .next (if opLeft o s && decide (lim ≠ 0) && decide (o.since + lim * 1000 ≤ s.tick) then timeoutOp o s else s)
  | none => .next s

/-- A host memory command (R246): an operation of a session, answered when it completes. -/
def sessionOp (k : RKind) (n : Nat) (tag : BitVec 16) (ga : Nat) (len : Nat) (data : List Byte) (s : State) : State :=
  let id := s.nextOp
  let p : RemotePkt := { id := id, origin := sessionOrigin n s, kind := k, window := gaWin ga, offset := gaOff ga, len := len,
                         data := data, value := 0, comparand := 0, sz32 := false, sen := false, g := 0, bulk := false }
  let op : RemoteOp := { id := id, src := .session (BitVec.ofNat 16 n) tag, pkt := p, dest := gaPkg ga, laddr := 0, ctr := 0, e := 0,
                         op := BitVec.ofNat 8 (rkOp k), bulk := false, departed := false, since := s.tick, waits := [], pc := 0, word := 0 }
  departOp id { s with rops := s.rops ++ [op], nextOp := id + 1 }

end Sys2Proof.Machine
end

