-- ==== Sys2Proof/Machine/Links.lean ====
section
/-! DEFINITION. The Jaliq links: their states and training, retries, cables, link-state packets, and the link registers that
software writes; the Ethernet port's state (R208 to R223, R227, R232 to R237, R490). -/

namespace Sys2Proof.Machine

/-! ### Which links there are -/

/-- The lanes that LNK.CTRL enables. -/
def lanesEn (n : Nat) (s : State) : BitVec 2 := BitVec.ofNat 2 (regF (aLnk n 0) 3 2 s)

/-- The package at the far end of the cable (R219). -/
def farPkg (n : Nat) (s : State) : PkgId := (expected n s).1

/-- Whether a job has a member across the link (R28, R215). -/
def memberAcross (n : Nat) (s : State) : Bool := !isCard s && s.jobs.any (isMember (farPkg n s))

/-- Payload of a link event: LNK.STATUS and more (R411). -/
def linkBytes (n : Nat) (more : List Byte) (s : State) : List Byte := leBytes 4 (reg (aLnk n 4) s).toNat ++ more

/-- Post a link event. -/
def linkReport (type : Byte) (n : Nat) (more : List Byte) (s : State) : State :=
  report type (oPeer (farPkg n s) s) (BitVec.ofNat 32 n) (linkBytes n more s) s

/-! ### Cable management (R216, R217) -/

/-- The device address of a cable's management memory, and whether the interface runs at 400 kHz (R216). -/
def cableDev : BitVec 7 := 0x50
def cableFast (n : Nat) (s : State) : Bool := regIs (aLnk n 0) 1 s

/-- Write one byte of the cable's memory whose value the GK1's training finds (R217). -/
def cableWrite (n page a : Nat) (s : State) : State :=
  useFree (emit (.cable (BitVec.ofNat 6 n) cableDev (cableFast n s) true (BitVec.ofNat 8 page) (BitVec.ofNat 8 a)
    (Config.freeByte s.free)) s)

/-- Read bytes of the cable's memory; the row that follows brings what they hold. -/
def cableRead (n page lo hi : Nat) (s : State) : State :=
  emit (.cableRead (BitVec.ofNat 6 n) cableDev (cableFast n s) (BitVec.ofNat 8 page) (BitVec.ofNat 8 lo) (BitVec.ofNat 8 hi)) s

/-- Write the transmit equalisation presets that training found. -/
def writePresets (n : Nat) (s : State) : State := forAll (List.range 8) (fun i s => cableWrite n 0xB0 (132 + i) s) s

/-- Read the retimers' lock bits. -/
def readLock (n : Nat) (s : State) : State := cableRead n 0xB0 128 131 s

/-- Record a training failure code (R234). -/
def trainFail (n code : Nat) (s : State) : State := updReg (aLnk n 4) (fun v => setFld v 19 16 code) s

/-! ### Link-state packets (R222) -/

/-- This package's link states to every package of the pair that a link can reach. -/
def sendLinkState (s : State) : State :=
  if isCard s || !pkgKnown s then s
  else
    let me := pkgId s
    let far := (List.range 64).map (fun k => rackPkg s k ^^^ 0x40)
    let up := upMask s
    forAll (rackPeers s ++ far.filter (fun p => decide (p ≠ me))) (fun p s =>
      if (route p s).isSome then cl0To .time p (.linkState up) s else s) s

/-- A link-state packet is received: own rack under keys 0 to 63, partner rack under 64 to 127. -/
def linkStateIn (src : Nat) (up : BitVec 64) (s : State) : State := { s with rackUp := mapSet 0 s.rackUp src up }

/-! ### State changes (R211, R212) -/

/-- Enter a state, and tell the rack when that changes what is on its routes (R221, R222). -/
def setLinkSt (n st : Nat) (s : State) : State :=
  let was := linkRouted n s
  let s := enterSt n st s
  if linkRouted n s = was then s else sendLinkState s

/-- Send again what waits in the replay buffer, in order (R210, R214). -/
def resend (n : Nat) (s : State) : State :=
  forAll (linkAt n s).replay (fun p s =>
    match p.body with
    | some m => emit (.net (.link (BitVec.ofNat 6 n)) p.cls p.dst m) s
    | none => s) s

/-- The link carries traffic on its lanes: ACTIVE with two, DEGRADED with one. What waited goes out in order. -/
def linkUp (n : Nat) (lanes : BitVec 2) (s : State) : State :=
  let s := updLink n (fun l => { l with lanes := lanes, headRetries := 0 }) s
  transmit n (resend n (setLinkSt n (if lanes = 3 then lsActive else lsDegraded) s))

/-- A training or recovery failure: back to DETECT, or DOWN after three in a row (R212). -/
def linkFail (n code : Nat) (s : State) : State :=
  let s := updLink n (fun l => { l with fails := l.fails + 1 }) (trainFail n code s)
  setLinkSt n (if 3 ≤ (linkAt n s).fails then lsDown else lsDetect) s

/-- Enter RECOVER on some lanes, with the retimer reset pulse and the lock bits of R217. -/
def linkRecover (n : Nat) (lanes : BitVec 2) (s : State) : State :=
  setLinkSt n lsRecover (readLock n (cableWrite n 0xB0 140 (updLink n (fun l => { l with lanes := lanes }) s)))

/-- Time limits of R212 in beats, and the failure code of each state. -/
def linkLimit (st : Nat) : Option (Nat × Nat) :=
  match st with
  | 2 => some (500000, 2)
  | 3 => some (20000, 3)
  | 4 => some (1000, 4)
  | 5 => some (1000, 5)
  | 8 => some (2000, 6)
  | _ => none

/-! ### Link events -/

/-- CABLE_PRESENT: DETECT to CABLE, once the identifier is set (R10). Entering CABLE reads the cable's identity, releases low power and
pulses the retimers' reset (R217). -/
def execCablePresent (n : LinkId) (s : State) : Res :=
  let n := n.toNat
  let s := updLink n (fun l => { l with present := true }) s
  .next (if decide (linkSt n s = lsDetect) && pkgKnown s && !linkUnused n s then
      cableWrite n 0xB0 140 (cableWrite n 0 26 (cableRead n 0 128 255 (cableRead n 0 0 3 (setLinkSt n lsCable s))))
    else s)

/-- CABLE_PRESENCE_LOST: any state except DISABLED to DETECT. -/
def execCablePresenceLost (n : LinkId) (s : State) : Res :=
  let n := n.toNat
  let s := updLink n (fun l => { l with present := false }) s
  .next (if linkSt n s = lsDisabled || linkSt n s = lsDetect then s else setLinkSt n lsDetect (trainFail n 1 s))

/-- Whether a cable meets R216: its memory map and its page B0h, ready within 400 ms of presence, and no longer than the link may be; the
length is in decimetres. -/
def cableMeets (n : Nat) (x : CableShows) : Bool :=
  x.cmis && x.pageB0 && decide (x.readyAfter ≤ 400000) && decide (x.dm ≤ if n = 63 then 50 else 30)

/-- CABLE_READY: the cable's identity is recorded; one that meets R216 goes to TRAIN, any other stops with code 2. -/
def execCableReady (n : LinkId) (x : CableShows) (ident : List Byte) (s : State) : Res :=
  let n := n.toNat
  .next (if linkSt n s = lsCable then
      let s := linkReport 0x43 n (padTo 72 ident) s
      if cableMeets n x then readLock n (setLinkSt n lsTrain s) else trainFail n 2 s
    else s)

/-- ALIGN starts the sequence numbers anew (R211). Of the packets that wait to be acknowledged, those before `seen` have reached the
partner, which says so as it aligns; the others are numbered from 0, to be sent again in order (R214, log 35). -/
def renumber (seen : BitVec 16) (l : Link) : Link :=
  let left := l.replay.filter (fun p => !(p.seq - seen).getLsbD 15)
  { l with
    replay := left.zipIdx.map (fun e => { e.1 with seq := BitVec.ofNat 16 e.2 })
    txSeq := BitVec.ofNat 16 left.length
    rxSeq := 0
    headRetries := 0 }

/-- TRAIN_DONE: the lanes that meet the target. -/
def execTrainDone (n : LinkId) (x : Trained) (s : State) : Res :=
  let n := n.toNat
  let lanes := x.lanes &&& lanesEn n s
  .next (if linkSt n s = lsTrain && lanes != 0 then
      setLinkSt n lsAlign (updLink n (fun l => { renumber x.seen l with lanes := lanes }) (writePresets n s))
    else s)

/-- FEC_LOCK: ALIGN to IDENT, where this end sends its identity (R213). -/
def execFecLock (n : LinkId) (s : State) : Res :=
  .next (if linkSt n.toNat s = lsAlign then emit (.ident n (pkgId s) s.rst.straps.role) (setLinkSt n.toNat lsIdent s) else s)

/-- IDENT: the partner's identity. Link 0 of a card accepts any. A lane that LNK.CTRL has disabled meanwhile is not used (R233). -/
def execIdent (n : LinkId) (pkg : PkgId) (far : LinkId) (_role : BitVec 2) (s : State) : Res :=
  let n := n.toNat
  let lanes := (linkAt n s).lanes &&& lanesEn n s
  .next (if linkSt n s = lsIdent then
      let s := setReg (aLnk n 8) (BitVec.ofNat 32 (far.toNat * 65536 + pkg.toNat)) s
      if isCard s || decide ((pkg, far.toNat) = expected n s) then (if lanes = 0 then s else linkUp n lanes s)
      else linkReport 0x41 n (leBytes 4 (reg (aLnk n 8) s).toNat) (setLinkSt n lsMiswired (trainFail n 5 s))
    else s)

/-- LINK_STATE_TIMEOUT: a time limit of R212 has passed. -/
def execLinkStateTimeout (n : LinkId) (s : State) : Res :=
  let n := n.toNat
  .next (match linkLimit (linkSt n s) with
    | some (beats, code) => if (linkAt n s).since + beats ≤ s.tick then linkFail n code s else s
    | none => s)

/-- LANE_LOCK_LOST: a lane that carries traffic loses lock. -/
def execLaneLockLost (n : LinkId) (lane : BitVec 1) (s : State) : Res :=
  let n := n.toNat
  .next (if linkUsable n s && (linkAt n s).lanes.getLsbD lane.toNat then linkRecover n (linkAt n s).lanes s else s)

/-- RECOVER_DONE: realignment completes on two lanes or on one; no lane is gained on the way (R212), and none that LNK.CTRL has disabled
is used (R233). -/
def execRecoverDone (n : LinkId) (lanes : BitVec 2) (s : State) : Res :=
  let n := n.toNat
  let lanes := lanes &&& (linkAt n s).lanes &&& lanesEn n s
  .next (if linkSt n s = lsRecover && lanes != 0 then linkUp n lanes (writePresets n s) else s)

/-- LANE_DEGRADE: a lane with too many uncorrectable codewords leaves an ACTIVE link through RECOVER. -/
def execLaneDegrade (n : LinkId) (lane : BitVec 1) (s : State) : Res :=
  let n := n.toNat
  .next (if linkSt n s = lsActive then linkRecover n (setBit 3 lane.toNat false) s else s)

/-- DOWN_RETRAIN: retraining from DETECT every 1 s (R211). -/
def execDownRetrain (n : LinkId) (s : State) : Res :=
  let n := n.toNat
  .next (if linkSt n s = lsDown && decide ((linkAt n s).since + 1000000 ≤ s.tick) then setLinkSt n lsDetect s else s)

/-! ### Forwarding (R222) -/

/-- The onward link of a packet that arrived on link `n` for another package: the direct link, link 63, or the detour that
starts in the partner rack. -/
def onward (n : Nat) (p : LinkFrame) (s : State) : Option Nat :=
  let me := pkgId s
  let a := rackIndex me
  let q := rackIndex p.dst
  let direct := if segOwn a q s then some (linkTo a q) else none
  if isCard s || !samePair p.dst me then none
  else if sameRack p.dst me then
    if n = 63 && decide (rackIndex p.src = a) then towards q s else direct
  else if q = a || (sameRack p.src me && decide (rackIndex p.src = q)) then (if seg63 a s then some 63 else none)
  else direct

/-- A packet without an onward link (R222): a remote request is answered with error 1, a packet of an error response is discarded, anything
else is discarded and recorded. -/
def noRouteMsg (p : LinkFrame) (m : Option NetMsg) (s : State) : State :=
  let other (s : State) : State := report 0x44 oGov (p.dst.setWidth 32) ([p.cls.setWidth 8] ++ leBytes 2 p.src.toNat) s
  match m with
  | some (.remote x) =>
    let r : NetMsg := .response x.origin x.id 1 [] x.offset x.bulk
    (netSend (msgClass r) none acctIdle p.src r s).2
  | some (.response _ _ err _ _ _) => if err = 0 then other s else s
  | _ => other s

/-- A packet without an onward link. One packet of several stands for its message. -/
def noRoute (p : LinkFrame) (s : State) : State :=
  noRouteMsg p (match p.body with | some (.part _ _ m) => some m | b => b) s

/-- Forward a packet as an intermediate. -/
def forward (n : Nat) (p : LinkFrame) (s : State) : State :=
  match onward n p s with
  | some m => linkSend m acctIdle p s
  | none => noRoute p s

/-! ### A link is declared down (R214, R490) -/

/-- The operation of this package whose request a packet belongs to. -/
def ownRequest (p : LinkFrame) (s : State) : Option Nat := if p.src = pkgId s then p.body.bind requestId else none

/-- Send again, by what routes are left, a packet that was queued for a link and never transmitted. A packet whose operation has ended
meanwhile is discarded. -/
def reroute (n : Nat) (src : Option Cl0Source) (p : LinkFrame) (s : State) : State :=
  if p.src ≠ pkgId s then forward n p s
  else if (match ownRequest p s with | some i => !s.rops.any (fun o => decide (o.id = i)) | none => false) then s
  else match p.body with
    | none => s
    | some m =>
      let r := netSend p.cls src acctIdle p.dst m s
      if r.1 then r.2
      else match ownRequest p s with
        | some i => responseIn i 1 [] s
        | none => s

/-- Settle the operation that owns a discarded packet, if this package issued it. -/
def settleOwn (p : LinkFrame) (s : State) : State :=
  match (ownRequest p s).bind (fun i => s.rops.find? (fun o => decide (o.id = i))) with
  | some o => timeoutOp o s
  | none => s

/-- A link is declared down: counted, stamped and recorded, and told to the rack, whose routes it leaves (R222); jobs with a member across
it stop (R28); packets of the replay buffer are discarded, and their own operations settled; queued packets find other routes. -/
def declareDown (n : Nat) (s : State) : State :=
  let l := linkAt n s
  let s := updLink n (fun l => { l with declared := true, queue := [], replay := [], held := [] }) s
  let s := setReg64 (aLnk n 0x20) (now s) (countReg (aLnk n 0x18) 1 s)
  let r := mkReport 0x40 (oPeer (farPkg n s) s) (BitVec.ofNat 32 n) (linkBytes n [] s) s
  let s := sendLinkState (linkReport 0x40 n [] s)
  let js := (s.jobs.filter (isMember (farPkg n s))).map (·.num)
  let s := if isCard s then s else forAll js (fun j s => if jobRunning j s then jobFault 0x40 (some r) j s else s) s
  let s := forAll l.replay settleOwn s
  let s := forAll l.queue (reroute n none) s
  forAll l.held (fun h s => reroute n (some h.1) h.2 s) s

/-- LINK_DOWN: 10,000 beats out of ACTIVE and DEGRADED. -/
def execLinkDown (n : LinkId) (s : State) : Res :=
  let n := n.toNat
  let l := linkAt n s
  .next (match l.leftAt with
    | some t => if !l.declared && decide (t + 10000 ≤ s.tick) then declareDown n s else s
    | none => s)

/-! ### Acknowledgements and retries (R210) -/

/-- Packets numbered before `ack` leave the replay buffer. -/
def linkAcked (n : Nat) (ack : BitVec 16) (s : State) : State :=
  let l := linkAt n s
  let left := l.replay.filter (fun p => !(p.seq - ack).getLsbD 15)
  updLink n (fun l => { l with replay := left, headRetries := if left.length = l.replay.length then l.headRetries else 0 }) s

/-- A negative acknowledgement from sequence number `from_`: one retry of every packet from it on, or RECOVER when eight
retries of one packet have failed. -/
def linkRetry (n : Nat) (from_ : BitVec 16) (s : State) : State :=
  if !linkUsable n s then s
  else
    let s := linkAcked n from_ s
    if (linkAt n s).replay.isEmpty then s
    else if 8 ≤ (linkAt n s).headRetries then linkRecover n (linkAt n s).lanes s
    else
      let s := updLink n (fun l => { l with headRetries := l.headRetries + 1 }) (countReg (aLnk n 0x14) 1 s)
      transmit n (resend n s)

/-- LINK_RETRY. -/
def execLinkRetry (n : LinkId) (from_ : BitVec 16) (s : State) : Res := .next (linkRetry n.toNat from_ s)

/-- CL0_HELD_RELEASE: the source's oldest held packet goes once its allowance has refilled (R22). -/
def execCl0HeldRelease (n : LinkId) (src : Cl0Source) (s : State) : Res :=
  let k := n.toNat
  let r := takeFirst (fun h => decide (h.1 = src)) (linkAt k s).held
  .next (match r.1 with
    | some h =>
      if mapGet 0 (linkAt k s).used (srcIx src) + 64 ≤ bucketDepth then
        linkSend k acctIdle h.2 (updLink k (fun l =>
          { l with held := r.2, used := mapUpd 0 l.used (srcIx src) (· + 64) }) s)
      else s
    | none => s)

/-- LINK_STATE_PERIOD. -/
def execLinkStatePeriod (s : State) : Res := .next (sendLinkState s)

/-- LINK_STATE_PACKET. -/
def execLinkStatePacket (src : BitVec 7) (up : BitVec 64) (s : State) : Res := .next (linkStateIn src.toNat up s)

/-! ### LNK.CTRL and LNK.CMGT (R215, R218, R233, R235) -/

/-- A write of LNK.CTRL: the first part is false where R215 refuses it. -/
def lnkCtrl (n : Nat) (v : BitVec 32) (s : State) : Bool × State :=
  let new := setBit (v &&& 0xEF) 0 (v.getLsbD 0 && !linkUnused n s)
  let en := BitVec.ofNat 2 (fld new 3 2)
  let st := linkSt n s
  let carry := if linkUsable n s || decide (st = lsRecover) then (linkAt n s).lanes else lanesEn n s
  let kills := decide (st ≠ lsDisabled) && (!new.getLsbD 0 || en &&& carry == 0)
  if kills && memberAcross n s then (false, s)
  else
    let s := setReg (aLnk n 0) new s
    (true,
      if !new.getLsbD 0 then (if st = lsDisabled then s else setLinkSt n lsDisabled s)
      else if st = lsDisabled then setLinkSt n lsDetect s
      else if linkUsable n s && v.getLsbD 4 then linkRecover n en s
      else if linkUsable n s && en &&& carry != carry then linkRecover n (en &&& carry) s
      else s)

/-- A transaction that software asked for (R218). A write makes its change-log entry of kind 7: link, page and byte, and the value (R419,
R420); what the byte held before is a free value, since nothing has read it. -/
def cmgtStart (o : Origin) (n page addr : Nat) (write : Bool) (data : Byte) (s : State) : State :=
  let s := emit (.cable (BitVec.ofNat 6 n) cableDev (cableFast n s) write (BitVec.ofNat 8 page) (BitVec.ofNat 8 addr) data) s
  if write then
    logEntry ⟨o, 7, now s, BitVec.ofNat 32 (n * 65536 + page * 256 + addr), 0, (Config.freeByte s.free).setWidth 64, data.setWidth 64,
      markNow s⟩ (useFree s)
  else s

/-- A write of LNK.CMGT; false where R218 refuses the transaction, which sets ERR. -/
def lnkCmgt (o : Origin) (n : Nat) (v : BitVec 32) (s : State) : Bool × State :=
  let a := aLnk n 0x40
  let st := linkSt n s
  let addr := fld v 15 8
  let own := (decide (fld v 23 16 = 0xB0) && decide (128 ≤ addr)) || decide (addr = 26)
  let kept := v &&& 0x40FFFFFF
  if regIs a 31 s then (true, s)
  else if !v.getLsbD 31 then (true, updReg a (fun old => kept ||| (old &&& 0x20000000)) s)
  else if v.getLsbD 30 && own && !(st = lsDisabled || st = lsDetect || st = lsDown) then (false, setReg a (kept ||| 0x20000000) s)
  else (true, cmgtStart o n (if addr < 128 then 0 else fld v 23 16) addr (v.getLsbD 30) (BitVec.ofNat 8 (fld v 7 0))
    (setReg a (kept ||| 0x80000000) s))

/-- CMGT_DONE: the transaction ends. -/
def execCmgtDone (n : LinkId) (acked : Bool) (data : Byte) (s : State) : Res :=
  let a := aLnk n.toNat 0x40
  .next (if regIs a 31 s then
      updReg a (fun v =>
        let v := setBit (setBit v 31 false) 29 (!acked)
        if acked && !v.getLsbD 30 then setFld v 7 0 data.toNat else v) s
    else s)

/-- CABLE_POLL: identifier, revision and module state, flags, and monitors, read every 1,000 beats from a cable that has been present in
CABLE (R217); they are kept as read. A set flag is counted and posts its event. -/
def execCablePoll (n : LinkId) (low : List Byte) (x : CableState) (s : State) : Res :=
  let n := n.toNat
  let l := linkAt n s
  let due := match l.polledAt with | some b => decide (b + 1000 ≤ s.tick) | none => true
  .next (if l.present && due && linkSt n s != lsDisabled && linkSt n s != lsDetect then
      let s := cableRead n 0 14 25 (cableRead n 0 8 13 (cableRead n 0 0 3 s))
      let got := padTo 4 low ++ padTo 6 x.flags ++ padTo 12 x.mon
      let s := updLink n (fun l => { l with polledAt := some s.tick, polled := got }) s
      onlyIf ((padTo 6 x.flags).any (fun b => b != 0)) (fun s => linkReport 0x42 n (padTo 6 x.flags) (countReg (aLnk n 0x28) 1 s)) s
    else s)

/-! ### The Ethernet port (R227, R237) -/

/-- Whether a remote operation that leaves by the port is outstanding (R231, R237). -/
def hallOpOut (s : State) : Bool := s.rops.any (fun o => isCard s || !samePair o.dest (pkgId s))

/-- A write of NET.PORT_CTRL; false where R237 refuses it. Without PFC_CL1 nothing holds CL1 back (R228). -/
def portCtrl (v : BitVec 32) (s : State) : Bool × State :=
  if !v.getLsbD 0 && hallOpOut s then (false, s)
  else
    let s := setReg aPortCtrl (v &&& 0xFFF010F) s
    let s := if v.getLsbD 8 then s else { s with eth := { s.eth with paused := none } }
    (true, ethPump (if v.getLsbD 0 then s else setReg aPort 0 s))

/-- The configuration of R227 that the trained lanes allow: rate code and lanes. -/
def portRate (speed : Nat) (lanes : BitVec 8) : Nat × Nat :=
  if lanes = 0xFF && speed ≠ 2 then (2, 0xFF)
  else if speed = 1 then (0, 0)
  else if lanes &&& 0x0F = 0x0F then (1, 0x0F)
  else if lanes &&& 0xF0 = 0xF0 then (1, 0xF0)
  else (0, 0)

/-- PORT_LINK_CHANGE: the lanes that have trained, and whether RS-FEC locks on those in use. -/
def execPortLinkChange (lanes : BitVec 8) (fec : Bool) (s : State) : Res :=
  let r := portRate (regF 0x20_0000 3 2 s) lanes
  .next (if regIs 0x20_0000 0 s then
      let up := decide (r.1 ≠ 0) && fec
      setReg aPort (BitVec.ofNat 32 ((if up then r.2 * 256 + r.1 * 4 + 1 else 0) + (if decide (r.1 ≠ 0) && fec then 2 else 0))) s
    else s)

end Sys2Proof.Machine
end

