-- ==== Sys2Proof/Machine/Sync.lean ====
section
/-! DEFINITION. Time synchronisation and the event stream's release (R35 to R44, R230). -/

namespace Sys2Proof.Machine

/-- Change the synchronisation record. -/
def updSync (f : Sync → Sync) (s : State) : State := { s with sync := f s.sync }

/-- BEAT.OFFSET and BEAT.LEADER. -/
def aOffset : Nat := 0x2_0010
def aLeader : Nat := 0x2_0014

/-- 1 ms in FRAC counts. -/
def stepLimit : Int := 4096000

/-! ### The leader and the source (R38, R39, R42) -/

/-- The announcements of the last 3,072 beats, this package's own among them, but for packages passed over for their silence. -/
def announcers (s : State) : List (PkgId × Bool) :=
  (match s.sync.said with | some (t, l) => if s.tick ≤ t + 3072 then [(pkgId s, l)] else [] | none => []) ++
    (s.sync.heard.filter (fun h => decide (s.tick ≤ h.2.1 + 3072) && !s.sync.passed.contains h.1)).map (fun h => (h.1, h.2.2))

/-- The lowest identifier of a list. -/
def lowestPkg (l : List (PkgId × Bool)) : Option PkgId :=
  l.foldl (fun best x => match best with
    | some b => if x.1.toNat < b.toNat then some x.1 else some b
    | none => some x.1) none

/-- Whether this package leads its rack: it is the lowest announcer, LOCKED or not (R38). -/
def isLeader (s : State) : Bool := decide (lowestPkg (announcers s) = some (pkgId s)) && !isCard s

/-- The package whose time the rack takes: the leader, or the lowest LOCKED announcer where one announces (R42). -/
def rackTime (s : State) : Option PkgId :=
  let l := announcers s
  let locked := l.filter (·.2)
  lowestPkg (if locked.isEmpty then l else locked)

/-- Whether this package sends the rack its time. -/
def sendsTime (s : State) : Bool := decide (rackTime s = some (pkgId s)) && !isCard s

/-- Whether this package takes IEEE 1588 time (R39). -/
def takesPtp (s : State) : Bool := regIs aBeatCtrl 0 s && (isCard s || (isLeader s && decide (rackBit (pkgId s) = 0)))

/-- The package followed over a link, with the code of BEAT.STATUS.SOURCE. -/
def linkSource (s : State) : Option (PkgId × Nat) :=
  if isCard s then none
  else if isLeader s then (if rackBit (pkgId s) = 1 then some (partnerPkg (pkgId s), 2) else none)
  else match rackTime s with
    | some p => if p = pkgId s then none else some (p, 1)
    | none => none

/-! ### States and steps (R37, R41) -/

/-- Enter a synchronisation state, with its record in the event stream; in FREE the quiet clock alone counts. -/
def setSyncSt (st : Nat) (hall : Bool) (s : State) : State :=
  let s := updReg aBeatStatus (fun v => setFld (setBit v 3 hall) 2 0 st) s
  let s := if st = 1 then updSync (fun y => { y with rate := 0 }) s else s
  evPost 0x04 (BitVec.ofNat 32 st) s

/-- Enter a state only if it is another one. -/
def changeSyncSt (st : Nat) (s : State) : State := if syncState s = st then s else setSyncSt st false s

/-- FREE because there is no source: SOURCE shows the quiet clock only. -/
def freeRun (s : State) : State := changeSyncSt 1 (updReg aBeatStatus (fun v => setFld v 7 4 0) s)

/-- No source any more: HOLDOVER from LOCKED, or FREE at once when the limit is 0 (R41). -/
def loseSource (s : State) : State :=
  let s := updSync (fun y => { y with inBound := none, lastSync := none }) s
  if syncState s = 2 then
    if regF aBeatCtrl 15 8 s = 0 then freeRun s
    else updSync (fun y => { y with holdSince := some s.tick }) (setSyncSt 3 false s)
  else s

/-- BEAT.LEADER shows the package being followed. One that begins to be followed has 192 beats to be heard; where no source is left a
LOCKED package loses it and a package that never had one is FREE (R41). -/
def follow (s : State) : State :=
  let src := linkSource s
  let s := setReg aLeader (match src with | some (p, _) => p.setWidth 32 | none => 0) s
  let s := if src = s.sync.following then s
    else updSync (fun y => { y with following := src, lastSync := some s.tick, inBound := none }) s
  if src.isSome || takesPtp s then s
  else if syncState s = 0 then freeRun s
  else if syncState s = 2 then loseSource s
  else s

/-- Move the time by a step that removes an offset: STEPPED, the step record and the change-log entry of kind 5. -/
def applyStep (off : Int) (s : State) : State :=
  let before := now s
  let after := before - BitVec.ofInt 64 off
  let s := { s with beat := after.extractLsb' 12 52, frac := after.extractLsb' 0 12 }
  let s := regBit aBeatStatus 15 false (regBit aBeatStatus 14 true s)
  let s := updSync (fun y => { y with pendingStep := none, inBound := none }) s
  logHw 5 0x2_0000 before after (evPost 0x04 (lo32 before) s)

/-- The bound of R40 for a source code, in FRAC counts. -/
def syncBound (source : Nat) : Int := match source with | 1 => 81 | 2 => 122 | _ => 1024

/-- A measurement of the offset: before the first lock it finds the first step; afterwards it slews, or above 1 ms sets a step
pending in FREE. The rate chosen is open within ±100 ppm (log 31). What becomes of a pending step when a later offset is 1 ms or less
is the model's choice: the step and STEP_PENDING go, since the offset can be slewed again (log 31). -/
def offsetIn (source : Nat) (off : Int) (s : State) : State :=
  let s := setReg aOffset (BitVec.ofInt 32 (clampI (-2147483647) 2147483647 off)) s
  let s := updReg aBeatStatus (fun v => setFld v 7 4 source) s
  let s := updSync (fun y => { y with lastSync := some s.tick }) s
  let b := syncBound source
  let near (x : Int) : Bool := decide (-b ≤ x) && decide (x ≤ b)
  let since := some (s.sync.inBound.getD s.tick)
  if !s.sync.firstLock then
    if near off then
      updSync (fun y => { y with pendingStep := none, inBound := if y.pendingStep.isNone then since else some s.tick }) s
    else match s.sync.pendingStep with
      | some c => if near (off - c) then updSync (fun y => { y with inBound := since }) s
        else updSync (fun y => { y with pendingStep := some off, inBound := some s.tick }) s
      | none => updSync (fun y => { y with pendingStep := some off, inBound := some s.tick }) s
  else if off < -stepLimit || stepLimit < off then
    changeSyncSt 1 (regBit aBeatStatus 15 true (updSync (fun y => { y with pendingStep := some off, inBound := none }) s))
  else
    let ppb : Int := (Config.freeValue s.free).toNat % 100001
    let s := updSync (fun y =>
      { y with
        pendingStep := none
        rate := if off < 0 then ppb else -ppb
        inBound := if near off then since else none }) (useFree s)
    regBit aBeatStatus 15 false s

/-! ### Events -/

/-- SYNC_PERIOD: sync packets on each beat with BEAT[5:0] = 0 (R35): the rack's source to its rack, and rack 0's packages to
their partners over link 63. -/
def syncPeriod (s : State) : State :=
  if isCard s || !pkgKnown s || decide (s.beat.toNat % 64 ≠ 0) then s
  else
    let send (p : PkgId) (s : State) : State := cl0To .time p (.sync (now s)) s
    let s := if sendsTime s then forAll (rackPeers s) send s else s
    if rackBit (pkgId s) = 0 then send (partnerPkg (pkgId s)) s else s

/-- SYNC_PERIOD. -/
def execSyncPeriod (s : State) : Res := .next (syncPeriod s)

/-- The request of a two-way exchange with the source, every 1,024 beats (R39). -/
def askDelay (n : Nat) (p : PkgId) (s : State) : State :=
  let due := match s.sync.exch with | some (_, t, _) => decide (t + 1024 ≤ s.tick) | none => true
  if due then
    cl0To .time p (.delayRequest (now s))
      (updSync (fun y => { y with exch := some (n, s.tick, now s), exchDone := false }) s)
  else s

/-- A receiver asks for an exchange: the answer carries the stamps of the request's receipt and of its own departure. -/
def delayRequestIn (src : PkgId) (t1 : BitVec 64) (s : State) : State :=
  cl0To .time src (.delayReply t1 (now s) (now s)) s

/-- The answer to the request with stamp `t1` that this package sent on link `n` gives the link delay, once (R39). -/
def delayIn (n : Nat) (t1 t2 t3 t4 : BitVec 64) (s : State) : State :=
  match s.sync.exch with
  | some (k, _, u) =>
    if k = n && u = t1 && !s.sync.exchDone then
      let d := floorDiv (((t2.toNat : Int) - t1.toNat) + ((t4.toNat : Int) - t3.toNat)) 2
      updSync (fun y => { y with delay := mapSet none y.delay n (some d), exchDone := true }) s
    else s
  | none => s

/-- The link on which the package followed is reached by its lowest-hop path (R38). -/
def pathTo (p : PkgId) (code : Nat) (s : State) : Option Nat := if code = 2 then some 63 else towards (rackIndex p) s

/-- A package that was passed over is heard again on its path. -/
def heardAgain (n : Nat) (src : PkgId) (s : State) : State :=
  if s.sync.passed.contains src && decide (pathTo src 1 s = some n) then
    follow (updSync (fun y => { y with passed := y.passed.filter (fun p => decide (p ≠ src)) }) s)
  else s

/-- A sync packet arrives on link `n`: taken from the source, on the lowest-hop path to it. Its stamp gives the offset once the link
delay is known. -/
def syncIn (n : Nat) (src : PkgId) (stamp : BitVec 64) (s : State) : State :=
  let s := heardAgain n src s
  match linkSource s with
  | some (p, code) =>
    if p = src && decide (pathTo p code s = some n) then
      let s := askDelay n p (updSync (fun y => { y with lastSync := some s.tick }) s)
      match mapGet none s.sync.delay n with
      | some d => offsetIn code ((now s).toNat - (stamp.toNat + d)) s
      | none => s
    else s
  | none => s

/-- SYNC_PACKET. -/
def execSyncPacket (n : LinkId) (src : PkgId) (stamp : BitVec 64) (s : State) : Res := .next (syncIn n.toNat src stamp s)

/-- DELAY_EXCHANGE: a two-way exchange that this package began ends with these four stamps (R39). -/
def execDelayExchange (n : LinkId) (t1 t2 t3 t4 : BitVec 64) (s : State) : Res := .next (delayIn n.toNat t1 t2 t3 t4 s)

/-- ANNOUNCEMENT_PERIOD: every 1,024 beats a leader announcement on CL0, with the not-locked mark outside LOCKED (R38, R42). -/
def execAnnouncementPeriod (s : State) : Res :=
  let due := match s.sync.said with | some (t, _) => decide (t + 1024 ≤ s.tick) | none => true
  let locked := decide (syncState s = 2)
  .next (if isCard s || !pkgKnown s || !due then s
    else forAll (rackPeers s) (fun p s => cl0To .time p (.announce locked) s)
      (follow (updSync (fun y => { y with said := some (s.tick, locked) }) s)))

/-- A leader announcement is heard. -/
def announceIn (src : PkgId) (locked : Bool) (s : State) : State :=
  if isCard s || !sameRack src (pkgId s) || src = pkgId s then s
  else follow (updSync (fun y => { y with heard := (src, s.tick, locked) :: y.heard.filter (fun h => decide (h.1 ≠ src)) }) s)

/-- LEADER_ANNOUNCEMENT. -/
def execLeaderAnnouncement (src : PkgId) (locked : Bool) (s : State) : Res := .next (announceIn src locked s)

/-- LEADER_ANNOUNCEMENT_LAPSE: 3,072 beats without an announcement. -/
def execLeaderAnnouncementLapse (src : PkgId) (s : State) : Res :=
  .next (follow (updSync (fun y =>
    { y with heard := y.heard.filter (fun h => decide (h.1 ≠ src) || decide (s.tick ≤ h.2.1 + 3072)) }) s))

/-! ### IEEE 1588 masters (R230) -/

/-- What the best master clock algorithm compares, in its order (PRESUMED from IEEE 1588, log 31). -/
def ptpRank (m : PtpMaster) : List Nat :=
  [m.prio1.toNat, m.clockClass.toNat, m.accuracy.toNat, m.variance.toNat, m.prio2.toNat, m.gm.toNat, m.steps.toNat, m.port.toNat]

/-- The first of two lists of numbers in lexicographic order comes strictly before the second. -/
def lexLt : List Nat → List Nat → Bool
  | a :: x, b :: y => decide (a < b) || (decide (a = b) && lexLt x y)
  | _, _ => false

/-- The master followed: the best of those that announce the PTP timescale. -/
def bestMaster (s : State) : Option PtpMaster :=
  s.sync.ptp.masters.foldl (fun best m => match best with
    | some b => if lexLt (ptpRank m) (ptpRank b) then some m else some b
    | none => some m) none

/-- Change the IEEE 1588 part. -/
def updPtp (f : PtpSt → PtpSt) (s : State) : State := updSync (fun y => { y with ptp := f y.ptp }) s

/-- Change which masters are heard; the path delay to another best master is not known yet. -/
def setMasters (ms : List PtpMaster) (s : State) : State :=
  let was := (bestMaster s).map (·.port)
  let s := updPtp (fun y => { y with masters := ms }) s
  if (bestMaster s).map (·.port) = was then s
  else updPtp (fun y => { y with sync := none, req := none, delay := none }) s

/-- HOLDOVER: no sync packet from the leader for 192 beats, or the master lost; the next-lowest announcer is followed. -/
def execHoldover (s : State) : Res :=
  .next (if takesPtp s && decide (regF aBeatStatus 7 4 s = 3) then
      follow (loseSource (match bestMaster s with
        | some b => setMasters (s.sync.ptp.masters.filter (fun m => decide (m.port ≠ b.port))) s
        | none => s))
    else match s.sync.following, s.sync.lastSync with
      | some (p, code), some t =>
        if t + 192 ≤ s.tick then
          let s := loseSource s
          follow (if code = 1 then updSync (fun y => { y with passed := p :: y.passed }) s else s)
        else s
      | _, _ => s)

/-- HOLDOVER_LIMIT_EXPIRY: holdover has lasted longer than BEAT.CTRL.HOLDOVER_LIMIT. -/
def execHoldoverLimitExpiry (s : State) : Res :=
  .next (match s.sync.holdSince with
    | some t =>
      if syncState s = 3 && decide (t + regF aBeatCtrl 15 8 s * 100000 < s.tick) then
        updSync (fun y => { y with holdSince := none }) (freeRun s)
      else s
    | none => s)

/-- SYNC_LOCK: the offset has held its bound for 1,024 beats; the first lock takes its step (R37). -/
def execSyncLock (s : State) : Res :=
  .next (match s.sync.inBound with
    | some t =>
      if decide (t + 1024 ≤ s.tick) && decide (syncState s ≠ 2) && !regIs aBeatStatus 15 s then
        let hall := decide (regF aBeatStatus 7 4 s = 3) || (match linkSource s with
          | some (p, 1) => s.sync.heard.any (fun h => decide (h.1 = p) && h.2.2)
          | some _ => true
          | none => false)
        let s := match s.sync.firstLock, s.sync.pendingStep with
          | false, some off => applyStep off s
          | _, _ => s
        setSyncSt 2 hall (updSync (fun y => { y with firstLock := true, holdSince := none }) s)
      else s
    | none => s)

/-- A pending step takes effect (R41). -/
def stepApply (s : State) : State :=
  match s.sync.pendingStep with
  | some off => if regIs aBeatStatus 15 s then applyStep off s else s
  | none => s

/-- STEP_APPLY: at a beat boundary at which no partition belongs to a running job. -/
def execStepApply (s : State) : Res := .next (if s.frac = 0 && !anyRunning s then stepApply s else s)

/-! ### Registers -/

/-- A write of BEAT.CTRL; STEP_NOW is refused while a job runs. Without a source the package is FREE. -/
def beatCtrl (v : BitVec 32) (s : State) : Bool × State :=
  if v.getLsbD 1 && anyRunning s then (false, s)
  else
    let turned := v.getLsbD 0 != regIs aBeatCtrl 0 s
    let s := setReg aBeatCtrl (v &&& 0xFF01) s
    let gone := decide (regF aBeatStatus 7 4 s = 3) && !takesPtp s
    (true,
      if gone then follow (freeRun (updSync (fun y => { y with lastSync := none, inBound := none }) s))
      else if turned then follow s
      else s)

/-- A write of BEAT.EVS_FREE: the oldest records go; the overflow record takes the first room (R44). -/
def evsFree (n : Nat) (s : State) : State :=
  let s := { s with evs := s.evs.drop n }
  if 0 < s.evsLost && decide (s.evs.length < evsMax) then
    evPost 0x05 (sat32 s.evsLost) { s with evsLost := 0 }
  else s

/-- The 16 bytes of a stream record (R43). -/
def streamBytes (r : StreamRec) : List Byte :=
  leBytes 4 r.value.toNat ++ [r.flags, r.src] ++ leBytes 2 r.pkg.toNat ++ leBytes 8 r.stamp.toNat

/-- BEAT.EVS_WIN: four records from the cursor on; none reads as zero. -/
def evsWindow (s : State) : List Byte := padTo 64 (((s.evs.drop (regF 0x2_0100 11 0 s)).take 4).flatMap streamBytes)

/-! ### IEEE 1588 (R230) -/

/-- The domain in force: values above 127 count as 0. -/
def ptpDomain (s : State) : Nat := let d := regF 0x20_0020 15 8 s; if 127 < d then 0 else d

/-- A Sync's stamps: the difference from master to slave gives the offset once the path delay is known, less the asymmetry; each Sync
is followed by one Delay_Req (log 31). -/
def ptpSync (origin arrival : BitVec 64) (corr : Int) (s : State) : State :=
  let down : Int := arrival.toNat - origin.toNat - corr
  let q := s.sync.ptp.seq
  let s := emit (.ptpDelayReq q) (updPtp (fun y =>
    { y with sync := none, down := down, seq := q + 1, req := some (q, now s) }) s)
  let s := updSync (fun y => { y with lastSync := some s.tick }) s
  match s.sync.ptp.delay with
  | some d => offsetIn 3 (down - d - (reg 0x20_0024 s).toInt) s
  | none => s

/-- A message of the master followed (R230): Sync of a one-step or a two-step master, its Follow_Up, and Delay_Resp. -/
def ptpIn (m : PtpMsg) (s : State) : State :=
  match m.body with
  | .announce scale x =>
    setMasters ((if scale then [x] else []) ++ s.sync.ptp.masters.filter (fun y => decide (y.port ≠ x.port))) s
  | .sync two origin =>
    if two then updPtp (fun y => { y with sync := some (m.seq, m.arrival, m.corr) }) s else ptpSync origin m.arrival m.corr s
  | .followUp origin =>
    (match s.sync.ptp.sync with
    | some (q, arrival, c) => if q = m.seq then ptpSync origin arrival (c + m.corr) s else s
    | none => s)
  | .delayResp receipt =>
    (match s.sync.ptp.req with
    | some (q, t3) =>
      if q = m.seq then
        let up : Int := receipt.toNat - t3.toNat - m.corr
        updPtp (fun y => { y with req := none, delay := some (floorDiv (y.down + up) 2) }) s
      else s
    | none => s)

/-- Whether a message is one that this clock takes: of the configured domain and transport, from any master if it is an Announce,
else from the master followed. -/
def ptpTaken (m : PtpMsg) (s : State) : Bool :=
  takesPtp s && regIs aPort 0 s && decide (m.domain.toNat = ptpDomain s) && (m.eth == regIs 0x20_0020 0 s) &&
    (match m.body with
    | .announce _ x => decide (x.port = m.port)
    | _ => decide ((bestMaster s).map (·.port) = some m.port))

/-- PTP_MESSAGE (R230). -/
def execPtpMessage (m : PtpMsg) (s : State) : Res := .next (if ptpTaken m s then ptpIn m s else s)

end Sys2Proof.Machine
end

