-- ==== Sys2Proof/Machine/Reset.lean ====
section
/-! DEFINITION. The three kinds of reset and their sources, VAUX and the straps (R425 to R432, R440, R441, R453). -/

namespace Sys2Proof.Machine

/-! ### Straps (R4, R11, R430) -/

/-- Whether a reserved or conflicting code was read. -/
def strapConflict (x : Straps) : Bool :=
  x.bootsrc == 3 || x.clkmode == 3 || x.role == 3 || x.packcand == 3 ||
    ((x.role == 1 || x.role == 2) && (x.packcand == 1 || x.packcand == 2)) || (x.role == 2 && decide (2 ≤ x.slot.toNat))

/-- Whether the straps take the safe role. -/
def strapSafe (x : Straps) : Bool := x.role == 3 || (x.role == 2 && decide (2 ≤ x.slot.toNat))

/-! ### Cause (R427, R440, R441) -/

/-- A source fires: its sticky bit is set outside SERVICE. -/
def fireSource (src : Nat) (s : State) : State :=
  if s.rst.phase = 1 then s else updRst (fun x => { x with sticky := setBit x.sticky src true }) s

/-- A reset acts: its source, its kind and the count. The phase returns to STARTUP. -/
def countReset (src kind : Nat) (s : State) : State :=
  let s := fireSource src s
  updRst (fun x =>
    { x with
      last := BitVec.ofNat 5 src
      kind := BitVec.ofNat 2 kind
      count := if x.count = 255 then 255 else x.count + 1
      phase := 0 }) s

/-! ### Cold reset -/

/-- A cold reset that interrupts the flash writer leaves its slot torn (R347, R381, R429): erased, so that it is not valid. -/
def tearFlash (s : State) : State :=
  let s := tearFrec s
  if s.pack.capStarted && s.pack.capWrite.isSome then
    flashSector (aCapSlot (otherSlot (flashRead (aCapSlot 0) 64 s) (flashRead (aCapSlot 1) 64 s))) (List.replicate 64 0xFF) s
  else s

/-- The logic die starts again from its reset values; the cause registers, Varnish and the flash stay (R425). -/
def coldState (r : Rst) (s : State) : State :=
  let s := tearFlash s
  palRole { State.reset with
    pending := s.pending, free := s.free, out := s.out, flash := s.flash,
    varnish := { s.varnish with replySince := 0, retryAt := 0 },
    rst := { r with conflict := strapConflict r.straps, safe := strapSafe r.straps } }

/-- The straps as they stand: the levels that the next reset samples (R5, R431). -/
def strapPins (st : Straps) (s : State) : State := updRst (fun x => { x with pins := st }) s

/-- A cold reset from a source, with the straps sampled at its release. Option loading begins when VAUX is good. -/
def coldReset (src : Nat) (s : State) : State :=
  let r := (countReset src 0 s).rst
  coldState { Rst.powerOn r.pins with
    last := r.last, kind := 0, count := r.count, sticky := r.sticky, vauxOk := r.vauxOk, loading := r.vauxOk } s

/-- VAUX_POWER_ON: VAUX has risen from below its retention level (R429, R441). -/
def execVauxPowerOn (st : Straps) (s : State) : Res := .next (coldState (Rst.powerOn st) s)

/-- VAUX_RESET: VAUX below its reset level. -/
def execVauxReset (st : Straps) (s : State) : Res :=
  .next (coldReset 1 (strapPins st (updRst (fun x => { x with vauxOk := false }) s)))

/-- VAUX_RELEASE: option loading begins (R434). -/
def execVauxRelease (s : State) : Res :=
  .next (if s.rst.vauxOk then s else updRst (fun x => { x with vauxOk := true, loading := true }) s)

/-- RESET_N. -/
def execResetN (st : Straps) (s : State) : Res := .next (coldReset 2 (strapPins st s))

/-- QUIET_CLOCK_LOST: a later loss of the quiet clock. -/
def execQuietClockLost (st : Straps) (s : State) : Res :=
  .next (if s.rst.clkGood.getLsbD 0 then coldReset 3 (strapPins st s) else s)

/-! ### Steward reset and warm reset -/

/-- A measurement slot returns to zero. -/
def clearMs (l : List Nat) (s : State) : State :=
  { s with att := { s.att with ms := l.foldl (fun m k => mapErase m k) s.att.ms, lock := false } }

/-- What the Steward and warm resets share: the Steward starts again, MS3 and MS5 to MS7 clear, a pending step is applied, and a card may
set its identifier once more (R242). -/
def stewardAgain (s : State) : State :=
  let s := updRst (fun x =>
    { x with
      released := setBit x.released 1 false
      starting := true
      bootRuns := false
      steward := false
      bootFail := 0
      imgStarted := false
      img := [] }) s
  stepApply (clearMs [3, 5, 6, 7] { s with goWaits := [], pkgSet := s.pkgSet && !isCard s })

/-- A Steward reset: channels 0 to 7 and 24 to 31 are emptied. It samples no strap (R431). -/
def stewardReset (src : Nat) (s : State) : State :=
  let s := stewardAgain (countReset src 2 s)
  let s := forAll ((List.range 32).filter (fun c => decide (c < 8) || decide (24 ≤ c))) mbxRelease s
  reportCause s

/-- Every mailbox channel and doorbell after a warm reset: COMPAT as the option block left it (R262). -/
def mbxReset (s : State) : State :=
  let s := { s with mbox := [], staged := [], bellsDue := 0 }
  let s := forAll (List.range 4) (fun i s =>
    if s.rst.optCompat.getLsbD i then updMbx (28 + i) (fun m => { m with compat := true }) s else s) s
  forAll (List.range 6) (fun r s => setReg (aMask r) 0 (setReg (aBell r) 0 s)) s

/-- Whether a strap that only a cold reset may change differs (R431). -/
def strapsDiffer (a b : Straps) : Bool :=
  a.role != b.role || a.packcand != b.packcand || a.slot != b.slot || a.clkmode != b.clkmode

/-- The tiles, scratch and the remote operations of tiles at a warm reset; what a session has sent out still completes. -/
def wipeTiles (s : State) : State :=
  updAllTiles tileReset
    { s with
      scratch := [], scratchErr := [], scratchFix := [], istoreErr := [], fences := []
      rops := s.rops.filter (fun o => match o.src with | .session _ _ => o.departed | .tile _ => false) }

/-- Barrier groups and queues at a warm reset. -/
def wipeQueues (s : State) : State :=
  { s with
    group := s.group.map (fun e => (e.1, { e.2 with arrived := 0, sent := false, pkgs := [], held := false }))
    queue := s.queue.map (fun e => (e.1, { e.2 with posted := [], running := none, ended := 0 })) }

/-- Weighted counts at a warm reset: only the beats of class 12 are kept (R404). -/
def wipeCounts (s : State) : State :=
  updAttr (fun a =>
    { a with
      counts := a.counts.filter (fun e => decide (e.1 % 13 = 12))
      closed := a.closed.filter (fun e => decide (e.1 % 13 = 12)) }) s

/-- The part of a warm reset that a changed strap does not turn into a cold reset. -/
def warmWipe (src : Nat) (s : State) : State :=
  let s := stewardAgain (countReset src 1 s)
  let s := updRst (fun x =>
    { x with
      straps := x.pins
      conflict := strapConflict x.pins
      released := setBit x.released 3 false }) s
  let s := wipeQueues (wipeTiles (haltFor haltReset s))
  reportReset (mbxReset (wipeCounts (forAll (s.session.map (·.1)) closeSession s)))

/-- A warm reset (R425, R428): leaving notices and the local stop, then the tiles, queues, sessions and mailboxes. Weighted counts
of energy are lost but for the beats of class 12 (R404). A changed strap makes it a cold reset (R431). -/
def warmReset (src : Nat) (s : State) : State :=
  let s := leaveAll s
  if strapsDiffer s.rst.pins s.rst.straps then coldReset 5 (fireSource src s) else warmWipe src s

/-- A source of a kind that a wider reset in progress, before the boot ROM has started, discards (R427). -/
def discarded (kind : Nat) (s : State) : Bool :=
  s.rst.starting && (s.rst.kind == 0 || (kind == 2 && s.rst.kind == 1))

/-- A warm source fires. -/
def warmSource (src : Nat) (s : State) : State :=
  if discarded 1 s then fireSource src s else warmReset src s

/-- A Steward source fires. -/
def stewardSource (src : Nat) (s : State) : State :=
  if discarded 2 s then fireSource src s else stewardReset src s

/-- PLL_LOCK_LOST: the memory or the tile PLL loses lock after release (R436). -/
def execPllLockLost (memPll : Bool) (st : Straps) (s : State) : Res :=
  let k := if memPll then 2 else 3
  let s := strapPins st s
  .next (if s.rst.released.getLsbD k then
      warmSource 7 (updRst (fun x => { x with clkGood := setBit x.clkGood k false, released := setBit x.released k false }) s)
    else s)

/-- WATCHDOG_EXPIRE: RST.WDOG.TIMEOUT ms without a write of the register; 0 disables (R452). -/
def execWatchdogExpire (s : State) : Res :=
  let t := regF 0x1_0010 15 0 s
  .next (if s.rst.released.getLsbD 1 && decide (t ≠ 0) && decide (s.rst.wdogAt + t * 1000 ≤ s.tick) then stewardSource 9 s else s)

/-! ### RST.CTRL (R452, R453) -/

/-- TEST and IN_SERVICE of RST.CTRL set the phase (R440). -/
def ctrlPhase (v : BitVec 32) (s : State) : State :=
  if v.getLsbD 2 then updRst (fun x => { x with phase := 2 }) s
  else if v.getLsbD 3 then updRst (fun x => { x with phase := 1 }) s
  else s

/-- The sticky bit of a reset that a bit of RST.CTRL asks for. -/
def ctrlFire (v : BitVec 32) (i src : Nat) (s : State) : State := if v.getLsbD i then fireSource src s else s

/-- The widest kind of reset that a write of RST.CTRL asks for (R427). -/
def ctrlReset (v : BitVec 32) (s : State) : State :=
  if v.getLsbD 31 then coldReset 4 s
  else if v.getLsbD 30 then warmSource 6 s
  else if v.getLsbD 29 then stewardSource 8 s
  else if v.getLsbD 28 then stewardSource 10 s
  else s

/-- A write of RST.CTRL: rights, the entry, then the phase and the resets. -/
def rstCtrl (o : Origin) (v : BitVec 32) (s : State) : Resp × State :=
  let b (i : Nat) : Bool := v.getLsbD i
  let expert := hasRight rExpert o s
  if ((b 31 || b 30 || b 29 || b 2) && !expert) || ((b 28 || b 3) && !isSteward o) || (!expert && !isSteward o) then
    (.rights, refuseRights o 0x1_0000 s)
  else
    let s := ctrlPhase v (logWrite o 0x1_0000 0 0 v s)
    (.ok 0, ctrlReset v (ctrlFire v 31 4 (ctrlFire v 30 6 (ctrlFire v 29 8 (ctrlFire v 28 10 s)))))

/-! ### Clocks -/

/-- RECOVERED_CLOCK_SWITCH: with CLKMODE 2, at a beat boundary once link 0 has reached ALIGN (R436). -/
def execRecoveredClockSwitch (s : State) : Res :=
  let st := linkSt 0 s
  .next (if s.rst.straps.clkmode = 2 && decide (s.frac = 0) && decide (lsAlign ≤ st) && decide (st ≤ lsRecover) then
      updRst (fun x => { x with recovered := true }) s
    else s)

end Sys2Proof.Machine
end

