-- ==== Sys2Proof/Machine/Rom.lean ====
section
/-! DEFINITION. The default loop program in ROM: what one run of it computes (R269 to R274, R277, R285, R288, R289, R309, R344,
R368). A run takes its proportional steps after stroke 1's instant, its integrations after stroke 5's and ends before stroke 6's
(R321, log 9); an expression is rounded operation by operation in the order the rule writes it (R307, DEDUCED). -/

namespace Sys2Proof.Machine

/-! ### Variables, inputs and coefficients -/

/-- A variable of the run, and writing one: both act on the shadow (R301). -/
def rv (k : Nat) (s : State) : BitVec 32 := mapGet 0 s.loop.shadow k
def setRv (k : Nat) (v : BitVec 32) (s : State) : State := { s with loop := { s.loop with shadow := mapSet 0 s.loop.shadow k v } }

/-- An input port. -/
def rin (p : Nat) (s : State) : BitVec 32 := mapGet 0 s.loop.input p

/-- An integer and a quotient of integers as FP32. -/
def natF (n : Nat) : BitVec 32 := ofInt32 0 (n : Nat)

/-- Coefficient `j` of loop `k` (R304). -/
def coefF (k j : Nat) (s : State) : BitVec 32 := palAct (0x140 + 4 * k + j) s

/-- 2,048.0 -/
def top32 : BitVec 32 := 0x45000000

/-! ### The estimates of R285 -/

/-- The demand estimate, held while the clusters are halted. -/
def demBeat (s : State) : State :=
  if pos32 (rin 0x116 s) then s
  else { s with gov := { s.gov with dem := fdiv (fmul (rin 0x100 s) (rin 0x10C s)) (fmax (rin 0x10D s) (natF 11)) } }

/-- The filters of CAP and ENV, which start at the first measurement (R270), and the slow reference, which moves by RISE and FALL from 0
(log 25). -/
def romFilters (s : State) : State :=
  let p := rin 0x100 s
  let g := s.gov
  let tau := natF (max 1 (palA 8 15 0 s) * 1000)
  let lim (hi lo : Nat) : BitVec 32 := fdiv (natF (palA 6 hi lo s)) (natF 1000)
  let fd := if g.filtersOn then fadd g.fd (fdiv (fsub g.dem g.fd) tau) else g.dem
  let fm := if g.filtersOn then fadd g.fm (fdiv (fsub p g.fm) tau) else p
  let pr := clampF32 fd (fsub g.pRef (lim 15 0)) (fadd g.pRef (lim 31 16))
  let s := { s with gov := { g with fd := fd, fm := fm, pRef := fmin pr (rin 0x111 s), filtersOn := true } }
  setRv 16 (if g.filtersOn then fltOp (rv 16 s) p (palAct 0x147 s) else p) s

/-! ### The seven loops (R269, R270, R274, R277, R288) -/

/-- The cap in force in W (R274, R281): SLOT 0 of a carrier acts on the sum of the two caps. -/
def romCap (s : State) : BitVec 32 :=
  let own := palA 2 15 0 s
  match s.gov.partner with
  | some m => if isCompanion s && !isSlot1 s then natF (min own 2000 + min m.cap 2000) else fmin (natF own) (natF 2000)
  | none => fmin (natF own) (natF 2000)

/-- A margin in ‰: (limit − measured) / limit × 1,000. -/
def margin (lim x : BitVec 32) : BitVec 32 := fmul (fdiv (fsub lim x) lim) (natF 1000)

/-- The limit of the PACK loop in W (R288, R461). -/
def packLimit (s : State) : BitVec 32 :=
  if s.gov.pack.forced then 0
  else if pos32 (rin 0x115 s) then rin 0x114 s
  else fadd s.gov.pRef (rin 0x112 s)

/-- The error of loop `k`, or none when it is off. -/
def romError (k : Nat) (s : State) : Option (BitVec 32) :=
  let shelf := pos32 (rin 0x115 s)
  match k with
  | 1 => if isSlot1 s then none else some (fsub (romCap s) (rv 16 s))
  | 2 =>
    if isSlot1 s then none
    else some (fmin (margin (natF (palA 11 11 0 s)) (rin 0x102 s)) (margin (fdiv (natF (palA 11 27 16 s)) (natF 10)) (rin 0x110 s)))
  | 3 => some (fsub (natF (palA 3 7 0 s)) (rin 0x10A s))
  | 4 => if !envEn s || shelf then none else some (fsub (rin 0x111 s) s.gov.fm)
  | 5 => if !envEn s && !shelf && !s.gov.pack.forced then none else some (fsub (packLimit s) (rin 0x100 s))
  | _ => none

/-- The output of loop `k`, given its error. COOL is 0 while FLOW_OK_N is deasserted, and until flow has returned (R290). -/
def romOutput (k : Nat) (e : Option (BitVec 32)) (s : State) : BitVec 32 :=
  if k = 0 then rin 0x10C s
  else if k = 6 then (if regIs aGovStatus 9 s then 0 else fmul top32 (rin 0x10B s))
  else match e with
    | some e => clampF32 (ffma (coefF k 0 s) e (rv (2 * k) s)) 0 top32
    | none => top32

/-- The mode of a winning loop (R309): the first situation of the table that holds. -/
def romMode (guarded : Bool) (applied : BitVec 32) (budget : Bool) : Nat :=
  if guarded then 0 else if fle top32 applied then 2 else if fle applied 0 then 3 else if budget then 2 else 1

/-- The selected level of a run, its applied level, and whether the peak guard lies below the selected level. -/
def romSel (s : State) : BitVec 32 := let us := (List.range 7).map (fun k => rv (2 * k + 1) s); us.foldl fmin (us.headD top32)
def romApplied (s : State) : BitVec 32 := fmin (floorPort (romSel s) 0 2048) (rin 0x10E s)
def romGuarded (s : State) : Bool := flt (rin 0x10E s) (floorPort (romSel s) 0 2048)

/-- The integrator of loop `k` after the selection (R272, R309); `e` is the loop's error of this run. -/
def romIntegrate (k : Nat) (e : Option (BitVec 32)) (s : State) : State :=
  match e with
  | none => s
  | some e =>
    let won := feq (rv (2 * k + 1) s) (romSel s)
    let applied := romApplied s
    let i := rv (2 * k) s
    let m := natF (romMode (romGuarded s) applied (pos32 (rin 0x10F s)))
    let i := if won then piuOp i e m (coefF k 1 s) else fmin i (fadd applied (coefF k 2 s))
    setRv (2 * k) (clampF32 i 0 top32) (if k = 1 then setRv 21 (if won then m else 0) s else s)

/-- The Governor's part of a run up to the selection: filters, errors, outputs, winner, and the ports of R303. -/
def romGovernor (s : State) : State :=
  let s := romFilters s
  let s := setRv 30 0 (setRv 31 top32 (setRv 18 (natF 2000) (setRv 17 (romCap s) s)))
  let es := (List.range 7).map (fun k => romError k s)
  let s := { s with loop := { s.loop with romErr := es } }
  let s := match es.getD 1 none with | some e => setRv 19 e s | none => s
  let s := forAll (List.range 7) (fun k s => setRv (2 * k + 1) (romOutput k (es.getD k none) s) s) s
  let sel := romSel s
  let win := ((List.range 7).find? (fun k => feq (rv (2 * k + 1) s) sel)).getD 0
  let s := setRv 15 (romApplied s) s
  let wash := fmax 0 (fsub (fsub s.gov.pRef (rin 0x113 s)) (rin 0x100 s))
  stagePort 0x103 wash (stagePort 0x102 s.gov.pRef (stagePort 0x101 (natF win) (stagePort 0x100 sel s)))

/-! ### The rail outer loops (R344) -/

/-- Round up. -/
def ceilF (v : BitVec 32) : BitVec 32 := ofInt32 0 (-(floorTimes (fneg v) 1))

/-- The outer loop of rail `r`. -/
def romRail (r : Nat) (s : State) : State :=
  let i := 0x120 + 8 * r
  let k := 0x180 + 0x40 * r
  let f := fltOp (rv (34 + 4 * r) s) (rin (i + 2) s) (palAct (k + 0x12) s)
  let ilim := natF (max 1 (palA (k + 5) 23 16 s))
  let want := ceilF (fdiv f (fmul (fdiv (natF (palA (k + 7) 15 8 s)) (natF 100)) ilim))
  let phases := fmax want (natF (palA (k + 7) 5 0 s))
  let burst := flt f (natF (palA (k + 7) 31 24 s)) && fle phases one32 && !(decide (r = 0) && s.gov.admitted != 0)
  let t := flwOp (rv (33 + 4 * r) s) (rin (i + 3) s) (rin i s) (palAct (k + 0x10) s)
  let s := setRv (34 + 4 * r) f (setRv (32 + 4 * r) 0 (setRv (33 + 4 * r) t s))
  let s := flwFlag r t (palAct (k + 0x11) s) s
  stagePort (i + 2) (flag32 burst) (stagePort (i + 1) phases (stagePort i 0 s))

/-! ### The pack law (R368) -/

/-- Bits of a PACK palette field, as the loop program reads them. -/
def packA (j hi lo : Nat) (s : State) : Nat := palA (0x280 + j) hi lo s

/-- The pack law while the package holds the brush. FLW flag 8 does not run in hibernation (R382). -/
def romPack (s : State) : State :=
  if !pos32 (rin 0x14C s) then s
  else
    let eff := fdiv (natF (palA 10 31 16 s)) (natF 1000)
    let bmax := natF (packA 6 31 16 s)
    let slew := fdiv (natF (packA 6 15 0 s)) (natF 1000)
    let b := clampF32 (fmul (natF (packA 4 15 0 s)) (fsub (rin 0x148 s) (natF (min 100 (packA 5 23 16 s))))) (fneg bmax) bmax
    let b := if flt b 0 then fmax b (fneg (fmax 0 (fsub (rin 0x146 s) (rin 0x145 s)))) else b
    let bias := slewOp (rv 49 s) b slew slew
    let tgt := fadd (fsub (rin 0x144 s) (rin 0x145 s)) bias
    let cmd := holdOp (rv 48 s) tgt (natF (packA 4 31 16 s))
    let cp := fmul eff (fmax 0 (fsub (rin 0x14A s) bias))
    let ca := fmul eff (fmax 0 (fadd (rin 0x14B s) bias))
    let se := fdiv (natF (packR 0x24 31 16 s)) (natF 1000)
    let ride := fmul eff (fmin (rin 0x14A s) (fdiv (fmul se (rin 0x14F s)) (natF (palA 9 15 0 s))))
    let t := if hibernating s then 0 else flwOp (rv 51 s) (rin 0x143 s) cmd (palAct 0x290 s)
    let lim := palAct 0x291 s
    let lost := fle (fmax lim one32) t
    let s := regBit aPackStatus 4 lost (flwFlag 8 t lim (setRv 51 t s))
    let cp := if lost then 0 else cp
    let ca := if lost then 0 else ca
    let s := setRv 48 cmd (setRv 49 bias (setRv 50 tgt (setRv 52 cp (setRv 53 ca (setRv 54 ride s)))))
    stagePort 0x143 ride (stagePort 0x142 ca (stagePort 0x141 cp (stagePort 0x140 cmd s)))

/-- Cycles of a run of the ROM program (R312). -/
def romCycles : Nat := 640

/-- The palette entries that the default program reads (DEDUCED, log 9). -/
def romReads : List Nat :=
  [2, 3, 6, 8, 9, 10, 11] ++ (List.range 20).map (0x144 + ·) ++
    [0x180, 0x1C0, 0x200, 0x240].flatMap (fun b => [5, 7, 0x10, 0x11, 0x12].map (b + ·)) ++ [0x284, 0x285, 0x286, 0x287, 0x290, 0x291]

/-- The run of a beat begins at FRAC 0. -/
def romBegin (s : State) : State :=
  { s with loop := { s.loop with running := false, missedRun := false, romPhase := 1, shadow := s.loop.vars } }

/-- Its proportional steps. An uncorrectable entry that it reads makes the beat a missed one (R315). -/
def romSelect (s : State) : State :=
  if romReads.any (fun k => palBad k s) then memMiss { s with loop := { s.loop with romPhase := 0 } }
  else let s := romGovernor s; { s with loop := { s.loop with romPhase := 2 } }

/-- Its integrations, the rail outer loops and the pack law. -/
def romSettle (s : State) : State :=
  let s := forAll [1, 2, 3, 4, 5] (fun k s => romIntegrate k (s.loop.romErr.getD k none) s) s
  let s := romPack (forAll [0, 1, 2, 3] romRail s)
  { s with loop := { s.loop with romPhase := 3 } }

/-- Its end (R313): the shadow becomes the variables. -/
def romFinish (s : State) : State :=
  skSample [0, 2] false (setCycles romCycles { s with loop := { s.loop with vars := s.loop.shadow, romPhase := 0, misses := 0 } })

/-- The run of the default program up to the instant of stroke `k`, 8 for the end of the beat (R321, log 9). -/
def romUpTo (k : Nat) (s : State) : State :=
  let s := onlyIf (s.loop.romPhase == 1 && decide (1 ≤ k)) romSelect s
  let s := onlyIf (s.loop.romPhase == 2 && decide (5 ≤ k)) romSettle s
  onlyIf (s.loop.romPhase == 3 && decide (6 ≤ k)) romFinish s

end Sys2Proof.Machine
end

