-- ==== Sys2Proof/Machine/Registers.lean ====
section
/-! DEFINITION. The control space: what every register reads as, who may write it, and what a write does (R10 to R15, R83 to
R85, R170, R206, R232, R236, R257, R264, R265, R295, R316 to R327, R351, R384, R407 to R409, R417 to R424, R452 to R455). -/

namespace Sys2Proof.Machine

/-! ### Values that registers show -/

/-- Word `k` of a byte string. -/
def wordOf (k : Nat) (bs : List Byte) : BitVec 32 := BitVec.ofNat 32 (wordAt bs (4 * k))

/-- A signed value in 16 bits. -/
def i16 (x : Int) : Nat := (BitVec.ofInt 16 x).toNat

/-- A rational in hundredths, rounded down, as an unsigned 16-bit value. -/
def hundredths (x : Rat) : Nat := i16 (x * 100).floor

/-- A value in [0, 4,095] of a loop variable, rounded down (R301). -/
def loopShown (k : Nat) (s : State) : Nat := (floorClamp (mapGet 0 s.loop.vars k) 0 4095).toNat

/-- SYS.PKG_ID (R10). -/
def pkgIdReg (s : State) : BitVec 32 := BitVec.ofNat 32 (b2n (pkgKnown s) * 65536 + (pkgId s).toNat)

/-- The GOV registers that show the Governor (R295, R298). -/
def govShown (off : Nat) (s : State) : Option Nat :=
  let g := s.gov
  if off = 0x34 then some (g.lam * 65536 + b2n g.burst.isSome * 32768 + g.winner * 256 + g.opTgt.toNat * 16 + g.opNow.toNat)
  else if off = 0x38 then some (i16 (pRefW s) * 65536 + i16 (g.power / 64000000))
  else if off = 0x3C then some (g.hotIdx * 65536 + i16 g.hot)
  else if off = 0x40 then some (i16 g.pack.cAbs * 65536 + i16 g.pack.cPack)
  else if off = 0x48 then some (min 0xFFFFFFFF ((s.tick - g.hbAt) / 1000))
  else if 0x60 ≤ off ∧ off < 0x7C then
    let k := (off - 0x60) / 4
    some (loopShown (2 * k) s * 65536 + loopShown (2 * k + 1) s)
  else none

/-- The sample SK_DATA shows (R324). -/
def skSampleAt (s : State) : BitVec 32 :=
  let l := mapGet [] s.loop.sk.samples (regF (aCtl 0xE0) 18 16 s)
  let i := regF (aCtl 0xE0) 12 0 s
  if i < l.length then l.getD (l.length - 1 - i) 0 else 0

/-- The CTL registers that show the loop engine (R325 to R327). -/
def ctlShown (off : Nat) (s : State) : Option Nat :=
  let l := s.loop
  if off = 0x4 then some (ctlStatus s).toNat
  else if off = 0xC then some (match l.stage with | some (o, _) => o.toNat | none => 0xFFFF)
  else if off = 0x44 then some (palInact (regF (aCtl 0x40) 10 0 s) s).toNat
  else if off = 0x48 then some (palAct (regF (aCtl 0x40) 10 0 s) s).toNat
  else if off = 0x54 then some (mapGet 0 l.vars (regF (aCtl 0x50) 7 0 s)).toNat
  else if off = 0x84 then some (b2n l.sk.trig * 4 + l.sk.st.toNat)
  else if off = 0x8C then some (lo32 l.sk.stamp).toNat
  else if off = 0x90 then some (hi32 l.sk.stamp).toNat
  else if 0xC0 ≤ off ∧ off < 0xE0 then
    let n := (off - 0xC0) / 4
    let c := (mapGet [] l.sk.samples n).length
    some (c * 65536 + (if l.sk.trig then c - 1 - mapGet 0 l.sk.tpos n else 0))
  else if off = 0xE4 then some (skSampleAt s).toNat
  else none

/-- The RAIL registers that show the rails (R351, R352). -/
def railShown (off : Nat) (s : State) : Option Nat :=
  let r := off / 0x100
  let x := railAt r s
  if off < 0x400 then
    match off % 0x100 with
    | 0x4 => some (x.lastFault.toNat * 4096 + x.left.toNat * 256 + b2n x.burst * 128 + x.st.toNat)
    | 0x8 => if r = 0 then some (i16 (targetOf 0 s / 32)) else none
    | 0x28 => some ((clampI 0 0xFFF (x.iAvg / 1000)).toNat * 65536 + (clampI 0 0xFFF (railsGet s.gov.railV r / 32)).toNat)
    | 0x2C => some ((activeOf r s).length * 65536 + (clampI 0 0xFFF (x.ref / 32)).toNat)
    | _ => none
  else if off = 0x400 then some (lo32 s.rails.phFault).toNat
  else if off = 0x404 then some (hi32 s.rails.phFault).toNat
  else if off = 0x408 then some (lo32 s.rails.phActive).toNat
  else if off = 0x40C then some (hi32 s.rails.phActive).toNat
  else if off = 0x410 then some (b2n s.rails.waiting.isSome * 4 + b2n s.rails.writing.isSome * 2 + b2n s.rails.frecSrc)
  else if 0x500 ≤ off then some (wordOf ((off - 0x500) / 4) s.rails.frec).toNat
  else none

/-- The PACK registers that show the pack controller (R384, R386). -/
def packShown (off : Nat) (s : State) : Option Nat :=
  let p := s.pack
  let e := p.est
  if off = 0x4 then some (packStatus s).toNat
  else if off = 0x8 then some p.stage.epoch.toNat
  else if off = 0xC then
    some (p.stage.lease.toNat * 2 ^ 30 + min (2 ^ 30 - 1) (s.tick - (if isHolder s then p.renewAt else p.noticeAt)))
  else if off = 0x28 then some (p.lat.vPack % 65536 * 65536 + i16 p.lat.iPack)
  else if off = 0x2C then some (i16 p.cmd.floor * 65536 + i16 (floorDiv (p.lat.vPack * p.lat.iPack) 10000))
  else if off = 0x30 then some (hundredths e.socRep * 65536 + hundredths e.err)
  else if off = 0x34 then some (hundredths e.socInt)
  else if off = 0x38 then some (e.cL % 2 ^ 32)
  else if off = 0x40 then some (min 0xFFFFFFFF (e.refAge / 3600000000))
  else if off = 0x5C then some p.bleed.toNat
  else if off = 0x60 then
    some (((p.sweeps.take 16).filter (!·)).length * 65536 + (p.brokenAt.getD 0).toNat * 256 + b2n p.farUsed * 2 + b2n p.brokenAt.isSome)
  else if 0x100 ≤ off ∧ off < 0x160 then
    let i := (off - 0x100) / 4
    some (min 255 (cellAge i s) * 2 ^ 24 + cellV i s % 65536)
  else if 0x160 ≤ off ∧ off < 0x178 then
    let i := (off - 0x160) / 4
    some (min 255 (mapGet 255 p.tempAge i) * 2 ^ 24 + i16 (mapGet 0 p.temps i))
  else none

/-- The attribution registers (R408): the accounts through the read view, the totals. -/
def partShown (off : Nat) (s : State) : Option Nat :=
  let a := s.attr
  let half (v : Nat) (hi : Bool) : Nat := if hi then v / 2 ^ 32 % 2 ^ 32 else v % 2 ^ 32
  if 0x8000 ≤ off ∧ off < 0x8890 then some (half (mapGet 0 (viewAcct s) ((off - 0x8000) / 8)) (off % 8 = 4))
  else if 0x8890 ≤ off ∧ off < 0x88A8 then
    some (half (if off < 0x8898 then a.metered else if off < 0x88A0 then a.cleared else a.lastCleared) (off % 8 = 4))
  else if off = 0x8904 then some (attrStatus s).toNat
  else if off = 0x8908 then some (viewSeq s).toNat
  else none

/-- The TILE registers of a tile (R83 to R85). -/
def tileShown (t off : Nat) (s : State) : Nat :=
  let x := tileAt t s
  let f := x.fault
  match off with
  | 0x0 => (tileStatus t s).toNat
  | 0x4 => x.pc % 8192
  | 0x8 => b2n f.valid * 2 ^ 31 + f.code.toNat
  | 0xC => f.pc.toNat
  | 0x10 => (lo32 f.insn).toNat
  | 0x14 => (hi32 f.insn).toNat
  | 0x18 => (lo32 f.addr).toNat
  | 0x1C => (hi32 f.addr).toNat
  | 0x20 => (lo32 f.stamp).toNat
  | _ => (hi32 f.stamp).toNat

/-- The ATT registers (R454, R455). -/
def attShown (off : Nat) (s : State) : Option Nat :=
  let a := s.att
  let cmds := (a.queue.filter (fun q => match q with | .command _ _ _ => true | .register _ => false)).length
  if off = 0x4 then some (a.report.length * 65536 + b2n a.lock * 16 + min 7 cmds * 2 + b2n a.done)
  else if 0x80 ≤ off ∧ off < 0xC0 then some (wordOf ((off - 0x80) / 4) (windowOf (regF 0x6_0008 12 6 s) a.report)).toNat
  else if 0xC0 ≤ off ∧ off < 0x100 then some (wordOf ((off - 0xC0) / 4) (windowOf (regF 0x6_000C 11 6 s) Config.certificate)).toNat
  else if 0x100 ≤ off then some (wordOf ((off - 0x100) / 4 % 8) (digestBytes (mapGet 0 a.ms ((off - 0x100) / 32)))).toNat
  else none

/-- The remaining registers that show state kept elsewhere. -/
def otherShown (a : Nat) (s : State) : Option Nat :=
  let o := a % 0x10000
  match a / 0x10000 with
  | 0x00 => if o = 4 then some (strapsReg s).toNat else some (pkgIdReg s).toNat
  | 0x01 => (match o with
    | 0x4 => some (rstStatus s).toNat
    | 0x8 => some (causeReg s).toNat
    | 0xC => some s.rst.sticky.toNat
    | 0x18 => some (optStatus s).toNat
    | 0x24 => some (bootStatus s).toNat
    | _ => none)
  | 0x02 => if o = 0 then some (lo32 (now s)).toNat
    else if o = 4 then some (hi32 (now s)).toNat
    else if o = 0x104 then some s.evs.length
    else if 0x140 ≤ o then some (wordOf ((o - 0x140) / 4) (evsWindow s)).toNat
    else none
  | 0x04 =>
    let c := s.changes
    (match o with
    | 0x4 => some (logStatus s).toNat
    | 0x8 => some c.firstSeq.toNat
    | 0xC => some c.nextSeq.toNat
    | 0x10 => some c.lost.toNat
    | 0x14 => some c.overflow.toNat
    | 0x18 => some c.entries.length
    | _ => if 0x40 ≤ o then some (wordOf ((o - 0x40) / 4) (logWindow s)).toNat else none)
  | 0x05 =>
    let r := s.recorder
    (match o with
    | 0x4 => some (recStatus s).toNat
    | 0x8 => some r.firstSeq.toNat
    | 0xC => some r.nextSeq.toNat
    | 0x10 => some r.lost.toNat
    | 0x14 => some r.overflow.toNat
    | 0x18 => some r.fill
    | _ => if 0x40 ≤ o then some (wordOf ((o - 0x40) / 4) (recWindow s)).toNat else none)
  | 0x14 => if o < 0x80 then some (wordOf (o / 4) (viewFeed s)).toNat
    else if o = 0x80 then some (varStatus s).toNat
    else if o = 0x84 then some (min 0xFFFFFFFF (s.tick - s.attr.acceptAt))
    else if o = 0x8C then some s.attr.mirror.length
    else if 0xC0 ≤ o then some (wordOf ((o - 0xC0) / 4) (varWindow s)).toNat
    else none
  | 0x20 => if o = 0x104 then some (s.session.filter (fun e => e.2.isOpen)).length else none
  | 0x21 => if o % 0x400 = 0 ∧ linkUnused (o / 0x400) s then some ((reg a s).toNat / 2 * 2) else none
  | 0x31 => if o = 4 then some (lo32 (winAt (regF (aWin 0) 20 0 s) s)).toNat
    else if o = 8 then some (hi32 (winAt (regF (aWin 0) 20 0 s) s)).toNat
    else none
  | _ => none

/-- What an engine's register shows, when the register is not a stored word. -/
def shown (a : Nat) (s : State) : Option Nat :=
  if 0x80_0000 ≤ a then some (tileShown (a / 0x1000 - 0x800) (a % 0x1000) s)
  else match palOf a with
    | some k => some (palInact k s).toNat
    | none =>
      match a / 0x10000 with
      | 0x06 => attShown (a % 0x10000) s
      | 0x10 => govShown (a % 0x10000) s
      | 0x11 => ctlShown (a % 0x10000) s
      | 0x12 => railShown (a % 0x10000) s
      | 0x13 => if isCandidate s then packShown (a % 0x10000) s else some 0
      | 0x40 => partShown (a % 0x10000) s
      | _ => otherShown a s

/-- The value of a register outside the mailbox channels; WO fields read zero (R15). -/
def regVal (a : Nat) (s : State) : BitVec 32 :=
  match regAt a with
  | none => 0
  | some r =>
    match shown a s with
    | some v => BitVec.ofNat 32 v
    | none => reg a s &&& ~~~(BitVec.ofNat 32 r.wo)

/-! ### Reads (R12 to R14, R264) -/

/-- Whether the register is the low word of a 64-bit value (R14). -/
def lowWord (a : Nat) : Bool :=
  let o := a % 0x10000
  match a / 0x10000 with
  | 0x02 => o == 0
  | 0x03 => decide (o < 0x1000) && o % 0x80 == 0x48
  | 0x11 => o == 0x8C
  | 0x12 => o == 0x400 || o == 0x408
  | 0x20 => o == 0x30
  | 0x21 => o % 0x400 == 0x20
  | 0x30 => o == 8 || o == 0x20 || o == 0x30
  | 0x31 => o == 4 || o == 0x1C || o == 0x24
  | 0x40 => decide (0x8000 ≤ o) && decide (o < 0x88A8) && o % 8 == 0
  | _ => decide (0x80_0000 ≤ a) && (a % 0x1000 == 0x10 || a % 0x1000 == 0x18 || a % 0x1000 == 0x20)

/-- Whether the address lies in a mailbox channel. -/
def inChannel (a : Nat) : Bool := decide (0x3_0000 ≤ a) && decide (a < 0x3_1000)

/-- The read itself, with its effect: a mailbox channel, SK_DATA, or any other register. -/
def rawRegRead (o : Origin) (a : Nat) (s : State) : Resp × State :=
  if inChannel a then mbxRead o ((a - 0x3_0000) / 0x80) (a % 0x80) s
  else if a = aCtl 0xE4 then
    if s.loop.sk.st == 3 then
      (.ok (skSampleAt s), updReg (aCtl 0xE0) (fun v => setFld v 12 0 ((fld v 12 0 + 1) % 8192)) s)
    else (.error, s)
  else (.ok (regVal a s), s)

/-- Capture the high word that a read of its low word goes with (R14). -/
def capture14 (o : Origin) (a : Nat) (s : State) : State :=
  match (rawRegRead o (a + 4) s).1 with
  | .ok v => { s with shadow := mapSet none s.shadow o.toNat (some (BitVec.ofNat 24 (a + 4), v)) }
  | _ => s

/-- A read by an origin: rights, unmapped addresses, and the high word of an earlier read of the low word. -/
def ctlRead (o : Origin) (a : Nat) (s : State) : Resp × State :=
  if !hasRight rRead o s then (.rights, refuseRights o (BitVec.ofNat 32 a) s)
  else match regAt a with
    | none => (.ok 0, report 0x51 o (BitVec.ofNat 32 a) [0] s)
    | some _ =>
      match mapGet none s.shadow o.toNat with
      | some (b, v) =>
        if b.toNat = a then (.ok v, { s with shadow := mapSet none s.shadow o.toNat none })
        else let q := rawRegRead o a s; if lowWord a && q.1 != .error then (q.1, capture14 o a q.2) else q
      | none => let q := rawRegRead o a s; if lowWord a && q.1 != .error then (q.1, capture14 o a q.2) else q

/-! ### Who may write (R264, and the rights beside each register table) -/

/-- The management session. -/
def isS0 (o : Origin) (s : State) : Bool := o == 0 && (sesAt 0 s).isOpen

/-- The origins that may clear the recorder (R418). -/
def mayClear (o : Origin) (s : State) : Bool := isS0 o s || isSteward o || hasRight rExpert o s

/-- Session 0, the rack manager and the Steward (R264, R295). -/
def mayCap (o : Origin) (s : State) : Bool := isS0 o s || o == oRack || isSteward o

/-- The phase-point right for a partition (R264). -/
def mayPoint (o : Origin) (p : Nat) (s : State) : Bool :=
  isS0 o s || isSteward o || (match sessionOf o with
    | some n => hasRight rBasic o s && decide ((sesAt n s).part.map (·.toNat) = some p)
    | none => false)

/-- The receiver of a doorbell (R260). -/
def isBellReceiver (r : Nat) (o : Origin) (s : State) : Bool :=
  match r with
  | 0 => isSteward o
  | 1 => o == oGov
  | 2 => o == oPack
  | 3 => o == oVarnish
  | 4 => o == oRack
  | _ => (sessionOf o).isSome && hasRight rBasic o s

/-- The bits of a PACK.CTRL write that an origin without the expert right may set (R384). -/
def packCtrlMay (o : Origin) (v : BitVec 32) (s : State) : Bool :=
  hasRight rExpert o s || (o == oRack && v == 0x80) || ((isS0 o s || isSteward o) && v &&& 0x8F == 0 && v != 0)

/-- Whether an origin may make a write. -/
def mayWrite (o : Origin) (a : Nat) (v : BitVec 32) (s : State) : Bool :=
  let ex := hasRight rExpert o s
  let off := a % 0x10000
  match a / 0x10000 with
  | 0x00 => isS0 o s || o == oRack
  | 0x01 => if off = 0x10 then ex || isSteward o else if 0x20 ≤ off then isS0 o s else ex
  | 0x02 => if off = 0x100 then hasRight rRead o s else if off = 0x108 then mayClear o s else ex
  | 0x03 => ex || isBellReceiver ((off - 0x1000) / 0x10) o s
  | 0x04 => if off = 0 then isS0 o s else hasRight rRead o s
  | 0x05 => if off = 0 then mayClear o s else hasRight rRead o s
  | 0x06 => if (0x40 ≤ off && decide (off < 0x60)) || (off = 0 && v.getLsbD 30) then isSteward o else isSteward o || o == oRack
  | 0x10 => if off = 8 || off = 0x14 then mayCap o s
    else if off = 0x44 then o == oRack
    else if 0x100 ≤ off then mayPoint o ((off - 0x100) / 0x40) s
    else ex
  | 0x13 => if off = 0 then packCtrlMay o v s else ex
  | 0x14 => if off = 0x90 then hasRight rRead o s else mayClear o s
  | 0x40 => if off = 0x8900 then
      (isS0 o s || ex || (v.getLsbD 1 == regIs aAttrCtrl 1 s)) && hasRight rBasic o s
    else if 0x8940 ≤ off then ex
    else isS0 o s || ex
  | _ => ex

/-! ### What a write does -/

/-- The outcome of a write: accepted with or without a change-log entry, or an error response. -/
inductive WriteRes where
  | logged
  | silent
  | refused
deriving DecidableEq, Repr

/-- An accepted write with its entry, if the condition holds; else an error response. -/
def okIf (q : Bool × State) : WriteRes × State := (if q.1 then .logged else .refused, q.2)

/-- A write to a palette field (R316, R319, R320). -/
def palWriteOp (o : Origin) (k : Nat) (v : BitVec 32) (s : State) : WriteRes × State :=
  let owner := match s.loop.stage with | some (w, _) => w == o | none => false
  if entryCommits k && !owner then (.logged, entryCommit o k v s)
  else if s.loop.stage.isSome && !owner then (.refused, s)
  else (.logged, setInact k (palWritten k v s) (dropEntry k s))

/-- A write of CTL.COMMIT (R317, R320): the bits of several writes before one boundary are joined. -/
def commitWrite (o : Origin) (v : BitVec 32) (s : State) : Bool × State :=
  let pal := v.getLsbD 0
  let prog := v.getLsbD 1
  let owner := match s.loop.stage with | some (w, _) => w == o | none => true
  if !owner || (prog && !isVerified s) then (false, s)
  else if !pal && !prog then (true, s)
  else
    let c : Commit := s.loop.commit.getD ⟨o, false, false, false, false⟩
    let c : Commit := ⟨o, c.pal || pal, c.prog || prog, c.clr || v.getLsbD 2, c.lapsed && !prog⟩
    (true, { s with loop := { s.loop with commit := some c, stage := none } })

/-- A write of CTL.STAGE (R320). -/
def stageWrite (o : Origin) (v : BitVec 32) (s : State) : Bool × State :=
  if v.getLsbD 31 then
    if s.loop.stage.isSome then (false, s)
    else (true, { s with loop := { s.loop with stage := some (o, s.tick) } })
  else if v.getLsbD 30 then
    match s.loop.stage with
    | some (w, _) => if w = o || isS0 o s then (true, stageAbort s) else (false, s)
    | none => (false, s)
  else (true, s)

/-- A write of CTL.PROG_CTRL (R311, R327). -/
def progCtrl (v : BitVec 32) (s : State) : State :=
  let s := bankTouched (setReg (aCtl 0x20) (v &&& 0x400003FF) s)
  if v.getLsbD 31 then { s with loop := { s.loop with verifying := true } } else s

/-- A direct write of the active palette (R320). -/
def directWrite (o : Origin) (v : BitVec 32) (s : State) : Bool × State :=
  let k := regF (aCtl 0x40) 10 0 s
  let owner := match s.loop.stage with | some (w, _) => w == o | none => true
  if !regIs (aCtl 0) 0 s || !owner then (false, s)
  else let x := palWritten k v s; (true, setInact k x (setAct k x (dropEntry k s)))

/-- A write of CTL.SK_CTRL (R323). -/
def skCtrl (v : BitVec 32) (s : State) : Bool × State :=
  let conf := v &&& 0x1FFF3FFF
  let busy := s.loop.sk.st == 1 || s.loop.sk.st == 2
  if busy && conf != reg (aCtl 0x80) s then (false, s)
  else
    let s := setReg (aCtl 0x80) conf s
    let s := if v.getLsbD 31 then skArm s else s
    let s := if v.getLsbD 30 then skForce s else s
    (true, if v.getLsbD 29 then skStop s else s)

/-- A write to the CTL block. -/
def ctlOp (o : Origin) (off : Nat) (v : BitVec 32) (s : State) : WriteRes × State :=
  let plain (m : BitVec 32) : WriteRes × State := (.logged, setReg (aCtl off) (v &&& m) s)
  let idle := !(s.loop.sk.st == 1 || s.loop.sk.st == 2)
  match off with
  | 0x0 => plain 0xFFFFFF01
  | 0x4 => (.logged, updReg aCtlStatus (fun x => x &&& ~~~(v &&& 0x80D)) s)
  | 0x8 => okIf (commitWrite o v s)
  | 0xC => okIf (stageWrite o v s)
  | 0x18 => (.logged, updReg (aCtl 0x18) (fun x => x &&& ~~~v) s)
  | 0x20 => (.logged, progCtrl v s)
  | 0x28 => plain 0x1FF
  | 0x2C => (.logged, { s with loop := { s.loop with dataLo := mapSet 0 s.loop.dataLo o.toNat v } })
  | 0x30 => (.logged, storeWord (mapGet 0 s.loop.dataLo o.toNat) v s)
  | 0x40 => plain 0x7FF
  | 0x44 => palWriteOp o (regF (aCtl 0x40) 10 0 s) v s
  | 0x48 => okIf (directWrite o v s)
  | 0x50 => (.silent, setReg (aCtl off) (v &&& 0xFF) s)
  | 0x80 => okIf (skCtrl v s)
  | 0x88 => if idle then plain 0xFFFFFFFF else (.refused, s)
  | 0xE0 => (.silent, setReg (aCtl off) (v &&& 0x71FFF) s)
  | _ => if idle then plain 0x3FFF else (.refused, s)

/-- A write to the RAIL block outside the palette (R351). -/
def railOp (off : Nat) (v : BitVec 32) (s : State) : WriteRes × State :=
  let r := off / 0x100
  if off = 0x400 then (.logged, phFaultClear false v s)
  else if off = 0x404 then (.logged, phFaultClear true v s)
  else if off % 0x100 = 0 then
    if !v.getLsbD 0 && anyRunning s then (.refused, s)
    else
      let s := if drivesRails s then railEnSet r (v.getLsbD 0) s else s
      (.logged, if v.getLsbD 1 then railClear r s else s)
  else (.silent, s)

/-- A write of PACK.CTRL (R385). An origin without the expert right leaves EN as it is. -/
def packCtrl (o : Origin) (v : BitVec 32) (s : State) : Bool × State :=
  let s := if hasRight rExpert o s || o == oGov then packEnSet (v.getLsbD 0) s else s
  let s := if v.getLsbD 7 then wakeUp s else s
  let s := if v.getLsbD 6 then crAbort s else s
  let s := if v.getLsbD 3 then rearm s else s
  let q := if v.getLsbD 5 then capRunStart s else (true, s)
  let p := if v.getLsbD 4 then handoverStart q.2 else (true, q.2)
  (q.1 && p.1, p.2)

/-- A write to the GOV block outside the palette (R286, R297). -/
def govOp (off : Nat) (v : BitVec 32) (s : State) : WriteRes × State :=
  if off = 4 then
    let s := if v.getLsbD 7 then govBit 7 false s else s
    (.logged, if v.getLsbD 8 then tripW1c s else s)
  else (.logged, heartbeatIn v s)

/-- A write to the PART block (R405, R409). -/
def partOp (a : Nat) (v : BitVec 32) (s : State) : WriteRes × State :=
  match a % 0x10000 with
  | 0x8900 => (.logged, freezeSet (v.getLsbD 0) (regBit aAttrCtrl 1 (v.getLsbD 1) s))
  | 0x8904 => (.logged, if v.getLsbD 1 then attrBit 1 false s else s)
  | 0x890C => okIf (attrClear v s)
  | _ => (.logged, setReg a v s)

/-- A write of WIN.ENTRY_HI: the commit of R179 with the staged low word, or with the committed one. -/
def entryHi (o : Origin) (v : BitVec 32) (s : State) : State :=
  let w := regF (aWin 0) 20 0 s
  let lo := (mapGet none s.stagedLo o.toNat).getD (lo32 (winAt w s))
  winWrite o w (join64 v lo) { s with stagedLo := mapSet none s.stagedLo o.toNat none }

/-- A write to the WIN block (R206, R207). -/
def winOp (o : Origin) (off : Nat) (v : BitVec 32) (s : State) : WriteRes × State :=
  match off with
  | 0x0 => (.logged, setReg (aWin 0) (v &&& 0x1FFFFF) s)
  | 0x4 => (.logged, { s with stagedLo := mapSet none s.stagedLo o.toNat (some v) })
  | 0x8 => (.logged, entryHi o v s)
  | 0xC => (.logged, if v.getLsbD 1 then regBit (aWin 0xC) 1 false s else s)
  | _ => (.logged, setReg (aWin 0x10) (v &&& 0xFFFF) s)

/-- A write to the NET or LNK block (R215, R218, R236, R237, R265). -/
def netOp (o : Origin) (a : Nat) (v : BitVec 32) (s : State) : WriteRes × State :=
  if 0x21_0000 ≤ a then
    let n := (a - 0x21_0000) / 0x400
    if a % 0x400 = 0 then okIf (lnkCtrl n v s)
    else let q := lnkCmgt o n v s; (if q.1 then .logged else .silent, q.2)
  else if a = 0x20_0000 then okIf (portCtrl v s)
  else if a = 0x20_0100 then
    if !v.getLsbD 0 && s.session.any (fun e => e.2.isOpen && decide (e.1 ≠ o.toNat)) then (.refused, s)
    else (.logged, setReg a (v &&& 0xFFFF0001) s)
  else (.logged, setReg a (v &&& (match regAt a with | some r => BitVec.ofNat 32 r.rw | none => 0)) s)

/-- RST.BOOT_CTRL and RST.BOOT_WIN are served while the boot ROM boots from Ethernet, or retries after a failure (R444, R445). -/
def ethBoot (s : State) : Bool := s.rst.bootRuns && (bootSource s = 1 || s.rst.bootFail != 0)

/-- The Steward firmware starts from an image: MS3, the lock, and where it came from (R443, R446, R452). -/
def startFirmware (src copy : Nat) (img : List Byte) (s : State) : State :=
  let s := extendMs 3 (sha3 img) s
  let s := { s with att := { s.att with lock := true } }
  updRst (fun x =>
    { x with
      bootRuns := false
      steward := true
      bootSrc := BitVec.ofNat 2 src
      bootCopy := BitVec.ofNat 2 copy
      imgStarted := false
      img := [] }) s

/-- A whole image has arrived: the firmware starts, or the image is discarded (R444). -/
def imageDone (src : Nat) (s : State) : State :=
  if imageIntact 0x80_0000 s.rst.img then startFirmware src 2 s.rst.img s
  else updRst (fun x => { x with imgStarted := false, img := [] }) s

/-- A write of RST.BOOT_CTRL (R444, R452). -/
def bootCtrl (v : BitVec 32) (s : State) : Bool × State :=
  let n := fld v 23 0
  if !ethBoot s || n < 64 || 8388608 < n then (false, s)
  else
    let s := setReg 0x1_0020 (v &&& 0xFFFFFF) s
    let s := if v.getLsbD 31 then updRst (fun x => { x with imgStarted := true, imgLen := n, img := [] }) s else s
    (true, if v.getLsbD 30 && s.rst.imgStarted then
        (if s.rst.img.length = s.rst.imgLen then imageDone 1 s else updRst (fun x => { x with imgStarted := false, img := [] }) s)
      else s)

/-- A write of RST.BOOT_WIN: one word of the image, appended. -/
def bootWin (v : BitVec 32) (s : State) : Bool × State :=
  if !ethBoot s then (false, s)
  else (true, if s.rst.imgStarted then updRst (fun x => { x with img := x.img ++ leBytes 4 v.toNat }) s else s)

/-- A write of ATT.CTRL (R451, R455): a report with the staged nonce, an extension with the staged digest. -/
def attCtrl (v : BitVec 32) (s : State) : Bool × State :=
  let slot := fld v 2 0
  let staged (a : Nat) : List Byte := (List.range 8).flatMap (fun i => leBytes 4 (reg (a + 4 * i) s).toNat)
  let busy := s.att.queue.any (fun q => match q with | .register _ => true | .command _ _ _ => false)
  if (v.getLsbD 30 && decide (slot < 5)) || (v.getLsbD 31 && busy) then (false, s)
  else
    let s1 := setReg 0x6_0000 (v &&& 7) s
    let s1 := if v.getLsbD 30 then extendMs slot (BitVec.ofNat 256 (ofLe (staged 0x6_0040))) s1 else s1
    (true, if v.getLsbD 31 then
        { s1 with att := { s1.att with queue := s1.att.queue ++ [.register (BitVec.ofNat 256 (ofLe (staged 0x6_0020)))], done := false } }
      else s1)

/-- A write to the SYS, RST, BEAT or ATT block (R10, R41, R44, R452 to R455). -/
def sysOp (a : Nat) (v : BitVec 32) (s : State) : WriteRes × State :=
  let plain : WriteRes × State := (.logged, setReg a (v &&& (match regAt a with | some r => BitVec.ofNat 32 (r.rw ||| r.wo) | none => 0)) s)
  if a = 0x8 then
    if (List.range 64).all (fun n => decide (linkSt n s ≤ lsDetect)) then
      (.logged, { s with place := BitVec.ofNat 14 (fld v 15 2), pkgSet := true })
    else (.refused, s)
  else if a = 0x1_000C then (.logged, updRst (fun x => { x with sticky := x.sticky &&& ~~~(v.setWidth 11) }) s)
  else if a = 0x1_0010 then (.logged, updRst (fun x => { x with wdogAt := s.tick }) (setReg a (v &&& 0xFFFF) s))
  else if a = 0x1_0020 then okIf (bootCtrl v s)
  else if 0x1_0100 ≤ a ∧ a < 0x1_0200 then (let q := bootWin v s; (if q.1 then .silent else .refused, q.2))
  else if a = aBeatStatus then (.logged, if v.getLsbD 14 then regBit aBeatStatus 14 false s else s)
  else if a = aBeatCtrl then okIf (beatCtrl v s)
  else if a = 0x2_0100 then (.silent, setReg a (v &&& 0xFFF) s)
  else if a = 0x2_0108 then (.silent, evsFree v.toNat s)
  else if a = 0x6_0000 then okIf (attCtrl v s)
  else plain

/-- A write to REC or LOG (R418, R423, R424). A clear of the change log has its own entry. -/
def recOp (o : Origin) (a : Nat) (v : BitVec 32) (s : State) : WriteRes × State :=
  if a = aRec 0 then
    if v.getLsbD 31 then (.logged, recClear o (v.getLsbD 0) s)
    else if v.getLsbD 0 != histMode s then (.refused, s)
    else (.logged, s)
  else if a = aLog 0 then (if v.getLsbD 31 then (.silent, logClear o s) else (.logged, s))
  else if a = aRec 0x24 then (.silent, setReg a (v &&& 3) s)
  else (.silent, setReg a v s)

/-- A doorbell or mask (R260): MBX registers make no entry (R419). -/
def bellOp (a : Nat) (v : BitVec 32) (s : State) : WriteRes × State :=
  (.silent, if a % 0x10 = 0 then updReg a (fun x => x &&& ~~~v) s else maskWrite ((a - 0x3_1000) / 0x10) v s)

/-- The effect of a write that rights allow. -/
def regWriteOp (o : Origin) (a : Nat) (v : BitVec 32) (s : State) : WriteRes × State :=
  if 0x80_0000 ≤ a then (.logged, if v.getLsbD 31 then faultClear (a / 0x1000 - 0x800) s else s)
  else match palOf a with
    | some k => palWriteOp o k v s
    | none =>
      match a / 0x10000 with
      | 0x03 => bellOp a v s
      | 0x04 => recOp o a v s
      | 0x05 => recOp o a v s
      | 0x10 => govOp (a % 0x10000) v s
      | 0x11 => ctlOp o (a % 0x10000) v s
      | 0x12 => railOp (a % 0x10000) v s
      | 0x13 => if a = aPack 0 then okIf (packCtrl o v s)
        else (.logged, setReg a (v &&& (match regAt a with | some r => BitVec.ofNat 32 r.rw | none => 0)) s)
      | 0x14 => (.silent, if a % 0x10000 = 0x90 then setReg a v s else if v.getLsbD 2 then regBit a 2 false s else s)
      | 0x20 => netOp o a v s
      | 0x21 => netOp o a v s
      | 0x30 => (.logged, if a = 0x30_0000 then setReg a (v &&& 0xFFFF) s else ceClear v s)
      | 0x31 => winOp o (a % 0x10000) v s
      | 0x40 => partOp a v s
      | _ => sysOp a v s

/-! ### Writes (R12 to R15, R264, R419, R421) -/

/-- The index register of an indirect register (R420). -/
def auxOf (a : Nat) (v : BitVec 32) (s : State) : BitVec 32 :=
  if a = aCtl 0x44 || a = aCtl 0x48 then reg (aCtl 0x40) s
  else if a = aCtl 0x2C || a = aCtl 0x30 then reg (aCtl 0x28) s
  else if a = aWin 4 || a = aWin 8 then reg (aWin 0) s
  else if 0x21_0000 ≤ a && decide (a < 0x22_0000) && a % 0x400 = 0x40 then v
  else 0

/-- Perform a write and make its entry; an error response changes nothing, but a free value that it rests on is used. -/
def writeLogged (o : Origin) (a : Nat) (v : BitVec 32) (s : State) : Resp × State :=
  let q := regWriteOp o a v s
  match q.1 with
  | .logged => (.ok 0, logWrite o a (auxOf a v s) (regVal a s) v q.2)
  | .silent => (.ok 0, q.2)
  | .refused => (.error, { s with free := q.2.free })

/-- A write to a mailbox channel: its status registers are RO (R257). -/
def channelWrite (o : Origin) (a : Nat) (v : BitVec 32) (s : State) : Resp × State :=
  let c := (a - 0x3_0000) / 0x80
  let off := a % 0x80
  if off < 0x40 then msgWrite false o c (off / 4) v s
  else if off = 0x40 then ctrlWrite false o c v s
  else (.ok 0, s)

/-- GOV.HB, which ignores every origin but the rack manager (R286). -/
def aGovHb : Nat := 0x10_0044

/-- A write by an origin, without the room it may need in the change log. -/
def writeNow (o : Origin) (a : Nat) (v : BitVec 32) (s : State) : Resp × State :=
  match regAt a with
  | none => (.ok 0, report 0x51 o (BitVec.ofNat 32 a) [1] s)
  | some r =>
    if a = 0x1_0014 || (a = 0x8 && isCard s) || (a / 0x10000 = 0x13 && !isCandidate s) then (.error, s)
    else if r.readOnly then (.ok 0, s)
    else if inChannel a then channelWrite o a v s
    else if a = 0x3_1104 then ringWrite o v s
    else if a = 0x1_0000 then rstCtrl o v s
    else if a = aGovHb && o ≠ oRack then (.ok 0, s)
    else if !mayWrite o a v s then (.rights, refuseRights o (BitVec.ofNat 32 a) s)
    else writeLogged o a v s

/-- A write by an origin: held while fewer than 9 entries of the change-log intake are free (R421). -/
def ctlWrite (o : Origin) (a : Nat) (v : BitVec 32) (s : State) : Resp × State :=
  if logRoom s then writeNow o a v s
  else (.held, { s with changes := { s.changes with heldWrites := s.changes.heldWrites ++ [⟨o, BitVec.ofNat 24 a, v⟩] } })

/-- A register access as a command: the response goes to its origin. -/
def accessed (o : Origin) (a : Nat) (q : Resp × State) : State := emit (.access o (BitVec.ofNat 24 a) q.1) q.2

end Sys2Proof.Machine
end

