-- ==== Sys2Proof/Machine/Host.lean ====
section
/-! DEFINITION. Host sessions and commands (R238 to R255, R258, R451, R463): arrival, order, rights, effect and response. -/

namespace Sys2Proof.Machine

/-! ### Datagrams of a session (R238, R239, R241, R243) -/

/-- NET.DROPPED, NET.HT_RETX and NET.HT_LOST. -/
def aDropped : Nat := 0x20_003C
def aHtRetx : Nat := 0x20_0120
def aHtLost : Nat := 0x20_0124

/-- A datagram is dropped and counted. -/
def dropDatagram (s : State) : State := countReg aDropped 1 s

/-- NET.HT_CTRL.ENABLE. -/
def htOn (s : State) : Bool := regIs 0x20_0100 0 s

/-- The management address, NET.HT_MGMT_ADDR0 to NET.HT_MGMT_ADDR3. -/
def mgmtAddr (s : State) : BitVec 128 :=
  BitVec.ofNat 128 ((List.range 4).foldl (fun a i => a + (reg (0x20_0110 + 4 * i) s).toNat * 2 ^ (32 * i)) 0)

/-- An OPEN datagram: session 0 opens, or is replaced under R243, for the management address (R241). -/
def openMgmt (addr : BitVec 128) (port : BitVec 16) (seq : BitVec 32) (s : State) : State :=
  if !htOn s || addr ≠ mgmtAddr s then dropDatagram s
  else
    let s := if (sesAt 0 s).isOpen then closeSession 0 s else s
    wire (.session 0) (.openAck seq)
      (updSes 0 (fun _ => ⟨true, addr, port, 0xF, none, { Chan.fresh with rxSeq := seq + 1 }, 0, []⟩) s)

/-- OPEN (R241). -/
def execOpenSes (addr : BitVec 128) (port : BitVec 16) (seq : BitVec 32) (s : State) : Res := .next (openMgmt addr port seq s)

/-- Whether a datagram comes from the host of an open session. -/
def fromHost (ses : BitVec 16) (addr : BitVec 128) (port : BitVec 16) (s : State) : Bool :=
  let x := sesAt ses.toNat s
  htOn s && decide (ses.toNat < 64) && x.isOpen && x.addr == addr && x.port == port

/-- CLOSE (R243). -/
def execClose (ses : BitVec 16) (addr : BitVec 128) (port : BitVec 16) (s : State) : Res :=
  .next (if fromHost ses addr port s then closeSession ses.toNat s else dropDatagram s)

/-- ACK (R239). -/
def execAck (ses : BitVec 16) (addr : BitVec 128) (port : BitVec 16) (ackno : BitVec 32) (ecn : Bool) (s : State) : Res :=
  .next (if fromHost ses addr port s then chanAck (.session (BitVec.ofNat 6 ses.toNat)) ackno ecn s else dropDatagram s)

/-- Beats before the next retransmission of a datagram. -/
def retxBeats (d : TxDg) : Nat := min 64000 (1000 * 2 ^ d.retries)

/-- A sequence space is lost: a session ends; a package pair's REMOTE datagrams end as their timer would end them, and the space
opens again with what was still queued. -/
def loseSpace (sp : Space) (s : State) : State :=
  match sp with
  | .session n => countReg aHtLost 1 (closeSession n.toNat s)
  | .peer p =>
    let c := chanOf sp s
    let ids := c.unacked.filterMap (fun d => match d.msg with | .net _ x => requestId x | _ => none)
    let s := chanPump c.queued.length sp (setChan sp { Chan.fresh with queued := c.queued } s)
    forAll (s.rops.filter (fun o => ids.contains o.id && decide (o.dest = p))) timeoutOp s

/-- Whether a datagram's interval has passed without its acknowledgement. -/
def overdue (d : TxDg) (s : State) : Bool := decide (d.sentAt + retxBeats d ≤ s.tick)

/-- Send one datagram again: it is counted, its interval doubles, and the window halves. -/
def retransmit (sp : Space) (d : TxDg) (s : State) : State :=
  let c := chanOf sp s
  let c := { c with
    unacked := mapIf (fun e => decide (e.seq = d.seq)) (fun e => { e with retries := e.retries + 1, sentAt := s.tick }) c.unacked
    window := max 1 (c.window / 2) }
  countReg aHtRetx 1 (wire sp d.msg (setChan sp c s))

/-- DATAGRAM_RETRANSMIT (R239): every unacknowledged datagram of a space whose interval has passed is sent again; when one of them has been
sent again eight times the space is lost. -/
def execDatagramRetransmit (sp : Space) (s : State) : Res :=
  let late := (chanOf sp s).unacked.filter (fun d => overdue d s)
  .next (if late.any (fun d => decide (8 ≤ d.retries)) then loseSpace sp s else forAll late (retransmit sp) s)

/-! ### Which commands are served (R23, R242, R425, R430, R444, R445) -/

/-- The commands that need READ. -/
def isReadCmd : HostCmd → Bool
  | .regRead _ _ => true
  | .attest _ => true
  | _ => false

/-- SET_PACKAGE_ID. -/
def isSetId : HostCmd → Bool
  | .setPackageId _ => true
  | _ => false

/-- REG_WRITE. -/
def isRegWrite : HostCmd → Bool
  | .regWrite _ _ => true
  | _ => false

/-- Whether a command is answered with status 13: the role, a card without an identifier, an Ethernet boot. In a Steward reset the
other sessions go on. -/
def cmdGated (n : Nat) (c : HostCmd) (s : State) : Bool :=
  if s.rst.safe then !isReadCmd c
  else if isCard s && s.cardId.isNone then !(isReadCmd c || isSetId c)
  else ethBoot s && s.rst.kind != 2 && !(n == 0 && (isReadCmd c || isRegWrite c))

/-- The commands of queues, launch, jobs, barriers and windows, which the Steward serves (R23, R264). -/
def basicLevel : HostCmd → Bool
  | .queueBind _ _ => true
  | .queueUnbind _ _ => true
  | .launch _ _ => true
  | .jobCreate _ _ _ => true
  | .jobClearStop _ => true
  | .jobLeave _ => true
  | .barrierSet _ _ _ _ => true
  | .windowSet _ _ => true
  | _ => false

/-- Whether a command needs the Steward (log 37). -/
def needsSteward (c : HostCmd) : Bool := basicLevel c || (match c with | .mbxPost ch _ _ => mbxReceiver ch.toNat == 0 | _ => false)

/-- Whether a command waits for the Steward to run again: it has its supply, and its firmware does not run yet (R23, R245, R425). -/
def waitsSteward (c : HostCmd) (s : State) : Bool := !s.rst.steward && vsramOn s && needsSteward c

/-- Whether a command enters an entry of the change log itself, and so needs room there (R246, R421). -/
def logsCmd : HostCmd → Bool
  | .regRead _ _ => false
  | .regWrite _ _ => false
  | .memWrite _ _ => false
  | .memRead _ _ => false
  | .launch _ _ => false
  | .attest _ => false
  | .mbxPost _ _ _ => false
  | .unknown _ => false
  | _ => true

/-- The origin identity of a session (R244). -/
def oSes (n : Nat) : Origin := BitVec.ofNat 16 n

/-- The entry of kind 2. Its NEW field holds bytes of the payload, where a datagram brought the command; a command that came as a row of its
own has no bytes, since the spec gives its arguments no layout, and they are free (log 32). -/
def logCmd (n op : Nat) (new : Option (BitVec 64)) (s : State) : State :=
  logEntry ⟨oSes n, 2, now s, BitVec.ofNat 32 (n * 65536 + op), 0, 0, new.getD (Config.freeValue s.free), markNow s⟩
    (if new.isSome then s else useFree s)

/-- Answer with a status; a refusal for lack of rights posts its event (R264). -/
def refuse (n op : Nat) (tag : BitVec 16) (status : BitVec 8) (s : State) : State :=
  respond n tag status 0 [] (if status = 1 then refuseRights (oSes n) (BitVec.ofNat 32 op) s else s)

/-- A command that is done at once: its effect, its entry of kind 2, and status 0; or its status, with nothing changed. -/
def done (n op : Nat) (tag : BitVec 16) (new : Option (BitVec 64)) (q : BitVec 8 × State) (s : State) : State :=
  if q.1 = 0 then respond n tag 0 0 [] (logCmd n op new q.2) else refuse n op tag q.1 s

/-- Whether a session is bound to a partition. -/
def boundTo (n : Nat) (p : BitVec 4) (s : State) : Bool := (sesAt n s).part == some p

/-- The first status whose test fails; 0 when none does. -/
def firstOf : List (Bool × BitVec 8) → BitVec 8
  | [] => 0
  | (b, st) :: r => if b then st else firstOf r

/-- An effect behind its checks. -/
def checked (l : List (Bool × BitVec 8)) (t : State) : BitVec 8 × State := (firstOf l, t)

/-! ### Sessions and tiles (R241 to R243, R250, R251) -/

/-- OPEN_SESSION. -/
def openSessionOp (n : Nat) (m : BitVec 6) (addr : BitVec 128) (port : BitVec 16) (part : Option (BitVec 4)) (rights : BitVec 4)
    (s : State) : BitVec 8 × State :=
  checked [(n != 0, 1), (m == 0 || (sesAt m.toNat s).isOpen, 2)]
    (updSes m.toNat (fun _ => ⟨true, addr, port, rights, part, Chan.fresh, 0, []⟩) s)

/-- CLOSE_SESSION. -/
def closeSessionOp (n : Nat) (m : BitVec 6) (s : State) : BitVec 8 × State :=
  checked [(n != 0, 1), (m == 0 || !(sesAt m.toNat s).isOpen, 2)] (closeSession m.toNat s)

/-- SET_PACKAGE_ID, once per reset (R242). -/
def setIdOp (n : Nat) (id : PkgId) (s : State) : BitVec 8 × State :=
  checked [(!isCard s, 13), (n != 0, 1), (s.pkgSet, 2)] { s with cardId := some id, pkgSet := true }

/-- ASSIGN_TILES. No tile is assigned before cold initialisation ends (R174). -/
def assignOp (n : Nat) (p : BitVec 4) (map : BitVec 1024) (s : State) : BitVec 8 × State :=
  let ts := onesOf map
  checked [(n != 0, 1), (map == 0, 10), (!memInitDone s || ts.any (fun t => clearing t s), 4),
      (ts.any (fun t => match ownerOf t s with | some q => q != p.toNat | none => false), 8)]
    (forAll ts (fun t => updTile t (fun x => { x with part := p, assigned := true })) s)

/-- A tile leaves its partition and its clearing starts (R173): its windows close, and nothing of it comes back. Its STATE and QUEUE go on
showing how its last kernel ended (R84, R251), and its last remote-error record stays the last (R204). -/
def releaseTile (t : Nat) (s : State) : State :=
  let s := updTile t (fun x =>
    { Tile.zero with
      fault := x.fault
      st := if x.st = 7 ∨ x.st = 8 then x.st else 0
      queue := x.queue
      lastErrRec := x.lastErrRec }) (dropOps true t s)
  regBit (0x30_0040 + 4 * (t / 32)) (t % 32) true { s with window := mapClear s.window (t * 2048) ((t + 1) * 2048) }

/-- The queues whose running kernel runs on one of the tiles. -/
def queuesRunning (map : BitVec 1024) (s : State) : List Nat :=
  (s.queue.filter (fun e => match e.2.running with
    | some k => (onesOf (k.d.tiles &&& map)).any (fun t => tileBusy (tileAt t s))
    | none => false)).map (·.1)

/-- RELEASE_TILES: a kernel that runs on a named tile is stopped first, on all of its tiles (R488). -/
def releaseOp (n : Nat) (p : BitVec 4) (map : BitVec 1024) (s : State) : BitVec 8 × State :=
  let ts := onesOf map
  checked [(n != 0, 1), (map == 0, 10),
      (ts.any (fun t => match ownerOf t s with | some q => q != p.toNat | none => false), 8)]
    (forAll (ts.filter (fun t => ownerOf t s == some p.toNat)) releaseTile
      (forAll (queuesRunning map s) (fun q => kernelStop q none) s))

/-! ### Queues and launch (R246, R252) -/

/-- QUEUE_BIND. -/
def bindOp (n : Nat) (p : BitVec 4) (q : BitVec 8) (s : State) : BitVec 8 × State :=
  let x := queueAt q.toNat s
  checked [(!boundTo n p s, 1), (x.part.isSome && x.part != some p, 2)]
    (if x.part = some p then s else updQueue q.toNat (fun x => { x with part := some p }) s)

/-- QUEUE_UNBIND. -/
def unbindOp (n : Nat) (p : BitVec 4) (q : BitVec 8) (s : State) : BitVec 8 × State :=
  let x := queueAt q.toNat s
  checked [(!boundTo n p s, 1), (x.part != some p || x.running.isSome || !x.posted.isEmpty, 2)]
    (updQueue q.toNat (fun _ => Queue.zero) s)

/-- The checks of LAUNCH, in the order of R252. -/
def launchChecks (n : Nat) (p : BitVec 4) (d : LaunchDesc) (s : State) : List (Bool × BitVec 8) :=
  let ts := onesOf d.tiles
  let len := d.imageLen.toNat
  [(!boundTo n p s, 1), ((queueAt d.queue.toNat s).part != some p, 2),
   (d.flags.toNat / 2 != 0 || d.imageOff.toNat % 64 != 0 || decide (0x800_0000 < d.imageOff.toNat + 8 * len) || len == 0, 2),
   (decide (8192 < len), 9), (d.tiles == 0, 10), (ts.any (fun t => ownerOf t s != some p.toNat), 8),
   ((match jobOfPart p.toNat s with | some j => jobStopped j s | none => false), 7),
   (ts.any (fun t => (tileAt t s).fault.valid), 5), (decide (16 ≤ (queueAt d.queue.toNat s).posted.length), 3),
   (feedRefused s, 13)]

/-- LAUNCH posts a kernel. -/
def launchOp (n : Nat) (tag : BitVec 16) (p : BitVec 4) (d : LaunchDesc) (s : State) : State :=
  updQueue d.queue.toNat (fun x => { x with posted := x.posted ++ [⟨oSes n, tag, p, d⟩] }) s

/-- LAUNCH, which enters no entry. -/
def launchCmd (n : Nat) (tag : BitVec 16) (p : BitVec 4) (d : LaunchDesc) (s : State) : State :=
  let st := firstOf (launchChecks n p d s)
  if st = 0 then respond n tag 0 0 [] (launchOp n tag p d s) else refuse n 0x24 tag st s

/-! ### Jobs and barriers (R254, R255, R463) -/

/-- JOB_CREATE. A job that another partition of the package is in keeps its member list, which must be the same (log 33). -/
def jobCreateOp (n : Nat) (p : BitVec 4) (j : BitVec 16) (ms : List PkgId) (s : State) : BitVec 8 × State :=
  let known := jobAt j s
  let same := match known with
    | some x => x.members.all (fun m => ms.contains m) && ms.all (fun m => x.members.contains m)
    | none => true
  checked [(!boundTo n p s, 1), (j == 0xFFFF || ms.isEmpty || decide (4096 < ms.length) || !ms.contains (pkgId s), 2),
      ((jobOfPart p.toNat s).isSome || !same, 2)]
    (updPart p.toNat (fun x => { x with job := some j })
      (if known.isSome then s else { s with jobs := s.jobs ++ [⟨j, ms, false, 0, [], []⟩] }))

/-- Deconfigure every barrier group of a partition. -/
def dropGroups (p : Nat) (s : State) : State := { s with group := mapClear s.group (16 * p) (16 * p + 16) }

/-- JOB_LEAVE: a job that no partition of the package is in is forgotten. -/
def jobLeaveOp (n : Nat) (p : BitVec 4) (s : State) : BitVec 8 × State :=
  match jobOfPart p.toNat s with
  | none => checked [(!boundTo n p s, 1), (true, 2)] s
  | some j =>
    let t := dropGroups p.toNat (updPart p.toNat (fun x => { x with job := none }) s)
    checked [(!boundTo n p s, 1), (jobStopped j s, 7), ((queuesOf p.toNat s).any (fun q => (queueAt q s).running.isSome), 2)]
      (if (partsOfJob j t).isEmpty then { t with jobs := t.jobs.filter (fun x => decide (x.num ≠ j)) } else t)

/-- BARRIER_SET. -/
def barrierSetOp (n : Nat) (p : BitVec 4) (g : BitVec 8) (map : BitVec 1024) (ms : List PkgId) (s : State) : BitVec 8 × State :=
  let k := groupKey p.toNat g.toNat
  let waits := (tilesOfPart p.toNat s).any (fun t => match (tileAt t s).wait with
    | .barrier h => h.toNat == g.toNat
    | .drainBarrier h => h.toNat == g.toNat
    | _ => false)
  let inJob := match (jobOfPart p.toNat s).bind (fun j => jobAt j s) with
    | some x => ms.all (fun m => x.members.contains m)
    | none => false
  checked [(!boundTo n p s, 1), (decide (16 ≤ g.toNat) || waits, 2),
      (map != 0 && ((onesOf map).any (fun t => ownerOf t s != some p.toNat) || !inJob || !ms.contains (pkgId s)), 2)]
    { s with group := mapSet Group.zero s.group k (if map = 0 then Group.zero else { Group.zero with tiles := map, members := ms }) }

/-- The members of a job that have not reported it stopped to this package: all but itself and those that have left (R463). -/
def unreported (x : Job) (s : State) : List PkgId :=
  x.members.filter (fun m => decide (m ≠ pkgId s) && !x.left.contains m)

/-- Clear a job stop (R31). DESIGN CHOICE: the package forgets the leaving notices it holds for the job; the spec does not say how long a
notice is held (log 47). -/
def clearStop (j : BitVec 16) (s : State) : State := updJob j (fun x => { x with stopped := false, unacked := [], left := [] }) s

/-- JOB_CLEAR_STOP ends: with status 6, or with the clear once every member has reported, when the change log has room. -/
def endClear (ok : Bool) (c : ClearStop) (s : State) : State :=
  let s := { s with clears := s.clears.filter (fun d => d != c) }
  if ok then respond c.ses.toNat c.tag 0 0 [] (logCmd c.org.toNat 0x2A c.new (clearStop c.job s)) else respond c.ses.toNat c.tag 6 0 [] s

/-- Every JOB_CLEAR_STOP that waits for no member any more. -/
def readyClears (s : State) : State :=
  forAll (s.clears.filter (fun c => c.waiting.isEmpty)) (fun c s => if logRoom s then endClear true c s else s) s

/-- JOB_CLEAR_STOP begins: every other member is queried, and the command waits (R463). -/
def clearStopOp (n : Nat) (tag : BitVec 16) (new : Option (BitVec 64)) (p : BitVec 4) (s : State) : State :=
  match jobOfPart p.toNat s with
  | none => refuse n 0x2A tag (if boundTo n p s then 2 else 1) s
  | some j =>
    match jobAt j s with
    | none => refuse n 0x2A tag (if boundTo n p s then 2 else 1) s
    | some x =>
      if !boundTo n p s then refuse n 0x2A tag 1 s
      else if !x.stopped then refuse n 0x2A tag 6 s
      else
        let s1 := { s with clears := s.clears ++ [⟨oSes n, oSes n, new, tag, j, s.tick, unreported x s⟩] }
        readyClears (forAll (x.members.filter (fun m => decide (m ≠ pkgId s))) (toMember (.stopQuery j)) s1)

/-- A member's query (R463): a package that has the job answers. -/
def queryIn (src : PkgId) (j : BitVec 16) (s : State) : State :=
  if (jobAt j s).isSome then toMember (.stopAnswer j (jobStopped j s)) src s else s

/-- A member reports the job stopped, or not (R463). -/
def stopReportIn (src : PkgId) (j : BitVec 16) (stopped : Bool) (s : State) : State :=
  let mine := (match jobAt j s with | some x => isMember src x | none => false)
  let cs := s.clears.filter (fun c => decide (c.job = j))
  if !mine then s
  else if stopped then
    readyClears { s with clears := mapIf (fun c => decide (c.job = j)) (fun c => { c with waiting := c.waiting.filter (· ≠ src) }) s.clears }
  else forAll cs (endClear false) s

/-! ### Windows, palettes, attestation (R246, R319, R451) -/

/-- WINDOW_SET: its checks in order, the write, and the answer once BUSY clears. -/
def windowSetOp (n : Nat) (tag : BitVec 16) (w : BitVec 32) (e : BitVec 64) (s : State) : State :=
  let t := winTile w.toNat
  let st := firstOf [(decide (2 ^ 21 ≤ w.toNat), 2), (clearing t s, 4), ((ownerOf t s).isNone, 8),
    ((sesAt n s).part.map (·.toNat) != ownerOf t s, 1), (!weClean e, 2)]
  if st ≠ 0 then refuse n 0x2D tag st s
  else
    let s := winWrite (oSes n) w.toNat e s
    if regIs (aWin 0xC) 0 s then { s with windowWaits := s.windowWaits ++ [(oSes n, tag)] } else respond n tag 0 0 [] s

/-- A palette entry set by a command: an entry commit (R319). -/
def paletteOp (n : Nat) (bad : BitVec 8) (k : Nat) (v : BitVec 32) (s : State) : BitVec 8 × State :=
  (bad, entryCommit (oSes n) k v s)

/-- SET_CAP and SET_ENVELOPE: session 0, and a value of the 16-bit field (R295). -/
def wattsOp (n k : Nat) (w : BitVec 32) (s : State) : BitVec 8 × State :=
  paletteOp n (firstOf [(n != 0, 1), (decide (0xFFFF < w.toNat), 2)]) k w s

/-- SET_PHASE_POINT. -/
def pointOp (n : Nat) (p tag op : BitVec 8) (l : BitVec 16) (s : State) : BitVec 8 × State :=
  paletteOp n (firstOf [(!mayPoint (oSes n) p.toNat s, 1),
      (decide (16 ≤ p.toNat) || decide (16 ≤ tag.toNat) || decide (8 ≤ op.toNat) || decide (0x1FF < l.toNat), 2)])
    (0x40 + 16 * p.toNat + tag.toNat) (BitVec.ofNat 32 (op.toNat * 65536 + l.toNat)) s

/-- Commands that wait in the attestation engine. -/
def attPending (s : State) : Nat :=
  (s.att.queue.filter (fun q => match q with | .command _ _ _ => true | .register _ => false)).length

/-- ATTEST: queued, or status 3 behind eight others. -/
def attestOp (n : Nat) (tag : BitVec 16) (nonce : BitVec 256) (s : State) : State :=
  if !hasRight rRead (oSes n) s then refuse n 0x38 tag 1 s
  else if 8 ≤ attPending s then refuse n 0x38 tag 3 s
  else { s with att := { s.att with queue := s.att.queue ++ [.command (oSes n) tag nonce] } }

/-! ### Registers and memory by command (R246, R247) -/

/-- The status of a register access that did not succeed. -/
def respStatus : Resp → BitVec 8
  | .ok _ => 0
  | .rights => 1
  | .busError => 11
  | .poweredDown => 12
  | _ => 2

/-- Read `k` registers from an address: the status, the values read, and the state. An address beyond the control space is an error. -/
def readRegs (o : Origin) : Nat → Nat → State → BitVec 8 × List (BitVec 32) × State
  | _, 0, s => (0, [], s)
  | a, k + 1, s =>
    if a % 4 ≠ 0 || 2 ^ 24 ≤ a then (2, [], s)
    else
      let q := ctlRead o a s
      match q.1 with
      | .ok v => let r := readRegs o (a + 4) k q.2; (r.1, v :: r.2.1, r.2.2)
      | x => (respStatus x, [], q.2)

/-- REG_READ. -/
def regReadOp (n : Nat) (tag : BitVec 16) (a count : Nat) (s : State) : State :=
  if !hasRight rRead (oSes n) s then refuse n 0x10 tag 1 s
  else if count = 0 ∨ 64 < count then refuse n 0x10 tag 2 s
  else
    let r := readRegs (oSes n) a count s
    respond n tag r.1 r.2.1.length (r.2.1.flatMap (fun v => leBytes 4 v.toNat)) r.2.2

/-- Write registers from an address: none with a held access, or the status; how many were written; the state. A held access leaves
nothing behind but what was written before it. -/
def writeRegs (o : Origin) : Nat → List (BitVec 32) → State → Option (BitVec 8) × Nat × State
  | _, [], s => (some 0, 0, s)
  | a, v :: l, s =>
    if a % 4 ≠ 0 || 2 ^ 24 ≤ a then (some 2, 0, s)
    else
      let q := ctlWrite o a v s
      if q.1 = .held then (none, 0, s)
      else if respStatus q.1 ≠ 0 then (some (respStatus q.1), 0, q.2)
      else let r := writeRegs o (a + 4) l q.2; (r.1, r.2.1 + 1, r.2.2)

/-- REG_WRITE from its `k`-th register on; a held write holds the command there. -/
def regWriteCmd (k n : Nat) (tag : BitVec 16) (a : Nat) (vals : List (BitVec 32)) (s : State) : Option Nat × State :=
  if !hasRight rExpert (oSes n) s then (none, refuse n 0x11 tag 1 s)
  else if vals.isEmpty ∨ 64 < vals.length then (none, refuse n 0x11 tag 2 s)
  else
    let r := writeRegs (oSes n) (a + 4 * k) (vals.drop k) s
    match r.1 with
    | some st => (none, respond n tag st (if st = 0 then 0 else k + r.2.1) [] r.2.2)
    | none => (some (k + r.2.1), r.2.2)

/-- MEM_WRITE and MEM_READ: a session bound to a partition; its rights at the target are those of R182. -/
def memOp (k : RKind) (op n : Nat) (tag : BitVec 16) (ga : BitVec 64) (len : Nat) (data : List Byte) (s : State) : State :=
  if (sesAt n s).part.isNone then refuse n op tag 1 s
  else if len = 0 then respond n tag 0 0 [] s
  else if ga.toNat / 2 ^ 53 ≠ 0 ∨ 8176 < len ∨ 65536 < ga.toNat % 65536 + len then refuse n op tag 2 s
  else sessionOp k n tag ga.toNat len data s

/-! ### MBX_POST (R246, R258, R259, R263) -/

/-- MBX_POST: the message is staged and posted as one act. A compatibility message is eight registers and its go bit is set. The status
is none where the command must be held (R263, R421). -/
def mbxPostOp (n : Nat) (ch : Nat) (dest : BitVec 7) (msg : List (BitVec 32)) (s : State) : Option (BitVec 8) × State :=
  let o := oSes n
  let fail (st : BitVec 8) (cause : Nat) : Option (BitVec 8) × State := (some st, mbxErr o ch cause s)
  if 32 ≤ ch then (some 2, s)
  else
    let compat := isCompat ch s
    if !(if compat then hasRight rLegacy o s else hasRight rBasic o s && maySend ch o s) then fail 1 3
    else if !mbxPowered ch s then (if compat then (none, s) else fail 12 2)
    else if compat && !logRoom s then (none, s)
    else if (mbxAt ch s).full then fail 11 1
    else if !compat && (msg.length < 8 || 16 < msg.length) then fail 2 6
    else
      let m := if compat then (List.range 8).map (fun i => if i = 7 then msg.getD 7 0 ||| 0x80000000 else msg.getD i 0) else msg
      let s1 := updStaged o ch (fun x => { x with
        regs := mapSetAll 0 [] ((List.range m.length).map (fun i => (i, m.getD i 0)))
        len := BitVec.ofNat 4 (m.length - 8)
        dest := dest }) s
      let q := postStaged o ch s1
      (some (respStatus q.1), if compat then logWrite o (aMbx ch 0x1C) 0 0 (m.getD 7 0) q.2 else q.2)

/-- MBX_POST with its answer, or held. -/
def mbxPostCmd (n : Nat) (tag : BitVec 16) (ch : Nat) (dest : BitVec 7) (msg : List (BitVec 32)) (s : State) : Option Nat × State :=
  let q := mbxPostOp n ch dest msg s
  match q.1 with
  | none => (some 0, q.2)
  | some st => (none, refuse n 0x40 tag st q.2)

/-! ### Order of commands (R245) -/

/-- Run one command of session `n` from its `k`-th access. `some` is a command held there; otherwise it has begun. -/
def runCmd (n : Nat) (tag : BitVec 16) (new : Option (BitVec 64)) (k : Nat) (c : HostCmd) (s : State) : Option Nat × State :=
  match c with
  | .openSession m addr port part rights => (none, done n 0x01 tag new (openSessionOp n m addr port part rights s) s)
  | .closeSession m => (none, done n 0x02 tag new (closeSessionOp n m s) s)
  | .setPackageId id => (none, done n 0x03 tag new (setIdOp n id s) s)
  | .regRead a count => (none, regReadOp n tag a.toNat count s)
  | .regWrite a vals => regWriteCmd k n tag a.toNat vals s
  | .memWrite ga data => (none, memOp .put 0x18 n tag ga data.length data s)
  | .memRead ga count => (none, memOp .get 0x19 n tag ga count [] s)
  | .assignTiles p map => (none, done n 0x20 tag new (assignOp n p map s) s)
  | .releaseTiles p map => (none, done n 0x21 tag new (releaseOp n p map s) s)
  | .queueBind p q => (none, done n 0x22 tag new (bindOp n p q s) s)
  | .queueUnbind p q => (none, done n 0x23 tag new (unbindOp n p q s) s)
  | .launch p d => (none, launchCmd n tag p d s)
  | .jobCreate p j ms => (none, done n 0x28 tag new (jobCreateOp n p j ms s) s)
  | .jobClearStop p => (none, clearStopOp n tag new p s)
  | .jobLeave p => (none, done n 0x2B tag new (jobLeaveOp n p s) s)
  | .barrierSet p g map ms => (none, done n 0x2C tag new (barrierSetOp n p g map ms s) s)
  | .windowSet w e => (none, windowSetOp n tag w e s)
  | .setCap w => (none, done n 0x30 tag new (wattsOp n 2 w s) s)
  | .setPhasePoint p pt op l => (none, done n 0x31 tag new (pointOp n p pt op l s) s)
  | .setEnvelope w => (none, done n 0x32 tag new (wattsOp n 5 w s) s)
  | .attest nonce => (none, attestOp n tag nonce s)
  | .mbxPost ch dest msg => mbxPostCmd n tag ch.toNat dest msg s
  | .unknown op => (none, refuse n op.toNat tag 2 s)

/-- Begin a command, unless it must wait for the Steward or for room in the change log, or is refused for the role or the state. `some`
is what is held: a command that has begun or has not. -/
def beginCmd (n : Nat) (w : Waiting) (s : State) : Option Waiting × State :=
  if cmdGated n w.cmd s then (none, respond n w.tag 13 0 [] s)
  else if waitsSteward w.cmd s then (some w, s)
  else if basicLevel w.cmd && !vsramOn s then (none, respond n w.tag 13 0 [] s)
  else if logsCmd w.cmd && !logRoom s then (some w, s)
  else
    let q := runCmd n w.tag w.new w.past w.cmd s
    (q.1.map (fun k => { w with past := k, begun := true }), q.2)

/-- Whether a command of the session waits for its own end: WINDOW_SET or JOB_CLEAR_STOP. -/
def sesBlocked (n : Nat) (s : State) : Bool :=
  s.windowWaits.any (fun w => decide (w.1.toNat = n)) || s.clears.any (fun c => decide (c.ses.toNat = n))

/-- Start the waiting commands of a session in order, until one waits. -/
def pumpSes : Nat → Nat → State → State
  | 0, _, s => s
  | k + 1, n, s =>
    match (sesAt n s).waiting with
    | [] => s
    | w :: rest =>
      if sesBlocked n s then s
      else
        let q := beginCmd n w (updSes n (fun x => { x with waiting := rest }) s)
        match q.1 with
        | some w => updSes n (fun x => { x with waiting := w :: x.waiting }) q.2
        | none => pumpSes k n q.2

/-- Go on with a command that had begun and was held when its session ended (R243): it runs with the rights that the session had, and
nobody is answered. What is held again stays among the orphans. -/
def orphanRun (n : Nat) (x : Session) (w : Waiting) (s : State) : State :=
  let cur := sesAt n s
  let s := updSes n (fun y => { y with rights := x.rights, part := x.part }) s
  let q : Option Nat × State := match w.cmd with
    | .regWrite a vals =>
      let r := writeRegs (oSes n) (a.toNat + 4 * w.past) (vals.drop w.past) s
      (if r.1.isSome then none else some (w.past + r.2.1), r.2.2)
    | .mbxPost ch dest msg =>
      let r := mbxPostOp n ch.toNat dest msg s
      (if r.1.isSome then none else some 0, r.2)
    | _ => (none, s)
  let s := if (sesAt n q.2).isOpen = cur.isOpen then updSes n (fun y => { y with rights := cur.rights, part := cur.part }) q.2 else q.2
  match q.1 with
  | some k => { s with orphans := s.orphans ++ [(n, x, { w with past := k })] }
  | none => s

/-- Go on with every orphan. -/
def pumpOrphans (s : State) : State := forAll s.orphans (fun e s => orphanRun e.1 e.2.1 e.2.2 s) { s with orphans := [] }

/-- Start what waits in every session. -/
def pumpAll (s : State) : State :=
  forAll (s.session.map (fun e => (e.1, e.2.waiting.length))) (fun e s => pumpSes e.2 e.1 s) (pumpOrphans (readyClears s))

/-- A command of a session (R241, R245): dropped for a session that is not open, answered with status 3 as the 65th, else started or
put behind the session's other commands. -/
def cmdTake (n : Nat) (tag : BitVec 16) (new : Option (BitVec 64)) (c : HostCmd) (s : State) : State :=
  let x := sesAt n s
  if !htOn s || 64 ≤ n || !x.isOpen then dropDatagram s
  else if 64 ≤ x.cmds then hostSend n (.response tag 3 0 []) s
  else pumpAll (updSes n (fun x => { x with cmds := x.cmds + 1, waiting := x.waiting ++ [⟨tag, 0, false, new, c⟩] }) s)

/-- A command that comes as a row of its own (log 34). -/
def cmdIn (h : CmdHdr) (c : HostCmd) (s : State) : State := cmdTake h.ses.toNat h.tag none c s

/-! ### The payload of a COMMAND datagram (R245, R246) -/

/-- The opcode of a command. -/
def opcodeOf : HostCmd → Nat
  | .openSession _ _ _ _ _ => 0x01 | .closeSession _ => 0x02 | .setPackageId _ => 0x03 | .regRead _ _ => 0x10 | .regWrite _ _ => 0x11
  | .memWrite _ _ => 0x18 | .memRead _ _ => 0x19 | .assignTiles _ _ => 0x20 | .releaseTiles _ _ => 0x21 | .queueBind _ _ => 0x22
  | .queueUnbind _ _ => 0x23 | .launch _ _ => 0x24 | .jobCreate _ _ _ => 0x28 | .jobClearStop _ => 0x2A | .jobLeave _ => 0x2B
  | .barrierSet _ _ _ _ => 0x2C | .windowSet _ _ => 0x2D | .setCap _ => 0x30 | .setPhasePoint _ _ _ _ => 0x31 | .setEnvelope _ => 0x32
  | .attest _ => 0x38 | .mbxPost _ _ _ => 0x40 | .unknown op => op.toNat

/-- Bytes `lo` to `hi` of a payload, little-endian; a byte beyond its end is zero. -/
def payloadF (bs : List Byte) (hi lo : Nat) : Nat := ofLe (padTo (hi + 1 - lo) (bs.drop lo))

/-- The command of a payload: the opcode picks it, and MEM_WRITE and MEM_READ have the layouts of R246. For the others the spec gives the
arguments no layout, so the datagram brings them decoded; a payload that spells no command is a bad argument (log 34). -/
def cmdOf (d : Datagram) : HostCmd :=
  let bs := d.payload
  let op := payloadF bs 1 0
  let ga := BitVec.ofNat 64 (payloadF bs 15 8)
  let bad := HostCmd.unknown (BitVec.ofNat 16 op)
  if op = 0x18 then (if payloadF bs 7 4 = 0 then .memWrite ga (bs.drop 16) else bad)
  else if op = 0x19 then (if payloadF bs 7 6 = 0 then .memRead ga (payloadF bs 5 4) else bad)
  else match d.cmd with
    | some c => if opcodeOf c = op then c else bad
    | none => bad

/-- A COMMAND datagram in its turn. -/
def commandIn (n : Nat) (d : Datagram) (s : State) : State :=
  cmdTake n (BitVec.ofNat 16 (payloadF d.payload 3 2)) (some (BitVec.ofNat 64 (payloadF d.payload 11 4))) (cmdOf d) s

/-- OPEN_SESSION (R241). -/
def execOpenSession (h : CmdHdr) (n : BitVec 6) (addr : BitVec 128) (port : BitVec 16) (part : Option (BitVec 4))
    (rights : BitVec 4) (s : State) : Res := .next (cmdIn h (.openSession n addr port part rights) s)
/-- CLOSE_SESSION (R243). -/
def execCloseSession (h : CmdHdr) (n : BitVec 6) (s : State) : Res := .next (cmdIn h (.closeSession n) s)
/-- SET_PACKAGE_ID (R242). -/
def execSetPackageId (h : CmdHdr) (id : PkgId) (s : State) : Res := .next (cmdIn h (.setPackageId id) s)
/-- REG_READ (R246). -/
def execRegRead (h : CmdHdr) (addr : BitVec 32) (count : Nat) (s : State) : Res := .next (cmdIn h (.regRead addr count) s)
/-- REG_WRITE (R246). -/
def execRegWrite (h : CmdHdr) (addr : BitVec 32) (vals : List (BitVec 32)) (s : State) : Res :=
  .next (cmdIn h (.regWrite addr vals) s)
/-- MEM_WRITE (R246). -/
def execMemWrite (h : CmdHdr) (ga : BitVec 64) (data : List Byte) (s : State) : Res := .next (cmdIn h (.memWrite ga data) s)
/-- MEM_READ (R246). -/
def execMemRead (h : CmdHdr) (ga : BitVec 64) (count : Nat) (s : State) : Res := .next (cmdIn h (.memRead ga count) s)
/-- ASSIGN_TILES (R251). -/
def execAssignTiles (h : CmdHdr) (part : BitVec 4) (map : BitVec 1024) (s : State) : Res := .next (cmdIn h (.assignTiles part map) s)
/-- RELEASE_TILES (R251). -/
def execReleaseTiles (h : CmdHdr) (part : BitVec 4) (map : BitVec 1024) (s : State) : Res :=
  .next (cmdIn h (.releaseTiles part map) s)
/-- QUEUE_BIND (R246). -/
def execQueueBind (h : CmdHdr) (part : BitVec 4) (q : BitVec 8) (s : State) : Res := .next (cmdIn h (.queueBind part q) s)
/-- QUEUE_UNBIND (R246). -/
def execQueueUnbind (h : CmdHdr) (part : BitVec 4) (q : BitVec 8) (s : State) : Res := .next (cmdIn h (.queueUnbind part q) s)
/-- LAUNCH (R252). -/
def execLaunch (h : CmdHdr) (part : BitVec 4) (d : LaunchDesc) (s : State) : Res := .next (cmdIn h (.launch part d) s)
/-- JOB_CREATE (R254). -/
def execJobCreate (h : CmdHdr) (part : BitVec 4) (job : BitVec 16) (members : List PkgId) (s : State) : Res :=
  .next (cmdIn h (.jobCreate part job members) s)
/-- JOB_CLEAR_STOP (R463). -/
def execJobClearStop (h : CmdHdr) (part : BitVec 4) (s : State) : Res := .next (cmdIn h (.jobClearStop part) s)
/-- JOB_LEAVE (R254). -/
def execJobLeave (h : CmdHdr) (part : BitVec 4) (s : State) : Res := .next (cmdIn h (.jobLeave part) s)
/-- BARRIER_SET (R255). -/
def execBarrierSet (h : CmdHdr) (part : BitVec 4) (g : BitVec 8) (map : BitVec 1024) (members : List PkgId) (s : State) : Res :=
  .next (cmdIn h (.barrierSet part g map members) s)
/-- WINDOW_SET (R246). -/
def execWindowSet (h : CmdHdr) (w : BitVec 32) (e : BitVec 64) (s : State) : Res := .next (cmdIn h (.windowSet w e) s)
/-- SET_CAP (R319). -/
def execSetCap (h : CmdHdr) (watts : BitVec 32) (s : State) : Res := .next (cmdIn h (.setCap watts) s)
/-- SET_PHASE_POINT (R319). -/
def execSetPhasePoint (h : CmdHdr) (part tag op : BitVec 8) (l : BitVec 16) (s : State) : Res :=
  .next (cmdIn h (.setPhasePoint part tag op l) s)
/-- SET_ENVELOPE (R319). -/
def execSetEnvelope (h : CmdHdr) (watts : BitVec 32) (s : State) : Res := .next (cmdIn h (.setEnvelope watts) s)
/-- ATTEST (R451). -/
def execAttest (h : CmdHdr) (nonce : BitVec 256) (s : State) : Res := .next (cmdIn h (.attest nonce) s)
/-- MBX_POST (R258). -/
def execMbxPost (h : CmdHdr) (ch : BitVec 8) (dest : BitVec 7) (msg : List (BitVec 32)) (s : State) : Res :=
  .next (cmdIn h (.mbxPost ch dest msg) s)

/-! ### What lets waiting commands go on -/

/-- WINDOW_DRAIN_END: every operation that passed under the earlier value has been applied (R179), those that wait for the end of
self-refresh among them; the commands that waited for BUSY are answered. -/
def execWindowDrainEnd (s : State) : Res :=
  .next (if s.passed.isEmpty then
      pumpAll (forAll s.windowWaits (fun w => respond w.1.toNat w.2 0 0 [])
        (regBit (aWin 0xC) 0 false { s with windowWaits := [] }))
    else s)

/-- JOB_STOP_QUERY. -/
def execJobStopQuery (src : PkgId) (job : BitVec 16) (s : State) : Res := .next (queryIn src job s)

/-- JOB_STOP_ANSWER. -/
def execJobStopAnswer (src : PkgId) (job : BitVec 16) (stopped : Bool) (s : State) : Res :=
  .next (pumpAll (stopReportIn src job stopped s))

/-- JOB_CLEAR_STOP_TIMEOUT: 10,000 beats without a report from some member. -/
def execJobClearStopTimeout (job : BitVec 16) (s : State) : Res :=
  .next (pumpAll (forAll (s.clears.filter (fun c => decide (c.job = job) && !c.waiting.isEmpty && decide (c.since + 10000 ≤ s.tick)))
    (endClear false) s))

/-- COMPAT_HELD_RELEASE (R263). -/
def execCompatHeldRelease (s : State) : Res := .next (pumpAll (compatRelease s))

/-- Writes held for room in the change log take effect in order while it lasts (R421). -/
def heldWrites : Nat → State → State
  | 0, s => s
  | k + 1, s =>
    match s.changes.heldWrites with
    | [] => s
    | h :: r =>
      if logRoom s then
        heldWrites k (accessed h.origin h.addr.toNat
          (writeNow h.origin h.addr.toNat h.value { s with changes := { s.changes with heldWrites := r } }))
      else s

/-- CHANGE_HOLD_RELEASE (R421). -/
def execChangeHoldRelease (s : State) : Res := .next (pumpAll (heldWrites s.changes.heldWrites.length s))

end Sys2Proof.Machine
end

