-- ==== Sys2Proof/Machine/Varnish.lean ====
section
/-! DEFINITION. The Varnish die: measurement, save records, feed frames, seal link, service frames, legal log, self-check and
queries (R387 to R400, R450). -/

namespace Sys2Proof.Machine

/-- Change the Varnish die. -/
def updVrn (f : Varnish → Varnish) (s : State) : State := { s with varnish := f s.varnish }

/-- Flags of R392. -/
def fSeal : Nat := 0
def fRange : Nat := 1
def fReverse : Nat := 2
def fFree : Nat := 3
def fLogFull : Nat := 4
def fFault : Nat := 5
def fTorn : Nat := 6

/-- Set a feed flag. -/
def vFlag (i : Nat) (b : Bool) (s : State) : State := updVrn (fun v => { v with flags := setBit v.flags i b }) s

/-- CUM_UJ (R390) and the operating time in µs. -/
def cumUj (s : State) : Nat := s.varnish.acc / 16000
def opTimeUs (s : State) : Nat := s.varnish.optime / 2

/-- The legal software in force: version and hash (R397). -/
def legalSw (s : State) : BitVec 16 × BitVec 256 := s.varnish.sw.getD Config.varnishSoftware

/-- A parameter in force (R396). -/
def vParam (i : Nat) (s : State) : BitVec 32 := (mapGet none s.varnish.params i).getD (Config.varnishParam i)

/-! ### The legal log (R398) -/

/-- Records that the log holds. -/
def legalMax : Nat := 1024

/-- Write a legal record, or count the event when the log is full. -/
def legal (type : Byte) (payload : List Byte) (s : State) : State :=
  let v := s.varnish
  let n := v.log.length
  if legalMax ≤ n then updVrn (fun v => { v with lost := satAdd v.lost 1 }) s
  else
    let q := BitVec.ofNat 32 n
    vFlag fLogFull (decide (legalMax ≤ n + 1)) (updVrn (fun v => { v with
      log := v.log ++ [⟨q, type, BitVec.ofNat 64 (opTimeUs s), payload⟩], uncarried := v.uncarried ++ [q] }) s)

/-- The bytes of a legal record: the header of R410, origin 0x6000, OPTIME first. -/
def legalBytes (x : LegalRec) : List Byte := recordBytes x.seq x.type oVarnish (leBytes 8 x.optime.toNat ++ x.payload)

/-- The record with a sequence number. -/
def legalAt (q : Nat) (s : State) : Option LegalRec := s.varnish.log.find? (fun x => decide (x.seq.toNat = q))

/-! ### Measurement (R389) -/

/-- VARNISH_SAMPLE: one sample adds its energy; a current below zero adds nothing; FAULT stops the accumulator (R399). -/
def execVarnishSample (mV mA : Int) (s : State) : Res :=
  if !s.varnish.supply then .next s
  else
    let range := mA < 200 ∨ 60000 < mA ∨ mV < 40000 ∨ 60000 < mV
    let s := updVrn (fun v => { v with
      optime := v.optime + 125, vSum := v.vSum + mV, iSum := v.iSum + mA, samples := v.samples + 1,
      acc := if mA < 0 || v.flags.getLsbD fFault then v.acc else v.acc + (mV * mA).toNat }) s
    .next (if mA < 0 then vFlag fReverse true s else if range then vFlag fRange true s else s)

/-! ### Save records (R390) -/

/-- Places of the save area, and places of a sector. -/
def savePlaces : Nat := 8192
def saveSector : Nat := 128

/-- The newest valid record, with its place. -/
def newestSave (s : State) : Option (Nat × SaveRec) :=
  (s.varnish.saves.filter (fun e => e.2.ok)).foldl (fun m e =>
    match m with
    | none => some e
    | some x => if !(e.2.seq - x.2.seq).getLsbD 31 then some e else some x) none

/-- A record that holds nothing. -/
def saveNone : SaveRec := ⟨0, 0, 0, false⟩

/-- Save CUM_UJ and the operating time in the next place; TORN clears. -/
def saveNow (s : State) : State :=
  let seq := match newestSave s with | some e => e.2.seq + 1 | none => 0
  vFlag fTorn false (updVrn (fun v => { v with
    saves := mapSet saveNone v.saves v.place ⟨seq, cumUj s, opTimeUs s, true⟩, place := (v.place + 1) % savePlaces }) s)

/-- VARNISH_SAVE: every 60 s of operating time. -/
def execVarnishSave (s : State) : Res :=
  let last := match newestSave s with | some e => e.2.optime | none => 0
  .next (if s.varnish.supply && decide (last / 60000000 < opTimeUs s / 60000000) then saveNow s else s)

/-- VARNISH_SUPPLY_WARN: a save at once, and its record (R390, R398). -/
def execVarnishSupplyWarn (s : State) : Res :=
  .next (if s.varnish.supply then let s := saveNow s; legal 0x02 (leBytes 8 (cumUj s)) s else s)

/-- Whether sector `k` holds nothing. -/
def sectorEmpty (k : Nat) (s : State) : Bool := !s.varnish.saves.any (fun e => decide (e.1 / saveSector = k % 64))

/-- The sector that the next save goes to. -/
def saveAt (s : State) : Nat := s.varnish.place / saveSector

/-- SECTOR_ERASE: with fewer than two erased sectors ahead, the oldest is erased. -/
def execSectorErase (s : State) : Res :=
  let n := saveAt s
  let ahead := ((List.range 63).takeWhile (fun i => sectorEmpty (n + 1 + i) s)).length
  if s.varnish.supply && decide (ahead < 2) then
    let k := (n + 1 + ahead) % 64
    .next (updVrn (fun v => { v with saves := mapClear v.saves (k * saveSector) ((k + 1) * saveSector) }) s)
  else .next s

/-- VARNISH_START (R388, R390, R396, R398, R399): Varnish resumes from the newest valid record, a software change comes into
force, and the start is logged. Causes: 1 power-up, 2 VRST_N, 3 software change. -/
def execVarnishStart (cause : Byte) (s : State) : Res :=
  let new := newestSave s
  let place := match new with | some e => (e.1 + 1) % savePlaces | none => 0
  let torn := match mapGet saveNone s.varnish.saves place with | x => decide (x ≠ saveNone) && !x.ok
  let up := match new with | some e => e.2.optime * 2 | none => 0
  let s := updVrn (fun v => { v with
    supply := true, acc := (match new with | some e => e.2.cum * 16000 | none => 0),
    optime := up, marked := false, markAt := up, cutAt := up, vSum := 0, iSum := 0, samples := 0, fseq := 0,
    flags := setBit (setBit (setBit (setBit v.flags fRange false) fReverse false) fFree false) fTorn torn,
    starts := v.starts + 1, place := if torn then (place + 1) % savePlaces else place, checkStart := true, sealBad := 0,
    sealGood := 0, cycle := 0, sw := (match v.swNext with | some x => some x | none => v.sw), swNext := none,
    reply := none, part := [] }) s
  .next (legal 0x01 ([cause] ++ leBytes 8 (cumUj s) ++ (digestBytes (legalSw s).2).take 8) s)

/-! ### The feed (R391, R392, R394) -/

/-- A mean of `n` samples: exact where it is whole; its rounding is not stated, so the last unit is free, and so is the mean of
no sample (log 30). -/
def meanOf (sum : Int) (n : Nat) (s : State) : Int × State :=
  if n = 0 then ((Config.freeValue s.free).toInt, useFree s)
  else if sum % (n : Int) = 0 then (sum / (n : Int), s)
  else (sum / (n : Int) + (b2n (Config.freeBool s.free) : Nat), useFree s)

/-- The record that the next frame carries: the oldest not yet carried, else the next of a cycle through the log. -/
def carried (s : State) : Option LegalRec × State :=
  let v := s.varnish
  match v.uncarried with
  | q :: r => (legalAt q.toNat s, updVrn (fun v => { v with uncarried := r }) s)
  | [] =>
    if v.log.isEmpty then (none, s)
    else
      let k := if v.cycle < v.log.length then v.cycle else 0
      (legalAt k s, updVrn (fun v => { v with cycle := k + 1 }) s)

/-- Cut a feed interval and send its frame. -/
def cutFeed (s : State) : State :=
  let va := meanOf s.varnish.vSum s.varnish.samples s
  let ia := meanOf va.2.varnish.iSum va.2.varnish.samples va.2
  let c := carried ia.2
  let s := c.2
  let v := s.varnish
  let body := leBytes 4 v.fseq.toNat ++ leBytes 8 (cumUj s) ++ leBytes 4 (ofI32 va.1).toNat ++ leBytes 4 (ofI32 ia.1).toNat ++
    leBytes 4 v.flags.toNat ++ leBytes 4 v.log.length ++ leBytes 4 v.lost.toNat ++ leBytes 8 Config.varnishSerial.toNat ++
    leBytes 4 v.starts.toNat ++ leBytes 4 (match c.1 with | some x => x.seq.toNat | none => 0xFFFFFFFF) ++
    leBytes 8 (opTimeUs s) ++ leBytes 4 (legalSw s).1.toNat ++ leBytes 4 0 ++
    padTo 56 (match c.1 with | some x => legalBytes x | none => []) ++ leBytes 4 0
  emit (.feed (withCrc body)) (updVrn (fun v => { v with
    vSum := 0, iSum := 0, samples := 0, fseq := v.fseq + 1, cutAt := v.optime, flags := setBit (setBit v.flags fRange false) fReverse false }) s)

/-- The rising edge of VMARK, at FRAC 0 of a beat with BEAT[5:0] = 0 (R35, R387). -/
def vmarkEdge (s : State) : State :=
  emit .vmark (if s.varnish.supply then updVrn (fun v => { v with marked := true, markAt := v.optime }) s else s)

/-- VMARK_CUT: Varnish cuts at the edge that has come (R391). -/
def execVmarkCut (s : State) : Res :=
  .next (if s.varnish.supply && s.varnish.marked then
    cutFeed (vFlag fFree false (updVrn (fun v => { v with marked := false }) s)) else s)

/-- FREE_CUT: no edge for 192 µs by Varnish's clock, so Varnish cuts every 64 µs on its own timer (R391). The clock stands within the
62.5 µs after the last sample. -/
def execFreeCut (s : State) : Res :=
  let v := s.varnish
  .next (if v.supply && !v.marked && decide (v.markAt + 384 < v.optime + 125) && decide (v.cutAt + 128 < v.optime + 125) then
    cutFeed (vFlag fFree true s) else s)

/-! ### Seal link and service frames (R395, R396) -/

/-- Whether the seal link is broken. -/
def sealBroken (s : State) : Bool := s.varnish.flags.getLsbD fSeal

/-- SEAL_TEST: three failed tests break it, a hundred good ones restore it. -/
def execSealTest (ok : Bool) (s : State) : Res :=
  if !s.varnish.supply then .next s
  else
    let s := updVrn (fun v => { v with sealBad := if ok then 0 else v.sealBad + 1, sealGood := if ok then v.sealGood + 1 else 0 }) s
    if 3 ≤ s.varnish.sealBad && !sealBroken s then
      .next (legal 0x03 [] (updVrn (fun v => { v with sealChanges := 0 }) (vFlag fSeal true s)))
    else if 100 ≤ s.varnish.sealGood && sealBroken s then
      .next (legal 0x04 (leBytes 2 s.varnish.sealChanges) (vFlag fSeal false s))
    else .next s

/-- Whether two log records are free (R396). -/
def twoFree (s : State) : Bool := decide (s.varnish.log.length + 2 ≤ legalMax)

/-- A refusal frame. -/
def refuseFrame (s : State) : State := emit (.serviceReply false) s

/-- An accepted change is counted. -/
def changeDone (s : State) : State :=
  updVrn (fun v => { v with changes := satAdd v.changes 1, sealChanges := v.sealChanges + 1 }) s

/-- SET_PARAM: logged first, then applied; only while the link is broken. An identifier that is no parameter is refused. -/
def execSetParam (id : Byte) (val : BitVec 32) (tool : BitVec 64) (s : State) : Res :=
  let i := id.toNat
  if !s.varnish.supply || !sealBroken s then .next s
  else if !twoFree s || i < 1 || 6 < i then .next (refuseFrame s)
  else
    let s := legal 0x05 ([id] ++ leBytes 4 (vParam i s).toNat ++ leBytes 4 val.toNat ++ leBytes 8 tool.toNat) s
    .next (changeDone (updVrn (fun v => { v with params := mapSet none v.params i (some val) }) s))

/-- SW_BLOCK: 256 bytes of the inactive image slot. -/
def execSwBlock (idx : BitVec 16) (data : List Byte) (s : State) : Res :=
  if !s.varnish.supply || !sealBroken s then .next s
  else .next (updVrn (fun v => { v with image := mapSetAll 0 v.image ((padTo 256 data).zipIdx.map (fun e => (256 * idx.toNat + e.2, e.1))) }) s)

/-- SW_COMMIT: the image's hash must match; the new software runs from the next start. -/
def execSwCommit (len : BitVec 32) (hash : BitVec 256) (ver : BitVec 16) (_tool : BitVec 64) (s : State) : Res :=
  if !s.varnish.supply || !sealBroken s then .next s
  else if !twoFree s || sha3 ((List.range len.toNat).map (mapGet 0 s.varnish.image)) != hash then .next (refuseFrame s)
  else
    let s := legal 0x06 (leBytes 2 (legalSw s).1.toNat ++ leBytes 2 ver.toNat ++ (digestBytes hash).take 16) s
    .next (changeDone (updVrn (fun v => { v with swNext := some (ver, hash) }) s))

/-- SELF_CHECK (R399): a failure stops the accumulator and is logged once; a start that passes clears the flag. -/
def execSelfCheck (ok : Bool) (code : BitVec 16) (s : State) : Res :=
  if !s.varnish.supply then .next s
  else
    let first := s.varnish.checkStart
    let s := updVrn (fun v => { v with checkStart := false }) s
    if ok then .next (if first then vFlag fFault false s else s)
    else if s.varnish.flags.getLsbD fFault then .next s
    else .next (legal 0x07 (leBytes 2 code.toNat) (vFlag fFault true s))

/-! ### Queries (R400, R450) -/

/-- Words of a 64-bit value. -/
def words64 (v : Nat) : List (BitVec 32) := [BitVec.ofNat 32 v, BitVec.ofNat 32 (v / 2 ^ 32)]

/-- The name "VRN-L". -/
def vrnName : List Byte := padTo 8 [0x56, 0x52, 0x4E, 0x2D, 0x4C]

/-- Post a reply on channel 15 and release channel 14, or keep it for the retries. -/
def sendReply (r : List (BitVec 32)) (s : State) : State :=
  if (mbxAt 15 s).full then
    updVrn (fun v => { v with
      reply := some r, replySince := if v.reply.isSome then v.replySince else s.tick, retryAt := s.tick }) s
  else
    let s := mbxTake 15 oVarnish r (updVrn (fun v => { v with reply := none }) s)
    mbxRelease 14 s

/-- The query that waits on channel 14. -/
def queryMsg (s : State) : Option (List (BitVec 32)) :=
  let m := mbxAt 14 s
  if m.full && s.varnish.supply && s.varnish.reply.isNone then some m.msg else none

/-- MSG0 of a reply. -/
def replyHead (m0 : BitVec 32) (status : Nat) : BitVec 32 :=
  BitVec.ofNat 32 (fld m0 31 16 * 65536 + status * 256 + fld m0 7 0)

/-- A reply message of 8 to 16 registers. -/
def replyMsg (m0 : BitVec 32) (status : Nat) (body : List (BitVec 32)) : List (BitVec 32) :=
  let l := (replyHead m0 status :: body).take 16
  l ++ List.replicate (8 - l.length) 0

/-- Answer the waiting query if its code is `code`; a code of no query is answered with status 1, and a tag that is reserved to
the attestation engine with status 2. `f` gives the status, the registers and the state. -/
def answer (code : Nat) (f : List (BitVec 32) → State → Nat × List (BitVec 32) × State) (s : State) : State :=
  match queryMsg s with
  | none => s
  | some m =>
    let m0 := m.getD 0 0
    if m0.getLsbD 31 then sendReply (replyMsg m0 2 []) s
    else if fld m0 7 0 = code then let q := f m s; sendReply (replyMsg m0 q.1 q.2.1) q.2.2
    else if fld m0 7 0 = 0 ∨ 5 < fld m0 7 0 then sendReply (replyMsg m0 1 []) s
    else s

/-- QUERY_STATUS. -/
def execQueryStatus (dieTemp : BitVec 32) (s : State) : Res :=
  .next (answer 1 (fun _ s =>
    let v := s.varnish
    (0, words64 (cumUj s) ++ words64 (cumUj s / 3600000) ++ words64 (opTimeUs s) ++
      [BitVec.ofNat 32 v.log.length, v.lost, v.starts, v.flags, dieTemp], s)) s)

/-- QUERY_RECORD. -/
def execQueryRecord (s : State) : Res :=
  .next (answer 2 (fun m s =>
    match legalAt (m.getD 1 0).toNat s with
    | some x => (0, wordsOf 14 (padTo 56 (legalBytes x)), s)
    | none => (2, [], s)) s)

/-- QUERY_IDENT. -/
def execQueryIdent (s : State) : Res :=
  .next (answer 3 (fun _ s =>
    (0, wordsOf 2 vrnName ++ [(legalSw s).1.setWidth 32] ++ wordsOf 8 (digestBytes (legalSw s).2) ++ words64 Config.varnishSerial.toNat, s)) s)

/-- QUERY_PARAMS. -/
def execQueryParams (s : State) : Res :=
  .next (answer 4 (fun _ s => (0, (List.range 6).map (fun i => vParam (i + 1) s) ++ [s.varnish.changes], s)) s)

/-- The Varnish part of R450 for a nonce. -/
def signPart (nonce : List Byte) (s : State) : List Byte × State :=
  let v := s.varnish
  let body := leBytes 2 1 ++ leBytes 2 0 ++ padTo 32 nonce ++ leBytes 8 Config.varnishSerial.toNat ++ leBytes 8 (cumUj s) ++
    leBytes 8 (opTimeUs s) ++ leBytes 2 (legalSw s).1.toNat ++ leBytes 2 v.flags.toNat ++ vrnName ++
    digestBytes (legalSw s).2 ++ digestBytes (sha3 ((Config.varnishCertificate.drop 16).take 1312)) ++
    leBytes 4 v.log.length ++ leBytes 4 v.lost.toNat
  (body ++ padTo 2420 (Config.varnishSignature s.free body), useFree s)

/-- Chunk `k` of a byte string, 60 bytes in 15 registers. -/
def chunk60 (k : Nat) (bs : List Byte) : List (BitVec 32) := wordsOf 15 (padTo 60 ((bs.drop (60 * (k - 1))).take 60))

/-- QUERY_ATTEST (R450): sign a new part, or return a chunk of the part or of the certificate. -/
def execQueryAttest (s : State) : Res :=
  .next (answer 5 (fun m s =>
    let a := fld (m.getD 1 0) 15 0
    if a = 0 then
      let q := signPart (((m.drop 2).take 8).flatMap (fun w => leBytes 4 w.toNat)) s
      (0, [BitVec.ofNat 32 q.1.length], updVrn (fun v => { v with part := q.1 }) q.2)
    else if a ≤ 43 then (0, chunk60 a s.varnish.part, s)
    else if 0x8000 < a ∧ a ≤ 0x803F then (0, chunk60 (a - 0x8000) Config.varnishCertificate, s)
    else (2, [], s)) s)

/-- REPLY_RETRY: every 100 µs while channel 15 is full. -/
def execReplyRetry (s : State) : Res :=
  match s.varnish.reply with
  | some r => .next (if s.varnish.retryAt + 100 ≤ s.tick then sendReply r s else s)
  | none => .next s

/-- REPLY_DROP: after 10 ms the reply is dropped and channel 14 released. -/
def execReplyDrop (s : State) : Res :=
  if s.varnish.reply.isSome && decide (s.varnish.replySince + 10000 ≤ s.tick) then
    .next (mbxRelease 14 (updVrn (fun v => { v with reply := none }) s))
  else .next s

end Sys2Proof.Machine
end

