-- ==== Sys2Proof/Machine/Boot.lean ====
section
/-! DEFINITION. Option loading, boot and attestation (R430, R433 to R435, R442 to R451). -/

namespace Sys2Proof.Machine

/-! ### Option loading (R434, R435) -/

/-- Whether an entry is skipped: it addresses ATT, VAR, WIN, LOG, TILE, CTL.COMMIT, CTL.PROG_DATA_LO or HI, or no register. -/
def optSkips (a : Nat) : Bool :=
  [0x04, 0x06, 0x14, 0x31].contains (a / 0x10000) || decide (0x80_0000 ≤ a) || a == aCtl 8 || a == aCtl 0x2C || a == aCtl 0x30 ||
    (regAt a).isNone

/-- Set a palette entry in both palettes. -/
def palBoth (k : Nat) (v : BitVec 32) (s : State) : State := let x := palWritten k v s; setInact k x (setAct k x s)

/-- A write to a mailbox channel with origin 0x4000 and no rights check. COMPAT so set returns at a warm reset (R262). -/
def optChannel (a : Nat) (v : BitVec 32) (s : State) : State :=
  let c := (a - 0x3_0000) / 0x80
  let off := a % 0x80
  let s := if off = 0x40 && decide (28 ≤ c) then
      updRst (fun x => { x with optCompat := setBit x.optCompat (c - 28) (v.getLsbD 28) })
        (updMbx c (fun m => { m with compat := v.getLsbD 28 }) s)
    else s
  if !mbxPowered c s then mbxErr oGov c 2 s
  else if off < 0x40 then updStaged oGov c (fun x => { x with regs := mapSet 0 x.regs (off / 4) v }) s
  else if off = 0x40 then
    let s := updStaged oGov c (fun x => { x with len := BitVec.ofNat 4 (fld v 3 0), dest := BitVec.ofNat 7 (fld v 22 16) }) s
    if v.getLsbD 31 && !isCompat c s then (postStaged oGov c s).2 else s
  else s

/-- RST.CTRL as an option entry writes it: the phase bits act; a warm or Steward source fires and is discarded (R427). -/
def optRstCtrl (v : BitVec 32) (s : State) : State :=
  let s := if v.getLsbD 2 then updRst (fun x => { x with phase := 2 }) s
    else if v.getLsbD 3 then updRst (fun x => { x with phase := 1 }) s else s
  let fire (i src : Nat) (s : State) : State := if v.getLsbD i then fireSource src s else s
  fire 30 6 (fire 29 8 (fire 28 10 s))

/-- One entry that is not skipped: a write with origin 0x4000, without rights and without a change-log entry. -/
def optWrite (a : Nat) (v : BitVec 32) (s : State) : State :=
  match palOf a with
  | some k => palBoth k v s
  | none =>
    if a = aCtl 0x44 then palBoth (regF (aCtl 0x40) 10 0 s) v s
    else if a = 0x1_0000 then optRstCtrl v s
    else if a = aRstOpt then setReg a (v &&& 0xF3) s
    else if a = aRec 0 then regBit a 0 (v.getLsbD 0) s
    else if a = 0x3_1104 then
      (let b := fld v 4 0
       if 24 ≤ b ∧ b ≤ 27 then (ringGo oGov b (fld v 22 16) s).2 else (mbxErr oGov b 3 s))
    else if inChannel a then optChannel a v s
    else match regAt a with
      | some r =>
        if r.readOnly || (a = 0x8 && isCard s) || (a / 0x10000 = 0x13 && !isCandidate s) then s
        else
          let q := regWriteOp oGov a v s
          if q.1 == .refused then s else q.2
      | none => s

/-- Apply the entries in order. A write of RST.CTRL.COLD is a cold source, which starts loading again: the flag is then true. -/
def optApply : List Byte → Nat → State → Bool × State
  | _, 0, s => (false, s)
  | bs, n + 1, s =>
    let a := wordAt bs 0
    let v := BitVec.ofNat 32 (wordAt bs 4)
    if optSkips a then optApply (bs.drop 8) n (updRst (fun x => { x with skipped := x.skipped + 1 }) s)
    else if a = 0x1_0000 && v.getLsbD 31 then (true, coldReset 4 s)
    else optApply (bs.drop 8) n (optWrite a v s)

/-- Every RAIL.CTRL.EN takes its bit of RAIL_AUTO; SLOT 1 and the safe role keep 0. -/
def railAuto (s : State) : State :=
  let m := regF aRstOpt 7 4 s
  forAll [0, 1, 2, 3] (fun r s => railEnSet r ((BitVec.ofNat 4 m).getLsbD r && !isSlot1 s && !s.rst.safe) s) s

/-- Option loading is complete. -/
def optDone (src : BitVec 2) (digest : BitVec 256) (s : State) : State :=
  let old := optStatus s
  let s := updRst (fun x =>
    { x with
      optSrc := src
      optDigest := digest
      loading := false
      optDone := true }) s
  releaseBlocks (railAuto (logHw 4 0x1_0018 (old.setWidth 64) ((optStatus s).setWidth 64) s))

/-- The end of option loading with the copy used, if any: its entries, then the completion. -/
def optLoaded (copy : Option (Nat × List Byte)) (s : State) : State :=
  match copy with
  | none => optDone 3 0 s
  | some (k, bs) =>
    let q := optApply (bs.drop 32) ((bs.length - 32) / 8) s
    if q.1 then q.2 else optDone (BitVec.ofNat 2 k) (sha3 bs) q.2

/-- OPTION_LOAD_DONE (R434). -/
def execOptionLoadDone (s : State) : Res := .next (if s.rst.loading then optLoaded (optUsed s) s else s)

/-! ### Boot (R442 to R446) -/

/-- The boot ROM loads the microcode: MS2, and the ports may leave reset. -/
def loadMicro (s : State) : State :=
  match microImage s with
  | some x => releaseBlocks (updRst (fun r => { r with micro := true }) (extendMs 2 (sha3 x.2) s))
  | none => s

/-- The boot ROM starts the Steward firmware from flash. -/
def loadSteward (s : State) : State :=
  match stewardImage s with
  | some x => startFirmware 0 x.1 x.2 s
  | none => s

/-- BOOT_IMAGE_LOADED (R443): the microcode always from flash, the Steward image from flash where BOOTSRC says so. -/
def execBootImageLoaded (micro : Bool) (s : State) : Res :=
  .next (if !s.rst.bootRuns then s
    else if micro then (if s.rst.micro then s else loadMicro s)
    else if bootSource s = 0 && s.rst.micro then pumpAll (loadSteward s)
    else s)

/-- A CL2 packet of a boot, before a link numbers it. -/
def bootFrame (dst : PkgId) (m : NetMsg) (s : State) : LinkFrame := ⟨0, 0, false, true, 2, pkgId s, dst, some m, 0, 0⟩

/-- BOOT_REQUEST_PERIOD (R444): a boot request on link 0 once it carries traffic, every 1 s. What had arrived of an image is dropped. -/
def execBootRequestPeriod (s : State) : Res :=
  let due := match s.rst.bootReqAt with | some b => decide (b + 1000000 ≤ s.tick) | none => true
  .next (if s.rst.bootRuns && bootSource s = 2 && linkUsable 0 s && due then
      linkSend 0 acctIdle (bootFrame (farPkg 0 s) .bootRequest s)
        (updRst (fun x => { x with img := [], bootReqAt := some s.tick }) s)
    else s)

/-- The parts of an image of `k` packets and more, the last one marked. -/
def bootParts : Nat → List Byte → List NetMsg
  | 0, _ => []
  | k + 1, bs => if bs.length ≤ 512 then [.boot true bs] else .boot false (bs.take 512) :: bootParts k (bs.drop 512)

/-- A boot request of the partner across link `n` (R444): running firmware answers with its own intact image. -/
def bootRequestIn (n : Nat) (src : PkgId) (s : State) : State :=
  if !s.rst.steward then s
  else match stewardImage s with
    | some x =>
      forAll (bootParts (x.2.length / 512 + 1) x.2) (fun m s => linkSend n acctIdle (bootFrame src m s) s) s
    | none => s

/-- A boot packet (R444). -/
def bootPacketIn (last : Bool) (data : List Byte) (s : State) : State :=
  if s.rst.bootRuns && bootSource s = 2 then
    let s := updRst (fun x => { x with img := x.img ++ data }) s
    if last then imageDone 2 s else s
  else s

/-- BOOT_PACKET. -/
def execBootPacket (last : Bool) (data : List Byte) (s : State) : Res := .next (pumpAll (bootPacketIn last data s))

/-- The boot failure that holds now, as a code of RST.BOOT_STATUS.FAIL (R445). -/
def bootFailure (s : State) : BitVec 4 :=
  let late := decide (s.rst.bootAt + 60000000 ≤ s.tick)
  if !s.rst.micro && (microImage s).isNone then 4
  else if bootSource s = 0 then (if (stewardImage s).isNone then 1 else 0)
  else if !late then 0
  else if bootSource s = 1 then 2 else 3

/-- BOOT_FAILURE (R445): the code is held and the phase is RECOVERY. -/
def execBootFailure (s : State) : Res :=
  let f := bootFailure s
  .next (if s.rst.bootRuns && s.rst.bootFail == 0 && f != 0 then
      updRst (fun x =>
        { x with
          bootFail := f
          phase := 3
          bootAt := s.tick }) s
    else s)

/-- BOOT_RETRY (R445): every 10 s after a failure the boot ROM tries the whole boot again. -/
def execBootRetry (s : State) : Res :=
  .next (if s.rst.bootRuns && s.rst.bootFail != 0 && decide (s.rst.bootAt + 10000000 ≤ s.tick) then
      let s := updRst (fun x => { x with bootAt := s.tick }) s
      let s := if s.rst.micro then s else loadMicro s
      if bootSource s = 0 && s.rst.micro then pumpAll (loadSteward s) else s
    else s)

/-! ### Attestation (R448 to R451) -/

/-- The report of R449 for a nonce, signature apart: everything before the Varnish part, and the part. -/
def reportBody (nonce : BitVec 256) (part : List Byte) (s : State) : List Byte :=
  let len := 388 + part.length + 2420
  leBytes 2 1 ++ leBytes 2 len ++ leBytes 32 nonce.toNat ++ leBytes 8 (now s).toNat ++ leBytes 2 (pkgId s).toNat ++
    leBytes 2 (fld (strapsReg s) 15 0) ++ padTo 16 (Config.certificate.take 16) ++
    digestBytes (sha3 ((Config.certificate.drop 16).take 1312)) ++ leBytes 4 (causeReg s).toNat ++ leBytes 4 s.rst.sticky.toNat ++
    leBytes 4 (bootStatus s).toNat ++ leBytes 4 (optStatus s).toNat ++
    leBytes 4 (b2n part.isEmpty + 2 * b2n (syncState s == 2)) ++ List.replicate 12 0 ++
    (List.range 8).flatMap (fun k => digestBytes (mapGet 0 s.att.ms k)) ++ leBytes 2 part.length ++ leBytes 2 0 ++ part

/-- The signed report: the Varnish part is absent when Varnish has no supply. -/
def reportFor (nonce : BitVec 256) (s : State) : List Byte × State :=
  let q := if s.varnish.supply then signPart (leBytes 32 nonce.toNat) s else ([], s)
  let body := reportBody nonce q.1 q.2
  (body ++ padTo 2420 (Config.signature q.2.free body), useFree q.2)

/-- ATTEST_REPORT_DONE (R451): the first request is answered. -/
def execAttestReportDone (s : State) : Res :=
  match s.att.queue with
  | [] => .next s
  | q :: rest =>
    let s := { s with att := { s.att with queue := rest } }
    match q with
    | .command ses tag nonce => let r := reportFor nonce s; .next (respond ses.toNat tag 0 0 r.1 r.2)
    | .register nonce =>
      let r := reportFor nonce s
      .next { r.2 with att := { r.2.att with report := r.1, done := true } }

end Sys2Proof.Machine
end

