-- ==== Sys2Proof/Machine/Access.lean ====
section
/-! DEFINITION. The commands that are one access to one register: each builds the word that the access carries and makes it. The
access does what any access to that register does, and its response goes to its origin. -/

namespace Sys2Proof.Machine

/-- A 32-bit write as a command. -/
def wr (o : Origin) (a : Nat) (v : BitVec 32) (s : State) : State := accessed o a (ctlWrite o a v s)

/-- What an origin's read of MBX.CTRL shows of COMPAT and of its own LEN and DEST, so that a write can leave them as they are. -/
def mbxCtrlNow (o : Origin) (c : Nat) (s : State) : BitVec 32 :=
  BitVec.ofNat 32 (b2n (mbxAt c s).compat * 2 ^ 28 + (stagedAt o c s).dest.toNat * 65536 + (stagedAt o c s).len.toNat)

/-- PACK.CTRL with one bit set; EN stays as it is where the origin may write it (R384). -/
def packWord (o : Origin) (bit : BitVec 32) (s : State) : BitVec 32 :=
  if hasRight rExpert o s then setBit bit 0 (regIs (aPack 0) 0 s) else bit

/-- REGISTER_WRITE: only a naturally aligned 32-bit access is accepted (R12, R15). -/
def execRegisterWrite (o : Origin) (addr : BitVec 24) (width : Nat) (v : BitVec 32) (s : State) : Res := .next (pumpAll (if width = 32 ∧ addr.toNat % 4 = 0 then wr o addr.toNat v s else accessed o addr.toNat (.error, s)))

/-- LOW_WORD_READ (R14). -/
def execLowWordRead (o : Origin) (addr : BitVec 24) (s : State) : Res := .next (if addr.toNat % 4 = 0 then accessed o addr.toNat (ctlRead o addr.toNat s) else accessed o addr.toNat (.error, s))

/-- PLACE_WRITE: SYS.PKG_ID (R10). -/
def execPlaceWrite (o : Origin) (v : BitVec 32) (s : State) : Res := .next (wr o (0x8) (v) s)

/-- FAULT_VALID_CLEAR: TILE.FAULT of a tile (R85). -/
def execFaultValidClear (o : Origin) (t : TileId) (s : State) : Res := .next (wr o (0x80_0008 + 0x1000 * t.toNat) (0x80000000) s)

/-- ENTRY_LO_STAGE: WIN.ENTRY_LO (R206). -/
def execEntryLoStage (o : Origin) (v : BitVec 32) (s : State) : Res := .next (wr o (aWin 4) (v) s)

/-- ENTRY_HI_COMMIT: WIN.ENTRY_HI (R179). -/
def execEntryHiCommit (o : Origin) (v : BitVec 32) (s : State) : Res := .next (wr o (aWin 8) (v) s)

/-- CE_CLEAR: MEM.CE_CLEAR (R170). -/
def execCeClear (o : Origin) (v : BitVec 32) (s : State) : Res := .next (wr o (0x30_0014) (v) s)

/-- RETRAIN: LNK.CTRL as it stands, with RETRAIN (R215). -/
def execRetrain (o : Origin) (n : LinkId) (s : State) : Res := .next (wr o (aLnk n.toNat 0) (regVal (aLnk n.toNat 0) s ||| 0x10) s)

/-- LINK_DISABLE_WRITE: LNK.CTRL (R215). -/
def execLinkDisableWrite (o : Origin) (n : LinkId) (v : BitVec 32) (s : State) : Res := .next (wr o (aLnk n.toNat 0) (v) s)

/-- CMGT_GO: LNK.CMGT (R218, R235). -/
def execCmgtGo (o : Origin) (n : LinkId) (v : BitVec 32) (s : State) : Res := .next (wr o (aLnk n.toNat 0x40) (v ||| 0x80000000) s)

/-- PORT_ENABLE_WRITE: NET.PORT_CTRL (R237). -/
def execPortEnableWrite (o : Origin) (v : BitVec 32) (s : State) : Res := .next (wr o (0x20_0000) (v) s)

/-- STEP_NOW: BEAT.CTRL as it stands, with STEP_NOW (R41). -/
def execStepNow (o : Origin) (s : State) : Res := .next (wr o (aBeatCtrl) (regVal aBeatCtrl s ||| 2) s)

/-- EVS_FREE: BEAT.EVS_FREE (R44). -/
def execEvsFree (o : Origin) (v : BitVec 32) (s : State) : Res := .next (wr o (0x2_0108) (v) s)

/-- MBX_MSG_STAGE: MBX.MSGk (R257). -/
def execMbxMsgStage (o : Origin) (ch : BitVec 5) (k : BitVec 4) (v : BitVec 32) (s : State) : Res := .next (wr o (aMbx ch.toNat (4 * k.toNat)) (v) s)

/-- MBX_GO: MBX.CTRL with GO (R258). -/
def execMbxGo (o : Origin) (ch : BitVec 5) (v : BitVec 32) (s : State) : Res := .next (wr o (aMbx ch.toNat 0x40) (v ||| 0x80000000) s)

/-- MBX_RELEASE: MBX.CTRL with RELEASE (R257). -/
def execMbxRelease (o : Origin) (ch : BitVec 5) (s : State) : Res := .next (wr o (aMbx ch.toNat 0x40) (mbxCtrlNow o ch.toNat s ||| 0x40000000) s)

/-- MBX_COMPAT_WRITE: MBX.CTRL with COMPAT (R262). -/
def execMbxCompatWrite (o : Origin) (ch : BitVec 5) (on : Bool) (s : State) : Res := .next (wr o (aMbx ch.toNat 0x40) (setBit (mbxCtrlNow o ch.toNat s) 28 on) s)

/-- COMPAT_POST: MBX.MSG7 with its go bit (R263). -/
def execCompatPost (o : Origin) (ch : BitVec 5) (v : BitVec 32) (s : State) : Res := .next (wr o (aMbx ch.toNat 0x1C) (v ||| 0x80000000) s)

/-- MBX_RING: MBX.RING (R261). -/
def execMbxRing (o : Origin) (v : BitVec 32) (s : State) : Res := .next (wr o (0x3_1104) (v) s)

/-- MBX_MASK_WRITE: MBX.MASK of a receiver (R260). -/
def execMbxMaskWrite (o : Origin) (r : BitVec 3) (v : BitVec 32) (s : State) : Res := .next (wr o (aMask r.toNat) (v) s)

/-- HT_ENABLE_WRITE: NET.HT_CTRL (R265). -/
def execHtEnableWrite (o : Origin) (v : BitVec 32) (s : State) : Res := .next (wr o (0x20_0100) (v) s)

/-- TRIP_CLEAR: GOV.STATUS.TRIP (R278). -/
def execTripClear (o : Origin) (s : State) : Res := .next (wr o (aGovStatus) (0x100) s)

/-- HEARTBEAT: GOV.HB (R286). -/
def execHeartbeat (o : Origin) (v : BitVec 32) (s : State) : Res := .next (wr o (0x10_0044) (v) s)

/-- PROG_DATA_LO: CTL.PROG_DATA_LO (R311). -/
def execProgDataLo (o : Origin) (v : BitVec 32) (s : State) : Res := .next (wr o (aCtl 0x2C) (v) s)

/-- PROG_DATA_HI: CTL.PROG_DATA_HI (R311). -/
def execProgDataHi (o : Origin) (v : BitVec 32) (s : State) : Res := .next (wr o (aCtl 0x30) (v) s)

/-- VERIFY: CTL.PROG_CTRL with VERIFY (R311). -/
def execVerify (o : Origin) (v : BitVec 32) (s : State) : Res := .next (wr o (aCtl 0x20) (v ||| 0x80000000) s)

/-- COMMIT: CTL.COMMIT (R317). -/
def execCommit (o : Origin) (v : BitVec 32) (s : State) : Res := .next (wr o (aCtl 8) (v) s)

/-- PALETTE_WRITE: entry `k` through its register, or through CTL.PAL_ADDR and CTL.PAL_DATA where it has none (R316). -/
def execPaletteWrite (o : Origin) (k : BitVec 11) (v : BitVec 32) (s : State) : Res := .next (match palReg k.toNat with
    | some a => wr o a v s
    | none => wr o (aCtl 0x44) v (wr o (aCtl 0x40) (k.setWidth 32) s))

/-- ENTRY_COMMIT_WRITE: GOV.CAP, GOV.ENV_SHARE or GOV.PPT (R319). -/
def execEntryCommitWrite (o : Origin) (addr : BitVec 24) (v : BitVec 32) (s : State) : Res := .next (wr o (addr.toNat) (v) s)

/-- STAGE_OPEN: CTL.STAGE.OPEN (R320). -/
def execStageOpen (o : Origin) (s : State) : Res := .next (wr o (aCtl 0xC) (0x80000000) s)

/-- STAGE_ABORT: CTL.STAGE.ABORT (R320). -/
def execStageAbort (o : Origin) (s : State) : Res := .next (wr o (aCtl 0xC) (0x40000000) s)

/-- DIRECT_WRITE: CTL.PAL_ACT (R320). -/
def execDirectWrite (o : Origin) (v : BitVec 32) (s : State) : Res := .next (wr o (aCtl 0x48) (v) s)

/-- ARM: CTL.SK_CTRL as it stands, with ARM (R323). -/
def execArm (o : Origin) (s : State) : Res := .next (wr o (aCtl 0x80) (regVal (aCtl 0x80) s ||| 0x80000000) s)

/-- FORCE: CTL.SK_CTRL as it stands, with FORCE (R323). -/
def execForce (o : Origin) (s : State) : Res := .next (wr o (aCtl 0x80) (regVal (aCtl 0x80) s ||| 0x40000000) s)

/-- STOP: CTL.SK_CTRL as it stands, with STOP (R323). -/
def execStop (o : Origin) (s : State) : Res := .next (wr o (aCtl 0x80) (regVal (aCtl 0x80) s ||| 0x20000000) s)

/-- SK_DATA_READ: CTL.SK_DATA (R324). -/
def execSkDataRead (o : Origin) (s : State) : Res := .next (accessed o (aCtl 0xE4) (ctlRead o (aCtl 0xE4) s))

/-- RAIL_CLEAR: RAIL.CTRL as it stands, with CLEAR (R339). -/
def execRailClear (o : Origin) (r : RailId) (s : State) : Res := .next (wr o (aRail r.toNat 0) (regVal (aRail r.toNat 0) s ||| 2) s)

/-- RAIL_EN_WRITE: RAIL.CTRL.EN (R351). -/
def execRailEnWrite (o : Origin) (r : RailId) (en : Bool) (s : State) : Res := .next (wr o (aRail r.toNat 0) (BitVec.ofNat 32 (b2n en)) s)

/-- PH_FAULT_CLEAR: RAIL.PH_FAULT_LO or HI (R351). -/
def execPhFaultClear (o : Origin) (hi : Bool) (v : BitVec 32) (s : State) : Res := .next (wr o (0x12_0400 + 4 * b2n hi) (v) s)

/-- HANDOVER (R362). -/
def execHandover (o : Origin) (s : State) : Res := .next (wr o (aPack 0) (packWord o 0x10 s) s)

/-- REARM (R385). -/
def execRearm (o : Origin) (s : State) : Res := .next (wr o (aPack 0) (packWord o 0x8 s) s)

/-- CAPRUN (R379). -/
def execCaprun (o : Origin) (s : State) : Res := .next (wr o (aPack 0) (packWord o 0x20 s) s)

/-- CAPABORT (R379). -/
def execCapabort (o : Origin) (s : State) : Res := .next (wr o (aPack 0) (packWord o 0x40 s) s)

/-- WAKE (R382). -/
def execWake (o : Origin) (s : State) : Res := .next (wr o (aPack 0) (packWord o 0x80 s) s)

/-- ATTR_CLEAR: PART.ATTR_CLEAR (R405). -/
def execAttrClear (o : Origin) (v : BitVec 32) (s : State) : Res := .next (wr o (0x40_890C) (v) s)

/-- FREEZE: PART.ATTR_CTRL.FREEZE, the rest as it stands (R405). -/
def execFreeze (o : Origin) (on : Bool) (s : State) : Res := .next (wr o (0x40_8900) (setBit (regVal 0x40_8900 s) 0 on) s)

/-- REC_CLEAR: REC.CTRL with CLEAR (R418). -/
def execRecClear (o : Origin) (mode : Bool) (s : State) : Res := .next (wr o (aRec 0) (setBit 0x80000000 0 mode) s)

/-- LOG_CLEAR: LOG.CTRL with CLEAR (R418). -/
def execLogClear (o : Origin) (s : State) : Res := .next (wr o (aLog 0) (0x80000000) s)

/-- COLD: RST.CTRL.COLD, with the straps sampled at the release (R431, R453). -/
def execCold (o : Origin) (st : Straps) (s : State) : Res := .next (wr o 0x1_0000 0x80000000 (strapPins st s))

/-- WARM: RST.CTRL.WARM, with the straps sampled at the release (R428, R431). -/
def execWarm (o : Origin) (st : Straps) (s : State) : Res := .next (wr o 0x1_0000 0x40000000 (strapPins st s))

/-- STEWARD: RST.CTRL.STEWARD (R453). -/
def execSteward (o : Origin) (s : State) : Res := .next (wr o (0x1_0000) (0x20000000) s)

/-- STEWARD_SELF: RST.CTRL.STEWARD_SELF (R453). -/
def execStewardSelf (o : Origin) (s : State) : Res := .next (wr o (0x1_0000) (0x10000000) s)

/-- WDOG_WRITE: RST.WDOG (R452). -/
def execWdogWrite (o : Origin) (v : BitVec 32) (s : State) : Res := .next (wr o (0x1_0010) (v) s)

/-- IN_SERVICE: RST.CTRL.IN_SERVICE (R440). -/
def execInService (o : Origin) (s : State) : Res := .next (wr o (0x1_0000) (8) s)

/-- TEST: RST.CTRL.TEST (R440). -/
def execTest (o : Origin) (s : State) : Res := .next (wr o (0x1_0000) (4) s)

/-- BOOT_START: RST.BOOT_CTRL with START and a length (R444). -/
def execBootStart (o : Origin) (len : BitVec 24) (s : State) : Res := .next (wr o (0x1_0020) (0x80000000 ||| len.setWidth 32) s)

/-- BOOT_WIN_WRITE: RST.BOOT_WIN (R444). -/
def execBootWinWrite (o : Origin) (v : BitVec 32) (s : State) : Res := .next (wr o (0x1_0100) (v) s)

/-- BOOT_DONE: RST.BOOT_CTRL as it stands, with DONE (R444). -/
def execBootDone (o : Origin) (s : State) : Res := .next (pumpAll (wr o (0x1_0020) (regVal 0x1_0020 s ||| 0x40000000) s))

/-- ATT_GO: ATT.CTRL as it stands, with GO (R455). -/
def execAttGo (o : Origin) (s : State) : Res := .next (wr o (0x6_0000) (regVal 0x6_0000 s ||| 0x80000000) s)

/-- ATT_EXT: ATT.CTRL with EXT and a slot (R455). -/
def execAttExt (o : Origin) (slot : BitVec 3) (s : State) : Res := .next (wr o (0x6_0000) (0x40000000 ||| slot.setWidth 32) s)

end Sys2Proof.Machine
end

