-- ==== Sys2Proof/Machine/Beat.lean ====
section
/-! DEFINITION. The beat and the strokes: what happens at FRAC 0 and at each stroke edge (R33, R34, R331). -/

namespace Sys2Proof.Machine

/-! ### FRAC 0 -/

/-- An integer quotient as FP32. -/
def ratF (n : Int) (d : Nat) : BitVec 32 := ofRat32 (mkRat n d)

/-- The port of a truth value. -/
def boolF (b : Bool) : BitVec 32 := flag32 b

/-- The module-input current estimate of R27 in A; without a bus voltage or an efficiency it follows IEEE division. -/
def inputCurrent (s : State) : BitVec 32 :=
  fdiv (ratF s.gov.power 64000000) (fmul (ratF (s.gov.busV : Nat) 100) (fdiv (natF (palF 10 31 16 s)) (natF 1000)))

/-- The rail inputs of R344. -/
def railPorts (r : Nat) (s : State) : List (Nat × BitVec 32) :=
  let x := railAt r s
  let b := 0x120 + 8 * r
  [(b, ratF x.ref 64000), (b + 1, ratF x.tgt 64000), (b + 2, ratF x.iAvg 1000), (b + 3, ratF (railsGet s.gov.railV r) 64000),
   (b + 4, natF (healthyOf r s).length), (b + 5, natF (activeOf r s).length), (b + 6, natF x.st.toNat), (b + 7, ratF x.acc 256000)]

/-- The input ports of R302; `lam`, `slew` and `halted` are the previous beat's. -/
def inputPorts (lam : Nat) (slew halted : Bool) (s : State) : List (Nat × BitVec 32) :=
  let g := s.gov
  let live := packLive s
  let w (x : Int) : BitVec 32 := if live then ofInt32 0 x else 0
  [(0x100, ratF g.power 64000000), (0x101, ratF (g.busV : Nat) 100)] ++
    [0, 1, 2, 3].flatMap (fun r => [(0x102 + r, ratF (railsGet g.railI r) 1000), (0x106 + r, ratF (railsGet g.railV r) 64000)]) ++
    [(0x10A, ratF g.hot 16), (0x10B, boolF g.flowOk), (0x10C, natF g.lamPref), (0x10D, natF lam), (0x10E, natF g.guard),
     (0x10F, boolF slew), (0x110, inputCurrent s), (0x111, ratF (g.shareMw : Nat) 1000), (0x112, w g.pack.cPack),
     (0x113, w g.pack.cAbs), (0x114, w g.pack.pRide), (0x115, boolF (live && g.pack.shelf)), (0x116, boolF halted)] ++
    [0, 1, 2, 3].flatMap (fun r => railPorts r s) ++ packPorts s

/-- What the loop program's outputs ask of the rails takes effect. -/
def railOutputs (s : State) : State :=
  forAll [0, 1, 2, 3] (fun r s =>
    let o (j : Nat) : BitVec 32 := mapGet 0 s.loop.output (0x120 + 8 * r + j)
    updRail r (fun x => { x with trim := floorTimes (o 0) 64000, reqPhases := (floorTimes (o 1) 1).toNat, reqBurst := pos32 (o 2) }) s) s

/-- The run of a beat begins (R313): the ROM's, or a bank's from its first instruction. -/
def startRun (s : State) : State :=
  if s.loop.source = 0 then romBegin s
  else { s with loop := { s.loop with running := true, missedRun := false, shadow := s.loop.vars, pc := 0, cycles := 0 } }

/-- Held barrier groups release with the new beat as base, unless their own command came first (R72, log 24). -/
def releaseHeld (n : Nat) (s : State) : State :=
  forAll ((s.group.filter (fun e => e.2.held)).map (·.1)) (fun k s => releaseGroup k n s) s

/-- The companion carrier's message of a beat (R281, R349): SLOT 0 reports the rail faults since its last one. -/
def sendLevel (s : State) : State :=
  if !isCompanion s then s
  else
    let g := s.gov
    let m : LevelMsg := ⟨!isSlot1 s, g.lam, g.opTgt, g.opNow, g.dff, palF 2 15 0 s, !isSlot1 s && s.rails.faulted⟩
    let s := { s with gov := { s.gov with levelMiss := s.gov.levelMiss + 1 }, rails := { s.rails with faulted := false } }
    cl0To .time (pkgId s ^^^ 1) (.level m) s

/-- SLOT 0 feeds SLOT 1's current step forward with its own (R349). -/
def addPartner (s : State) : State :=
  match s.gov.partner with
  | some m =>
    if isCompanion s && !isSlot1 s then
      { s with gov := { s.gov with dff := s.gov.dff + m.dI, partner := some { m with dI := 0 } } }
    else s
  | none => s

/-- The output ports that the last run staged take effect. -/
def outputsIn (s : State) : State :=
  { s with loop := { s.loop with output := mapSetAll 0 s.loop.output s.loop.staged.reverse, staged := [] } }

/-- SLOT 1 finds at FRAC 0 that VDRAM no longer supplies it, and its vaults are lost (R175, log 22). -/
def slot1Supply (inp : BeatInputs) (s : State) : State :=
  onlyIf (isSlot1 s && suppliedTo1 2 s && decide (inp.railV.vdram < railFloor 2)) vaultsLost s

/-- One beat boundary: outputs of the last beat, palette and program commits, then the latch, the inputs and the new run. -/
def beatStart (inp : BeatInputs) (s : State) : State :=
  let s := romUpTo 8 (if s.loop.running then missRun s else s)
  let s := packSend (outputsIn s)
  let lam := s.gov.lam
  let slew := s.gov.slewHeld
  let halted := s.gov.halt != 0 || s.gov.haltEnded
  let s := loopBoundary { s with tick := s.tick + 1, beat := s.beat + 1, frac := 0 }
  let o (p : Nat) : BitVec 32 := mapGet 0 s.loop.output p
  let s := bellsLatch (updRst (fun x => { x with pins := inp.straps }) s)
  let s := { s with gov := { s.gov with washDemand := o 0x103, haltedPrev := halted, haltEnded := false } }
  let s := govApply s.tick (floorTimes (o 0x100) 1).toNat (floorTimes (o 0x101) 1).toNat (releaseHeld s.tick s)
  let s := addPartner (govLatch inp (slot1Supply inp s))
  let s := forAll [0, 1, 2, 3] (fun r s => railBeat r (railsGet inp.railI r) s) (railOutputs s)
  let s := packLatchBeat s
  let s := { s with loop := { s.loop with input := mapSetAll 0 [] (inputPorts lam slew halted s) } }
  let s := skSample [1] false (startRun (demBeat s))
  let s := releaseBlocks (attrBeat (updAllTiles waitBeat s))
  let s := ethPump (forAll (List.range 64) refillLink (applyPassed s))
  let s := onlyIf (decide (s.beat.toNat % 64 = 0)) vmarkEdge s
  sendLevel (sendReport s)

/-- BEAT_START (R33). -/
def execBeatStart (inp : BeatInputs) (s : State) : Res := .next (beatStart inp s)

/-- STROKE k (R331): the voltage loops on the values latched at the edge, and the stroke nodes of the sketchbook; the default program has run
up to it (log 9). A stroke whose FRAC has passed does not come again in the beat (R37). -/
def execStroke (k : BitVec 3) (inp : StrokeInputs) (s : State) : Res :=
  if 512 * k.toNat < s.frac.toNat then .next s
  else
    let s := { romUpTo k.toNat s with frac := BitVec.ofNat 12 (512 * k.toNat) }
    let s := { s with rails := { s.rails with stroke := k } }
    .next (skSample [3] false (strokeRails k.toNat inp s))

end Sys2Proof.Machine
end

