-- ==== Sys2Proof/Machine/Net.lean ====
section
/-! DEFINITION. What other packages send, and how it arrives: fault stops and leaving notices, link packets, Ethernet frames and
package-to-package datagrams; VAUX warnings (R25, R29, R30, R209, R210, R228, R238, R239, R249, R429, R462). -/

namespace Sys2Proof.Machine

/-! ### Fault stops and leaving notices -/

/-- A fault-stop of another member (R30, R249): applied once, and acknowledged each time it comes over the host transport. -/
def faultStopIn (src : PkgId) (j : BitVec 16) (s : State) : State :=
  let s := jobStopFrom src 0x11 j s
  if viaHall src s then toMember (.faultStopAck j) src s else s

/-- FAULT_STOP. -/
def execFaultStop (src : PkgId) (job : BitVec 16) (s : State) : Res := .next (faultStopIn src job s)

/-- FAULT_STOP_REPEAT: every 1,000 beats to each hall member that has not acknowledged. -/
def execFaultStopRepeat (s : State) : Res :=
  .next (forAll (s.jobs.filter (fun j => j.stopped && decide (j.stopAt < s.tick) && (s.tick - j.stopAt) % 1000 == 0))
    (fun j => forAll j.unacked (toMember (.faultStop j.num))) s)

/-- A member acknowledges. -/
def faultStopAckIn (src : PkgId) (j : BitVec 16) (s : State) : State :=
  updJob j (fun x => { x with unacked := x.unacked.filter (· ≠ src) }) s

/-- FAULT_STOP_ACK. -/
def execFaultStopAck (src : PkgId) (job : BitVec 16) (s : State) : Res := .next (faultStopAckIn src job s)

/-- A leaving notice (R30, R462, R463): the job stops here, the notice is held, and it counts as a report of the stop. -/
def leavingIn (src : PkgId) (j : BitVec 16) (s : State) : State :=
  let s := jobStopFrom src 0x11 j s
  stopReportIn src j true (updJob j (fun x => if x.left.contains src || !isMember src x then x else { x with left := src :: x.left }) s)

/-- LEAVING_NOTICE. -/
def execLeavingNotice (src : PkgId) (job : BitVec 16) (s : State) : Res := .next (pumpAll (leavingIn src job s))

/-! ### VAUX warning (R25, R429) -/

/-- VAUX_WARNING: flash writes not yet started are deferred, issue stops, the vaults enter self-refresh. -/
def execVauxWarning (s : State) : Res :=
  .next (haltFor haltVaux (selfRefreshOn { updRst (fun x => { x with vauxWarn := true }) s with nvDeferred := true }))

/-- VAUX_WARNING_CLEAR: deferred writes start, the vaults leave self-refresh unless the rails are in retention, issue is admitted
again. -/
def execVauxWarningClear (s : State) : Res :=
  .next (if s.rst.vauxWarn then
      let s := updRst (fun x => { x with vauxWarn := false }) s
      endHalt haltVaux (s.tick + 1) (flashResume { s with selfRefresh := s.rails.retain })
    else s)

/-! ### Messages that have arrived -/

/-- The key under which a package's link states are kept: its rack index, and 64 more in the partner rack. -/
def rackKey (src : PkgId) (s : State) : Nat := rackIndex src + if sameRack src (pkgId s) then 0 else 64

/-- Apply a whole message of another package; `n` is the link it came on. -/
def applyWhole (src : PkgId) (n : Option Nat) (m : NetMsg) (s : State) : State :=
  match m with
  | .remote p => remoteIn p s
  | .response _ id err data _ _ => responseIn id err data s
  | .part _ _ _ => s
  | .faultStop j => faultStopIn src j s
  | .faultStopAck j => faultStopAckIn src j s
  | .leaving j => leavingIn src j s
  | .barrierArrive j g => arrivalIn j g src s
  | .barrierRelease j g => releaseIn j g s
  | .sync stamp => (match n with | some k => syncIn k src stamp s | none => s)
  | .announce locked => announceIn src locked s
  | .delayRequest t1 => delayRequestIn src t1 s
  | .delayReply t1 t2 t3 => (match n with | some k => delayIn k t1 t2 t3 (now s) s | none => s)
  | .linkState up => linkStateIn (rackKey src s) up s
  | .ring b => ringIn (oPeer src s) b.toNat s
  | .mbox ch msg => mboxIn src (oPeer src s) ch msg s
  | .mboxReply ch cause => mboxReplyIn src ch cause.toNat s
  | .report x => reportIn x s
  | .answer x => packAnswerIn x s
  | .notice x => noticeIn false src x s
  | .handover x => noticeIn true src x s
  | .level x => levelIn x s
  | .stopQuery j => queryIn src j s
  | .stopAnswer j stopped => stopReportIn src j stopped s
  | .bootRequest => (match n with | some k => bootRequestIn k src s | none => s)
  | .boot last data => bootPacketIn last data s
  | .farRequest b m => farRequestIn b m s
  | .farValues ms => farValuesIn ms s
  | .capRecord data => capRecordIn data s

/-- Apply what arrives: a message, or one packet of a longer one, which acts once it is whole (R209, log 11). -/
def applyMsg (src : PkgId) (n : Option Nat) (m : NetMsg) (s : State) : State :=
  match m with
  | .part i k x =>
    let q := assemble src i k x s
    (match q.1 with
    | some y => applyWhole src n y q.2
    | none => q.2)
  | x => applyWhole src n x s

/-! ### Link packets (R209, R210, R221, R222) -/

/-- What a packet's acknowledgement number lets go, or what its negative acknowledgement has sent again. -/
def takeAck (n : Nat) (p : LinkFrame) (s : State) : State :=
  if p.nack then linkRetry n p.ack s else transmit n (linkAcked n p.ack s)

/-- A packet in sequence is acknowledged, and applied here or forwarded. -/
def acceptPacket (n : Nat) (p : LinkFrame) (m : NetMsg) (s : State) : State :=
  let s := emit (.linkAck (BitVec.ofNat 6 n) (p.seq + 1)) (updLink n (fun l => { l with rxSeq := l.rxSeq + 1 }) s)
  if p.dst = pkgId s then applyMsg p.src (some n) m s else forward n p s

/-- The codewords under a packet that were corrected and those that could not be are counted (R232). -/
def linkFec (n : Nat) (p : LinkFrame) (s : State) : State :=
  countReg (aLnk n 0x10) p.fecUncorr (countReg (aLnk n 0xC) p.fecCorr s)

/-- A good packet: its acknowledgement acts, then it is taken in its turn; one behind is acknowledged again, one ahead is answered with a
negative acknowledgement. -/
def goodPacket (n : LinkId) (p : LinkFrame) (s : State) : State :=
  let k := n.toNat
  let s := takeAck k p s
  match p.body with
  | none => pumpAll s
  | some m =>
    let want := (linkAt k s).rxSeq
    if p.seq = want then pumpAll (acceptPacket k p m s)
    else if (p.seq - want).getLsbD 15 then emit (.linkAck n want) s
    else emit (.linkNack n want) s

/-- LINK_PACKET (R210): a packet with a bad CRC or over an uncorrectable codeword is answered with a negative acknowledgement. -/
def execLinkPacket (n : LinkId) (p : LinkFrame) (s : State) : Res :=
  let k := n.toNat
  if !linkUsable k s then .next s
  else
    let s := linkFec k p s
    .next (if !p.good || p.fecUncorr != 0 then emit (.linkNack n (linkAt k s).rxSeq) s else goodPacket n p s)

/-! ### Ethernet frames (R228, R238, R239) -/

/-- Whether the header and the lengths of a datagram are those of R238. -/
def datagramOk (d : Datagram) : Bool :=
  d.version == 1 && decide (1 ≤ d.type.toNat) && decide (d.type.toNat ≤ 9) && decide (d.cls.toNat ≤ 2) && decide (d.flags.toNat ≤ 1) &&
    d.zeroOk && decide (d.payload.length ≤ 8192) && decide (d.length.toNat = d.payload.length) &&
    decide (d.udpLen = 32 + d.payload.length)

/-- The acknowledgement that leaves for a space. -/
def sendAck (sp : Space) (s : State) : State :=
  let a := (chanOf sp s).rxSeq - 1
  match sp with
  | .session _ => wire sp (.ack a) s
  | .peer p => ethPut 2 (.peerAck p a) s

/-- A sequenced datagram: its acknowledgement acts; the flag says whether it is the next one and so is applied. -/
def sequenced (sp : Space) (d : Datagram) (s : State) : Bool × State :=
  let s := chanAck sp d.ackno (d.flags.getLsbD 0) s
  let c := chanOf sp s
  if d.seq = c.rxSeq then (true, sendAck sp (setChan sp { c with rxSeq := c.rxSeq + 1 } s)) else (false, sendAck sp s)

/-- A datagram of a host. A COMMAND that is next in its sequence starts its command, or waits its turn (R245). -/
def sessionDatagram (src : BitVec 128) (sport : BitVec 16) (d : Datagram) (s : State) : State :=
  let sp : Space := .session (BitVec.ofNat 6 d.ses.toNat)
  if d.type = 1 then openMgmt src sport d.seq s
  else if !fromHost d.ses src sport s then dropDatagram s
  else if d.type = 5 then chanAck sp d.ackno (d.flags.getLsbD 0) s
  else if d.type = 3 then
    let q := sequenced sp d s
    if q.1 then commandIn d.ses.toNat d q.2 else q.2
  else if d.type = 2 then
    let q := sequenced sp d s
    if q.1 then closeSession d.ses.toNat q.2 else q.2
  else dropDatagram s

/-- A remote operation keeps the class of the datagram that brought it (R231). -/
def withClass (cls : Byte) : NetMsg → NetMsg
  | .remote p => .remote { p with bulk := decide (cls = 2) }
  | m => m

/-- A datagram of a package. -/
def peerDatagram (d : Datagram) (s : State) : State :=
  let sp : Space := .peer d.peer
  if d.type = 5 then chanAck sp d.ackno (d.flags.getLsbD 0) s
  else match d.body with
    | some m =>
      if 6 ≤ d.type.toNat ∧ d.type ≠ 7 then
        let q := sequenced sp d s
        if q.1 then applyMsg d.peer none (withClass d.cls m) q.2 else q.2
      else dropDatagram s
    | none => dropDatagram s

/-- The addresses a package answers at: its hall address once its identifier is set (R231), and its link-local address, which is the only
one of a card without an identifier (R242, log 34). -/
def ownAddr (dst : BitVec 128) (s : State) : Bool := dst == linkLocal || (pkgKnown s && dst == hallAddr (pkgId s) s)

/-- A datagram for the transport's UDP port. One for another address is not for this package. -/
def datagramIn (src dst : BitVec 128) (sport : BitVec 16) (d : Datagram) (s : State) : State :=
  if !ownAddr dst s then s
  else if !htOn s || !datagramOk d then dropDatagram s
  else if d.ses = 0xFFFF then peerDatagram d s
  else sessionDatagram src sport d s

/-- The codewords under a frame are counted (R236). -/
def portFec (e : EthFrame) (s : State) : State :=
  let n := join64 (reg 0x20_0034 s) (reg 0x20_0030 s) + BitVec.ofNat 64 e.fecCorr
  countReg 0x20_0038 e.fecUncorr (setReg64 0x20_0030 n s)

/-- Beats that a pause of some quanta of 512 bit times lasts at the port's rate, rounded up. -/
def pauseBeats (q : Nat) (s : State) : Nat := (q * (if regF aPort 3 2 s = 1 then 64 else 32) + 99999) / 100000

/-- Priority flow control on the CL1 priority holds CL1 back, where NET.PORT_CTRL.PFC_CL1 allows it (R228, log 34). -/
def pfcIn (q : Nat) (s : State) : State :=
  if !regIs aPortCtrl 8 s then s
  else ethPump { s with eth := { s.eth with paused := if q = 0 then none else some (s.tick + pauseBeats q s) } }

/-- A frame that the MAC accepts. -/
def frameIn (k : EthKind) (s : State) : State :=
  match k with
  | .ipv4 => dropDatagram s
  | .other => dropDatagram s
  | .ptp => s
  | .pfc q => pfcIn q.toNat s
  | .udp src dst sport dport _ d =>
    if dport.toNat = regF 0x20_0100 31 16 s then pumpAll (datagramIn src dst sport d s)
    else if dport = 319 ∨ dport = 320 then s
    else dropDatagram s

/-- ETH_FRAME: the checks of R228, then the transport. IEEE 1588 messages are rows of their own. -/
def execEthFrame (e : EthFrame) (s : State) : Res :=
  if !regIs aPort 0 s then .next s
  else
    let s := portFec e s
    .next (if !e.fcsOk || 9216 < e.len || (e.vid != 0 && e.vid.toNat != regF aPortCtrl 27 16 s) then dropDatagram s
      else frameIn e.kind s)

end Sys2Proof.Machine
end

