-- ==== Sys2Proof/Machine/Scalar.lean ====
section
/-! DEFINITION. The scalar ALU, CLASS 0x0 (R54 to R57). -/

namespace Sys2Proof.Machine

/-! ### Flag and result computations -/

/-- Shifts use the whole amount as an unsigned number (R55). -/
def shl64 (a b : BitVec 64) : BitVec 64 := if b.toNat < 64 then a <<< b.toNat else 0
def shr64 (a b : BitVec 64) : BitVec 64 := if b.toNat < 64 then a >>> b.toNat else 0
def sra64 (a b : BitVec 64) : BitVec 64 := a.sshiftRight (min b.toNat 64)

/-- Division by zero gives all ones, the remainder by zero gives A (R55). -/
def divu64 (a b : BitVec 64) : BitVec 64 := if b = 0 then BitVec.allOnes 64 else a / b
def remu64 (a b : BitVec 64) : BitVec 64 := if b = 0 then a else a % b

/-- The high half of a product. -/
def mulhu64 (a b : BitVec 64) : BitVec 64 := BitVec.ofNat 64 (a.toNat * b.toNat / 2 ^ 64)
def mulhs64 (a b : BitVec 64) : BitVec 64 := BitVec.ofInt 64 (floorDiv (a.toInt * b.toInt) (2 ^ 64))

/-- Leading zeros and one bits. -/
def clz64 (a : BitVec 64) : BitVec 64 := BitVec.ofNat 64 (if a = 0 then 64 else 63 - Nat.log2 a.toNat)
def popc64 (a : BitVec 64) : BitVec 64 := BitVec.ofNat 64 (popCount a)

/-- D = g(A, B), format REG. -/
def aluReg (op : Nat) (g : BitVec 64 → BitVec 64 → BitVec 64) (t : TileId) (f : Ins) (s : State) : Res :=
  .next (issue t 0 op f (encOf true true true zReg true f)
    (onTile (fun x => sSet f.d.toNat (g (sGet x f.a.toNat) (sGet x f.b.toNat)) x)) s)

/-- D = g(A), format REG with B = 0. -/
def aluUn (op : Nat) (g : BitVec 64 → BitVec 64) (t : TileId) (f : Ins) (s : State) : Res :=
  .next (issue t 0 op f (encOf true true false zReg true f)
    (onTile (fun x => sSet f.d.toNat (g (sGet x f.a.toNat)) x)) s)

/-- D = g(A, imm), format IMM with B = 0. -/
def aluImm (op : Nat) (imm : BitVec 64) (g : BitVec 64 → BitVec 64 → BitVec 64) (t : TileId) (f : Ins) (s : State) : Res :=
  .next (issue t 0 op f (encOf true true false 0 true f)
    (onTile (fun x => sSet f.d.toNat (g (sGet x f.a.toNat) imm) x)) s)

/-- p[D] = A relation B (R56). -/
def cmpReg (op : Nat) (g : BitVec 64 → BitVec 64 → Bool) (t : TileId) (f : Ins) (s : State) : Res :=
  .next (issue t 0 op f (encOf true true true zReg (decide (f.d.toNat < 8)) f)
    (onTile (fun x => pSet f.d.toNat (g (sGet x f.a.toNat) (sGet x f.b.toNat)) x)) s)

/-- p[D] = A relation imm. -/
def cmpImm (op : Nat) (g : BitVec 64 → BitVec 64 → Bool) (t : TileId) (f : Ins) (s : State) : Res :=
  .next (issue t 0 op f (encOf true true false 0 (decide (f.d.toNat < 8)) f)
    (onTile (fun x => pSet f.d.toNat (g (sGet x f.a.toNat) (immS f)) x)) s)

/-- p[D] = g(p[A], p[B]): all three select predicates (R56). -/
def predReg (op : Nat) (b : Bool) (g : Bool → Bool → Bool) (t : TileId) (f : Ins) (s : State) : Res :=
  .next (issue t 0 op f
    (encOf true true b zReg (decide (f.d.toNat < 8) && decide (f.a.toNat < 8) && decide (f.b.toNat < 8)) f)
    (onTile (fun x => pSet f.d.toNat (g (pGet x f.a.toNat) (pGet x f.b.toNat)) x)) s)

/-- ADD: D = A + B. -/
def execAdd (t : TileId) (f : Ins) (s : State) : Res := aluReg 0x00 (· + ·) t f s

/-- SUB: D = A − B. -/
def execSub (t : TileId) (f : Ins) (s : State) : Res := aluReg 0x01 (· - ·) t f s

/-- MUL: D = low 64 bits of A × B. -/
def execMul (t : TileId) (f : Ins) (s : State) : Res := aluReg 0x02 (· * ·) t f s

/-- MULHU: high half, unsigned. -/
def execMulhu (t : TileId) (f : Ins) (s : State) : Res := aluReg 0x03 mulhu64 t f s

/-- MULHS: high half, signed. -/
def execMulhs (t : TileId) (f : Ins) (s : State) : Res := aluReg 0x04 mulhs64 t f s

/-- DIVU: unsigned quotient (R55). -/
def execDivu (t : TileId) (f : Ins) (s : State) : Res := aluReg 0x05 divu64 t f s

/-- REMU: unsigned remainder (R55). -/
def execRemu (t : TileId) (f : Ins) (s : State) : Res := aluReg 0x06 remu64 t f s

/-- AND: D = A & B. -/
def execAnd (t : TileId) (f : Ins) (s : State) : Res := aluReg 0x08 (· &&& ·) t f s

/-- OR: D = A | B. -/
def execOr (t : TileId) (f : Ins) (s : State) : Res := aluReg 0x09 (· ||| ·) t f s

/-- XOR: D = A ^ B. -/
def execXor (t : TileId) (f : Ins) (s : State) : Res := aluReg 0x0A (· ^^^ ·) t f s

/-- ANDN: D = A & ~B. -/
def execAndn (t : TileId) (f : Ins) (s : State) : Res := aluReg 0x0B (fun a b => a &&& ~~~b) t f s

/-- SHL: left shift (R55). -/
def execShl (t : TileId) (f : Ins) (s : State) : Res := aluReg 0x0C shl64 t f s

/-- SHR: logical right shift (R55). -/
def execShr (t : TileId) (f : Ins) (s : State) : Res := aluReg 0x0D shr64 t f s

/-- SRA: arithmetic right shift (R55). -/
def execSra (t : TileId) (f : Ins) (s : State) : Res := aluReg 0x0E sra64 t f s

/-- MIN: signed minimum. -/
def execMin (t : TileId) (f : Ins) (s : State) : Res := aluReg 0x10 (fun a b => if a.slt b then a else b) t f s

/-- MAX: signed maximum. -/
def execMax (t : TileId) (f : Ins) (s : State) : Res := aluReg 0x11 (fun a b => if a.slt b then b else a) t f s

/-- MINU: unsigned minimum. -/
def execMinu (t : TileId) (f : Ins) (s : State) : Res := aluReg 0x12 (fun a b => if a.ult b then a else b) t f s

/-- MAXU: unsigned maximum. -/
def execMaxu (t : TileId) (f : Ins) (s : State) : Res := aluReg 0x13 (fun a b => if a.ult b then b else a) t f s

/-- CLZ: leading zero bits of A. -/
def execClz (t : TileId) (f : Ins) (s : State) : Res := aluUn 0x14 clz64 t f s

/-- POPC: one bits of A. -/
def execPopc (t : TileId) (f : Ins) (s : State) : Res := aluUn 0x15 popc64 t f s

/-- CMP.EQ (R56). -/
def execCmpEq (t : TileId) (f : Ins) (s : State) : Res := cmpReg 0x20 (fun a b => a == b) t f s

/-- CMP.NE (R56). -/
def execCmpNe (t : TileId) (f : Ins) (s : State) : Res := cmpReg 0x21 (fun a b => a != b) t f s

/-- CMP.LT (R56). -/
def execCmpLt (t : TileId) (f : Ins) (s : State) : Res := cmpReg 0x22 (fun a b => a.slt b) t f s

/-- CMP.LE (R56). -/
def execCmpLe (t : TileId) (f : Ins) (s : State) : Res := cmpReg 0x23 (fun a b => a.sle b) t f s

/-- CMP.LTU (R56). -/
def execCmpLtu (t : TileId) (f : Ins) (s : State) : Res := cmpReg 0x24 (fun a b => a.ult b) t f s

/-- CMP.LEU (R56). -/
def execCmpLeu (t : TileId) (f : Ins) (s : State) : Res := cmpReg 0x25 (fun a b => a.ule b) t f s

/-- PAND (R56). -/
def execPand (t : TileId) (f : Ins) (s : State) : Res := predReg 0x28 true (· && ·) t f s

/-- POR (R56). -/
def execPor (t : TileId) (f : Ins) (s : State) : Res := predReg 0x29 true (· || ·) t f s

/-- PXOR (R56). -/
def execPxor (t : TileId) (f : Ins) (s : State) : Res := predReg 0x2A true (· != ·) t f s

/-- PNOT (R56). -/
def execPnot (t : TileId) (f : Ins) (s : State) : Res := predReg 0x2B false (fun a _ => !a) t f s

/-- ADDI. -/
def execAddi (t : TileId) (f : Ins) (s : State) : Res := aluImm 0x80 (immS f) (· + ·) t f s

/-- MULI. -/
def execMuli (t : TileId) (f : Ins) (s : State) : Res := aluImm 0x82 (immS f) (· * ·) t f s

/-- ANDI. -/
def execAndi (t : TileId) (f : Ins) (s : State) : Res := aluImm 0x88 (immS f) (· &&& ·) t f s

/-- ORI. -/
def execOri (t : TileId) (f : Ins) (s : State) : Res := aluImm 0x89 (immS f) (· ||| ·) t f s

/-- XORI. -/
def execXori (t : TileId) (f : Ins) (s : State) : Res := aluImm 0x8A (immS f) (· ^^^ ·) t f s

/-- SHLI. -/
def execShli (t : TileId) (f : Ins) (s : State) : Res := aluImm 0x8C (f.imm.setWidth 64) shl64 t f s

/-- SHRI. -/
def execShri (t : TileId) (f : Ins) (s : State) : Res := aluImm 0x8D (f.imm.setWidth 64) shr64 t f s

/-- SRAI. -/
def execSrai (t : TileId) (f : Ins) (s : State) : Res := aluImm 0x8E (f.imm.setWidth 64) sra64 t f s

/-- CMPI.EQ: as CMP, with imm in place of B. -/
def execCmpiEq (t : TileId) (f : Ins) (s : State) : Res := cmpImm 0xA0 (fun a b => a == b) t f s

/-- CMPI.NE: as CMP, with imm in place of B. -/
def execCmpiNe (t : TileId) (f : Ins) (s : State) : Res := cmpImm 0xA1 (fun a b => a != b) t f s

/-- CMPI.LT: as CMP, with imm in place of B. -/
def execCmpiLt (t : TileId) (f : Ins) (s : State) : Res := cmpImm 0xA2 (fun a b => a.slt b) t f s

/-- CMPI.LE: as CMP, with imm in place of B. -/
def execCmpiLe (t : TileId) (f : Ins) (s : State) : Res := cmpImm 0xA3 (fun a b => a.sle b) t f s

/-- CMPI.LTU: as CMP, with imm in place of B. -/
def execCmpiLtu (t : TileId) (f : Ins) (s : State) : Res := cmpImm 0xA4 (fun a b => a.ult b) t f s

/-- CMPI.LEU: as CMP, with imm in place of B. -/
def execCmpiLeu (t : TileId) (f : Ins) (s : State) : Res := cmpImm 0xA5 (fun a b => a.ule b) t f s

/-- SEL: D = p[C[2:0]] ? A : B; C[5:3] must be zero. -/
def execSel (t : TileId) (f : Ins) (s : State) : Res :=
  .next (issue t 0 0x18 f (encOf true true true 0x71FFFFFF true f)
    (onTile (fun x => sSet f.d.toNat (if pGet x (immC f) then sGet x f.a.toNat else sGet x f.b.toNat) x)) s)

/-- MOVI: D = imm. -/
def execMovi (t : TileId) (f : Ins) (s : State) : Res :=
  .next (issue t 0 0x90 f (encOf true false false 0 true f) (onTile (sSet f.d.toNat (immS f))) s)

/-- MOVK (R57): replace the 16-bit field q of s[D]. -/
def movk (f : Ins) (v : BitVec 64) : BitVec 64 :=
  let q := immF f 17 16
  (v &&& ~~~(BitVec.ofNat 64 0xFFFF <<< (16 * q))) ||| (BitVec.ofNat 64 (immF f 15 0) <<< (16 * q))

/-- MOVK. -/
def execMovk (t : TileId) (f : Ins) (s : State) : Res :=
  .next (issue t 0 0x91 f (encOf true false false 0x7FFC0000 true f)
    (onTile (fun x => sSet f.d.toNat (movk f (sGet x f.d.toNat)) x)) s)

end Sys2Proof.Machine
end

