-- ==== Sys2Proof/Machine/Vector.lean ====
section
/-! DEFINITION. The vector class, CLASS 0x3, with online softmax, VATTN and VPHASE (R122 to R150). -/

namespace Sys2Proof.Machine

/-! ### Operand forms (R123, R124) -/

/-- The fields of the VR format that an operation uses: C, M, FMT, RM, SAT, CND, SM. -/
structure VrUse where
  c : Bool := false
  m : Bool := false
  fmt : Bool := false
  rm : Bool := false
  sat : Bool := false
  cnd : Bool := false
  sm : Bool := false

/-- The bits of IMM an operation requires to be zero. -/
def vrZeros (u : VrUse) : Nat :=
  0x7F + (if u.c then 0 else 0x7E000000) + (if u.m then 0 else 0x1F80000) + (if u.fmt then 0 else 0x78000) +
    (if u.rm then 0 else 0x6000) + (if u.sat then 0 else 0x1000) + (if u.cnd then 0 else 0xE00) + (if u.sm then 0 else 0x180)

/-- The fields of a VR word. -/
def vrM (f : Ins) : Nat := immF f 24 19
def vrFmt (f : Ins) : Nat := immF f 18 15
def vrRm (f : Ins) : Nat := immF f 14 13
def vrSat (f : Ins) : Bool := decide (immF f 12 12 = 1)
def vrCnd (f : Ins) : Nat := immF f 11 9
def vrSm (f : Ins) : Nat := immF f 8 7

/-- Whether a lane is enabled. -/
def laneOn (f : Ins) (x : Tile) (i : Nat) : Bool := vrM f == 0 || (sGet x (vrM f)).getLsbD i

/-- The enabled lanes. -/
def lanesOn (f : Ins) (x : Tile) : List Nat := (List.range 64).filter (laneOn f x)

/-- Issue a vector instruction: one activity event of class 4. -/
def issueV (t : TileId) (op : Nat) (f : Ins) (enc : Option Nat) (run : Nat → BitVec 64 → State → State) (s : State) : Res :=
  .next (issue t 3 op f enc (fun t w s => run t w (charge (acctOfTile t s) 4 1 s)) s)

/-- Uses only the mask. -/
def useM : VrUse := { m := true }

/-- D lane i = g(A lane i, B lane i). -/
def lane2 (op : Nat) (g : BitVec 32 → BitVec 32 → BitVec 32) (t : TileId) (f : Ins) (s : State) : Res :=
  issueV t op f (encOf true true true (vrZeros useM) true f) (onTile (fun x =>
    vSetAll f.d.toNat (laneOn f x) ((List.range 64).map (fun i => g (vGet x f.a.toNat i) (vGet x f.b.toNat i))) x)) s

/-- D lane i = g(A lane i), with B = 0. -/
def lane1 (op : Nat) (g : BitVec 32 → BitVec 32) (t : TileId) (f : Ins) (s : State) : Res :=
  issueV t op f (encOf true true false (vrZeros useM) true f) (onTile (fun x =>
    vSetAll f.d.toNat (laneOn f x) ((List.range 64).map (fun i => g (vGet x f.a.toNat i))) x)) s

/-- Vector shifts by the whole lane amount (R127). -/
def shl32 (a b : BitVec 32) : BitVec 32 := if b.toNat < 32 then a <<< b.toNat else 0
def shr32 (a b : BitVec 32) : BitVec 32 := if b.toNat < 32 then a >>> b.toNat else 0
def sra32 (a b : BitVec 32) : BitVec 32 := a.sshiftRight (min b.toNat 32)
def minS32 (a b : BitVec 32) : BitVec 32 := if a.slt b then a else b
def maxS32 (a b : BitVec 32) : BitVec 32 := if a.slt b then b else a

/-- A reduction of the enabled lanes of A in the order of R129. -/
def reduce (op : Nat) (g : BitVec 32 → BitVec 32 → BitVec 32) (unit : BitVec 32) (t : TileId) (f : Ins) (s : State) : Res :=
  issueV t op f (encOf true true false (vrZeros useM) true f) (onTile (fun x =>
    sSet f.d.toNat ((tree g unit 6 ((List.range 64).map (fun i => if laneOn f x i then vGet x f.a.toNat i else unit))).setWidth 64) x)) s

/-- A lane mask of the lanes that satisfy a test. -/
def maskOf (p : Nat → Bool) : BitVec 64 := BitVec.ofNat 64 ((List.range 64).foldl (fun n i => if p i then n + 2 ^ i else n) 0)

/-- VCMP (R128): `conds` conditions are listed; another code is the illegal-operation fault. -/
def vcmp (op conds : Nat) (g : Nat → BitVec 32 → BitVec 32 → Bool) (t : TileId) (f : Ins) (s : State) : Res :=
  issueV t op f (if conds ≤ vrCnd f then some 0x02 else encOf true true true (vrZeros { m := true, cnd := true }) true f)
    (onTile (fun x => sSet f.d.toNat
      (maskOf (fun i => laneOn f x i && g (vrCnd f) (vGet x f.a.toNat i) (vGet x f.b.toNat i))) x)) s

/-- The FP32 conditions of R128. -/
def condF (c : Nat) (a b : BitVec 32) : Bool :=
  match c with
  | 0 => feq a b
  | 1 => !feq a b
  | 2 => flt a b
  | 3 => fle a b
  | _ => isNan a || isNan b

/-- The I32 conditions of R128. -/
def condI (c : Nat) (a b : BitVec 32) : Bool :=
  match c with
  | 0 => a == b
  | 1 => a != b
  | 2 => a.slt b
  | 3 => a.sle b
  | 4 => a.ult b
  | _ => a.ule b

/-- VaddF32: A + B. -/
def execVaddF32 (t : TileId) (f : Ins) (s : State) : Res := lane2 0x00 fadd t f s

/-- VsubF32: A − B. -/
def execVsubF32 (t : TileId) (f : Ins) (s : State) : Res := lane2 0x01 fsub t f s

/-- VmulF32: A × B. -/
def execVmulF32 (t : TileId) (f : Ins) (s : State) : Res := lane2 0x02 fmul t f s

/-- VminF32: minimumNumber. -/
def execVminF32 (t : TileId) (f : Ins) (s : State) : Res := lane2 0x04 fmin t f s

/-- VmaxF32: maximumNumber. -/
def execVmaxF32 (t : TileId) (f : Ins) (s : State) : Res := lane2 0x05 fmax t f s

/-- VdivF32: A / B, correctly rounded. -/
def execVdivF32 (t : TileId) (f : Ins) (s : State) : Res := lane2 0x08 fdiv t f s

/-- VaddI32: modulo 2³². -/
def execVaddI32 (t : TileId) (f : Ins) (s : State) : Res := lane2 0x10 (· + ·) t f s

/-- VsubI32: modulo 2³². -/
def execVsubI32 (t : TileId) (f : Ins) (s : State) : Res := lane2 0x11 (· - ·) t f s

/-- VmulI32: modulo 2³². -/
def execVmulI32 (t : TileId) (f : Ins) (s : State) : Res := lane2 0x12 (· * ·) t f s

/-- Vand: bitwise. -/
def execVand (t : TileId) (f : Ins) (s : State) : Res := lane2 0x13 (· &&& ·) t f s

/-- Vor: bitwise. -/
def execVor (t : TileId) (f : Ins) (s : State) : Res := lane2 0x14 (· ||| ·) t f s

/-- Vxor: bitwise. -/
def execVxor (t : TileId) (f : Ins) (s : State) : Res := lane2 0x15 (· ^^^ ·) t f s

/-- Vshl: R127. -/
def execVshl (t : TileId) (f : Ins) (s : State) : Res := lane2 0x16 shl32 t f s

/-- Vshr: R127. -/
def execVshr (t : TileId) (f : Ins) (s : State) : Res := lane2 0x17 shr32 t f s

/-- Vsra: R127. -/
def execVsra (t : TileId) (f : Ins) (s : State) : Res := lane2 0x18 sra32 t f s

/-- VminS32: signed. -/
def execVminS32 (t : TileId) (f : Ins) (s : State) : Res := lane2 0x19 minS32 t f s

/-- VmaxS32: signed. -/
def execVmaxS32 (t : TileId) (f : Ins) (s : State) : Res := lane2 0x1A maxS32 t f s

/-- VabsF32: sign bit cleared. -/
def execVabsF32 (t : TileId) (f : Ins) (s : State) : Res := lane1 0x06 fabs t f s

/-- VnegF32: sign bit inverted. -/
def execVnegF32 (t : TileId) (f : Ins) (s : State) : Res := lane1 0x07 fneg t f s

/-- VsqrtF32: correctly rounded. -/
def execVsqrtF32 (t : TileId) (f : Ins) (s : State) : Res := lane1 0x09 fsqrt t f s

/-- VrcpF32: R130. -/
def execVrcpF32 (t : TileId) (f : Ins) (s : State) : Res := lane1 0x0A vrcp t f s

/-- VrsqrtF32: R130. -/
def execVrsqrtF32 (t : TileId) (f : Ins) (s : State) : Res := lane1 0x0B vrsqrt t f s

/-- Vexp: R130. -/
def execVexp (t : TileId) (f : Ins) (s : State) : Res := lane1 0x38 vexp t f s

/-- Vexp2: R130. -/
def execVexp2 (t : TileId) (f : Ins) (s : State) : Res := lane1 0x39 vexp2 t f s

/-- Vlog: R130. -/
def execVlog (t : TileId) (f : Ins) (s : State) : Res := lane1 0x3A vlog t f s

/-- Vlog2: R130. -/
def execVlog2 (t : TileId) (f : Ins) (s : State) : Res := lane1 0x3B vlog2 t f s

/-- Vtanh: R130. -/
def execVtanh (t : TileId) (f : Ins) (s : State) : Res := lane1 0x3C vtanh t f s

/-- Vsigm: R130. -/
def execVsigm (t : TileId) (f : Ins) (s : State) : Res := lane1 0x3D vsigm t f s

/-- VrsumF32 (R129). -/
def execVrsumF32 (t : TileId) (f : Ins) (s : State) : Res := reduce 0x30 fadd 0 t f s

/-- VrmaxF32 (R129). -/
def execVrmaxF32 (t : TileId) (f : Ins) (s : State) : Res := reduce 0x31 fmax 0xFF800000 t f s

/-- VrminF32 (R129). -/
def execVrminF32 (t : TileId) (f : Ins) (s : State) : Res := reduce 0x32 fmin 0x7F800000 t f s

/-- VrsumI32 (R129). -/
def execVrsumI32 (t : TileId) (f : Ins) (s : State) : Res := reduce 0x33 (· + ·) 0 t f s

/-- VrmaxS32 (R129). -/
def execVrmaxS32 (t : TileId) (f : Ins) (s : State) : Res := reduce 0x34 maxS32 0x80000000 t f s

/-- VrminS32 (R129). -/
def execVrminS32 (t : TileId) (f : Ins) (s : State) : Res := reduce 0x35 minS32 0x7FFFFFFF t f s

/-- VFMA.F32: D = A × B + C, one rounding. -/
def execVfmaF32 (t : TileId) (f : Ins) (s : State) : Res :=
  issueV t 0x03 f (encOf true true true (vrZeros { c := true, m := true }) true f) (onTile (fun x =>
    vSetAll f.d.toNat (laneOn f x) ((List.range 64).map (fun i =>
      ffma (vGet x f.a.toNat i) (vGet x f.b.toNat i) (vGet x (immC f) i))) x)) s

/-- VCMP.F32. -/
def execVcmpF32 (t : TileId) (f : Ins) (s : State) : Res := vcmp 0x20 5 condF t f s

/-- VCMP.I32. -/
def execVcmpI32 (t : TileId) (f : Ins) (s : State) : Res := vcmp 0x21 6 condI t f s

/-- VBCAST: every enabled lane of D = s[A][31:0]. -/
def execVbcast (t : TileId) (f : Ins) (s : State) : Res :=
  issueV t 0x28 f (encOf true true false (vrZeros useM) true f) (onTile (fun x =>
    vSetAll f.d.toNat (laneOn f x) (List.replicate 64 ((sGet x f.a.toNat).setWidth 32)) x)) s

/-- VEXT: s[D] = lane (s[B] mod 64) of A. -/
def execVext (t : TileId) (f : Ins) (s : State) : Res :=
  issueV t 0x29 f (encOf true true true (vrZeros {}) true f) (onTile (fun x =>
    sSet f.d.toNat ((vGet x f.a.toNat ((sGet x f.b.toNat).toNat % 64)).setWidth 64) x)) s

/-- VINS: lane (s[B] mod 64) of D = s[A][31:0]. -/
def execVins (t : TileId) (f : Ins) (s : State) : Res :=
  issueV t 0x2A f (encOf true true true (vrZeros {}) true f) (onTile (fun x =>
    vSet f.d.toNat ((sGet x f.b.toNat).toNat % 64) ((sGet x f.a.toNat).setWidth 32) x)) s

/-- VPERM: D lane i = A lane (B lane i mod 64). -/
def execVperm (t : TileId) (f : Ins) (s : State) : Res :=
  issueV t 0x2B f (encOf true true true (vrZeros useM) true f) (onTile (fun x =>
    vSetAll f.d.toNat (laneOn f x) ((List.range 64).map (fun i =>
      vGet x f.a.toNat ((vGet x f.b.toNat i).toNat % 64))) x)) s

/-- VIOTA: D lane i = s[A][31:0] + i. -/
def execViota (t : TileId) (f : Ins) (s : State) : Res :=
  issueV t 0x2C f (encOf true true false (vrZeros useM) true f) (onTile (fun x =>
    vSetAll f.d.toNat (laneOn f x) ((List.range 64).map (fun i =>
      (sGet x f.a.toNat).setWidth 32 + BitVec.ofNat 32 i)) x)) s

/-! ### Conversions (R131 to R133) -/

/-- VCVT.W: element i of the image to lane i, exactly. An invalid T3 byte sets TINV when an enabled lane takes an element of it, and not
when only disabled lanes would (DESIGN CHOICE, log 48). -/
def execVcvtW (t : TileId) (f : Ins) (s : State) : Res :=
  issueV t 0x40 f (encOf true true false (vrZeros { m := true, fmt := true }) true f) (fun t w s =>
    let x := tileAt t s
    let fmt := vrFmt f
    if 11 ≤ fmt then faultHere t 0x25 w 0 s
    else
      let bs := vBytes (vLanes x f.a.toNat)
      let tinv := fmt == 10 && (lanesOn f x).any (fun i => decide (243 ≤ (bs.getD (i / 5) 0).toNat))
      onTile (fun x => orFlags (if tinv then 8 else 0)
        (vSetAll f.d.toNat (laneOn f x) ((decodeRow fmt 64 bs).map rne) x)) t w s) s

/-- VCVT.N: 64 lanes packed; every byte beyond them is zero. -/
def execVcvtN (t : TileId) (f : Ins) (s : State) : Res :=
  issueV t 0x41 f (encOf true true false (vrZeros { fmt := true, rm := true, sat := true }) true f) (fun t w s =>
    let x := tileAt t s
    let fmt := vrFmt f
    if 11 ≤ fmt then faultHere t 0x25 w 0 s
    else
      let es := (vLanes x f.a.toNat).map (fun v => encodeElem fmt (vrRm f) (vrSat f) (dec32 v))
      let image := wordsOf 64 (padTo 256 (packRow fmt (es.map (·.bits))))
      onTile (fun x => orFlags (flagsOf es) (vSetAll f.d.toNat (fun _ => true) image x)) t w s) s

/-- An exact value as I32 (R132). -/
def encodeI32 (rm : Nat) (v : Val) : Enc :=
  match v with
  | .nan => ⟨0, false, false, true⟩
  | .inf neg => ⟨if neg then 0x80000000 else 0x7FFFFFFF, true, true, false⟩
  | .fin neg n d =>
    let x := sgn neg (roundNat rm neg n d)
    let y := clampI (-2147483648) 2147483647 x
    ⟨(ofI32 y).toNat, decide (y * d ≠ sgn neg n), decide (x ≠ y), false⟩

/-- VCVT.F2I. -/
def execVcvtF2i (t : TileId) (f : Ins) (s : State) : Res :=
  issueV t 0x42 f (encOf true true false (vrZeros { m := true, rm := true }) true f) (onTile (fun x =>
    let es := (vLanes x f.a.toNat).map (fun v => encodeI32 (vrRm f) (dec32 v))
    orFlags (flagsOf ((lanesOn f x).map (fun i => es.getD i ⟨0, false, false, false⟩)))
      (vSetAll f.d.toNat (laneOn f x) (es.map (fun e => BitVec.ofNat 32 e.bits)) x))) s

/-- VCVT.I2F sets CNV_INX when a value changes. -/
def execVcvtI2f (t : TileId) (f : Ins) (s : State) : Res :=
  issueV t 0x43 f (encOf true true false (vrZeros { m := true, rm := true }) true f) (onTile (fun x =>
    let es := (vLanes x f.a.toNat).map (fun v => encodeElem 0 (vrRm f) false (ofRatio v.toInt 1))
    orFlags (flagsOf ((lanesOn f x).map (fun i => es.getD i ⟨0, false, false, false⟩)))
      (vSetAll f.d.toNat (laneOn f x) (es.map (fun e => BitVec.ofNat 32 e.bits)) x))) s

/-- VQX (R133): the combinations of its table; the scales go to s[C]. -/
def execVqx (t : TileId) (f : Ins) (s : State) : Res :=
  issueV t 0x44 f (encOf true true false (vrZeros { c := true, fmt := true, sm := true }) true f) (fun t w s =>
    let x := tileAt t s
    let fmt := vrFmt f
    let mode := vrSm f
    if !((mode == 1 && decide (3 ≤ fmt) && decide (fmt ≤ 10)) || (mode == 2 && (fmt == 7 || fmt == 9 || fmt == 10))) then
      faultHere t 0x25 w 0 s
    else
      let n := perScale mode
      let vs := (vLanes x f.a.toNat).map dec32
      let blocks := (List.range (64 / n)).map (fun j => quantise fmt mode ((vs.drop (n * j)).take n))
      let es := blocks.flatMap (fun b => b.2.1)
      let scales := blocks.foldr (fun b a => b.1 + 256 * a) 0
      let image := wordsOf 64 (padTo 256 (packRow fmt (es.map (·.bits))))
      onTile (fun x => orFlags (flagsOf es)
        (sSet (immC f) (BitVec.ofNat 64 scales) (vSetAll f.d.toNat (fun _ => true) image x))) t w s) s

/-! ### Scratch access (R134) -/

/-- VSTM: the enabled lanes to s[A] + s[B] + 4i; D names the source. The sum is taken modulo 2⁶⁴, and each lane is a store of its own 4
bytes, which merges them into their word (R164) even where its neighbour is stored too (DESIGN CHOICE both, log 48). -/
def execVstm (t : TileId) (f : Ins) (s : State) : Res :=
  issueV t 0x48 f (encOf true true true (vrZeros useM) true f) (fun t w s =>
    let x := tileAt t s
    let a := (sGet x f.a.toNat + sGet x f.b.toNat).toNat
    let ls := lanesOn f x
    if ls.isEmpty then advance t w s
    else if a % 64 ≠ 0 then faultHere t 0x27 w a s
    else if scratchSize < a + 256 then faultHere t 0x28 w a s
    else
      let own := some (x.pc, w)
      advance t w (forAll ls (fun i s => (memStore true t (a + 4 * i) (leBytes 4 (vGet x f.d.toNat i).toNat) own s).2)
        (charge (acctOfTile t s) 6 (unitsOf a 256) s))) s

/-- The addresses of a gather or scatter, or its fault (R134). The sum s[A] + 4 × lane does not wrap (DESIGN CHOICE, log 48). -/
def gatherFault (f : Ins) (x : Tile) : Option (Nat × Nat) :=
  let base := (sGet x f.a.toNat).toNat
  let addrs := (lanesOn f x).map (fun i => base + 4 * (vGet x f.b.toNat i).toNat)
  if addrs.isEmpty then none
  else if base % 4 ≠ 0 then some (0x27, base)
  else match addrs.find? (fun a => decide (scratchSize < a + 4)) with
    | some a => some (0x28, a)
    | none => none

/-- VGATHER: D lane i = word at s[A] + 4 × (B lane i). -/
def execVgather (t : TileId) (f : Ins) (s : State) : Res :=
  issueV t 0x49 f (encOf true true true (vrZeros useM) true f) (fun t w s =>
    let x := tileAt t s
    match gatherFault f x with
    | some (c, a) => faultHere t c w a s
    | none =>
      let addr (i : Nat) : Nat := (sGet x f.a.toNat).toNat + 4 * (vGet x f.b.toNat i).toNat
      let r := (lanesOn f x).foldl (fun (r : Bool × State) i =>
        let c := checkRead rdLoad true t (addr i) 4 (some (x.pc, w)) (charge (acctOfTile t r.2) 6 1 r.2)
        (r.1 && c.1, c.2)) (true, s)
      if !r.1 then r.2
      else onTile (vSetAll f.d.toNat (laneOn f x) ((List.range 64).map (fun i =>
        BitVec.ofNat 32 (ofLe (readScratch t (addr i) 4 r.2))))) t w r.2) s

/-- VSCATTER: lanes in rising order, so the highest lane's value stays. -/
def execVscatter (t : TileId) (f : Ins) (s : State) : Res :=
  issueV t 0x4A f (encOf true true true (vrZeros useM) true f) (fun t w s =>
    let x := tileAt t s
    match gatherFault f x with
    | some (c, a) => faultHere t c w a s
    | none =>
      advance t w (forAll (lanesOn f x) (fun i s =>
        (memStore true t ((sGet x f.a.toNat).toNat + 4 * (vGet x f.b.toNat i).toNat) (leBytes 4 (vGet x f.d.toNat i).toNat)
          (some (x.pc, w)) (charge (acctOfTile t s) 6 1 s)).2) s)) s

/-! ### Rotary angles (R146) -/

/-- Write cosine and sine of one phase per enabled lane to D and D + 1. -/
def phaseWrite (f : Ins) (ph : Nat → BitVec 64) (x : Tile) : Tile :=
  let r := (List.range 64).map (fun i => if laneOn f x i then rotaryOf (ph i) else (0, 0))
  let en := laneOn f x
  vSetAll (f.d.toNat + 1) en (r.map (·.2)) (vSetAll f.d.toNat en (r.map (·.1)) x)

/-- VPHASE.P: one position, per-lane frequencies in B and B + 1. -/
def execVphaseP (t : TileId) (f : Ins) (s : State) : Res :=
  issueV t 0x50 f (encOf true true true (vrZeros useM) (decide (f.d.toNat ≤ 62) && decide (f.b.toNat ≤ 62)) f) (fun t w s =>
    let x := tileAt t s
    let pos := sGet x f.a.toNat
    if !(lanesOn f x).isEmpty && decide (2 ^ 24 ≤ pos.toNat) then faultHere t 0x29 w pos.toNat s
    else onTile (phaseWrite f (fun i => pos * join64 (vGet x (f.b.toNat + 1) i) (vGet x f.b.toNat i))) t w s) s

/-- VPHASE.F: per-lane positions, one frequency. -/
def execVphaseF (t : TileId) (f : Ins) (s : State) : Res :=
  issueV t 0x51 f (encOf true true true (vrZeros useM) (decide (f.d.toNat ≤ 62)) f) (fun t w s =>
    let x := tileAt t s
    match (lanesOn f x).find? (fun i => decide (2 ^ 24 ≤ (vGet x f.a.toNat i).toNat)) with
    | some i => faultHere t 0x29 w (vGet x f.a.toNat i).toNat s
    | none => onTile (phaseWrite f (fun i => (vGet x f.a.toNat i).setWidth 64 * sGet x f.b.toNat)) t w s) s

/-! ### Online softmax (R137 to R139) -/

/-- Minus infinity. -/
def ninf : BitVec 32 := 0xFF800000

/-- One step of R138 on scores `t` (one per lane, only where enabled), from the state (m0, l0): the probabilities, alpha and
the new state. Any NaN, or a score of +∞, makes every enabled probability a NaN, as the cases of R138 state. -/
def osmStep (en : Nat → Bool) (sc : List (BitVec 32)) (m0 l0 : BitVec 32) :
    List (BitVec 32) × BitVec 32 × BitVec 32 × BitVec 32 :=
  let t := sc.zipIdx.map (fun e => if en e.2 then e.1 else ninf)
  if (List.range 64).all (fun i => !en i) then (t.map (fun _ => 0), 0x3F800000, m0, l0)
  else if t.any isNan || isNan m0 || isNan l0 then
    (t.zipIdx.map (fun e => if en e.2 then nan32 else 0), nan32, nan32, nan32)
  else
    let m1 := fmax m0 (treeMax t)
    let alpha := if m1 = ninf then 0x3F800000 else vexp (fsub m0 m1)
    let pinf := t.contains (inf32 false)
    let p := t.zipIdx.map (fun e => if en e.2 && pinf then nan32 else if e.1 = ninf then 0 else vexp (fsub e.1 m1))
    (p, alpha, m1, ffma l0 alpha (treeSum 6 p))

/-- The two halves of a softmax state. -/
def stM (v : BitVec 64) : BitVec 32 := lo32 v
def stL (v : BitVec 64) : BitVec 32 := hi32 v

/-- VOSM: it writes +0 into disabled lanes (R124). -/
def execVosm (t : TileId) (f : Ins) (s : State) : Res :=
  issueV t 0x58 f (encOf true true true (vrZeros { c := true, m := true }) (decide (immC f ≤ 62)) f) (onTile (fun x =>
    let c := immC f
    let k := lo32 (sGet x f.b.toNat)
    let (p, alpha, m, l) := osmStep (laneOn f x) ((vLanes x f.a.toNat).map (fun v => fmul v k)) (stM (sGet x c)) (stL (sGet x c))
    sSet (c + 1) (alpha.setWidth 64) (sSet c (join64 l m) (vSetAll f.d.toNat (fun _ => true) p x)))) s

/-- VOSMJ: join s[B] into s[C]. A NaN in either maximum makes m the canonical NaN, as R138 has it for VOSM, and not the other maximum, as
VMAX would (DESIGN CHOICE, log 48). -/
def execVosmj (t : TileId) (f : Ins) (s : State) : Res :=
  issueV t 0x59 f (encOf false false true (vrZeros { c := true }) (decide (immC f ≤ 62)) f) (onTile (fun x =>
    let c := immC f
    let u := sGet x c
    let v := sGet x f.b.toNat
    let m := if isNan (stM u) || isNan (stM v) then nan32 else fmax (stM u) (stM v)
    let a1 := if m = ninf then 0x3F800000 else vexp (fsub (stM u) m)
    let a2 := if m = ninf then 0x3F800000 else vexp (fsub (stM v) m)
    sSet (c + 1) (join64 a2 a1) (sSet c (join64 (ffma (stL u) a1 (fmul (stL v) a2)) m) x))) s

/-! ### Streaming attention (R140 to R143) -/

/-- The descriptor's words, as numbers. -/
def attnDesc (f : Ins) (x : Tile) (w : BitVec 64) (bs : List Byte) : Vattn :=
  let n (o : Nat) : Nat := ofLe ((bs.drop o).take 4)
  { d := f.d, a := f.a, c := BitVec.ofNat 6 (immC f), kOff := n 0, vOff := n 4, kStride := n 8, vStride := n 12,
    n := n 16 % 2 ^ 25, kPos := n 20 % 2 ^ 24, qPos := n 24 % 2 ^ 24, window := n 28 % 2 ^ 25,
    scale := BitVec.ofNat 32 (n 32), fmt := (bs.getD 36 0).setWidth 4, causal := (bs.getD 37 0).getLsbD 0,
    d128 := (bs.getD 37 0).getLsbD 1, next := 0, started := true, late := [], pc := x.pc, word := w }

/-- Head dimension and row size. -/
def attnDim (v : Vattn) : Nat := if v.d128 then 128 else 64
def attnRow (v : Vattn) : Nat := attnDim v * (fmtWidth v.fmt.toNat / 8)

/-- The checks of R141 from step 3 on: code and address. -/
def attnFault (v : Vattn) (bs : List Byte) : Option (Nat × Nat) :=
  let n (o : Nat) : Nat := ofLe ((bs.drop o).take 4)
  let fmt := (bs.getD 36 0).toNat
  if v.d128 ∧ (62 < v.d.toNat ∨ 62 < v.a.toNat) then some (0x04, 0)
  else if !(fmt == 1 || fmt == 2 || fmt == 3 || fmt == 4) then some (0x25, 0)
  else if 2 ^ 25 ≤ n 16 ∨ 2 ^ 24 ≤ n 20 ∨ 2 ^ 24 ≤ n 24 ∨ 2 ^ 25 ≤ n 28 ∨ 4 ≤ (bs.getD 37 0).toNat ∨
      (bs.drop 38).any (fun b => decide (b ≠ 0)) then some (0x26, 0)
  else if v.n = 0 then none
  else if v.kOff % 64 ≠ 0 ∨ v.kStride % 64 ≠ 0 then some (0x27, v.kOff)
  else if v.vOff % 64 ≠ 0 ∨ v.vStride % 64 ≠ 0 then some (0x27, v.vOff)
  else if vaultSize < v.kOff + (v.n - 1) * v.kStride + attnRow v then some (0x28, v.kOff)
  else if vaultSize < v.vOff + (v.n - 1) * v.vStride + attnRow v then some (0x28, v.vOff)
  else if 16777215 < v.kPos + v.n - 1 then some (0x29, v.kPos + v.n - 1)
  else none

/-- VATTN issues: its chunks run at VATTN_CHUNK_DONE. -/
def execVattn (t : TileId) (f : Ins) (s : State) : Res :=
  .next (issue t 3 0x5C f (encOf true true true (vrZeros { c := true }) true f) (fun t w s =>
    let x := tileAt t s
    let a := (sGet x f.b.toNat).toNat
    if a % 16 ≠ 0 then faultHere t 0x27 w a s
    else if scratchSize < a + 48 then faultHere t 0x28 w a s
    else ownRead rdLoad t a 48 w (fun bs s =>
      let v := attnDesc f x w (padTo 48 bs)
      match attnFault v (padTo 48 bs) with
      | some (c, ad) => faultHere t c w ad s
      | none => if v.n = 0 then advance t w s else onTile (fun x => { x with vattn := some v }) t w s) s) s)

/-- Whether key `n` is visible (R142). -/
def attnVisible (v : Vattn) (n : Nat) : Bool :=
  let pos : Int := v.kPos + n
  decide (n < v.n) && (!v.causal || decide (pos ≤ v.qPos)) && (v.window == 0 || decide ((v.qPos : Int) - pos < v.window))

/-- What else the units of the vault may have held when a chunk read them: what has been overwritten since the VATTN was dispatched, and
what a DMA in flight writes (R145). -/
def attnOthers (v : Vattn) (t : Nat) (s : State) : List (Nat × List Byte) := v.late ++ dmaComing false (tileAt t s).nextDma t s

/-- A key row (`h` is 0) or a value row (`h` is 1), decoded exactly to FP32, each of its units as the read may see it. -/
def attnElems (v : Vattn) (t h off stride n : Nat) (s : State) : List (BitVec 32) :=
  let a := off + n * stride
  (decodeRow v.fmt.toNat (attnDim v)
    (seenBytes s.free (2 * n + h) (othersOf (attnOthers v t s)) a (readVault t a (attnRow v) s))).map rne

/-- One chunk of 64 keys (R142) on the query, the running output and the running state of the tile. The query is read at every chunk, so
that where D overlaps A a later chunk takes the output that an earlier one wrote as its query (DESIGN CHOICE, log 48). -/
def attnChunk (v : Vattn) (t : Nat) (s : State) (x : Tile) : Tile :=
  let d := attnDim v
  let lv := if v.d128 then 7 else 6
  let lane (r j : Nat) : BitVec 32 := vGet x (r + j / 64) (j % 64)
  let q := (List.range d).map (lane v.a.toNat)
  let vis (i : Nat) : Bool := attnVisible v (v.next + i)
  let t64 := (List.range 64).map (fun i =>
    if vis i then
      fmul (treeSum lv ((q.zip (attnElems v t 0 v.kOff v.kStride (v.next + i) s)).map (fun e => fmul e.1 e.2))) v.scale
    else ninf)
  let st := sGet x v.c.toNat
  let (p, alpha, m, l) := osmStep vis t64 (stM st) (stL st)
  let rows := (List.range 64).map (fun i => if vis i then attnElems v t 1 v.vOff v.vStride (v.next + i) s else [])
  let outs := (List.range d).map (fun j =>
    let u := treeSum 6 ((List.range 64).map (fun i => if vis i then fmul (p.getD i 0) ((rows.getD i []).getD j 0) else 0))
    ffma (lane v.d.toNat j) alpha u)
  let x := (List.range d).foldl (fun x j => vSet (v.d.toNat + j / 64) (j % 64) (outs.getD j 0) x) x
  sSet v.c.toNat (join64 l m) x

/-- A chunk of a VATTN finishes (R136, R142): under a halt the chunk in progress finishes and no further one starts. A chunk
with no visible key changes nothing. The chunk waits while the vaults are in self-refresh (R175). -/
def execVattnChunkDone (t : TileId) (s : State) : Res :=
  let t := t.toNat
  let x := tileAt t s
  match x.vattn with
  | none => .next s
  | some v =>
    if !(v.started || clusterOpen t s) || s.selfRefresh then .next s
    else
      let keys := ((List.range 64).map (· + v.next)).filter (attnVisible v)
      let r := keys.foldl (fun (r : Bool × State) n =>
        let own := some (v.pc, v.word)
        let a := checkRead rdVattn false t (v.kOff + n * v.kStride) (attnRow v) own r.2
        let b := checkRead rdVattn false t (v.vOff + n * v.vStride) (attnRow v) own a.2
        (r.1 && a.1 && b.1, b.2)) (true, s)
      let units := keys.length * (2 * ((attnRow v + 63) / 64))
      let s := charge (acctOfTile t r.2) 4 1 (charge (acctOfTile t r.2) 7 units r.2)
      if !r.1 then .next s
      else
        let x := tileAt t s
        let x := if keys.isEmpty then x else attnChunk v t s x
        let v' := { v with next := v.next + 64, started := clusterOpen t s }
        .next (setTile t { x with vattn := if v.n ≤ v.next + 64 then none else some v' } (useFree s))

end Sys2Proof.Machine
end

