-- ==== Sys2Proof/Machine/Dispatch.lean ====
section
/-! DEFINITION. Which meaning each command has. -/

namespace Sys2Proof.Machine

/-- A command's effect on everything but the queue of commands. -/
def exec (i : Instr) (s : State) : Host.Outcome State Fault Refusal :=
  match i with
  | .beatStart inp => Sys2Proof.Machine.execBeatStart inp s
  | .loopDeadlineMiss => Sys2Proof.Machine.execLoopDeadlineMiss s
  | .loopFallback => Sys2Proof.Machine.execLoopFallback s
  | .stroke k inp => Sys2Proof.Machine.execStroke k inp s
  | .phaseFault ph mA => Sys2Proof.Machine.execPhaseFault ph mA s
  | .registerWrite o addr width v => Sys2Proof.Machine.execRegisterWrite o addr width v s
  | .lowWordRead o addr => Sys2Proof.Machine.execLowWordRead o addr s
  | .placeWrite o v => Sys2Proof.Machine.execPlaceWrite o v s
  | .add t f => Sys2Proof.Machine.execAdd t f s
  | .sub t f => Sys2Proof.Machine.execSub t f s
  | .mul t f => Sys2Proof.Machine.execMul t f s
  | .mulhu t f => Sys2Proof.Machine.execMulhu t f s
  | .mulhs t f => Sys2Proof.Machine.execMulhs t f s
  | .divu t f => Sys2Proof.Machine.execDivu t f s
  | .remu t f => Sys2Proof.Machine.execRemu t f s
  | .and t f => Sys2Proof.Machine.execAnd t f s
  | .or t f => Sys2Proof.Machine.execOr t f s
  | .xor t f => Sys2Proof.Machine.execXor t f s
  | .andn t f => Sys2Proof.Machine.execAndn t f s
  | .shl t f => Sys2Proof.Machine.execShl t f s
  | .shr t f => Sys2Proof.Machine.execShr t f s
  | .sra t f => Sys2Proof.Machine.execSra t f s
  | .min t f => Sys2Proof.Machine.execMin t f s
  | .max t f => Sys2Proof.Machine.execMax t f s
  | .minu t f => Sys2Proof.Machine.execMinu t f s
  | .maxu t f => Sys2Proof.Machine.execMaxu t f s
  | .clz t f => Sys2Proof.Machine.execClz t f s
  | .popc t f => Sys2Proof.Machine.execPopc t f s
  | .sel t f => Sys2Proof.Machine.execSel t f s
  | .cmpEq t f => Sys2Proof.Machine.execCmpEq t f s
  | .cmpNe t f => Sys2Proof.Machine.execCmpNe t f s
  | .cmpLt t f => Sys2Proof.Machine.execCmpLt t f s
  | .cmpLe t f => Sys2Proof.Machine.execCmpLe t f s
  | .cmpLtu t f => Sys2Proof.Machine.execCmpLtu t f s
  | .cmpLeu t f => Sys2Proof.Machine.execCmpLeu t f s
  | .pand t f => Sys2Proof.Machine.execPand t f s
  | .por t f => Sys2Proof.Machine.execPor t f s
  | .pxor t f => Sys2Proof.Machine.execPxor t f s
  | .pnot t f => Sys2Proof.Machine.execPnot t f s
  | .addi t f => Sys2Proof.Machine.execAddi t f s
  | .muli t f => Sys2Proof.Machine.execMuli t f s
  | .andi t f => Sys2Proof.Machine.execAndi t f s
  | .ori t f => Sys2Proof.Machine.execOri t f s
  | .xori t f => Sys2Proof.Machine.execXori t f s
  | .shli t f => Sys2Proof.Machine.execShli t f s
  | .shri t f => Sys2Proof.Machine.execShri t f s
  | .srai t f => Sys2Proof.Machine.execSrai t f s
  | .movi t f => Sys2Proof.Machine.execMovi t f s
  | .movk t f => Sys2Proof.Machine.execMovk t f s
  | .cmpiEq t f => Sys2Proof.Machine.execCmpiEq t f s
  | .cmpiNe t f => Sys2Proof.Machine.execCmpiNe t f s
  | .cmpiLt t f => Sys2Proof.Machine.execCmpiLt t f s
  | .cmpiLe t f => Sys2Proof.Machine.execCmpiLe t f s
  | .cmpiLtu t f => Sys2Proof.Machine.execCmpiLtu t f s
  | .cmpiLeu t f => Sys2Proof.Machine.execCmpiLeu t f s
  | .br t f => Sys2Proof.Machine.execBr t f s
  | .jr t f => Sys2Proof.Machine.execJr t f s
  | .call t f => Sys2Proof.Machine.execCall t f s
  | .callr t f => Sys2Proof.Machine.execCallr t f s
  | .ldU8 t f => Sys2Proof.Machine.execLdU8 t f s
  | .ldU16 t f => Sys2Proof.Machine.execLdU16 t f s
  | .ldU32 t f => Sys2Proof.Machine.execLdU32 t f s
  | .ld64 t f => Sys2Proof.Machine.execLd64 t f s
  | .ldS8 t f => Sys2Proof.Machine.execLdS8 t f s
  | .ldS16 t f => Sys2Proof.Machine.execLdS16 t f s
  | .ldS32 t f => Sys2Proof.Machine.execLdS32 t f s
  | .st8 t f => Sys2Proof.Machine.execSt8 t f s
  | .st16 t f => Sys2Proof.Machine.execSt16 t f s
  | .st32 t f => Sys2Proof.Machine.execSt32 t f s
  | .st64 t f => Sys2Proof.Machine.execSt64 t f s
  | .vld t f => Sys2Proof.Machine.execVld t f s
  | .vst t f => Sys2Proof.Machine.execVst t f s
  | .dmaV2s t f => Sys2Proof.Machine.execDmaV2s t f s
  | .dmaS2v t f => Sys2Proof.Machine.execDmaS2v t f s
  | .dmaComplete t id => Sys2Proof.Machine.execDmaComplete t id s
  | .crd t f => Sys2Proof.Machine.execCrd t f s
  | .cset t f => Sys2Proof.Machine.execCset t f s
  | .cadd t f => Sys2Proof.Machine.execCadd t f s
  | .caddi t f => Sys2Proof.Machine.execCaddi t f s
  | .cwait t f => Sys2Proof.Machine.execCwait t f s
  | .cwaiti t f => Sys2Proof.Machine.execCwaiti t f s
  | .cwaitT t f => Sys2Proof.Machine.execCwaitT t f s
  | .sleep t f => Sys2Proof.Machine.execSleep t f s
  | .counterReached t => Sys2Proof.Machine.execCounterReached t s
  | .waitTimeout t => Sys2Proof.Machine.execWaitTimeout t s
  | .sleepEnd t => Sys2Proof.Machine.execSleepEnd t s
  | .nop t f => Sys2Proof.Machine.execNop t f s
  | .endK t f => Sys2Proof.Machine.execEndK t f s
  | .endCompletion t => Sys2Proof.Machine.execEndCompletion t s
  | .phase t f => Sys2Proof.Machine.execPhase t f s
  | .barrier t f => Sys2Proof.Machine.execBarrier t f s
  | .barrierArrive t => Sys2Proof.Machine.execBarrierArrive t s
  | .barrierArrival job g src => Sys2Proof.Machine.execBarrierArrival job g src s
  | .barrierReleaseMessage job g => Sys2Proof.Machine.execBarrierReleaseMessage job g s
  | .barrierRelease part g => Sys2Proof.Machine.execBarrierRelease part g s
  | .rdts t f => Sys2Proof.Machine.execRdts t f s
  | .rdid t f => Sys2Proof.Machine.execRdid t f s
  | .rdcyc t f => Sys2Proof.Machine.execRdcyc t f s
  | .trap t f => Sys2Proof.Machine.execTrap t f s
  | .kernelStart q => Sys2Proof.Machine.execKernelStart q s
  | .faultValidClear o t => Sys2Proof.Machine.execFaultValidClear o t s
  | .mma t f => Sys2Proof.Machine.execMma t f s
  | .mzero t f => Sys2Proof.Machine.execMzero t f s
  | .mst t f => Sys2Proof.Machine.execMst t f s
  | .mvr t f => Sys2Proof.Machine.execMvr t f s
  | .mstx t f => Sys2Proof.Machine.execMstx t f s
  | .mldx t f => Sys2Proof.Machine.execMldx t f s
  | .mflg t f => Sys2Proof.Machine.execMflg t f s
  | .vaddF32 t f => Sys2Proof.Machine.execVaddF32 t f s
  | .vsubF32 t f => Sys2Proof.Machine.execVsubF32 t f s
  | .vmulF32 t f => Sys2Proof.Machine.execVmulF32 t f s
  | .vfmaF32 t f => Sys2Proof.Machine.execVfmaF32 t f s
  | .vminF32 t f => Sys2Proof.Machine.execVminF32 t f s
  | .vmaxF32 t f => Sys2Proof.Machine.execVmaxF32 t f s
  | .vabsF32 t f => Sys2Proof.Machine.execVabsF32 t f s
  | .vnegF32 t f => Sys2Proof.Machine.execVnegF32 t f s
  | .vdivF32 t f => Sys2Proof.Machine.execVdivF32 t f s
  | .vsqrtF32 t f => Sys2Proof.Machine.execVsqrtF32 t f s
  | .vrcpF32 t f => Sys2Proof.Machine.execVrcpF32 t f s
  | .vrsqrtF32 t f => Sys2Proof.Machine.execVrsqrtF32 t f s
  | .vaddI32 t f => Sys2Proof.Machine.execVaddI32 t f s
  | .vsubI32 t f => Sys2Proof.Machine.execVsubI32 t f s
  | .vmulI32 t f => Sys2Proof.Machine.execVmulI32 t f s
  | .vand t f => Sys2Proof.Machine.execVand t f s
  | .vor t f => Sys2Proof.Machine.execVor t f s
  | .vxor t f => Sys2Proof.Machine.execVxor t f s
  | .vshl t f => Sys2Proof.Machine.execVshl t f s
  | .vshr t f => Sys2Proof.Machine.execVshr t f s
  | .vsra t f => Sys2Proof.Machine.execVsra t f s
  | .vminS32 t f => Sys2Proof.Machine.execVminS32 t f s
  | .vmaxS32 t f => Sys2Proof.Machine.execVmaxS32 t f s
  | .vcmpF32 t f => Sys2Proof.Machine.execVcmpF32 t f s
  | .vcmpI32 t f => Sys2Proof.Machine.execVcmpI32 t f s
  | .vbcast t f => Sys2Proof.Machine.execVbcast t f s
  | .vext t f => Sys2Proof.Machine.execVext t f s
  | .vins t f => Sys2Proof.Machine.execVins t f s
  | .vperm t f => Sys2Proof.Machine.execVperm t f s
  | .viota t f => Sys2Proof.Machine.execViota t f s
  | .vrsumF32 t f => Sys2Proof.Machine.execVrsumF32 t f s
  | .vrmaxF32 t f => Sys2Proof.Machine.execVrmaxF32 t f s
  | .vrminF32 t f => Sys2Proof.Machine.execVrminF32 t f s
  | .vrsumI32 t f => Sys2Proof.Machine.execVrsumI32 t f s
  | .vrmaxS32 t f => Sys2Proof.Machine.execVrmaxS32 t f s
  | .vrminS32 t f => Sys2Proof.Machine.execVrminS32 t f s
  | .vexp t f => Sys2Proof.Machine.execVexp t f s
  | .vexp2 t f => Sys2Proof.Machine.execVexp2 t f s
  | .vlog t f => Sys2Proof.Machine.execVlog t f s
  | .vlog2 t f => Sys2Proof.Machine.execVlog2 t f s
  | .vtanh t f => Sys2Proof.Machine.execVtanh t f s
  | .vsigm t f => Sys2Proof.Machine.execVsigm t f s
  | .vcvtW t f => Sys2Proof.Machine.execVcvtW t f s
  | .vcvtN t f => Sys2Proof.Machine.execVcvtN t f s
  | .vcvtF2i t f => Sys2Proof.Machine.execVcvtF2i t f s
  | .vcvtI2f t f => Sys2Proof.Machine.execVcvtI2f t f s
  | .vqx t f => Sys2Proof.Machine.execVqx t f s
  | .vstm t f => Sys2Proof.Machine.execVstm t f s
  | .vgather t f => Sys2Proof.Machine.execVgather t f s
  | .vscatter t f => Sys2Proof.Machine.execVscatter t f s
  | .vphaseP t f => Sys2Proof.Machine.execVphaseP t f s
  | .vphaseF t f => Sys2Proof.Machine.execVphaseF t f s
  | .vosm t f => Sys2Proof.Machine.execVosm t f s
  | .vosmj t f => Sys2Proof.Machine.execVosmj t f s
  | .vattn t f => Sys2Proof.Machine.execVattn t f s
  | .put t f => Sys2Proof.Machine.execPut t f s
  | .get t f => Sys2Proof.Machine.execGet t f s
  | .puts t f => Sys2Proof.Machine.execPuts t f s
  | .aadd t f => Sys2Proof.Machine.execAadd t f s
  | .cas t f => Sys2Proof.Machine.execCas t f s
  | .swap t f => Sys2Proof.Machine.execSwap t f s
  | .xacc t f => Sys2Proof.Machine.execXacc t f s
  | .notify t f => Sys2Proof.Machine.execNotify t f s
  | .notifyDepart id => Sys2Proof.Machine.execNotifyDepart id s
  | .fence t f => Sys2Proof.Machine.execFence t f s
  | .fenceSatisfied id => Sys2Proof.Machine.execFenceSatisfied id s
  | .rstat t f => Sys2Proof.Machine.execRstat t f s
  | .remoteOpArrive op => Sys2Proof.Machine.execRemoteOpArrive op s
  | .remoteOpComplete id err data => Sys2Proof.Machine.execRemoteOpComplete id err data s
  | .remoteOpTimeout id => Sys2Proof.Machine.execRemoteOpTimeout id s
  | .entryLoStage o v => Sys2Proof.Machine.execEntryLoStage o v s
  | .entryHiCommit o v => Sys2Proof.Machine.execEntryHiCommit o v s
  | .windowDrainEnd => Sys2Proof.Machine.execWindowDrainEnd s
  | .vaultRefresh => Sys2Proof.Machine.execVaultRefresh s
  | .catchUpRefresh => Sys2Proof.Machine.execCatchUpRefresh s
  | .vaultScrub t => Sys2Proof.Machine.execVaultScrub t s
  | .scratchScrub t => Sys2Proof.Machine.execScratchScrub t s
  | .vaultWriteBack t unit => Sys2Proof.Machine.execVaultWriteBack t unit s
  | .scratchWriteBack t word => Sys2Proof.Machine.execScratchWriteBack t word s
  | .clearingComplete t => Sys2Proof.Machine.execClearingComplete t s
  | .memInitDone => Sys2Proof.Machine.execMemInitDone s
  | .ceClear o v => Sys2Proof.Machine.execCeClear o v s
  | .cablePresent n => Sys2Proof.Machine.execCablePresent n s
  | .cablePresenceLost n => Sys2Proof.Machine.execCablePresenceLost n s
  | .cableReady n x ident => Sys2Proof.Machine.execCableReady n x ident s
  | .trainDone n x => Sys2Proof.Machine.execTrainDone n x s
  | .fecLock n => Sys2Proof.Machine.execFecLock n s
  | .ident n pkg far role => Sys2Proof.Machine.execIdent n pkg far role s
  | .linkStateTimeout n => Sys2Proof.Machine.execLinkStateTimeout n s
  | .laneLockLost n lane => Sys2Proof.Machine.execLaneLockLost n lane s
  | .recoverDone n lanes => Sys2Proof.Machine.execRecoverDone n lanes s
  | .laneDegrade n lane => Sys2Proof.Machine.execLaneDegrade n lane s
  | .downRetrain n => Sys2Proof.Machine.execDownRetrain n s
  | .linkDown n => Sys2Proof.Machine.execLinkDown n s
  | .linkPacket n p => Sys2Proof.Machine.execLinkPacket n p s
  | .linkRetry n from_ => Sys2Proof.Machine.execLinkRetry n from_ s
  | .retrain o n => Sys2Proof.Machine.execRetrain o n s
  | .linkDisableWrite o n v => Sys2Proof.Machine.execLinkDisableWrite o n v s
  | .cablePoll n low x => Sys2Proof.Machine.execCablePoll n low x s
  | .cmgtGo o n v => Sys2Proof.Machine.execCmgtGo o n v s
  | .cmgtDone n acked data => Sys2Proof.Machine.execCmgtDone n acked data s
  | .linkStatePeriod => Sys2Proof.Machine.execLinkStatePeriod s
  | .linkStatePacket src up => Sys2Proof.Machine.execLinkStatePacket src up s
  | .cl0HeldRelease n src => Sys2Proof.Machine.execCl0HeldRelease n src s
  | .ethFrame e => Sys2Proof.Machine.execEthFrame e s
  | .ptpMessage m => Sys2Proof.Machine.execPtpMessage m s
  | .portEnableWrite o v => Sys2Proof.Machine.execPortEnableWrite o v s
  | .syncPeriod => Sys2Proof.Machine.execSyncPeriod s
  | .syncPacket n src stamp => Sys2Proof.Machine.execSyncPacket n src stamp s
  | .delayExchange n t1 t2 t3 t4 => Sys2Proof.Machine.execDelayExchange n t1 t2 t3 t4 s
  | .announcementPeriod => Sys2Proof.Machine.execAnnouncementPeriod s
  | .leaderAnnouncement src locked => Sys2Proof.Machine.execLeaderAnnouncement src locked s
  | .holdover => Sys2Proof.Machine.execHoldover s
  | .holdoverLimitExpiry => Sys2Proof.Machine.execHoldoverLimitExpiry s
  | .syncLock => Sys2Proof.Machine.execSyncLock s
  | .stepApply => Sys2Proof.Machine.execStepApply s
  | .stepNow o => Sys2Proof.Machine.execStepNow o s
  | .evsFree o v => Sys2Proof.Machine.execEvsFree o v s
  | .faultStop src job => Sys2Proof.Machine.execFaultStop src job s
  | .faultStopRepeat => Sys2Proof.Machine.execFaultStopRepeat s
  | .faultStopAck src job => Sys2Proof.Machine.execFaultStopAck src job s
  | .leavingNotice src job => Sys2Proof.Machine.execLeavingNotice src job s
  | .vauxWarning => Sys2Proof.Machine.execVauxWarning s
  | .vauxWarningClear => Sys2Proof.Machine.execVauxWarningClear s
  | .openSes addr port seq => Sys2Proof.Machine.execOpenSes addr port seq s
  | .close ses addr port => Sys2Proof.Machine.execClose ses addr port s
  | .ack ses addr port ackno ecn => Sys2Proof.Machine.execAck ses addr port ackno ecn s
  | .datagramRetransmit sp => Sys2Proof.Machine.execDatagramRetransmit sp s
  | .openSession h n addr port part rights => Sys2Proof.Machine.execOpenSession h n addr port part rights s
  | .closeSession h n => Sys2Proof.Machine.execCloseSession h n s
  | .setPackageId h id => Sys2Proof.Machine.execSetPackageId h id s
  | .regRead h addr count => Sys2Proof.Machine.execRegRead h addr count s
  | .regWrite h addr vals => Sys2Proof.Machine.execRegWrite h addr vals s
  | .memWrite h ga data => Sys2Proof.Machine.execMemWrite h ga data s
  | .memRead h ga count => Sys2Proof.Machine.execMemRead h ga count s
  | .assignTiles h part map => Sys2Proof.Machine.execAssignTiles h part map s
  | .releaseTiles h part map => Sys2Proof.Machine.execReleaseTiles h part map s
  | .queueBind h part q => Sys2Proof.Machine.execQueueBind h part q s
  | .queueUnbind h part q => Sys2Proof.Machine.execQueueUnbind h part q s
  | .launch h part d => Sys2Proof.Machine.execLaunch h part d s
  | .jobCreate h part job members => Sys2Proof.Machine.execJobCreate h part job members s
  | .jobClearStop h part => Sys2Proof.Machine.execJobClearStop h part s
  | .jobStopQuery src job => Sys2Proof.Machine.execJobStopQuery src job s
  | .jobStopAnswer src job stopped => Sys2Proof.Machine.execJobStopAnswer src job stopped s
  | .jobClearStopTimeout job => Sys2Proof.Machine.execJobClearStopTimeout job s
  | .jobLeave h part => Sys2Proof.Machine.execJobLeave h part s
  | .barrierSet h part g map members => Sys2Proof.Machine.execBarrierSet h part g map members s
  | .windowSet h w e => Sys2Proof.Machine.execWindowSet h w e s
  | .setCap h watts => Sys2Proof.Machine.execSetCap h watts s
  | .setPhasePoint h part tag op l => Sys2Proof.Machine.execSetPhasePoint h part tag op l s
  | .setEnvelope h watts => Sys2Proof.Machine.execSetEnvelope h watts s
  | .attest h nonce => Sys2Proof.Machine.execAttest h nonce s
  | .mbxPost h ch dest msg => Sys2Proof.Machine.execMbxPost h ch dest msg s
  | .mbxMsgStage o ch k v => Sys2Proof.Machine.execMbxMsgStage o ch k v s
  | .mbxGo o ch v => Sys2Proof.Machine.execMbxGo o ch v s
  | .mbxRelease o ch => Sys2Proof.Machine.execMbxRelease o ch s
  | .mbxRemotePost o ch msg => Sys2Proof.Machine.execMbxRemotePost o ch msg s
  | .mbxCompatWrite o ch on => Sys2Proof.Machine.execMbxCompatWrite o ch on s
  | .compatPost o ch v => Sys2Proof.Machine.execCompatPost o ch v s
  | .compatHeldRelease => Sys2Proof.Machine.execCompatHeldRelease s
  | .mbxRing o v => Sys2Proof.Machine.execMbxRing o v s
  | .ringReceive o bit => Sys2Proof.Machine.execRingReceive o bit s
  | .mbxMaskWrite o r v => Sys2Proof.Machine.execMbxMaskWrite o r v s
  | .htEnableWrite o v => Sys2Proof.Machine.execHtEnableWrite o v s
  | .burstPeriod => Sys2Proof.Machine.execBurstPeriod s
  | .capUnatt => Sys2Proof.Machine.execCapUnatt s
  | .thermalTrip temp => Sys2Proof.Machine.execThermalTrip temp s
  | .tripSwitchOff temp => Sys2Proof.Machine.execTripSwitchOff temp s
  | .tripClear o => Sys2Proof.Machine.execTripClear o s
  | .clockSwitchUp => Sys2Proof.Machine.execClockSwitchUp s
  | .levelMessage m => Sys2Proof.Machine.execLevelMessage m s
  | .levelMessageMissing => Sys2Proof.Machine.execLevelMessageMissing s
  | .heartbeat o v => Sys2Proof.Machine.execHeartbeat o v s
  | .hbLost => Sys2Proof.Machine.execHbLost s
  | .orphan => Sys2Proof.Machine.execOrphan s
  | .packAnswer a => Sys2Proof.Machine.execPackAnswer a s
  | .noPack => Sys2Proof.Machine.execNoPack s
  | .flowLost => Sys2Proof.Machine.execFlowLost s
  | .flowSwitchOff => Sys2Proof.Machine.execFlowSwitchOff s
  | .flowReturn => Sys2Proof.Machine.execFlowReturn s
  | .loopNop x => Sys2Proof.Machine.execLoopNop x s
  | .loopEnd x => Sys2Proof.Machine.execLoopEnd x s
  | .loopMov x => Sys2Proof.Machine.execLoopMov x s
  | .loopLdk x => Sys2Proof.Machine.execLoopLdk x s
  | .loopAdd x => Sys2Proof.Machine.execLoopAdd x s
  | .loopSub x => Sys2Proof.Machine.execLoopSub x s
  | .loopMul x => Sys2Proof.Machine.execLoopMul x s
  | .loopFma x => Sys2Proof.Machine.execLoopFma x s
  | .loopDiv x => Sys2Proof.Machine.execLoopDiv x s
  | .loopMin x => Sys2Proof.Machine.execLoopMin x s
  | .loopMax x => Sys2Proof.Machine.execLoopMax x s
  | .loopClamp x => Sys2Proof.Machine.execLoopClamp x s
  | .loopAbs x => Sys2Proof.Machine.execLoopAbs x s
  | .loopSel x => Sys2Proof.Machine.execLoopSel x s
  | .loopCgt x => Sys2Proof.Machine.execLoopCgt x s
  | .loopCge x => Sys2Proof.Machine.execLoopCge x s
  | .loopCeq x => Sys2Proof.Machine.execLoopCeq x s
  | .loopBr x => Sys2Proof.Machine.execLoopBr x s
  | .loopBrp x => Sys2Proof.Machine.execLoopBrp x s
  | .loopBrn x => Sys2Proof.Machine.execLoopBrn x s
  | .flt x => Sys2Proof.Machine.execFlt x s
  | .slew x => Sys2Proof.Machine.execSlew x s
  | .hyst x => Sys2Proof.Machine.execHyst x s
  | .pi x => Sys2Proof.Machine.execPi x s
  | .piu x => Sys2Proof.Machine.execPiu x s
  | .trk x => Sys2Proof.Machine.execTrk x s
  | .flw x => Sys2Proof.Machine.execFlw x s
  | .progDataLo o v => Sys2Proof.Machine.execProgDataLo o v s
  | .progDataHi o v => Sys2Proof.Machine.execProgDataHi o v s
  | .verify o v => Sys2Proof.Machine.execVerify o v s
  | .verifyDone => Sys2Proof.Machine.execVerifyDone s
  | .commit o v => Sys2Proof.Machine.execCommit o v s
  | .commitApply => Sys2Proof.Machine.execCommitApply s
  | .paletteCopyEnd => Sys2Proof.Machine.execPaletteCopyEnd s
  | .paletteWrite o k v => Sys2Proof.Machine.execPaletteWrite o k v s
  | .entryCommitWrite o addr v => Sys2Proof.Machine.execEntryCommitWrite o addr v s
  | .entryCommitApply => Sys2Proof.Machine.execEntryCommitApply s
  | .stageOpen o => Sys2Proof.Machine.execStageOpen o s
  | .stageAbort o => Sys2Proof.Machine.execStageAbort o s
  | .stageTimeout => Sys2Proof.Machine.execStageTimeout s
  | .directWrite o v => Sys2Proof.Machine.execDirectWrite o v s
  | .arm o => Sys2Proof.Machine.execArm o s
  | .force o => Sys2Proof.Machine.execForce o s
  | .stop o => Sys2Proof.Machine.execStop o s
  | .postComplete => Sys2Proof.Machine.execPostComplete s
  | .skDataRead o => Sys2Proof.Machine.execSkDataRead o s
  | .railSoftStart r v => Sys2Proof.Machine.execRailSoftStart r v s
  | .shortCheck r => Sys2Proof.Machine.execShortCheck r s
  | .softStartEnd r => Sys2Proof.Machine.execSoftStartEnd r s
  | .softStartTimeout r => Sys2Proof.Machine.execSoftStartTimeout r s
  | .railRetry r => Sys2Proof.Machine.execRailRetry r s
  | .countLeftReload r => Sys2Proof.Machine.execCountLeftReload r s
  | .railSwitchOff => Sys2Proof.Machine.execRailSwitchOff s
  | .railClear o r => Sys2Proof.Machine.execRailClear o r s
  | .railEnWrite o r en => Sys2Proof.Machine.execRailEnWrite o r en s
  | .phFaultClear o hi v => Sys2Proof.Machine.execPhFaultClear o hi v s
  | .frecWriteDone => Sys2Proof.Machine.execFrecWriteDone s
  | .statusFrame x => Sys2Proof.Machine.execStatusFrame x s
  | .renew => Sys2Proof.Machine.execRenew s
  | .brushLost => Sys2Proof.Machine.execBrushLost s
  | .brushNotice src x => Sys2Proof.Machine.execBrushNotice src x s
  | .standbyQuery => Sys2Proof.Machine.execStandbyQuery s
  | .endBClaim => Sys2Proof.Machine.execEndBClaim s
  | .handover o => Sys2Proof.Machine.execHandover o s
  | .handoverNotice src x => Sys2Proof.Machine.execHandoverNotice src x s
  | .selfDiagnosis stageOk eccOk slotsReadable => Sys2Proof.Machine.execSelfDiagnosis stageOk eccOk slotsReadable s
  | .rearm o => Sys2Proof.Machine.execRearm o s
  | .packReport x => Sys2Proof.Machine.execPackReport x s
  | .packageExcluded slot => Sys2Proof.Machine.execPackageExcluded slot s
  | .eject => Sys2Proof.Machine.execEject s
  | .ejectSwitchOff => Sys2Proof.Machine.execEjectSwitchOff s
  | .ejectRelease => Sys2Proof.Machine.execEjectRelease s
  | .balancePause => Sys2Proof.Machine.execBalancePause s
  | .sweepLatch => Sys2Proof.Machine.execSweepLatch s
  | .monitorReply m => Sys2Proof.Machine.execMonitorReply m s
  | .monitorTimeout mon => Sys2Proof.Machine.execMonitorTimeout mon s
  | .sweepClose => Sys2Proof.Machine.execSweepClose s
  | .farSegmentRequest q => Sys2Proof.Machine.execFarSegmentRequest q s
  | .farSegmentValues ms => Sys2Proof.Machine.execFarSegmentValues ms s
  | .refOverdue => Sys2Proof.Machine.execRefOverdue s
  | .caprun o => Sys2Proof.Machine.execCaprun o s
  | .caprunPhaseEnd => Sys2Proof.Machine.execCaprunPhaseEnd s
  | .capabort o => Sys2Proof.Machine.execCapabort o s
  | .capRecordWriteDone => Sys2Proof.Machine.execCapRecordWriteDone s
  | .hibernate => Sys2Proof.Machine.execHibernate s
  | .wake o => Sys2Proof.Machine.execWake o s
  | .noPackBusLow => Sys2Proof.Machine.execNoPackBusLow s
  | .noPackBusRestored => Sys2Proof.Machine.execNoPackBusRestored s
  | .varnishSample mV mA => Sys2Proof.Machine.execVarnishSample mV mA s
  | .vmarkCut => Sys2Proof.Machine.execVmarkCut s
  | .freeCut => Sys2Proof.Machine.execFreeCut s
  | .varnishSave => Sys2Proof.Machine.execVarnishSave s
  | .varnishSupplyWarn => Sys2Proof.Machine.execVarnishSupplyWarn s
  | .sectorErase => Sys2Proof.Machine.execSectorErase s
  | .varnishStart cause => Sys2Proof.Machine.execVarnishStart cause s
  | .sealTest ok => Sys2Proof.Machine.execSealTest ok s
  | .setParam id val tool => Sys2Proof.Machine.execSetParam id val tool s
  | .swBlock idx data => Sys2Proof.Machine.execSwBlock idx data s
  | .swCommit len hash ver tool => Sys2Proof.Machine.execSwCommit len hash ver tool s
  | .selfCheck ok code => Sys2Proof.Machine.execSelfCheck ok code s
  | .queryStatus dieTemp => Sys2Proof.Machine.execQueryStatus dieTemp s
  | .queryRecord => Sys2Proof.Machine.execQueryRecord s
  | .queryIdent => Sys2Proof.Machine.execQueryIdent s
  | .queryParams => Sys2Proof.Machine.execQueryParams s
  | .queryAttest => Sys2Proof.Machine.execQueryAttest s
  | .replyRetry => Sys2Proof.Machine.execReplyRetry s
  | .replyDrop => Sys2Proof.Machine.execReplyDrop s
  | .feedFrame data => Sys2Proof.Machine.execFeedFrame data s
  | .feedAccept => Sys2Proof.Machine.execFeedAccept s
  | .feedStale => Sys2Proof.Machine.execFeedStale s
  | .attrClear o v => Sys2Proof.Machine.execAttrClear o v s
  | .freeze o on => Sys2Proof.Machine.execFreeze o on s
  | .freezeTimeout => Sys2Proof.Machine.execFreezeTimeout s
  | .recordCommit => Sys2Proof.Machine.execRecordCommit s
  | .changeLogCommit => Sys2Proof.Machine.execChangeLogCommit s
  | .changeHoldRelease => Sys2Proof.Machine.execChangeHoldRelease s
  | .recClear o mode => Sys2Proof.Machine.execRecClear o mode s
  | .logClear o => Sys2Proof.Machine.execLogClear o s
  | .vauxPowerOn st => Sys2Proof.Machine.execVauxPowerOn st s
  | .vauxReset st => Sys2Proof.Machine.execVauxReset st s
  | .vauxRelease => Sys2Proof.Machine.execVauxRelease s
  | .resetN st => Sys2Proof.Machine.execResetN st s
  | .quietClockLost st => Sys2Proof.Machine.execQuietClockLost st s
  | .cold o st => Sys2Proof.Machine.execCold o st s
  | .warm o st => Sys2Proof.Machine.execWarm o st s
  | .pllLockLost memPll st => Sys2Proof.Machine.execPllLockLost memPll st s
  | .steward o => Sys2Proof.Machine.execSteward o s
  | .watchdogExpire => Sys2Proof.Machine.execWatchdogExpire s
  | .stewardSelf o => Sys2Proof.Machine.execStewardSelf o s
  | .wdogWrite o v => Sys2Proof.Machine.execWdogWrite o v s
  | .inService o => Sys2Proof.Machine.execInService o s
  | .test o => Sys2Proof.Machine.execTest o s
  | .optionLoadDone => Sys2Proof.Machine.execOptionLoadDone s
  | .clockGood k => Sys2Proof.Machine.execClockGood k s
  | .clockFail k => Sys2Proof.Machine.execClockFail k s
  | .recoveredClockSwitch => Sys2Proof.Machine.execRecoveredClockSwitch s
  | .bootStart o len => Sys2Proof.Machine.execBootStart o len s
  | .bootWinWrite o v => Sys2Proof.Machine.execBootWinWrite o v s
  | .bootDone o => Sys2Proof.Machine.execBootDone o s
  | .bootRequestPeriod => Sys2Proof.Machine.execBootRequestPeriod s
  | .bootPacket last data => Sys2Proof.Machine.execBootPacket last data s
  | .bootFailure => Sys2Proof.Machine.execBootFailure s
  | .bootRetry => Sys2Proof.Machine.execBootRetry s
  | .attGo o => Sys2Proof.Machine.execAttGo o s
  | .attExt o slot => Sys2Proof.Machine.execAttExt o slot s
  | .attestReportDone => Sys2Proof.Machine.execAttestReportDone s
  | .tileCycle => Sys2Proof.Machine.execTileCycle s
  | .vattnChunkDone t => Sys2Proof.Machine.execVattnChunkDone t s
  | .portLinkChange lanes fec => Sys2Proof.Machine.execPortLinkChange lanes fec s
  | .bootImageLoaded micro => Sys2Proof.Machine.execBootImageLoaded micro s
  | .leaderAnnouncementLapse src => Sys2Proof.Machine.execLeaderAnnouncementLapse src s
  | .illegalInstruction t w => Sys2Proof.Machine.execIllegalInstruction t w s

end Sys2Proof.Machine
end

