-- ==== Sys2Proof/Safety.lean ====
section
/-! DEFINITION. What counts as a safe run of the block, the canonical form that its memories keep, and the words in which claims
about commands are stated: what a command answers, when a tile issues, what is left alone. -/

namespace Sys2Proof.Machine

/-! ### Invariants -/

/-- A memory in its one canonical form: addresses strictly rising, and no entry equal to the 0 that an unlisted address of
scratch or vault reads as (R174, log 18). -/
abbrev Memory.wf (m : List Host.Cell) : Bool := mapWf 0 m

/-- The companion flash in its canonical form: an unlisted address reads as an erased byte, 0xFF (log 18). -/
abbrev Flash.wf (m : List Host.Cell) : Bool := mapWf 0xFF m

/-- The addressed memories of a package are in canonical form. -/
def State.memWf (s : State) : Bool := Memory.wf s.scratch && Memory.wf s.vault && Flash.wf s.flash

/-- The sum of the 274 energy accounts (R401). -/
def acctTotal (acct : SMap Nat) : Nat := ((List.range accounts).map (mapGet 0 acct)).sum

/-- The energy ledger (R401, R405): the sum of all accounts and of what has been cleared is what has been metered, in 64-bit
counts; an account that a pending clear names is one of the 274. -/
structure Ledger (acct : SMap Nat) (cleared metered : Nat) (clear : Option Nat) : Prop where
  sum : (acctTotal acct + cleared) % 2 ^ 64 = metered % 2 ^ 64
  pending : ∀ i, clear = some i → i < accounts

/-- What every step keeps: canonical memories, at most 4,096 records in the event stream (R44) and at most 64 reports in the
recorder's intake (R413), every outstanding remote operation numbered below the number that the next one will have, and the energy
ledger of R401. -/
structure State.Inv (s : State) : Prop where
  mem : s.memWf = true
  stream : s.evs.length ≤ 4096
  intake : s.recorder.intake.length ≤ 64
  ops : ∀ o ∈ s.rops, o.id < s.nextOp
  ledger : Ledger s.attr.acct s.attr.cleared s.attr.metered s.attr.clear

/-- A step that does not stop: the package goes on (every stop of the model is a `Fault` or a `Refusal`). -/
def State.goesOn (s : State) : Prop := ∃ s', step s = .next s'

/-! ### What a command answers -/

/-- The command answers a next state of which `P` holds. -/
def Gives (c : Instr) (s : State) (P : State → Prop) : Prop := ∃ t, exec c s = .next t ∧ P t

/-! ### Tiles -/

/-- The command of a tile instruction, by its CLASS and OP (R47, R54 to R68, R99, R125, R183). -/
def tileInstr (cls op : Nat) : Option (TileId → Ins → Instr) :=
  match cls, op with
  | 0, 0x00 => some Instr.add
  | 0, 0x01 => some Instr.sub
  | 0, 0x02 => some Instr.mul
  | 0, 0x03 => some Instr.mulhu
  | 0, 0x04 => some Instr.mulhs
  | 0, 0x05 => some Instr.divu
  | 0, 0x06 => some Instr.remu
  | 0, 0x08 => some Instr.and
  | 0, 0x09 => some Instr.or
  | 0, 0x0A => some Instr.xor
  | 0, 0x0B => some Instr.andn
  | 0, 0x0C => some Instr.shl
  | 0, 0x0D => some Instr.shr
  | 0, 0x0E => some Instr.sra
  | 0, 0x10 => some Instr.min
  | 0, 0x11 => some Instr.max
  | 0, 0x12 => some Instr.minu
  | 0, 0x13 => some Instr.maxu
  | 0, 0x14 => some Instr.clz
  | 0, 0x15 => some Instr.popc
  | 0, 0x18 => some Instr.sel
  | 0, 0x20 => some Instr.cmpEq
  | 0, 0x21 => some Instr.cmpNe
  | 0, 0x22 => some Instr.cmpLt
  | 0, 0x23 => some Instr.cmpLe
  | 0, 0x24 => some Instr.cmpLtu
  | 0, 0x25 => some Instr.cmpLeu
  | 0, 0x28 => some Instr.pand
  | 0, 0x29 => some Instr.por
  | 0, 0x2A => some Instr.pxor
  | 0, 0x2B => some Instr.pnot
  | 0, 0x80 => some Instr.addi
  | 0, 0x82 => some Instr.muli
  | 0, 0x88 => some Instr.andi
  | 0, 0x89 => some Instr.ori
  | 0, 0x8A => some Instr.xori
  | 0, 0x8C => some Instr.shli
  | 0, 0x8D => some Instr.shri
  | 0, 0x8E => some Instr.srai
  | 0, 0x90 => some Instr.movi
  | 0, 0x91 => some Instr.movk
  | 0, 0xA0 => some Instr.cmpiEq
  | 0, 0xA1 => some Instr.cmpiNe
  | 0, 0xA2 => some Instr.cmpiLt
  | 0, 0xA3 => some Instr.cmpiLe
  | 0, 0xA4 => some Instr.cmpiLtu
  | 0, 0xA5 => some Instr.cmpiLeu
  | 1, 0x00 => some Instr.br
  | 1, 0x01 => some Instr.jr
  | 1, 0x02 => some Instr.call
  | 1, 0x03 => some Instr.callr
  | 2, 0x00 => some Instr.ldU8
  | 2, 0x01 => some Instr.ldU16
  | 2, 0x02 => some Instr.ldU32
  | 2, 0x03 => some Instr.ld64
  | 2, 0x04 => some Instr.ldS8
  | 2, 0x05 => some Instr.ldS16
  | 2, 0x06 => some Instr.ldS32
  | 2, 0x08 => some Instr.st8
  | 2, 0x09 => some Instr.st16
  | 2, 0x0A => some Instr.st32
  | 2, 0x0B => some Instr.st64
  | 2, 0x10 => some Instr.vld
  | 2, 0x11 => some Instr.vst
  | 3, 0x00 => some Instr.vaddF32
  | 3, 0x01 => some Instr.vsubF32
  | 3, 0x02 => some Instr.vmulF32
  | 3, 0x03 => some Instr.vfmaF32
  | 3, 0x04 => some Instr.vminF32
  | 3, 0x05 => some Instr.vmaxF32
  | 3, 0x06 => some Instr.vabsF32
  | 3, 0x07 => some Instr.vnegF32
  | 3, 0x08 => some Instr.vdivF32
  | 3, 0x09 => some Instr.vsqrtF32
  | 3, 0x0A => some Instr.vrcpF32
  | 3, 0x0B => some Instr.vrsqrtF32
  | 3, 0x10 => some Instr.vaddI32
  | 3, 0x11 => some Instr.vsubI32
  | 3, 0x12 => some Instr.vmulI32
  | 3, 0x13 => some Instr.vand
  | 3, 0x14 => some Instr.vor
  | 3, 0x15 => some Instr.vxor
  | 3, 0x16 => some Instr.vshl
  | 3, 0x17 => some Instr.vshr
  | 3, 0x18 => some Instr.vsra
  | 3, 0x19 => some Instr.vminS32
  | 3, 0x1A => some Instr.vmaxS32
  | 3, 0x20 => some Instr.vcmpF32
  | 3, 0x21 => some Instr.vcmpI32
  | 3, 0x28 => some Instr.vbcast
  | 3, 0x29 => some Instr.vext
  | 3, 0x2A => some Instr.vins
  | 3, 0x2B => some Instr.vperm
  | 3, 0x2C => some Instr.viota
  | 3, 0x30 => some Instr.vrsumF32
  | 3, 0x31 => some Instr.vrmaxF32
  | 3, 0x32 => some Instr.vrminF32
  | 3, 0x33 => some Instr.vrsumI32
  | 3, 0x34 => some Instr.vrmaxS32
  | 3, 0x35 => some Instr.vrminS32
  | 3, 0x38 => some Instr.vexp
  | 3, 0x39 => some Instr.vexp2
  | 3, 0x3A => some Instr.vlog
  | 3, 0x3B => some Instr.vlog2
  | 3, 0x3C => some Instr.vtanh
  | 3, 0x3D => some Instr.vsigm
  | 3, 0x40 => some Instr.vcvtW
  | 3, 0x41 => some Instr.vcvtN
  | 3, 0x42 => some Instr.vcvtF2i
  | 3, 0x43 => some Instr.vcvtI2f
  | 3, 0x44 => some Instr.vqx
  | 3, 0x48 => some Instr.vstm
  | 3, 0x49 => some Instr.vgather
  | 3, 0x4A => some Instr.vscatter
  | 3, 0x50 => some Instr.vphaseP
  | 3, 0x51 => some Instr.vphaseF
  | 3, 0x58 => some Instr.vosm
  | 3, 0x59 => some Instr.vosmj
  | 3, 0x5C => some Instr.vattn
  | 4, 0x00 => some Instr.mma
  | 4, 0x08 => some Instr.mzero
  | 4, 0x10 => some Instr.mst
  | 4, 0x11 => some Instr.mvr
  | 4, 0x18 => some Instr.mstx
  | 4, 0x19 => some Instr.mldx
  | 4, 0x20 => some Instr.mflg
  | 5, 0x00 => some Instr.dmaV2s
  | 5, 0x01 => some Instr.dmaS2v
  | 6, 0x00 => some Instr.put
  | 6, 0x01 => some Instr.get
  | 6, 0x02 => some Instr.puts
  | 6, 0x08 => some Instr.aadd
  | 6, 0x09 => some Instr.cas
  | 6, 0x0A => some Instr.swap
  | 6, 0x10 => some Instr.xacc
  | 6, 0x18 => some Instr.notify
  | 6, 0x1C => some Instr.fence
  | 6, 0x20 => some Instr.rstat
  | 7, 0x00 => some Instr.crd
  | 7, 0x01 => some Instr.cset
  | 7, 0x02 => some Instr.cadd
  | 7, 0x03 => some Instr.caddi
  | 7, 0x08 => some Instr.cwait
  | 7, 0x09 => some Instr.cwaiti
  | 7, 0x0A => some Instr.cwaitT
  | 7, 0x10 => some Instr.sleep
  | 8, 0x00 => some Instr.nop
  | 8, 0x01 => some Instr.endK
  | 8, 0x02 => some Instr.phase
  | 8, 0x03 => some Instr.barrier
  | 8, 0x04 => some Instr.rdts
  | 8, 0x05 => some Instr.rdid
  | 8, 0x06 => some Instr.rdcyc
  | 8, 0x07 => some Instr.trap
  | _, _ => none

/-- A tile issues an instruction of this class and operation and executes it: it may issue, its fetch meets no stored error, its
predicate is true, and there is a next instruction (R51, R52, R77, R164). -/
structure Issues (t : TileId) (cls op : Nat) (f : Ins) (s : State) : Prop where
  may : canIssue t.toNat cls op f s = true
  fetch : mapGet 0 s.istoreErr (t.toNat * 8192 + (tileAt t.toNat s).pc) = 0
  pred : pGet (tileAt t.toNat s) f.p.toNat = true
  room : (tileAt t.toNat s).pc ≠ 8191

/-- Nothing but tile `t` and the activity counts of the attribution engine has changed: no other tile, no byte of any memory, no
register of the control space, no other unit. -/
structure OnlyTile (t : TileId) (s s' : State) : Prop where
  tiles : ∀ u : Nat, u ≠ t.toNat → tileAt u s' = tileAt u s
  counts : { s'.attr with counts := s.attr.counts } = s.attr
  rest : { s' with tile := s.tile, attr := s.attr } = s

/-- Scalar register `d` holds `v`, unless it is s0, which discards writes (R50); the PC names the next instruction; every other
scalar register and everything else of the tile and the package is as before. -/
structure WroteS (t : TileId) (d : BitVec 6) (v : BitVec 64) (s s' : State) : Prop where
  value : ∀ k : BitVec 6, sGet (tileAt t.toNat s') k.toNat = if k = d ∧ d ≠ 0 then v else sGet (tileAt t.toNat s) k.toNat
  tile : tileAt t.toNat s' = { tileAt t.toNat s with
    sreg := (tileAt t.toNat s').sreg, incs := [], pc := (tileAt t.toNat s).pc + 1 }
  only : OnlyTile t s s'

/-- Predicate `d` is `b`, unless it is p0, which discards writes (R50), and nothing else has changed but the PC. -/
structure WroteP (t : TileId) (d : BitVec 6) (b : Bool) (s s' : State) : Prop where
  value : ∀ k : BitVec 3, pGet (tileAt t.toNat s') k.toNat = if k.setWidth 6 = d ∧ d ≠ 0 then b else pGet (tileAt t.toNat s) k.toNat
  tile : tileAt t.toNat s' = { tileAt t.toNat s with
    pred := (tileAt t.toNat s').pred, incs := [], pc := (tileAt t.toNat s).pc + 1 }
  only : OnlyTile t s s'

/-- Counter `d` holds `v`, and nothing else has changed but the PC. -/
structure WroteC (t : TileId) (d : BitVec 6) (v : BitVec 32) (s s' : State) : Prop where
  value : ∀ k : BitVec 6, cGet (tileAt t.toNat s') k.toNat = if k = d then v else cGet (tileAt t.toNat s) k.toNat
  tile : tileAt t.toNat s' = { tileAt t.toNat s with ctr := (tileAt t.toNat s').ctr, incs := [], pc := (tileAt t.toNat s).pc + 1 }
  only : OnlyTile t s s'

/-- The lanes of v[d] that are on hold `g`, every other lane of every vector register is as before, the tile flags gain `fl`, and
nothing else has changed but the PC. -/
structure WroteV (t : TileId) (d : BitVec 6) (on : Nat → Bool) (g : Nat → BitVec 32) (fl : BitVec 4) (s s' : State) : Prop where
  value : ∀ (k : BitVec 6) (l : Nat), l < 64 →
    vGet (tileAt t.toNat s') k.toNat l = if k = d ∧ on l then g l else vGet (tileAt t.toNat s) k.toNat l
  flags : (tileAt t.toNat s').flags = (tileAt t.toNat s).flags ||| fl
  tile : tileAt t.toNat s' = { tileAt t.toNat s with
    vreg := (tileAt t.toNat s').vreg, flags := (tileAt t.toNat s').flags, incs := [], pc := (tileAt t.toNat s).pc + 1 }
  only : OnlyTile t s s'

/-- The tile waits from the next instruction on, in state `st` for `w`; nothing else has changed. -/
structure Waits (t : TileId) (st : BitVec 5) (w : Wait) (s s' : State) : Prop where
  tile : tileAt t.toNat s' = { tileAt t.toNat s with st := st, wait := w, incs := [], pc := (tileAt t.toNat s).pc + 1 }
  only : OnlyTile t s s'

/-- Issue goes on at `pc`; nothing else of the tile has changed. -/
structure GoesTo (t : TileId) (pc : Nat) (s s' : State) : Prop where
  tile : tileAt t.toNat s' = { tileAt t.toNat s with incs := [], pc := pc }
  only : OnlyTile t s s'

/-- A matrix instruction changes its tile as `change` says, is in flight as `m` until its cycles have passed (R115), and changes
nothing else but the PC. -/
structure MatDone (t : TileId) (m : MatOp) (change : Tile → Tile) (s s' : State) : Prop where
  tile : tileAt t.toNat s' = { change (tileAt t.toNat s) with
    mats := (tileAt t.toNat s).mats ++ [m], incs := [], pc := (tileAt t.toNat s).pc + 1 }
  only : OnlyTile t s s'

/-! ### Memories -/

/-- No grain that `n` bytes at `a` of a tile's scratch, or of its vault, touch holds a stored error. -/
def NoErr (scratch : Bool) (t a n : Nat) (s : State) : Prop :=
  badGrains scratch t a n 1 s = [] ∧ badGrains scratch t a n 2 s = []

/-- The scratch of tile `t` holds no stored error. -/
def CleanScratch (t : Nat) (s : State) : Prop := ∀ e ∈ s.scratchErr, e.1 / 2 ^ 17 ≠ t

/-- A byte of scratch and of a vault, by tile and address (R151, R156). -/
def scratchByte (t a : Nat) (s : State) : Byte := mapGet 0 s.scratch (t * scratchSize + a)
def vaultByte (t a : Nat) (s : State) : Byte := mapGet 0 s.vault (t * vaultSize + a)

/-- An instruction stored `n` bytes at `a` of the tile's own scratch: those bytes are `g`'s, every other byte of every scratch is
as before, and besides them only the PC, the activity counts and the write-backs that the store makes needless have changed. -/
structure Stored (t : TileId) (a n : Nat) (g : Nat → Byte) (s s' : State) : Prop where
  bytes : ∀ i, i < n → scratchByte t.toNat (a + i) s' = g i
  others : ∀ k : Nat, ¬ (t.toNat * scratchSize + a ≤ k ∧ k < t.toNat * scratchSize + a + n) →
    mapGet 0 s'.scratch k = mapGet 0 s.scratch k
  tiles : ∀ u : Nat, tileAt u s' =
    if u = t.toNat then { tileAt u s with incs := [], pc := (tileAt u s).pc + 1 } else tileAt u s
  fixes : ∀ k ∈ s'.scratchFix, k ∈ s.scratchFix
  counts : { s'.attr with counts := s.attr.counts } = s.attr
  rest : { s' with tile := s.tile, scratch := s.scratch, scratchFix := s.scratchFix, attr := s.attr } = s

/-! ### The control space and the host -/

/-- The access of origin `o` to address `a` is answered with `r`; apart from the answer the state is `t`. -/
def Answered (o : Origin) (a : Nat) (r : Resp) (t s' : State) : Prop :=
  s' = { t with out := .access o (BitVec.ofNat 24 a) r :: t.out }

/-- The write of `v` by origin `o` at address `a` is accepted, has its entry of kind 0 in the change log with the value before and
the value written, and apart from that makes the state `t` of `s`. -/
def Accepted (o : Origin) (a : Nat) (v : BitVec 32) (s t s' : State) : Prop :=
  Answered o a (.ok 0) { t with changes := { t.changes with intake := t.changes.intake ++
    [⟨o, 0, now t, BitVec.ofNat 32 a, auxOf a v s, (regVal a s).setWidth 64, v.setWidth 64, markNow t⟩] } } s'

/-- No command of a session waits to begin, and none of an ended session waits to go on. -/
structure NothingWaits (s : State) : Prop where
  sessions : ∀ e ∈ s.session, e.2.waiting = []
  clears : s.clears = []
  orphans : s.orphans = []

/-- Session `n` can send one more datagram at once (R239), over a port that is up and sends nothing else. -/
structure CanSend (n : Nat) (s : State) : Prop where
  small : n < 64
  isOpen : (sesAt n s).isOpen = true
  none : (sesAt n s).chan.queued = []
  room : (sesAt n s).chan.unacked.length < (sesAt n s).chan.window
  port : regIs aPort 0 s = true
  idle : s.eth.queue = []

/-- Session `n` is sent `m`, in the class and with the marks of its kind (R20, R229); apart from that the state is `t`. -/
structure Sent (n : Nat) (m : HostMsg) (t s' : State) : Prop where
  out : s'.out = .host (ethTag (hostClass m) t) (BitVec.ofNat 16 n) m :: t.out
  chan : sesAt n s' = { sesAt n t with chan := { (sesAt n t).chan with
    txSeq := (sesAt n t).chan.txSeq + 1
    unacked := (sesAt n t).chan.unacked ++ [⟨(sesAt n t).chan.txSeq, 0, t.tick, m⟩] } }
  others : ∀ k : Nat, k ≠ n → sesAt k s' = sesAt k t
  port : s'.eth = { t.eth with turn := afterClass t.eth.turn (hostClass m) }
  rest : { s' with session := t.session, out := t.out, eth := t.eth } = t

/-- A command of an open session is begun at once: the transport is on, the session has room, the command is served in this role
and boot state, and nothing waits before it (R23, R242, R245, R421). -/
structure Serves (h : CmdHdr) (c : HostCmd) (s : State) : Prop where
  on : htOn s = true
  send : CanSend h.ses.toNat s
  room : (sesAt h.ses.toNat s).cmds < 64
  first : NothingWaits s
  windows : s.windowWaits = []
  gate : cmdGated h.ses.toNat c s = false
  steward : waitsSteward c s = false
  supply : basicLevel c = true → vsramOn s = true
  log : logsCmd c = true → logRoom s = true

/-- The command is answered with a status and data; apart from that the state is `t`. -/
def Replies (h : CmdHdr) (status : BitVec 8) (data : List Byte) (t s' : State) : Prop :=
  Sent h.ses.toNat (.response h.tag status 0 data) t s'

/-- The command has had its effect `t`, its entry of kind 2 in the change log (whose NEW value is free, log 32), and the answer 0. -/
def Performed (h : CmdHdr) (op : Nat) (t s' : State) : Prop :=
  Replies h 0 [] { t with
    free := t.free + 1
    changes := { t.changes with intake := t.changes.intake ++
      [⟨h.ses, 2, now t, BitVec.ofNat 32 (h.ses.toNat * 65536 + op), 0, 0, Config.freeValue t.free, markNow t⟩] } } s'

/-! ### Stopping a job -/

/-- R29 has been applied to job `j` for the fault of record `r`: the tiles of its partitions have stopped with their work abandoned, the
packets of their operations that had not left are gone, its barrier groups are as after configuration, its queues are empty, its sessions
have been told with the record; every other tile, group, queue and session command, every register and every other unit is as before. -/
structure JobStops (j : BitVec 16) (r : Report) (s t : State) : Prop where
  job : jobAt j t = (jobAt j s).map (fun x => { x with stopped := true, stopAt := s.tick })
  jobs : ∀ k : BitVec 16, k ≠ j → jobAt k t = jobAt k s
  stopped : ∀ u : Nat, jobOfTile u s = some j → (tileAt u s).st ≠ 0 →
    (tileAt u t).st = (if (tileAt u s).fault.valid = true then 8 else 7) ∧ (tileAt u t).wait = .none ∧ (tileAt u t).dmas = [] ∧
    (tileAt u t).mats = [] ∧ (tileAt u t).vattn = none ∧ (tileAt u t).pc = (tileAt u s).pc ∧ (tileAt u t).fault = (tileAt u s).fault ∧
    ((tileAt u s).mats = [] → (tileAt u s).vattn = none →
      tileAt u t = { tileAt u s with st := (tileAt u t).st, wait := .none, dmas := [] })
  tiles : ∀ u : Nat, (jobOfTile u s ≠ some j ∨ (tileAt u s).st = 0) → tileAt u t = tileAt u s
  memory : (∀ u : Nat, jobOfTile u s = some j → (tileAt u s).dmas = []) →
    t.scratch = s.scratch ∧ t.vault = s.vault ∧ t.scratchErr = s.scratchErr ∧ t.vaultErr = s.vaultErr
  ops : (∀ o ∈ t.rops, o ∈ s.rops) ∧ (∀ o ∈ s.rops, o ∉ t.rops →
    ∃ u ∈ tilesIn s, o.src = .tile (BitVec.ofNat 10 u) ∧ jobOfTile u s = some j)
  links : ∀ n : Nat, { linkAt n t with queue := (linkAt n s).queue } = linkAt n s ∧ (∀ p ∈ (linkAt n t).queue, p ∈ (linkAt n s).queue)
  packets : ∀ o ∈ s.rops, o ∉ t.rops → ∀ n : Nat, ∀ p ∈ (linkAt n t).queue, p.src = pkgId s → p.body.bind requestId ≠ some o.id
  groups : ∀ k : Nat, mapGet Group.zero t.group k =
    if k / 16 ∈ partsOfJob j s then { mapGet Group.zero s.group k with arrived := 0, sent := false, pkgs := [], held := false }
    else mapGet Group.zero s.group k
  queues : ∀ q : Nat, (∃ p ∈ partsOfJob j s, (queueAt q s).part = some (BitVec.ofNat 4 p)) →
    queueAt q t = { queueAt q s with posted := [], running := none, ended := 0 }
  kept : ∀ q : Nat, (∀ p ∈ partsOfJob j s, q ∉ queuesOf p s) → queueAt q t = queueAt q s
  told : ∀ n : Nat, n < 64 → (sesAt n s).isOpen = true → (∃ p ∈ partsOfJob j s, (sesAt n s).part = some (BitVec.ofNat 4 p)) →
    (∃ d ∈ (sesAt n t).chan.unacked, d.msg = .jobFault j r) ∨ HostMsg.jobFault j r ∈ (sesAt n t).chan.queued
  sent : regIs aPort 0 s = true → s.eth.queue = [] → ∀ n : Nat, n < 64 → (sesAt n s).isOpen = true →
    (∃ p ∈ partsOfJob j s, (sesAt n s).part = some (BitVec.ofNat 4 p)) →
    Out.host (ethTag 0 s) (BitVec.ofNat 16 n) (.jobFault j r) ∈ t.out ∨ HostMsg.jobFault j r ∈ (sesAt n t).chan.queued
  sessions : ∀ n : Nat, { sesAt n t with chan := (sesAt n s).chan } = sesAt n s
  rest : { t with jobs := s.jobs, tile := s.tile, scratch := s.scratch, scratchErr := s.scratchErr, vault := s.vault,
                  vaultErr := s.vaultErr, free := s.free, rops := s.rops, fences := s.fences, group := s.group,
                  queue := s.queue, session := s.session, out := s.out, link := s.link, peer := s.peer, eth := s.eth } = s

end Sys2Proof.Machine
end

