-- ==== Sys2Proof/Certificates/Slice0/Obligations.lean ====
section
/-! DEFINITION. The statements about the model for the provers. -/

open Sys2Proof Sys2Proof.Machine

/-! ### Steps and invariants -/

/-- O1. A step runs the command at the front of the queue on the state with the queue's rest; with no command waiting the block
idles (the idling is the model's choice, log 1). -/
def Obligations.StepRunsFrontCommand : Prop :=
  (∀ (c : Instr) (rest : List Instr) (s : State), step { s with pending := c :: rest } = exec c { s with pending := rest }) ∧
  (∀ s : State, s.pending = [] → step s = .next s)

/-- O2. After reset the memories are empty and canonical, no tile runs, no session is open, the clocks of the package are not good
and every tile's issue is held (R441, R298, R417). -/
def Obligations.ResetStateIsSound : Prop :=
  State.reset.Inv ∧ State.reset.pending = [] ∧ (∀ t : Nat, tileAt t State.reset = Tile.zero) ∧
  (∀ n : Nat, (sesAt n State.reset).isOpen = false) ∧ (∀ a : Nat, reg a State.reset = regReset a) ∧
  (∀ t a n : Nat, readScratch t a n State.reset = List.replicate n 0) ∧
  (∀ t : Nat, clusterOpen t State.reset = false) ∧ State.reset.rst.released = 0

/-- O3. Whatever the command, a step keeps the canonical form of the memories, the 4,096 records of the event stream, the 64
reports of the recorder's intake, remote operations whose numbers lie below the next one's, and the energy ledger of R401: the 274
accounts and what has been cleared sum to what has been metered. -/
def Obligations.EveryStepKeepsInvariant : Prop :=
  ∀ s t : State, s.Inv → step s = .next t → t.Inv

/-- O4. Commands come from outside only: a step takes exactly the command at the front of the queue, and no command adds, drops or
reorders another. -/
def Obligations.StepTakesOneCommand : Prop :=
  ∀ s t : State, step s = .next t → t.pending = s.pending.tail

/-! ### Scalar instructions (R54 to R57) -/

/-- O5. The register-to-register scalar instructions: each completes with its result in s[D] and nothing else changed. -/
def Obligations.ScalarRegisterResults : Prop :=
  ∀ (t : TileId) (f : Ins) (s : State), f.imm = 0 →
    let a := sGet (tileAt t.toNat s) f.a.toNat
    let b := sGet (tileAt t.toNat s) f.b.toNat
    let writes (c : Instr) (op : Nat) (v : BitVec 64) : Prop := Issues t 0 op f s → Gives c s (WroteS t f.d v s)
    writes (.add t f) 0x00 (a + b) ∧ writes (.sub t f) 0x01 (a - b) ∧ writes (.mul t f) 0x02 (a * b) ∧
    writes (.mulhu t f) 0x03 (BitVec.ofNat 64 (a.toNat * b.toNat / 2 ^ 64)) ∧
    writes (.mulhs t f) 0x04 (BitVec.ofInt 64 (Int.fdiv (a.toInt * b.toInt) (2 ^ 64))) ∧
    writes (.divu t f) 0x05 (if b = 0 then BitVec.allOnes 64 else BitVec.ofNat 64 (a.toNat / b.toNat)) ∧
    writes (.remu t f) 0x06 (if b = 0 then a else BitVec.ofNat 64 (a.toNat % b.toNat)) ∧
    writes (.and t f) 0x08 (a &&& b) ∧ writes (.or t f) 0x09 (a ||| b) ∧ writes (.xor t f) 0x0A (a ^^^ b) ∧
    writes (.andn t f) 0x0B (a &&& ~~~b) ∧
    writes (.shl t f) 0x0C (BitVec.ofNat 64 (if b.toNat < 64 then a.toNat * 2 ^ b.toNat else 0)) ∧
    writes (.shr t f) 0x0D (BitVec.ofNat 64 (if b.toNat < 64 then a.toNat / 2 ^ b.toNat else 0)) ∧
    writes (.sra t f) 0x0E (BitVec.ofInt 64 (Int.fdiv a.toInt (2 ^ min b.toNat 64))) ∧
    writes (.min t f) 0x10 (if a.toInt < b.toInt then a else b) ∧ writes (.max t f) 0x11 (if a.toInt < b.toInt then b else a) ∧
    writes (.minu t f) 0x12 (if a.toNat < b.toNat then a else b) ∧ writes (.maxu t f) 0x13 (if a.toNat < b.toNat then b else a) ∧
    (f.b = 0 → writes (.clz t f) 0x14 (BitVec.ofNat 64 (if a = 0 then 64 else 63 - Nat.log2 a.toNat))) ∧
    (f.b = 0 → writes (.popc t f) 0x15 (BitVec.ofNat 64 ((List.range 64).filter (fun i => a.getLsbD i)).length))

/-- O6. The scalar instructions with an immediate, SEL, MOVI and MOVK, which replaces one 16-bit field of s[D] and leaves the other 48
bits unchanged (R57). -/
def Obligations.ScalarImmediateResults : Prop :=
  ∀ (t : TileId) (f : Ins) (s : State),
    let x := tileAt t.toNat s
    let a := sGet x f.a.toNat
    let imm : BitVec 64 := f.imm.signExtend 64
    let n := f.imm.toNat
    let writes (c : Instr) (op : Nat) (v : BitVec 64) : Prop := Issues t 0 op f s → Gives c s (WroteS t f.d v s)
    (f.b = 0 →
      writes (.addi t f) 0x80 (a + imm) ∧ writes (.muli t f) 0x82 (a * imm) ∧ writes (.andi t f) 0x88 (a &&& imm) ∧
      writes (.ori t f) 0x89 (a ||| imm) ∧ writes (.xori t f) 0x8A (a ^^^ imm) ∧
      writes (.shli t f) 0x8C (BitVec.ofNat 64 (if n < 64 then a.toNat * 2 ^ n else 0)) ∧
      writes (.shri t f) 0x8D (BitVec.ofNat 64 (if n < 64 then a.toNat / 2 ^ n else 0)) ∧
      writes (.srai t f) 0x8E (BitVec.ofInt 64 (Int.fdiv a.toInt (2 ^ min n 64)))) ∧
    (f.a = 0 → f.b = 0 → writes (.movi t f) 0x90 imm) ∧
    (f.a = 0 → f.b = 0 → n < 2 ^ 18 →
      writes (.movk t f) 0x91
        (let d := sGet x f.d.toNat
         let q := 16 * (n / 2 ^ 16)
         BitVec.ofNat 64 (d.toNat - d.toNat / 2 ^ q % 2 ^ 16 * 2 ^ q + n % 2 ^ 16 * 2 ^ q))) ∧
    (f.a = 0 → f.b = 0 → 2 ^ 18 ≤ n → canIssue t.toNat 0 0x91 f s = true → mapGet 0 s.istoreErr (t.toNat * 8192 + x.pc) = 0 →
      exec (.movk t f) s = .next (raiseFault t.toNat 3 x.pc (insWord 0 0x91 f) 0 (fetched t.toNat s))) ∧
    (n % 2 ^ 25 = 0 → n < 2 ^ 28 →
      writes (.sel t f) 0x18 (if pGet x (n / 2 ^ 25) then a else sGet x f.b.toNat))

/-- O7. CMP, CMPI and the predicate operations write p[D], and p0 discards it; a D, or in the predicate operations an A or a B, of 8
and above is an illegal instruction (R56). -/
def Obligations.PredicateResults : Prop :=
  ∀ (t : TileId) (f : Ins) (s : State),
    let x := tileAt t.toNat s
    let a := sGet x f.a.toNat
    let b := sGet x f.b.toNat
    let imm : BitVec 64 := f.imm.signExtend 64
    let writes (c : Instr) (op : Nat) (v : Bool) : Prop := f.d.toNat < 8 → Issues t 0 op f s → Gives c s (WroteP t f.d v s)
    let illegal (c : Instr) (op : Nat) : Prop :=
      canIssue t.toNat 0 op f s = true → mapGet 0 s.istoreErr (t.toNat * 8192 + x.pc) = 0 →
      exec c s = .next (raiseFault t.toNat 4 x.pc (insWord 0 op f) 0 (fetched t.toNat s))
    (f.imm = 0 →
      writes (.cmpEq t f) 0x20 (decide (a = b)) ∧ writes (.cmpNe t f) 0x21 (decide (a ≠ b)) ∧
      writes (.cmpLt t f) 0x22 (decide (a.toInt < b.toInt)) ∧ writes (.cmpLe t f) 0x23 (decide (a.toInt ≤ b.toInt)) ∧
      writes (.cmpLtu t f) 0x24 (decide (a.toNat < b.toNat)) ∧ writes (.cmpLeu t f) 0x25 (decide (a.toNat ≤ b.toNat))) ∧
    (f.imm = 0 → f.a.toNat < 8 → f.b.toNat < 8 →
      writes (.pand t f) 0x28 (pGet x f.a.toNat && pGet x f.b.toNat) ∧
      writes (.por t f) 0x29 (pGet x f.a.toNat || pGet x f.b.toNat) ∧
      writes (.pxor t f) 0x2A (pGet x f.a.toNat != pGet x f.b.toNat) ∧
      (f.b = 0 → writes (.pnot t f) 0x2B (!pGet x f.a.toNat))) ∧
    (f.b = 0 →
      writes (.cmpiEq t f) 0xA0 (decide (a = imm)) ∧ writes (.cmpiNe t f) 0xA1 (decide (a ≠ imm)) ∧
      writes (.cmpiLt t f) 0xA2 (decide (a.toInt < imm.toInt)) ∧ writes (.cmpiLe t f) 0xA3 (decide (a.toInt ≤ imm.toInt)) ∧
      writes (.cmpiLtu t f) 0xA4 (decide (a.toNat < imm.toNat)) ∧ writes (.cmpiLeu t f) 0xA5 (decide (a.toNat ≤ imm.toNat))) ∧
    (8 ≤ f.d.toNat → f.imm = 0 → illegal (.cmpEq t f) 0x20 ∧ illegal (.cmpNe t f) 0x21 ∧ illegal (.cmpLt t f) 0x22 ∧
      illegal (.cmpLe t f) 0x23 ∧ illegal (.cmpLtu t f) 0x24 ∧ illegal (.cmpLeu t f) 0x25) ∧
    (8 ≤ f.d.toNat → f.b = 0 → illegal (.cmpiEq t f) 0xA0 ∧ illegal (.cmpiNe t f) 0xA1 ∧ illegal (.cmpiLt t f) 0xA2 ∧
      illegal (.cmpiLe t f) 0xA3 ∧ illegal (.cmpiLtu t f) 0xA4 ∧ illegal (.cmpiLeu t f) 0xA5) ∧
    (8 ≤ f.d.toNat ∨ 8 ≤ f.a.toNat ∨ 8 ≤ f.b.toNat → f.imm = 0 →
      illegal (.pand t f) 0x28 ∧ illegal (.por t f) 0x29 ∧ illegal (.pxor t f) 0x2A) ∧
    (8 ≤ f.d.toNat ∨ 8 ≤ f.a.toNat → f.b = 0 → f.imm = 0 → illegal (.pnot t f) 0x2B)

/-! ### Branches, scratch access, counters, system (R58 to R73) -/

/-- O8. A branch in range goes to its target; CALL and CALLR leave the next PC in s[D], and CALLR reads its target before that
write. A target outside 0 to 8,191 raises fault 0x10 with the PC at the branch. A branch whose predicate is 0 falls through. -/
def Obligations.BranchTargets : Prop :=
  ∀ (t : TileId) (f : Ins) (s : State),
    let x := tileAt t.toNat s
    let rel : Int := x.pc + f.imm.toInt
    let jumps (c : Instr) (op : Nat) (target : Int) (link : Bool) : Prop :=
      (canIssue t.toNat 1 op f s = true → mapGet 0 s.istoreErr (t.toNat * 8192 + x.pc) = 0 → pGet x f.p.toNat = false →
        x.pc ≠ 8191 → Gives c s (GoesTo t (x.pc + 1) s)) ∧
      (Issues t 1 op f s →
        (0 ≤ target ∧ target ≤ 8191 → Gives c s (fun s' =>
          (tileAt t.toNat s').pc = target.toNat ∧
          (∀ k : BitVec 6, sGet (tileAt t.toNat s') k.toNat =
            if link ∧ k = f.d ∧ f.d ≠ 0 then BitVec.ofNat 64 (x.pc + 1) else sGet x k.toNat) ∧
          tileAt t.toNat s' = { x with pc := target.toNat, sreg := (tileAt t.toNat s').sreg, incs := [] } ∧ OnlyTile t s s')) ∧
        (¬ (0 ≤ target ∧ target ≤ 8191) → exec c s = .next (raiseFault t.toNat 0x10 x.pc (insWord 1 op f) (target % 2 ^ 64).toNat
          (fetched t.toNat s))))
    (f.a = 0 → f.b = 0 → f.d = 0 → jumps (.br t f) 0x00 rel false) ∧
    (f.d = 0 → f.b = 0 → f.imm = 0 → jumps (.jr t f) 0x01 (sGet x f.a.toNat).toNat false) ∧
    (f.a = 0 → f.b = 0 → jumps (.call t f) 0x02 rel true) ∧
    (f.b = 0 → f.imm = 0 → jumps (.callr t f) 0x03 (sGet x f.a.toNat).toNat true)

/-! ### Scratch load and store, tile DMA (R59 to R63) -/

/-- O9. A scalar load in range and aligned writes the bytes at s[A] + s[B] + the offset, least significant first, extended as the
operation says; VLD writes the 64 lanes. A misaligned address faults with code 0x11, an address past scratch with code 0x12. -/
def Obligations.ScratchLoads : Prop :=
  ∀ (t : TileId) (f : Ins) (s : State), f.imm.toNat < 2 ^ 20 →
    let x := tileAt t.toNat s
    let a := (sGet x f.a.toNat + sGet x f.b.toNat + (f.imm.setWidth 20).signExtend 64).toNat
    let faults (c : Instr) (op code : Nat) : Prop := Issues t 2 op f s →
      exec c s = .next (raiseFault t.toNat code x.pc (insWord 2 op f) a (fetched t.toNat s))
    let loads (c : Instr) (op n : Nat) (v : Nat → BitVec 64) : Prop :=
      (a % n = 0 → a + n ≤ 2 ^ 20 → NoErr true t.toNat a n s → Issues t 2 op f s →
        Gives c s (WroteS t f.d (v (ofLe (readScratch t.toNat a n s))) s)) ∧
      (a % n ≠ 0 → faults c op 0x11) ∧ (a % n = 0 → 2 ^ 20 < a + n → faults c op 0x12)
    let u (v : Nat) : BitVec 64 := BitVec.ofNat 64 v
    loads (.ldU8 t f) 0x00 1 u ∧ loads (.ldU16 t f) 0x01 2 u ∧ loads (.ldU32 t f) 0x02 4 u ∧ loads (.ld64 t f) 0x03 8 u ∧
    loads (.ldS8 t f) 0x04 1 (fun v => (BitVec.ofNat 8 v).signExtend 64) ∧
    loads (.ldS16 t f) 0x05 2 (fun v => (BitVec.ofNat 16 v).signExtend 64) ∧
    loads (.ldS32 t f) 0x06 4 (fun v => (BitVec.ofNat 32 v).signExtend 64) ∧
    (a % 64 = 0 → a + 256 ≤ 2 ^ 20 → NoErr true t.toNat a 256 s → Issues t 2 0x10 f s →
      Gives (.vld t f) s
        (WroteV t f.d (fun _ => true) (fun l => BitVec.ofNat 32 (ofLe (readScratch t.toNat (a + 4 * l) 4 s))) 0 s)) ∧
    (a % 64 ≠ 0 → faults (.vld t f) 0x10 0x11) ∧ (a % 64 = 0 → 2 ^ 20 < a + 256 → faults (.vld t f) 0x10 0x12)

/-- O10. A scalar store in range and aligned stores the low bytes of s[D] at s[A] + s[B] + the offset, VST the 64 lanes of v[D];
no other byte changes. A misaligned address faults with code 0x11, an address past scratch with code 0x12. -/
def Obligations.ScratchStores : Prop :=
  ∀ (t : TileId) (f : Ins) (s : State), f.imm.toNat < 2 ^ 20 →
    let x := tileAt t.toNat s
    let a := (sGet x f.a.toNat + sGet x f.b.toNat + (f.imm.setWidth 20).signExtend 64).toNat
    let stores (c : Instr) (op n align : Nat) (g : Nat → Byte) : Prop := Issues t 2 op f s →
      (a % align = 0 → a + n ≤ 2 ^ 20 → NoErr true t.toNat a n s → Gives c s (Stored t a n g s)) ∧
      (a % align ≠ 0 → exec c s =
        .next (raiseFault t.toNat 0x11 x.pc (insWord 2 op f) a (fetched t.toNat s))) ∧
      (a % align = 0 → 2 ^ 20 < a + n → exec c s =
        .next (raiseFault t.toNat 0x12 x.pc (insWord 2 op f) a (fetched t.toNat s)))
    let low (i : Nat) : Byte := BitVec.ofNat 8 ((sGet x f.d.toNat).toNat / 2 ^ (8 * i))
    stores (.st8 t f) 0x08 1 1 low ∧ stores (.st16 t f) 0x09 2 2 low ∧ stores (.st32 t f) 0x0A 4 4 low ∧
    stores (.st64 t f) 0x0B 8 8 low ∧
    stores (.vst t f) 0x11 256 64 (fun i => BitVec.ofNat 8 ((vGet x f.d.toNat (i / 4)).toNat / 2 ^ (8 * (i % 4))))

/-- O11. A DMA instruction that passes the checks of R61 goes in flight with the rectangle its registers give; a 17th waits at
issue; an empty rectangle passes whatever its addresses. -/
def Obligations.DmaGoesInFlight : Prop :=
  ∀ (t : TileId) (f : Ins) (s : State), f.imm.toNat % 2 ^ 25 = 0 → f.imm.toNat / 2 ^ 25 ≤ 62 →
    let x := tileAt t.toNat s
    let c := (sGet x (f.imm.toNat / 2 ^ 25)).toNat
    let c1 := (sGet x (f.imm.toNat / 2 ^ 25 + 1)).toNat
    let rect (op : Nat) (v2s : Bool) : Dma :=
      { id := x.nextDma, v2s := v2s, ctr := f.d, vault := (sGet x f.a.toNat).toNat, scratch := (sGet x f.b.toNat).toNat,
        rows := c / 2 ^ 32 % 2 ^ 16, len := c % 2 ^ 21, sStride := c1 / 2 ^ 32, vStride := c1 % 2 ^ 32, pc := x.pc,
        word := insWord 5 op f }
    let fits (d : Dma) : Prop := d.rows = 0 ∨ d.len = 0 ∨
      (d.vault % 64 = 0 ∧ d.vStride % 64 = 0 ∧ d.scratch % 64 = 0 ∧ d.sStride % 64 = 0 ∧ d.len % 64 = 0 ∧
        d.vault + (d.rows - 1) * d.vStride + d.len ≤ 2 ^ 27 ∧ d.scratch + (d.rows - 1) * d.sStride + d.len ≤ 2 ^ 20)
    let issues (i : Instr) (op : Nat) (v2s : Bool) : Prop := Issues t 5 op f s →
      (x.dmas.length < 16 → c / 2 ^ 48 = 0 → c / 2 ^ 21 % 2 ^ 11 = 0 → fits (rect op v2s) → Gives i s (fun s' =>
        tileAt t.toNat s' = { x with dmas := x.dmas ++ [rect op v2s], nextDma := x.nextDma + 1, incs := [], pc := x.pc + 1 } ∧
        OnlyTile t s s')) ∧
      (16 ≤ x.dmas.length → exec i s = .next s) ∧
      (x.dmas.length < 16 → ¬ (c / 2 ^ 48 = 0 ∧ c / 2 ^ 21 % 2 ^ 11 = 0) →
        exec i s = .next (raiseFault t.toNat 0x03 x.pc (insWord 5 op f) 0 (fetched t.toNat s)))
    issues (.dmaV2s t f) 0x00 true ∧ issues (.dmaS2v t f) 0x01 false

/-- O12. A DMA whose source holds no stored error completes: each byte of each row is where the rectangle puts it unless a later
row covers it, no other byte of the destination and no byte of the source has changed, and the counter is one higher. A matrix
instruction that still reads scratch and a VATTN in progress learn what was written beneath them (R117, R145), and only the tile's own
banks change their open rows (R152). A DMA that moves bytes waits for the matrix instructions before it and for the end of
self-refresh. -/
def Obligations.DmaCompletionMovesRows : Prop :=
  ∀ (t : TileId) (d : Dma) (before after : List Dma) (s : State),
    (tileAt t.toNat s).dmas = before ++ d :: after → (∀ e ∈ before, e.id ≠ d.id) →
    d.vault % 64 = 0 → d.vStride % 64 = 0 → d.scratch % 64 = 0 → d.sStride % 64 = 0 → d.len % 64 = 0 →
    d.vault + (d.rows - 1) * d.vStride + d.len ≤ 2 ^ 27 → d.scratch + (d.rows - 1) * d.sStride + d.len ≤ 2 ^ 20 →
    (∀ e ∈ s.vaultErr, e.1 / 2 ^ 21 ≠ t.toNat) → (∀ e ∈ s.scratchErr, e.1 / 2 ^ 17 ≠ t.toNat) →
    let atDst (st : State) (a : Nat) : Byte := if d.v2s then scratchByte t.toNat a st else vaultByte t.toNat a st
    let atSrc (st : State) (a : Nat) : Byte := if d.v2s then vaultByte t.toNat a st else scratchByte t.toNat a st
    let dest (i : Nat) : Nat := if d.v2s then d.scratch + i * d.sStride else d.vault + i * d.vStride
    let fr (i : Nat) : Nat := if d.v2s then d.vault + i * d.vStride else d.scratch + i * d.sStride
    let row (i a : Nat) : Prop := i < d.rows ∧ dest i ≤ a ∧ a < dest i + d.len
    (d.rows * d.len ≠ 0 → (s.selfRefresh = true ∨ dmaHeld d (tileAt t.toNat s) = true) → exec (.dmaComplete t d.id) s = .next s) ∧
    (s.selfRefresh = false → dmaHeld d (tileAt t.toNat s) = false → Gives (.dmaComplete t d.id) s (fun s' =>
      (∀ i a, row i a → (∀ k, i < k → ¬ row k a) → atDst s' a = atSrc s (fr i + (a - dest i))) ∧
      (∀ a, (∀ i, ¬ row i a) → atDst s' a = atDst s a) ∧ (∀ a, atSrc s' a = atSrc s a) ∧
      (∀ u a : Nat, a < 2 ^ 20 → u ≠ t.toNat → scratchByte u a s' = scratchByte u a s) ∧
      (∀ u a : Nat, a < 2 ^ 27 → u ≠ t.toNat → vaultByte u a s' = vaultByte u a s) ∧
      (∀ k : BitVec 6, cGet (tileAt t.toNat s') k.toNat =
        cGet (tileAt t.toNat s) k.toNat + if k = d.ctr then 1 else 0) ∧
      (∀ k : BitVec 6, mapGet 0 (tileAt t.toNat s').incs k.toNat =
        mapGet 0 (tileAt t.toNat s).incs k.toNat + if k = d.ctr then 1 else 0) ∧
      (tileAt t.toNat s').dmas = before ++ after ∧
      (∃ us, (tileAt t.toNat s').mats = (tileAt t.toNat s).mats.map (fun m =>
        { m with job := m.job.map (fun j => { j with late := j.late ++ us }) })) ∧
      (∃ us, (tileAt t.toNat s').vattn = (tileAt t.toNat s).vattn.map (fun v => { v with late := v.late ++ us })) ∧
      { tileAt t.toNat s' with
        ctr := (tileAt t.toNat s).ctr, incs := (tileAt t.toNat s).incs, dmas := (tileAt t.toNat s).dmas,
        mats := (tileAt t.toNat s).mats, vattn := (tileAt t.toNat s).vattn } = tileAt t.toNat s ∧
      (∀ u : Nat, u ≠ t.toNat → tileAt u s' = tileAt u s) ∧
      (∀ u q : Nat, q < 64 → u ≠ t.toNat → openRow u q s' = openRow u q s) ∧
      { s'.attr with counts := s.attr.counts } = s.attr ∧
      { s' with tile := s.tile, scratch := s.scratch, vault := s.vault, scratchFix := s.scratchFix, vaultFix := s.vaultFix,
                vaultRow := s.vaultRow, attr := s.attr } = s))

/-! ### Counters, waits and system instructions (R64 to R73, R86) -/

/-- O13. CRD, CSET, CADD and CADDI move and add counters modulo 2^32. CSET goes before the increments that have reached its counter
in the same tile cycle (R66). -/
def Obligations.CounterInstructions : Prop :=
  ∀ (t : TileId) (f : Ins) (s : State), f.b = 0 →
    let x := tileAt t.toNat s
    let c (i : BitVec 6) : BitVec 32 := cGet x i.toNat
    let a := (sGet x f.a.toNat).setWidth 32
    (f.imm = 0 →
      (Issues t 7 0x00 f s → Gives (.crd t f) s (WroteS t f.d ((c f.a).setWidth 64) s)) ∧
      (Issues t 7 0x01 f s → Gives (.cset t f) s (WroteC t f.d (a + mapGet 0 x.incs f.d.toNat) s)) ∧
      (Issues t 7 0x02 f s → Gives (.cadd t f) s (WroteC t f.d (c f.d + a) s))) ∧
    (f.a = 0 → Issues t 7 0x03 f s → Gives (.caddi t f) s (WroteC t f.d (c f.d + f.imm.setWidth 32) s))

/-- O14. A counter has reached a target when (c − target) modulo 2^32 is below 2^31. CWAIT, CWAITI and CWAIT.T go on at once when
it has, and wait otherwise; CWAIT.T with s[C] = 0 and SLEEP 0 do not wait. -/
def Obligations.WaitInstructions : Prop :=
  ∀ (t : TileId) (f : Ins) (s : State),
    let x := tileAt t.toNat s
    let reachedBy (i : BitVec 6) (g : BitVec 32) : Prop := (cGet x i.toNat - g).toNat < 2 ^ 31
    let waits (c : Instr) (op : Nat) (g : BitVec 32) : Prop := Issues t 7 op f s →
      (reachedBy f.a g → Gives c s (GoesTo t (x.pc + 1) s)) ∧
      (¬ reachedBy f.a g → Gives c s (Waits t 2 (.counter f.a g) s))
    let tgt := (sGet x f.b.toNat).setWidth 32
    let n := sGet x (f.imm.toNat / 2 ^ 25)
    (f.d = 0 → f.imm = 0 → waits (.cwait t f) 0x08 tgt) ∧
    (f.d = 0 → f.b = 0 → waits (.cwaiti t f) 0x09 (f.imm.setWidth 32)) ∧
    (f.d.toNat < 8 → f.imm.toNat % 2 ^ 25 = 0 → Issues t 7 0x0A f s →
      (reachedBy f.a tgt → Gives (.cwaitT t f) s (WroteP t f.d true s)) ∧
      (¬ reachedBy f.a tgt → n = 0 → Gives (.cwaitT t f) s (WroteP t f.d false s)) ∧
      (¬ reachedBy f.a tgt → n ≠ 0 → Gives (.cwaitT t f) s (Waits t 2 (.timed f.a tgt n f.d) s))) ∧
    (f.d = 0 → f.a = 0 → f.b = 0 → Issues t 7 0x10 f s →
      (f.imm = 0 → Gives (.sleep t f) s (GoesTo t (x.pc + 1) s)) ∧
      (f.imm ≠ 0 → Gives (.sleep t f) s (Waits t 2 (.sleep (f.imm.setWidth 64)) s)))

/-- O15. A wait ends when its counter has reached its target, when the beats of a CWAIT.T have passed (the counter then decides
p[D]), or when the beats of a SLEEP have passed; before that nothing happens. -/
def Obligations.WaitsEnd : Prop :=
  ∀ (t : TileId) (s : State), (tileAt t.toNat s).pc ≤ 8191 →
    let x := tileAt t.toNat s
    let ok (i : BitVec 6) (g : BitVec 32) : Prop := (cGet x i.toNat - g).toNat < 2 ^ 31
    let runs (c : Instr) (p : BitVec 8) : Prop := Gives c s (fun s' =>
      tileAt t.toNat s' = { x with st := 1, wait := .none, pred := p } ∧ OnlyTile t s s')
    let bit (p : BitVec 6) (b : Bool) : BitVec 8 :=
      if p = 0 then x.pred else if b then x.pred ||| (1#8 <<< p.toNat) else x.pred &&& ~~~(1#8 <<< p.toNat)
    (∀ i g, x.wait = .counter i g → (ok i g → runs (.counterReached t) x.pred) ∧ (¬ ok i g → exec (.counterReached t) s = .next s)) ∧
    (∀ i g n p, x.wait = .timed i g n p →
      (ok i g → runs (.counterReached t) (bit p true)) ∧ (¬ ok i g → exec (.counterReached t) s = .next s) ∧
      (n = 0 → ok i g → runs (.waitTimeout t) (bit p true)) ∧ (n = 0 → ¬ ok i g → runs (.waitTimeout t) (bit p false)) ∧
      (n ≠ 0 → exec (.waitTimeout t) s = .next s)) ∧
    (∀ n, x.wait = .sleep n → (n = 0 → runs (.sleepEnd t) x.pred) ∧ (n ≠ 0 → exec (.sleepEnd t) s = .next s))

/-- O16. NOP only moves on; RDTS reads the time stamp, RDID the identity of R69, RDCYC the tile cycles since launch; PHASE sets the
tag of the tile's partition, unless a higher tile has set it in the same tile cycle (R70); END and BARRIER stop issue and drain. -/
def Obligations.SystemInstructions : Prop :=
  ∀ (t : TileId) (f : Ins) (s : State), f.a = 0 → f.b = 0 →
    let x := tileAt t.toNat s
    let job : BitVec 16 := ((if x.assigned then (partAt x.part.toNat s).job else none).getD 0xFFFF)
    let cluster := 8 * (t.toNat / 128) + t.toNat % 32 / 4
    (f.d = 0 → f.imm = 0 → Issues t 8 0x00 f s → Gives (.nop t f) s (GoesTo t (x.pc + 1) s)) ∧
    (f.imm = 0 → Issues t 8 0x04 f s → Gives (.rdts t f) s (WroteS t f.d (s.beat ++ s.frac) s)) ∧
    (f.imm = 0 → Issues t 8 0x05 f s → Gives (.rdid t f) s (WroteS t f.d
      (job ++ pkgId s ++ x.queue ++ x.part ++ BitVec.ofNat 10 cluster ++ t) s)) ∧
    (f.imm = 0 → Issues t 8 0x06 f s → Gives (.rdcyc t f) s (WroteS t f.d (BitVec.ofNat 64 (s.cycle - x.launchCycle)) s)) ∧
    (f.d = 0 → f.imm.toNat < 16 → Issues t 8 0x02 f s → Gives (.phase t f) s (fun s' =>
      tileAt t.toNat s' = { x with incs := [], pc := x.pc + 1 } ∧ (∀ u : Nat, u ≠ t.toNat → tileAt u s' = tileAt u s) ∧
      (∀ p : Nat, partAt p s' =
        if x.assigned ∧ p = x.part.toNat ∧ ((partAt p s).tagBy.1 = s.cycle → (partAt p s).tagBy.2 ≤ t.toNat) then
          { partAt p s with tag := f.imm.setWidth 4, tagBy := (s.cycle, t.toNat) }
        else partAt p s) ∧
      { s' with tile := s.tile, part := s.part, attr := s.attr } = s ∧ { s'.attr with counts := s.attr.counts } = s.attr)) ∧
    (f.d = 0 → f.p = 0 → f.imm = 0 → Issues t 8 0x01 f s → Gives (.endK t f) s (Waits t 4 .drainEnd s)) ∧
    (f.d = 0 → f.p = 0 → f.imm.toNat < 16 → x.assigned = true →
      (mapGet Group.zero s.group (16 * x.part.toNat + f.imm.toNat)).tiles.getLsbD t.toNat = true → Issues t 8 0x03 f s →
      Gives (.barrier t f) s (Waits t 4 (.drainBarrier (f.imm.setWidth 4)) s))

/-- O17. TRAP, a word of no operation and a BARRIER of a tile outside the group fault: the record holds the code, the PC of the
instruction, its word, the fault address and the time stamp, and STATE is 8. A word of no class faults with 0x01, a word of no
operation of its class with 0x02. -/
def Obligations.FaultsAreRecorded : Prop :=
  ∀ (t : TileId) (s : State),
    let x := tileAt t.toNat s
    let faults (c : Instr) (code : BitVec 8) (w : BitVec 64) (a : BitVec 64) : Prop := Gives c s (fun s' =>
      (tileAt t.toNat s').fault = ⟨true, code, BitVec.ofNat 13 x.pc, w, a, s.beat ++ s.frac⟩ ∧ (tileAt t.toNat s').st = 8)
    (∀ f : Ins, f.d = 0 → f.a = 0 → f.b = 0 → f.p = 0 → f.imm.toNat < 2 ^ 16 → Issues t 8 0x07 f s →
      faults (.trap t f) 0x3F (insWord 8 0x07 f) (BitVec.ofNat 64 f.imm.toNat)) ∧
    (∀ f : Ins, f.d = 0 → f.a = 0 → f.b = 0 → f.p = 0 → f.imm.toNat < 16 → Issues t 8 0x03 f s →
      (x.assigned = false ∨
        (mapGet Group.zero s.group (16 * x.part.toNat + f.imm.toNat)).tiles.getLsbD t.toNat = false) →
      faults (.barrier t f) 0x18 (insWord 8 0x03 f) 0) ∧
    (∀ w : BitVec 64, x.st = 1 → x.wait = .none → x.pc < 8192 → clusterOpen t.toNat s = true →
      mapGet 0 s.istoreErr (t.toNat * 8192 + x.pc) ≠ 2 →
      (9 ≤ w.toNat / 2 ^ 60 → faults (.illegalInstruction t w) 0x01 w 0) ∧
      (w.toNat / 2 ^ 60 = 1 → 4 ≤ w.toNat / 2 ^ 52 % 256 → faults (.illegalInstruction t w) 0x02 w 0) ∧
      (w.toNat / 2 ^ 60 = 5 → 2 ≤ w.toNat / 2 ^ 52 % 256 → faults (.illegalInstruction t w) 0x02 w 0) ∧
      (w.toNat / 2 ^ 60 = 8 → 8 ≤ w.toNat / 2 ^ 52 % 256 → faults (.illegalInstruction t w) 0x02 w 0) ∧
      (w.toNat / 2 ^ 60 = 8 → w.toNat / 2 ^ 52 % 256 < 8 → exec (.illegalInstruction t w) s = .next s))

/-! ### The matrix class (R99 to R118) -/

/-- O18. What one product does to one element: a NaN factor, or an infinity that meets a zero, sets NAN; another infinity sets the
infinity flag of the product's sign; a finite product is rounded to the grid, ties to even, on its own, sets INX when that changes
it, RNG and the infinity flag when it reaches 2^95, and otherwise is added modulo 2^96. -/
def Obligations.MatrixProductStep : Prop :=
  ∀ (anchor : Int) (x : BitVec 96) (fl : BitVec 5),
    (∀ a sa b sb : Val, (a = .nan ∨ sa = .nan ∨ b = .nan ∨ sb = .nan) →
      mmaStep anchor (x, fl) a sa b sb = (x, fl ||| 0x10)) ∧
    (∀ (n : Bool) (sa b sb : Val), sa ≠ .nan → b ≠ .nan → sb ≠ .nan →
      (isZeroV sa = true ∨ isZeroV b = true ∨ isZeroV sb = true) → mmaStep anchor (x, fl) (.inf n) sa b sb = (x, fl ||| 0x10)) ∧
    (∀ (n m : Bool) (k d : Nat), k ≠ 0 → mmaStep anchor (x, fl) (.inf n) (.fin false 1 1) (.fin m k d) (.fin false 1 1) =
      (x, fl ||| if n = m then 4 else 8)) ∧
    (∀ (na nb : Bool) (a b sa sb da db dsa dsb : Nat), 0 < da → 0 < db → 0 < dsa → 0 < dsb →
      let num := a * sa * (b * sb)
      let den := da * dsa * (db * dsb)
      let g : Nat × Nat := if anchor < 48 then (num * 2 ^ (48 - anchor).toNat, den) else (num, den * 2 ^ (anchor - 48).toNat)
      let q := g.1 / g.2 + if g.2 < 2 * (g.1 % g.2) ∨ (g.2 = 2 * (g.1 % g.2) ∧ g.1 / g.2 % 2 = 1) then 1 else 0
      let neg := na != nb
      let fl' : BitVec 5 := if g.1 % g.2 = 0 then fl else fl ||| 1
      mmaStep anchor (x, fl) (.fin na a da) (.fin false sa dsa) (.fin nb b db) (.fin false sb dsb) =
        if 2 ^ 95 ≤ q then (x, fl' ||| 2 ||| if neg then 8 else 4)
        else (x + BitVec.ofInt 96 (if neg then -(q : Int) else q), fl'))

/-- O19. An exact sum does not depend on the order of its products: any permutation leaves the same element. -/
def Obligations.ExactSumsAreOrderFree : Prop :=
  ∀ (anchor : Int) (e : BitVec 96 × BitVec 5) (ps qs : List (Val × Val × Val × Val)), List.Perm ps qs →
    ps.foldl (fun e p => mmaStep anchor e p.1 p.2.1 p.2.2.1 p.2.2.2) e =
      qs.foldl (fun e p => mmaStep anchor e p.1 p.2.1 p.2.2.1 p.2.2.2) e

/-- O20. The final X equals the true sum of the rounded products whenever that true sum lies from −2^95 to 2^95 − 1, whatever the
intermediate values were, and no flag is set by a wrap (R106). A rounded product is what its step adds to an X of 0; products that are
integers of the grid are their own rounded products. -/
def Obligations.WrappedSumsAreTrue : Prop :=
  ∀ (anchor : Int) (x : BitVec 96) (fl : BitVec 5),
    let add (e : BitVec 96 × BitVec 5) (p : Val × Val × Val × Val) := mmaStep anchor e p.1 p.2.1 p.2.2.1 p.2.2.2
    let rounded (p : Val × Val × Val × Val) : Int := (add (0, 0) p).1.toInt
    (∀ ps : List (Val × Val × Val × Val),
      let r := ps.foldl add (x, fl)
      r.2 = ps.foldl (fun f p => f ||| (add (0, 0) p).2) fl ∧
      (-(2 ^ 95) ≤ x.toInt + (ps.map rounded).sum → x.toInt + (ps.map rounded).sum < 2 ^ 95 →
        r.1.toInt = x.toInt + (ps.map rounded).sum)) ∧
    (∀ q : Int, -512 ≤ anchor → anchor ≤ 511 → q.natAbs < 2 ^ 95 →
      let product : Val :=
        if anchor < 48 then .fin (decide (q < 0)) q.natAbs (2 ^ (48 - anchor).toNat)
        else .fin (decide (q < 0)) (q.natAbs * 2 ^ (anchor - 48).toNat) 1
      add (0, 0) (product, .fin false 1 1, .fin false 1 1, .fin false 1 1) = (BitVec.ofInt 96 q, 0))

/-- O21. MMA with operands that pass R109 and hold no stored error is in flight for its active cycles with the rows it reads; with
K = 0 it only moves on. The tile cycle that ends its active cycles gives every element of m[D] its sum of K products over the rows as
its reads saw them, sets TINV for an invalid T3 byte alone, and leaves the anchor, the other accumulators and the rest of the tile as
before. Each 64-byte unit that nothing unordered has written is seen as it stood at dispatch; each other is seen wholly as one of
its contents (R117). -/
def Obligations.MatrixMultiply : Prop :=
  ∀ (t : TileId) (f : Ins) (s : State), f.d.toNat ≤ 3 → f.imm.toNat / 2 ^ 25 ≤ 62 → f.imm.toNat % 2 ^ 13 = 0 →
    let x := tileAt t.toNat s
    let a := (mmaOperands f x).1
    let b := (mmaOperands f x).2.1
    let k := (mmaOperands f x).2.2
    let c := (sGet x (f.imm.toNat / 2 ^ 25)).toNat
    Issues t 4 0x00 f s → c / 2 ^ 56 = 0 → scaleAllowed a.fmt a.mode = true → scaleAllowed b.fmt b.mode = true →
    (k = 0 → pairRate a.fmt b.fmt ≠ none → Gives (.mma t f) s (GoesTo t (x.pc + 1) s)) ∧
    (∀ rate, pairRate a.fmt b.fmt = some rate → k ≠ 0 → k % 32 = 0 → a.base % 8 = 0 → a.stride % 8 = 0 → b.base % 8 = 0 →
      b.stride % 8 = 0 → inScratch a k = true → inScratch b k = true → CleanScratch t.toNat s →
      let rows (o : Operand) : List (Nat × List Byte) := (List.range 64).flatMap (fun i =>
        [(o.base + i * o.stride, readScratch t.toNat (o.base + i * o.stride) (rowBytes o.fmt k) s),
         (o.sBase + i * o.sStride, readScratch t.toNat (o.sBase + i * o.sStride) (scaleBytes o k) s)])
      Gives (.mma t f) s (MatDone t ⟨some (f.d.setWidth 2), BitVec.ofNat 2 rate,
        if rate = 0 then k else if rate = 1 then k / 2 else if rate = 2 then k / 4 else 2 * k, 20, true,
        some ⟨f.d.toNat, a, b, k, rows a ++ rows b, [], x.nextDma⟩⟩ id s)) ∧
    (∀ (m : MatOp) (j : MmaJob) (r : List MatOp), x.mats = m :: r → m.active = 1 → m.job = some j → (∀ e ∈ r, e.job = none) →
      s.gov.halt = 0 → s.gov.held.getLsbD (clusterOf t.toNat) = false → s.gov.admitted.getLsbD (clusterOf t.toNat) = true →
      256 ≤ x.credit + mapGet 0 s.gov.limit (clusterOf t.toNat) →
      Gives .tileCycle s (fun s' => ∃ (seen : List (List Byte)) (n : Acc), seen.length = j.rows.length ∧
        (∀ i e, j.rows[i]? = some e → ∃ use, seen.getD i [] =
          seenBytes use i (othersOf (j.late ++ dmaComing true j.mark t.toNat s)) e.1 e.2) ∧
        (j.late = [] → x.dmas = [] → seen = j.rows.map (·.2)) ∧
        n.anchor = (mGet x j.d).anchor ∧
        (let row (o : Operand) (i : Nat) := operandRow o j.k (seen.getD (2 * i) []) (seen.getD (2 * i + 1) [])
         ∀ i l : Nat, i < 64 → l < 64 → (accX n (64 * i + l), accF n (64 * i + l)) =
          ((row j.a i).zip (row j.b (64 + l))).foldl (fun e p => mmaStep n.anchor e p.1.1 p.1.2 p.2.1 p.2.2)
            (accX (mGet x j.d) (64 * i + l), accF (mGet x j.d) (64 * i + l))) ∧
        tileAt t.toNat s' = { x with
          acc := mapSet Acc.zero x.acc j.d n
          flags := x.flags ||| if mmaInvalid j.a j.b j.k seen then 8 else 0
          mats := { m with active := 0, job := none } :: r
          credit := min (x.credit + mapGet 0 s.gov.limit (clusterOf t.toNat)) 1024 - 256
          incs := [] }))

/-- O22. MZERO clears the sums and flags and sets the anchor; MVR and MFLG read an accumulator out; MSTX and MST store its 64
rows; MLDX adds exact sums whose anchors match. -/
def Obligations.AccumulatorMoves : Prop :=
  ∀ (t : TileId) (f : Ins) (s : State),
    let x := tileAt t.toNat s
    let n := f.imm.toNat
    let rm := n / 2 ^ 25 % 4
    let sat := decide (n / 2 ^ 24 % 2 = 1)
    let sh := (BitVec.ofNat 8 (n / 2 ^ 16)).toInt
    let read (m : Acc) (fmt k : Nat) : Enc := encodeElem fmt rm sat (readOut m sh k)
    let a := (sGet x f.a.toNat).toNat
    let st := (sGet x f.b.toNat).toNat
    let stored (drain len : Nat) (rows : Nat → List Byte) (fl : BitVec 4) (s' : State) : Prop :=
      s'.scratch = (List.range 64).foldl (fun m i => writeMem m (t.toNat * 2 ^ 20 + a + i * st) (rows i)) s.scratch ∧
      (∀ i, i < 64 → (rows i).length = len) ∧
      tileAt t.toNat s' = { x with
        mats := x.mats ++ [⟨none, 0, 0, drain, false, none⟩], flags := x.flags ||| fl, incs := [], pc := x.pc + 1 } ∧
      (∀ u : Nat, u ≠ t.toNat → tileAt u s' = tileAt u s) ∧ { s'.attr with counts := s.attr.counts } = s.attr ∧
      { s' with tile := s.tile, scratch := s.scratch, scratchFix := s.scratchFix, attr := s.attr } = s
    (f.d.toNat ≤ 3 → f.a = 0 → f.b = 0 → n < 2 ^ 10 → Issues t 4 0x08 f s →
      Gives (.mzero t f) s (MatDone t ⟨some (f.d.setWidth 2), 0, 0, 4, false, none⟩
        (fun x => { x with acc := mapSet Acc.zero x.acc f.d.toNat ⟨(BitVec.ofNat 10 n).toInt, [], []⟩ }) s)) ∧
    (f.a.toNat ≤ 3 → n < 2 ^ 27 → n % 2 ^ 16 = 0 → Issues t 4 0x11 f s →
      Gives (.mvr t f) s (fun s' => ∃ v fl, (∀ (k : BitVec 6) (l : Nat), l < 64 → mapGet 0 v (64 * k.toNat + l) =
          if k = f.d then BitVec.ofNat 32 (read (mGet x f.a.toNat) 0 (64 * (st % 64) + l)).bits else vGet x k.toNat l) ∧
        fl = flagsOf ((List.range 64).map (fun l => read (mGet x f.a.toNat) 0 (64 * (st % 64) + l))) ∧
        MatDone t ⟨none, 0, 0, 8, false, none⟩ (fun x => { x with vreg := v, flags := x.flags ||| fl }) s s')) ∧
    (f.a.toNat ≤ 3 → f.b = 0 → n < 2 → Issues t 4 0x20 f s →
      Gives (.mflg t f) s (fun s' => ∃ v, (∀ k : BitVec 6, mapGet 0 v k.toNat =
          if k = f.d ∧ f.d ≠ 0 then mflgWord x (mGet x f.a.toNat) else mapGet 0 x.sreg k.toNat) ∧
        MatDone t ⟨none, 0, 0, 2, false, none⟩ (fun x => { x with sreg := v, flags := if n = 1 then 0 else x.flags }) s s')) ∧
    (f.d.toNat ≤ 3 → n = 0 → a % 16 = 0 → st % 16 = 0 → a + 63 * st + 1024 ≤ 2 ^ 20 → CleanScratch t.toNat s →
      (Issues t 4 0x18 f s → Gives (.mstx t f) s (stored 268 1024 (fun i => (List.range 64).flatMap (fun j =>
        leBytes 12 (accX (mGet x f.d.toNat) (64 * i + j)).toNat ++
          leBytes 2 (BitVec.ofInt 16 (mGet x f.d.toNat).anchor).toNat ++
          [(accF (mGet x f.d.toNat) (64 * i + j)).setWidth 8, 0])) 0)) ∧
      (Issues t 4 0x19 f s →
        let el (k : Nat) : List Byte := readScratch t.toNat (a + k / 64 * st + k % 64 * 16) 16 s
        let m := mGet x f.d.toNat
        (∀ k, k < 4096 → ((el k).getD 14 0).toNat < 32 ∧ (el k).getD 15 0 = 0 ∧
          (BitVec.ofNat 16 (ofLe (((el k).drop 12).take 2))).toInt = m.anchor) →
        Gives (.mldx t f) s (fun s' => ∃ m' : Acc, m'.anchor = m.anchor ∧
          (∀ k, k < 4096 → accX m' k = accX m k + BitVec.ofNat 96 (ofLe ((el k).take 12)) ∧
            accF m' k = accF m k ||| ((el k).getD 14 0).setWidth 5) ∧
          MatDone t ⟨some (f.d.setWidth 2), 0, 0, 268, false, none⟩ (fun x => { x with acc := mapSet Acc.zero x.acc f.d.toNat m' }) s s'))) ∧
    (f.d.toNat ≤ 3 → n % 2 ^ 16 = 0 → n / 2 ^ 27 < 11 → a % 8 = 0 → st % 8 = 0 →
      a + 63 * st + rowBytes (n / 2 ^ 27) 64 ≤ 2 ^ 20 → CleanScratch t.toNat s → Issues t 4 0x10 f s →
      Gives (.mst t f) s (stored 76 (rowBytes (n / 2 ^ 27) 64)
        (fun i => packRow (n / 2 ^ 27) ((List.range 64).map (fun j => (read (mGet x f.d.toNat) (n / 2 ^ 27) (64 * i + j)).bits)))
        (flagsOf ((List.range 64).flatMap (fun i => (List.range 64).map (fun j =>
          read (mGet x f.d.toNat) (n / 2 ^ 27) (64 * i + j)))))))

/-! ### The vector class (R122 to R150) -/

/-- O23. The arithmetic, logic and table operations of two lanes and of one lane write the enabled lanes of v[D] and leave every
other lane and register as before. -/
def Obligations.VectorLaneOperations : Prop :=
  ∀ (t : TileId) (f : Ins) (s : State), f.imm.toNat &&& 0x7E07FFFF = 0 →
    let x := tileAt t.toNat s
    let on (l : Nat) : Bool := f.imm.toNat / 2 ^ 19 % 64 == 0 || (sGet x (f.imm.toNat / 2 ^ 19 % 64)).getLsbD l
    let two (c : Instr) (op : Nat) (g : BitVec 32 → BitVec 32 → BitVec 32) : Prop := Issues t 3 op f s →
      Gives c s (WroteV t f.d on (fun l => g (vGet x f.a.toNat l) (vGet x f.b.toNat l)) 0 s)
    let one (c : Instr) (op : Nat) (g : BitVec 32 → BitVec 32) : Prop := f.b = 0 → Issues t 3 op f s →
      Gives c s (WroteV t f.d on (fun l => g (vGet x f.a.toNat l)) 0 s)
    two (.vaddF32 t f) 0x00 fadd ∧ two (.vsubF32 t f) 0x01 fsub ∧ two (.vmulF32 t f) 0x02 fmul ∧ two (.vminF32 t f) 0x04 fmin ∧
    two (.vmaxF32 t f) 0x05 fmax ∧ two (.vdivF32 t f) 0x08 fdiv ∧
    two (.vaddI32 t f) 0x10 (· + ·) ∧ two (.vsubI32 t f) 0x11 (· - ·) ∧ two (.vmulI32 t f) 0x12 (· * ·) ∧
    two (.vand t f) 0x13 (· &&& ·) ∧ two (.vor t f) 0x14 (· ||| ·) ∧ two (.vxor t f) 0x15 (· ^^^ ·) ∧
    two (.vshl t f) 0x16 (fun a b => BitVec.ofNat 32 (if b.toNat < 32 then a.toNat * 2 ^ b.toNat else 0)) ∧
    two (.vshr t f) 0x17 (fun a b => BitVec.ofNat 32 (if b.toNat < 32 then a.toNat / 2 ^ b.toNat else 0)) ∧
    two (.vsra t f) 0x18 (fun a b => BitVec.ofInt 32 (Int.fdiv a.toInt (2 ^ min b.toNat 32))) ∧
    two (.vminS32 t f) 0x19 (fun a b => if a.toInt < b.toInt then a else b) ∧
    two (.vmaxS32 t f) 0x1A (fun a b => if a.toInt < b.toInt then b else a) ∧
    one (.vabsF32 t f) 0x06 (fun a => a &&& 0x7FFFFFFF) ∧ one (.vnegF32 t f) 0x07 (fun a => a ^^^ 0x80000000) ∧
    one (.vsqrtF32 t f) 0x09 fsqrt ∧ one (.vrcpF32 t f) 0x0A vrcp ∧ one (.vrsqrtF32 t f) 0x0B vrsqrt ∧
    one (.vexp t f) 0x38 vexp ∧ one (.vexp2 t f) 0x39 vexp2 ∧ one (.vlog t f) 0x3A vlog ∧ one (.vlog2 t f) 0x3B vlog2 ∧
    one (.vtanh t f) 0x3C vtanh ∧ one (.vsigm t f) 0x3D vsigm

/-- O24. VFMA, VCMP, the reductions and the moves between lanes and scalar registers. A disabled lane takes no part: it is not
compared, not reduced and not written. -/
def Obligations.VectorComparesReducesMoves : Prop :=
  ∀ (t : TileId) (f : Ins) (s : State),
    let x := tileAt t.toNat s
    let n := f.imm.toNat
    let on (l : Nat) : Bool := n / 2 ^ 19 % 64 == 0 || (sGet x (n / 2 ^ 19 % 64)).getLsbD l
    let a (l : Nat) : BitVec 32 := vGet x f.a.toNat l
    let b (l : Nat) : BitVec 32 := vGet x f.b.toNat l
    let sa : BitVec 32 := (sGet x f.a.toNat).setWidth 32
    let at64 := (sGet x f.b.toNat).toNat % 64
    let masks (c : Instr) (op : Nat) (g : BitVec 32 → BitVec 32 → Bool) : Prop := Issues t 3 op f s →
      Gives c s (fun s' => ∃ v, WroteS t f.d v s s' ∧ ∀ l, l < 64 → v.getLsbD l = (on l && g (a l) (b l)))
    let folds (c : Instr) (op : Nat) (g : BitVec 32 → BitVec 32 → BitVec 32) (e : BitVec 32) : Prop := Issues t 3 op f s →
      Gives c s (WroteS t f.d ((tree g e 6 ((List.range 64).map (fun l => if on l then a l else e))).setWidth 64) s)
    (n % 2 ^ 19 = 0 → Issues t 3 0x03 f s →
      Gives (.vfmaF32 t f) s (WroteV t f.d on (fun l => ffma (a l) (b l) (vGet x (n / 2 ^ 25) l)) 0 s)) ∧
    (n &&& 0x7E07F1FF = 0 →
      (n / 2 ^ 9 % 8 = 0 → masks (.vcmpF32 t f) 0x20 feq ∧ masks (.vcmpI32 t f) 0x21 (fun a b => a == b)) ∧
      (n / 2 ^ 9 % 8 = 1 → masks (.vcmpF32 t f) 0x20 (fun a b => !feq a b) ∧ masks (.vcmpI32 t f) 0x21 (fun a b => a != b)) ∧
      (n / 2 ^ 9 % 8 = 2 → masks (.vcmpF32 t f) 0x20 flt ∧ masks (.vcmpI32 t f) 0x21 (fun a b => decide (a.toInt < b.toInt))) ∧
      (n / 2 ^ 9 % 8 = 3 → masks (.vcmpF32 t f) 0x20 fle ∧ masks (.vcmpI32 t f) 0x21 (fun a b => decide (a.toInt ≤ b.toInt))) ∧
      (n / 2 ^ 9 % 8 = 4 → masks (.vcmpF32 t f) 0x20 (fun a b => isNan a || isNan b) ∧
        masks (.vcmpI32 t f) 0x21 (fun a b => decide (a.toNat < b.toNat))) ∧
      (n / 2 ^ 9 % 8 = 5 → masks (.vcmpI32 t f) 0x21 (fun a b => decide (a.toNat ≤ b.toNat)))) ∧
    (n &&& 0x7E07FFFF = 0 →
      (f.b = 0 → folds (.vrsumF32 t f) 0x30 fadd 0 ∧ folds (.vrmaxF32 t f) 0x31 fmax 0xFF800000 ∧
        folds (.vrminF32 t f) 0x32 fmin 0x7F800000 ∧ folds (.vrsumI32 t f) 0x33 (· + ·) 0 ∧
        folds (.vrmaxS32 t f) 0x34 (fun a b => if a.toInt < b.toInt then b else a) 0x80000000 ∧
        folds (.vrminS32 t f) 0x35 (fun a b => if a.toInt < b.toInt then a else b) 0x7FFFFFFF ∧
        (Issues t 3 0x28 f s → Gives (.vbcast t f) s (WroteV t f.d on (fun _ => sa) 0 s)) ∧
        (Issues t 3 0x2C f s → Gives (.viota t f) s (WroteV t f.d on (fun l => sa + BitVec.ofNat 32 l) 0 s))) ∧
      (Issues t 3 0x2B f s → Gives (.vperm t f) s (WroteV t f.d on (fun l => a ((b l).toNat % 64)) 0 s))) ∧
    (n = 0 →
      (Issues t 3 0x29 f s → Gives (.vext t f) s (WroteS t f.d ((a at64).setWidth 64) s)) ∧
      (Issues t 3 0x2A f s → Gives (.vins t f) s (WroteV t f.d (fun l => l == at64) (fun _ => sa) 0 s)))

/-- O25. The conversions: VCVT.W decodes the packed image exactly, VCVT.N packs 64 encoded lanes and zeroes the rest of the image,
VCVT.F2I and VCVT.I2F convert in the rounding mode, VQX quantises blocks and puts their scales in s[C]. The tile flags gain what the
conversions raise. -/
def Obligations.VectorConversions : Prop :=
  ∀ (t : TileId) (f : Ins) (s : State), f.b = 0 →
    let x := tileAt t.toNat s
    let n := f.imm.toNat
    let fmt := n / 2 ^ 15 % 16
    let rm := n / 2 ^ 13 % 4
    let sat := decide (n / 2 ^ 12 % 2 = 1)
    let on (l : Nat) : Bool := n / 2 ^ 19 % 64 == 0 || (sGet x (n / 2 ^ 19 % 64)).getLsbD l
    let a (l : Nat) : BitVec 32 := vGet x f.a.toNat l
    let bytes := vBytes ((List.range 64).map a)
    let all := List.range 64
    let lane (bs : List Byte) (l : Nat) : BitVec 32 := BitVec.ofNat 32 (ofLe ((padTo 256 bs).drop (4 * l) |>.take 4))
    let flagsOn (g : Nat → Enc) : BitVec 4 := flagsOf ((all.filter on).map g)
    (n &&& 0x7E007FFF = 0 → fmt < 11 → Issues t 3 0x40 f s →
      Gives (.vcvtW t f) s (WroteV t f.d on (fun l => rne ((decodeRow fmt 64 bytes).getD l .nan))
        (if fmt = 10 ∧ (all.filter on).any (fun l => decide (243 ≤ (bytes.getD (l / 5) 0).toNat)) = true then 8 else 0) s)) ∧
    (n &&& 0x7FF80FFF = 0 → fmt < 11 → Issues t 3 0x41 f s →
      let es := all.map (fun l => encodeElem fmt rm sat (dec32 (a l)))
      Gives (.vcvtN t f) s (WroteV t f.d (fun _ => true) (lane (packRow fmt (es.map (·.bits)))) (flagsOf es) s)) ∧
    (n &&& 0x7E079FFF = 0 →
      (Issues t 3 0x42 f s → Gives (.vcvtF2i t f) s (WroteV t f.d on
        (fun l => BitVec.ofNat 32 (encodeI32 rm (dec32 (a l))).bits) (flagsOn (fun l => encodeI32 rm (dec32 (a l)))) s)) ∧
      (Issues t 3 0x43 f s → Gives (.vcvtI2f t f) s (WroteV t f.d on
        (fun l => BitVec.ofNat 32 (encodeElem 0 rm false (ofRatio (a l).toInt 1)).bits)
        (flagsOn (fun l => encodeElem 0 rm false (ofRatio (a l).toInt 1))) s))) ∧
    (n &&& 0x1F87E7F = 0 →
      (n / 2 ^ 7 % 4 = 1 ∧ 3 ≤ fmt ∧ fmt ≤ 10) ∨ (n / 2 ^ 7 % 4 = 2 ∧ (fmt = 7 ∨ fmt = 9 ∨ fmt = 10)) → Issues t 3 0x44 f s →
      let w := perScale (n / 2 ^ 7 % 4)
      let block (j : Nat) := quantise fmt (n / 2 ^ 7 % 4) ((List.range w).map (fun i => dec32 (a (w * j + i))))
      let es := (List.range (64 / w)).flatMap (fun j => (block j).2.1)
      let scales : BitVec 64 := BitVec.ofNat 64 ((List.range (64 / w)).foldr (fun j v => (block j).1 + 256 * v) 0)
      Gives (.vqx t f) s (fun s' => ∃ sv vv, (∀ k : BitVec 6, mapGet 0 sv k.toNat =
          if k.toNat = n / 2 ^ 25 ∧ k ≠ 0 then scales else mapGet 0 x.sreg k.toNat) ∧
        (∀ (k : BitVec 6) (l : Nat), l < 64 → mapGet 0 vv (64 * k.toNat + l) =
          if k = f.d then lane (packRow fmt (es.map (·.bits))) l else vGet x k.toNat l) ∧
        tileAt t.toNat s' = { x with sreg := sv, vreg := vv, flags := x.flags ||| flagsOf es, incs := [], pc := x.pc + 1 } ∧
        OnlyTile t s s'))

/-- O26. VSTM, VGATHER and VSCATTER: the enabled lanes alone are stored or loaded; scatter writes in rising order, so the highest
lane's value stays. With no lane enabled nothing is checked. -/
def Obligations.VectorScratchAccess : Prop :=
  ∀ (t : TileId) (f : Ins) (s : State), f.imm.toNat &&& 0x7E07FFFF = 0 → CleanScratch t.toNat s →
    let x := tileAt t.toNat s
    let m := f.imm.toNat / 2 ^ 19 % 64
    let on (l : Nat) : Bool := m == 0 || (sGet x m).getLsbD l
    let a := (sGet x f.a.toNat + sGet x f.b.toNat).toNat
    let at4 (l : Nat) : Nat := (sGet x f.a.toNat).toNat + 4 * (vGet x f.b.toNat l).toNat
    let k0 := t.toNat * 2 ^ 20
    let kept (s' : State) : Prop :=
      (∀ u : Nat, tileAt u s' = if u = t.toNat then { x with incs := [], pc := x.pc + 1 } else tileAt u s) ∧
      { s'.attr with counts := s.attr.counts } = s.attr ∧
      { s' with tile := s.tile, scratch := s.scratch, scratchFix := s.scratchFix, attr := s.attr } = s
    (Issues t 3 0x48 f s → (∃ l, l < 64 ∧ on l = true) → a % 64 = 0 → a + 256 ≤ 2 ^ 20 → Gives (.vstm t f) s (fun s' =>
      (∀ k : Nat, mapGet 0 s'.scratch k =
        if k0 + a ≤ k ∧ k < k0 + a + 256 ∧ on ((k - (k0 + a)) / 4) = true then
          BitVec.ofNat 8 ((vGet x f.d.toNat ((k - (k0 + a)) / 4)).toNat / 2 ^ (8 * ((k - (k0 + a)) % 4)))
        else mapGet 0 s.scratch k) ∧ kept s')) ∧
    (Issues t 3 0x48 f s → (∀ l, l < 64 → on l = false) → Gives (.vstm t f) s (GoesTo t (x.pc + 1) s)) ∧
    ((sGet x f.a.toNat).toNat % 4 = 0 → (∀ l, l < 64 → on l = true → at4 l + 4 ≤ 2 ^ 20) →
      (Issues t 3 0x49 f s → Gives (.vgather t f) s
        (WroteV t f.d on (fun l => BitVec.ofNat 32 (ofLe (readScratch t.toNat (at4 l) 4 s))) 0 s)) ∧
      (Issues t 3 0x4A f s → Gives (.vscatter t f) s (fun s' =>
        s'.scratch = ((List.range 64).filter on).foldl
          (fun mem l => writeMem mem (k0 + at4 l) (leBytes 4 (vGet x f.d.toNat l).toNat)) s.scratch ∧ kept s')))

/-- O27. VPHASE writes cosine and sine of the enabled lanes' phases to v[D] and v[D + 1]; VOSM takes one step of the online
softmax and writes +0 into disabled lanes; VOSMJ joins two softmax states. -/
def Obligations.RotaryAndSoftmax : Prop :=
  ∀ (t : TileId) (f : Ins) (s : State),
    let x := tileAt t.toNat s
    let n := f.imm.toNat
    let c := n / 2 ^ 25
    let on (l : Nat) : Bool := n / 2 ^ 19 % 64 == 0 || (sGet x (n / 2 ^ 19 % 64)).getLsbD l
    let rotates (ph : Nat → BitVec 64) (s' : State) : Prop :=
      (∀ (k : BitVec 6) (l : Nat), l < 64 → vGet (tileAt t.toNat s') k.toNat l =
        if k.toNat = f.d.toNat ∧ on l = true then (rotaryOf (ph l)).1
        else if k.toNat = f.d.toNat + 1 ∧ on l = true then (rotaryOf (ph l)).2 else vGet x k.toNat l) ∧
      { tileAt t.toNat s' with vreg := x.vreg } = { x with incs := [], pc := x.pc + 1 } ∧ OnlyTile t s s'
    let softmax (p : Option (Nat → BitVec 32)) (st al : BitVec 64) (s' : State) : Prop :=
      (∀ (k : BitVec 6) (l : Nat), l < 64 → vGet (tileAt t.toNat s') k.toNat l =
        match p with
        | some g => if k = f.d then g l else vGet x k.toNat l
        | none => vGet x k.toNat l) ∧
      (∀ k : BitVec 6, sGet (tileAt t.toNat s') k.toNat =
        if k.toNat = c + 1 then al else if k.toNat = c ∧ k ≠ 0 then st else sGet x k.toNat) ∧
      { tileAt t.toNat s' with vreg := x.vreg, sreg := x.sreg } = { x with incs := [], pc := x.pc + 1 } ∧ OnlyTile t s s'
    (n &&& 0x7E07FFFF = 0 → f.d.toNat ≤ 62 →
      (f.b.toNat ≤ 62 → (sGet x f.a.toNat).toNat < 2 ^ 24 → Issues t 3 0x50 f s → Gives (.vphaseP t f) s
        (rotates (fun l => sGet x f.a.toNat * (vGet x (f.b.toNat + 1) l ++ vGet x f.b.toNat l)))) ∧
      ((∀ l, l < 64 → on l = true → (vGet x f.a.toNat l).toNat < 2 ^ 24) → Issues t 3 0x51 f s → Gives (.vphaseF t f) s
        (rotates (fun l => (vGet x f.a.toNat l).setWidth 64 * sGet x f.b.toNat)))) ∧
    (n % 2 ^ 19 = 0 → c ≤ 62 → Issues t 3 0x58 f s →
      let u := sGet x c
      let k := (sGet x f.b.toNat).setWidth 32
      let r := osmStep on ((List.range 64).map (fun l => fmul (vGet x f.a.toNat l) k)) (u.setWidth 32) (u >>> 32 |>.setWidth 32)
      Gives (.vosm t f) s (softmax (some (fun l => r.1.getD l 0)) (r.2.2.2 ++ r.2.2.1) (r.2.1.setWidth 64))) ∧
    (n % 2 ^ 25 = 0 → c ≤ 62 → f.d = 0 → f.a = 0 → Issues t 3 0x59 f s →
      let m1 : BitVec 32 := (sGet x c).setWidth 32
      let m2 : BitVec 32 := (sGet x f.b.toNat).setWidth 32
      let l1 : BitVec 32 := (sGet x c >>> 32).setWidth 32
      let l2 : BitVec 32 := (sGet x f.b.toNat >>> 32).setWidth 32
      let m := if isNan m1 || isNan m2 then 0x7FC00000 else fmax m1 m2
      let a1 := if m = 0xFF800000 then 0x3F800000 else vexp (fsub m1 m)
      let a2 := if m = 0xFF800000 then 0x3F800000 else vexp (fsub m2 m)
      Gives (.vosmj t f) s (softmax none (ffma l1 a1 (fmul l2 a2) ++ m) (a2 ++ a1)))

/-- O28. With no lane enabled, a step of the online softmax leaves its state and gives alpha = 1 and probabilities of +0; with a
NaN among the enabled scores or in the state, every enabled probability, alpha and the state are NaN. -/
def Obligations.SoftmaxCorners : Prop :=
  ∀ (on : Nat → Bool) (sc : List (BitVec 32)) (m l : BitVec 32), sc.length = 64 →
    ((∀ i, i < 64 → on i = false) → osmStep on sc m l = (List.replicate 64 0, 0x3F800000, m, l)) ∧
    ((∃ i, i < 64 ∧ on i = true ∧ isNan (sc.getD i 0) = true) →
      (∀ i, i < 64 → (osmStep on sc m l).1.getD i 0 = if on i then 0x7FC00000 else 0) ∧
      (osmStep on sc m l).2 = (0x7FC00000, 0x7FC00000, 0x7FC00000))

/-- O29. A VATTN that passes R141 goes in progress with its descriptor (R140), or only moves on when its N is 0. Each of its chunks of
64 keys completes with the running output and the softmax state that R142 gives for the visible keys alone; the last chunk ends it, a
chunk without a visible key changes no register, and under a halt the chunk in progress finishes but no further one starts (R136). A
64-byte unit that nothing unordered has written is read as the vault holds it; each other is seen wholly as one of its contents (R145). -/
def Obligations.StreamingAttention : Prop :=
  (∀ (t : TileId) (f : Ins) (s : State), f.imm.toNat % 2 ^ 25 = 0 → CleanScratch t.toNat s →
    let x := tileAt t.toNat s
    let a := (sGet x f.b.toNat).toNat
    let bs := readScratch t.toNat a 48 s
    let word (o : Nat) : Nat := ofLe ((bs.drop o).take 4)
    let v := attnDesc f x (insWord 3 0x5C f) bs
    let d := if v.d128 then 128 else 64
    let rowb := d * if v.fmt.toNat ≤ 2 then 2 else 1
    Issues t 3 0x5C f s → a % 16 = 0 → a + 48 ≤ 2 ^ 20 →
      (v.d128 = true → f.d.toNat ≤ 62 ∧ f.a.toNat ≤ 62) → (bs.getD 36 0 = 1 ∨ bs.getD 36 0 = 2 ∨ bs.getD 36 0 = 3 ∨ bs.getD 36 0 = 4) →
      word 16 < 2 ^ 25 → word 20 < 2 ^ 24 → word 24 < 2 ^ 24 → word 28 < 2 ^ 25 → (bs.getD 37 0).toNat < 4 →
      (∀ i, 38 ≤ i → i < 48 → bs.getD i 0 = 0) →
      (v.n = 0 → Gives (.vattn t f) s (GoesTo t (x.pc + 1) s)) ∧
      (v.n ≠ 0 → v.kOff % 64 = 0 → v.vOff % 64 = 0 → v.kStride % 64 = 0 → v.vStride % 64 = 0 →
        v.kOff + (v.n - 1) * v.kStride + rowb ≤ 2 ^ 27 → v.vOff + (v.n - 1) * v.vStride + rowb ≤ 2 ^ 27 →
        v.kPos + v.n - 1 < 2 ^ 24 →
        Gives (.vattn t f) s (fun s' =>
          tileAt t.toNat s' = { x with vattn := some v, incs := [], pc := x.pc + 1 } ∧ OnlyTile t s s'))) ∧
  (∀ (t : TileId) (v : Vattn) (s : State), (tileAt t.toNat s).vattn = some v → s.vaultErr = [] →
    (v.started = true ∨ clusterOpen t.toNat s = true) → s.selfRefresh = false →
    let x := tileAt t.toNat s
    let d := if v.d128 then 128 else 64
    let vis (i : Nat) : Bool := decide (v.next + i < v.n ∧ (v.causal = true → v.kPos + (v.next + i) ≤ v.qPos) ∧
      (v.window = 0 ∨ (v.qPos : Int) - (v.kPos + (v.next + i) : Nat) < v.window))
    let row (h off stride i : Nat) : List (BitVec 32) := (decodeRow v.fmt.toNat d
      (seenBytes s.free (2 * (v.next + i) + h) (othersOf (attnOthers v t.toNat s)) (off + (v.next + i) * stride)
        (readVault t.toNat (off + (v.next + i) * stride) (attnRow v) s))).map rne
    let score (i : Nat) : BitVec 32 := fmul (treeSum (if v.d128 then 7 else 6) ((List.range d).map (fun j =>
      fmul (vGet x (v.a.toNat + j / 64) (j % 64)) ((row 0 v.kOff v.kStride i).getD j 0)))) v.scale
    let r := osmStep vis ((List.range 64).map (fun i => if vis i then score i else 0xFF800000))
      ((sGet x v.c.toNat).setWidth 32) ((sGet x v.c.toNat >>> 32).setWidth 32)
    let out (j : Nat) : BitVec 32 := ffma (vGet x (v.d.toNat + j / 64) (j % 64)) r.2.1 (treeSum 6 ((List.range 64).map (fun i =>
      if vis i then fmul (r.1.getD i 0) ((row 1 v.vOff v.vStride i).getD j 0) else 0)))
    let then' : Option Vattn :=
      if v.n ≤ v.next + 64 then none else some { v with next := v.next + 64, started := clusterOpen t.toNat s }
    (v.late = [] → x.dmas = [] → ∀ use i a bs, seenBytes use i (othersOf (attnOthers v t.toNat s)) a bs = bs) ∧
    Gives (.vattnChunkDone t) s (fun s' =>
      ((∀ i, i < 64 → vis i = false) → tileAt t.toNat s' = { x with vattn := then' }) ∧
      ((∃ i, i < 64 ∧ vis i = true) →
        (∀ (k : BitVec 6) (l : Nat), l < 64 → vGet (tileAt t.toNat s') k.toNat l =
          if k = v.d ∨ (v.d128 = true ∧ k.toNat = v.d.toNat + 1) then out (64 * (k.toNat - v.d.toNat) + l) else vGet x k.toNat l) ∧
        (∀ k : BitVec 6, sGet (tileAt t.toNat s') k.toNat = if k = v.c ∧ k ≠ 0 then r.2.2.2 ++ r.2.2.1 else sGet x k.toNat) ∧
        { tileAt t.toNat s' with vreg := x.vreg, sreg := x.sreg } = { x with vattn := then' }) ∧
      (∀ u : Nat, u ≠ t.toNat → tileAt u s' = tileAt u s) ∧ { s'.attr with counts := s.attr.counts } = s.attr ∧
      (∀ u q : Nat, q < 64 → u ≠ t.toNat → openRow u q s' = openRow u q s) ∧
      { s' with tile := s.tile, attr := s.attr, free := s.free, vaultRow := s.vaultRow } = s)) ∧
  (∀ (t : TileId) (v : Vattn) (s : State), (tileAt t.toNat s).vattn = some v →
    (v.started = false ∧ clusterOpen t.toNat s = false ∨ s.selfRefresh = true) → exec (.vattnChunkDone t) s = .next s) ∧
  (∀ (t : TileId) (s : State), (tileAt t.toNat s).vattn = none → exec (.vattnChunkDone t) s = .next s)

/-! ### Issue, for every tile instruction (R49, R51, R58, R81, R164) -/

/-- O30. A tile that may not issue is left alone, and so is everything else; an instruction whose predicate is false only moves on,
unless its word has an encoding fault, which is raised whatever the predicate; an uncorrectable fetch takes the path of R488. -/
def Obligations.IssueOfEveryTileInstruction : Prop :=
  ∀ (cls op : Nat) (mk : TileId → Ins → Instr), tileInstr cls op = some mk → ∀ (t : TileId) (f : Ins) (s : State),
    let x := tileAt t.toNat s
    let w := insWord cls op f
    let e := mapGet 0 s.istoreErr (t.toNat * 8192 + x.pc)
    (canIssue t.toNat cls op f s = false → exec (mk t f) s = .next s) ∧
    (canIssue t.toNat cls op f s = true → e = 0 → pGet x f.p.toNat = false → x.pc ≠ 8191 →
      Gives (mk t f) s (GoesTo t (x.pc + 1) s) ∨
      ∃ code, (code = 2 ∨ code = 3 ∨ code = 4) ∧
        exec (mk t f) s = .next (raiseFault t.toNat code x.pc w 0 (fetched t.toNat s))) ∧
    (canIssue t.toNat cls op f s = true → e = 2 → pGet x f.p.toNat = false →
      exec (mk t f) s = .next (ueHit 10 true t.toNat (8 * x.pc) (some (x.pc, w)) s))

/-- O31. Encoding faults (R49), whatever the predicate: bits that must be zero are code 0x03, a register index out of range code
0x04, and of both the lower is reported. Going past instruction 8,191 is fault 0x10. -/
def Obligations.EncodingFaults : Prop :=
  ∀ (t : TileId) (f : Ins) (s : State), mapGet 0 s.istoreErr (t.toNat * 8192 + (tileAt t.toNat s).pc) = 0 →
    let x := tileAt t.toNat s
    let faults (c : Instr) (cls op code : Nat) : Prop := canIssue t.toNat cls op f s = true → exec c s =
      .next (raiseFault t.toNat code x.pc (insWord cls op f) 0 (fetched t.toNat s))
    (f.imm ≠ 0 → faults (.add t f) 0 0x00 3 ∧ faults (.shl t f) 0 0x0C 3 ∧ faults (.cmpEq t f) 0 0x20 3 ∧
      faults (.jr t f) 1 0x01 3 ∧ faults (.crd t f) 7 0x00 3 ∧ faults (.nop t f) 8 0x00 3 ∧ faults (.mstx t f) 4 0x18 3) ∧
    (f.b ≠ 0 → faults (.addi t f) 0 0x80 3 ∧ faults (.clz t f) 0 0x14 3 ∧ faults (.movi t f) 0 0x90 3 ∧
      faults (.cwaiti t f) 7 0x09 3 ∧ faults (.mflg t f) 4 0x20 3 ∧ faults (.vexp t f) 3 0x38 3) ∧
    (2 ^ 20 ≤ f.imm.toNat → faults (.ldU8 t f) 2 0x00 3 ∧ faults (.st64 t f) 2 0x0B 3 ∧ faults (.vld t f) 2 0x10 3) ∧
    (f.p ≠ 0 → faults (.endK t f) 8 0x01 3 ∧ faults (.barrier t f) 8 0x03 3) ∧
    (8 ≤ f.d.toNat → f.imm = 0 → faults (.cmpEq t f) 0 0x20 4 ∧ faults (.pand t f) 0 0x28 4) ∧
    (4 ≤ f.d.toNat → f.imm = 0 → faults (.mstx t f) 4 0x18 4 ∧ faults (.mma t f) 4 0x00 4) ∧
    (f.a = 0 → f.b = 0 → f.d = 0 → f.imm = 0 → x.pc = 8191 → canIssue t.toNat 8 0x00 f s = true →
      exec (.nop t f) s =
        .next (raiseFault t.toNat 0x10 8191 (insWord 8 0x00 f) 8192 (fetched t.toNat s)))

/-! ### Remote memory operations (R176 to R207, R490) -/

/-- O32. A remote instruction that passes R186 goes outstanding with the operands that its registers hold at issue and leaves at
once, here for its own package and where no route is usable, which completes it with error 1; a PUT, GET or XACC of length 0
without a signal completes at once; a NOTIFY waits for the tile's earlier operations to its package. -/
def Obligations.RemoteIssue : Prop :=
  ∀ (t : TileId) (f : Ins) (s : State), s.Inv → CleanScratch t.toNat s → s.fences.all (fun g => decide (g.tile ≠ t)) = true →
    (tileOps t.toNat s).length < 64 →
    let x := tileAt t.toNat s
    let n := f.imm.toNat
    let ga := (sGet x f.a.toNat).toNat
    let b := sGet x f.b.toNat
    let c := sGet x (n / 2 ^ 25)
    let sz32 := decide (n / 2 ^ 10 % 2 = 1)
    let sen := decide (n / 2 ^ 12 % 2 = 1)
    let bulk := decide (n / 2 ^ 11 % 2 = 1)
    let dest : PkgId := BitVec.ofNat 16 (ga / 2 ^ 37)
    let issues (i : Instr) (k : RKind) (long reads atomic : Bool) : Prop :=
      let len := if long then c.toNat else if k = .notify then 0 else if sz32 then 4 else 8
      let p : RemotePkt :=
        { id := s.nextOp, origin := tileOrigin t.toNat s, kind := k, window := BitVec.ofNat 21 (ga / 2 ^ 16),
          offset := BitVec.ofNat 16 ga, len := len, data := if reads then readScratch t.toNat b.toNat len s else [], value := b,
          comparand := c, sz32 := sz32, sen := sen, g := BitVec.ofNat 6 (n / 2 ^ 13), bulk := bulk }
      let waits := if k = .notify then ((tileOps t.toNat s).filter (fun o => decide (o.dest = dest))).map (·.id) else []
      let op (left : Bool) : RemoteOp :=
        { id := s.nextOp, src := .tile t, pkt := p, dest := dest, laddr := b.toNat, ctr := f.d,
          e := if atomic then BitVec.ofNat 6 (n / 2 ^ 19) else 0, op := BitVec.ofNat 8 (rkOp k), bulk := bulk, departed := left,
          since := s.tick, waits := waits, pc := x.pc, word := insWord 6 (rkOp k) f }
      let kept (x' : Tile) (s' : State) : Prop := (∀ u : Nat, tileAt u s' = if u = t.toNat then x' else tileAt u s) ∧
        s'.nextOp = s.nextOp + 1 ∧ s'.scratch = s.scratch ∧ s'.vault = s.vault ∧ s'.regs = s.regs ∧ s'.link = s.link ∧
        s'.session = s.session ∧ s'.peer = s.peer ∧ s'.eth = s.eth ∧ s'.window = s.window ∧ s'.fences = s.fences ∧ s'.passed = s.passed
      Issues t 6 (rkOp k) f s → rmEnc k f = none →
        (long = true → c = 0 → sen = false → Gives i s (WroteC t f.d (cGet x f.d.toNat + 1) s)) ∧
        (¬ (long = true ∧ c = 0 ∧ sen = false) → rmFault k ga len b.toNat = none →
          (waits = [] → dest = pkgId s → Gives i s (fun s' => s'.rops = s.rops ++ [op true] ∧
            s'.out = .net .die (if bulk then 2 else 1) dest (.remote p) :: s.out ∧ kept { x with incs := [], pc := x.pc + 1 } s')) ∧
          (waits = [] → route dest s = none → Gives i s (fun s' =>
            s'.rops = s.rops.map (fun o => { o with waits := o.waits.filter (· ≠ s.nextOp) }) ∧
            s'.out = s.out ∧ cGet (tileAt t.toNat s') f.d.toNat = cGet x f.d.toNat + 1 ∧
            (tileAt t.toNat s').rstat = BitVec.ofNat 64 (dest.toNat * 2 ^ 48 +
              min 0xFFFF (x.rstat.toNat / 2 ^ 32 % 2 ^ 16 + 1) * 2 ^ 32 + 1 * 2 ^ 24 + f.d.toNat * 2 ^ 18 + rkOp k))) ∧
          (waits ≠ [] → Gives i s (fun s' => s'.rops = s.rops ++ [op false] ∧ s'.out = s.out ∧
            kept { x with incs := [], pc := x.pc + 1 } s')))
    issues (.put t f) .put true true false ∧ issues (.get t f) .get true false false ∧
    issues (.puts t f) .puts false false false ∧ issues (.aadd t f) .aadd false false true ∧
    issues (.cas t f) .cas false false true ∧ issues (.swap t f) .swap false false true ∧
    issues (.xacc t f) .xacc true true false ∧ issues (.notify t f) .notify false false false

/-- O33. FENCE with nothing earlier in its scope raises c[D] at once, else it waits for those operations and holds later remote
instructions of its tile at issue; it is satisfied when none of them is left. With FSC = 1 it makes check 3 of R186. RSTAT reads the
status word and clears COUNT and CODE on request. Every remote instruction waits at issue behind a FENCE that is not satisfied (R192) and
behind 64 outstanding operations (R196). -/
def Obligations.FencesAndRemoteStatus : Prop :=
  (∀ (t : TileId) (f : Ins) (s : State), f.b = 0 →
    let x := tileAt t.toNat s
    let n := f.imm.toNat
    let dest : PkgId := BitVec.ofNat 16 ((sGet x f.a.toNat).toNat / 2 ^ 37)
    let scope := ((tileOps t.toNat s).filter (fun o => decide (n = 0) || decide (o.dest = dest))).map (·.id)
    let free := s.fences.all (fun g => decide (g.tile ≠ t)) = true ∧ (tileOps t.toNat s).length < 64
    ((n = 0 ∧ f.a = 0) ∨ n = 2 ^ 9 → Issues t 6 0x1C f s → free →
      (n = 2 ^ 9 → 2 ^ 53 ≤ (sGet x f.a.toNat).toNat → exec (.fence t f) s =
        .next (raiseFault t.toNat 0x2A x.pc (insWord 6 0x1C f) (sGet x f.a.toNat).toNat (fetched t.toNat s))) ∧
      (n = 0 ∨ (sGet x f.a.toNat).toNat < 2 ^ 53 →
        (scope = [] → Gives (.fence t f) s (WroteC t f.d (cGet x f.d.toNat + 1) s)) ∧
        (scope ≠ [] → Gives (.fence t f) s (fun s' => tileAt t.toNat s' = { x with incs := [], pc := x.pc + 1 } ∧
          (∀ u : Nat, u ≠ t.toNat → tileAt u s' = tileAt u s) ∧ s'.fences = s.fences ++ [⟨s.nextOp, t, f.d, scope⟩] ∧
          { s'.attr with counts := s.attr.counts } = s.attr ∧
          { s' with tile := s.tile, fences := s.fences, nextOp := s.nextOp, attr := s.attr } = s)))) ∧
    (n < 2 → f.a = 0 → Issues t 6 0x20 f s → free → Gives (.rstat t f) s (fun s' =>
      (∀ k : BitVec 6, sGet (tileAt t.toNat s') k.toNat = if k = f.d ∧ f.d ≠ 0 then x.rstat else sGet x k.toNat) ∧
      (tileAt t.toNat s').rstat = (if n = 1 then x.rstat &&& 0xFFFF0000F0FFFFFF else x.rstat) ∧
      { tileAt t.toNat s' with sreg := x.sreg, rstat := x.rstat } = { x with incs := [], pc := x.pc + 1 } ∧ OnlyTile t s s'))) ∧
  (∀ (t : TileId) (f : Ins) (s : State), pGet (tileAt t.toNat s) f.p.toNat = true →
    ((∃ g ∈ s.fences, g.tile = t) ∨ 64 ≤ (tileOps t.toNat s).length) →
    ∀ c ∈ [Instr.put t f, .get t f, .puts t f, .aadd t f, .cas t f, .swap t f, .xacc t f, .notify t f, .fence t f, .rstat t f],
      exec c s = .next s) ∧
  (∀ (g : Fence) (before after : List Fence) (s : State), s.fences = before ++ g :: after →
    (∀ h ∈ before ++ after, h.id ≠ g.id) →
    (g.waits = [] → Gives (.fenceSatisfied g.id) s (fun s' => s'.fences = before ++ after ∧
      (∀ u : Nat, tileAt u s' =
        if u = g.tile.toNat then { tileAt u s with ctr := (tileAt u s').ctr, incs := (tileAt u s').incs } else tileAt u s) ∧
      (∀ k : BitVec 6, cGet (tileAt g.tile.toNat s') k.toNat =
        cGet (tileAt g.tile.toNat s) k.toNat + if k = g.ctr then 1 else 0) ∧
      (∀ k : BitVec 6, mapGet 0 (tileAt g.tile.toNat s').incs k.toNat =
        mapGet 0 (tileAt g.tile.toNat s).incs k.toNat + if k = g.ctr then 1 else 0) ∧
      { s' with tile := s.tile, fences := s.fences } = s)) ∧
    (g.waits ≠ [] → exec (.fenceSatisfied g.id) s = .next s)) ∧
  (∀ (o : RemoteOp) (before after : List RemoteOp) (s : State), s.rops = before ++ o :: after →
    (∀ q ∈ before ++ after, q.id ≠ o.id) → o.departed = false → o.waits = [] → o.dest = pkgId s →
    let p : RemotePkt := { o.pkt with origin := originOf o.src s }
    Gives (.notifyDepart o.id) s (fun s' =>
      s'.rops = before ++ { o with departed := true, since := s.tick, pkt := p } :: after ∧
      s'.out = .net .die (if p.bulk then 2 else 1) o.dest (.remote p) :: s.out ∧
      { s' with rops := s.rops, out := s.out } = s))

/-- O34. At the target, an arriving operation of any package completes: one refused by the checks of R182 changes no byte and no tile and
is counted and shown; one that passes has exactly the effect of its kind, on the memory its window names and on the counter it signals.
The checks are made at its arrival (R179); while the vaults are in self-refresh one that passes them waits, with the entry it passed
under (R175, R196). The response goes back in the operation's class. -/
def Obligations.RemoteEffectsAtTarget : Prop :=
  ∀ (p : RemotePkt) (s : State),
    let e := targetCheck p s
    let source : PkgId := BitVec.ofNat 16 (p.origin.toNat / 2 ^ 48)
    let t := p.window.toNat / 2048
    let sc := (mapGet 0 s.window p.window.toNat).getLsbD 7
    let a := if sc then bitsN (mapGet 0 s.window p.window.toNat).toNat 35 32 * 65536 + p.offset.toNat
      else p.window.toNat % 2048 * 65536 + p.offset.toNat
    let answers (err : BitVec 4) (data : List Byte) (s' : State) : Prop :=
      (source = pkgId s →
        s'.out = .net .die (if p.bulk then 2 else 1) source (.response p.origin p.id err data p.offset p.bulk) :: s.out) ∧
      (route source s = none → s'.out = s.out)
    let mem (s : State) : List Host.Cell := if sc then s.scratch else s.vault
    let base := t * if sc then 2 ^ 20 else 2 ^ 27
    let stored (g : Nat → Byte) (s' : State) : Prop :=
      (∀ k : Nat, mapGet 0 (mem s') k =
        if base + a ≤ k ∧ k < base + a + p.len then g (k - (base + a)) else mapGet 0 (mem s) k) ∧
      (if sc then s'.vault = s.vault else s'.scratch = s.scratch)
    let same (s' : State) : Prop := s'.vault = s.vault ∧ s'.scratch = s.scratch
    let signals (n : BitVec 32) (s' : State) : Prop :=
      (∀ u : Nat, u ≠ t → tileAt u s' = tileAt u s) ∧
      (∀ k : BitVec 6, cGet (tileAt t s') k.toNat = cGet (tileAt t s) k.toNat + if k = p.g then n else 0) ∧
      (∃ us, (tileAt t s').mats = (tileAt t s).mats.map (fun m =>
        { m with job := m.job.map (fun j => { j with late := j.late ++ us }) })) ∧
      (∃ us, (tileAt t s').vattn = (tileAt t s).vattn.map (fun v => { v with late := v.late ++ us })) ∧
      { tileAt t s' with
        ctr := (tileAt t s).ctr, incs := (tileAt t s).incs, mats := (tileAt t s).mats, vattn := (tileAt t s).vattn } = tileAt t s
    let sen : BitVec 32 := if p.sen then 1 else 0
    let old := readMem (mem s) (base + a) p.len
    let word (n : Nat) : Prop := Gives (.remoteOpArrive p) s (fun s' =>
      stored (fun i => BitVec.ofNat 8 (n / 2 ^ (8 * i))) s' ∧ answers 0 old s' ∧ signals 0 s')
    let m := if p.sz32 then 2 ^ 32 else 2 ^ 64
    (s.selfRefresh = true → e = 0 →
      exec (.remoteOpArrive p) s = .next { s with passed := s.passed ++ [(p, mapGet 0 s.window p.window.toNat)] }) ∧
    (e ≠ 0 → Gives (.remoteOpArrive p) s (fun s' => same s' ∧ s'.tile = s.tile ∧ answers e [] s' ∧
      reg 0x310014 s' = satAdd (reg 0x310014 s) 1 ∧ reg 0x310018 s' = BitVec.ofNat 32 (e.toNat * 2 ^ 28 + p.window.toNat) ∧
      reg 0x31001C s' = p.origin.setWidth 32 ∧ reg 0x310024 s' = (now s).setWidth 32)) ∧
    (s.selfRefresh = false → e = 0 → NoErr sc t a p.len s →
      (p.kind = .notify → Gives (.remoteOpArrive p) s (fun s' => same s' ∧ answers 0 [] s' ∧ signals (p.value.setWidth 32) s')) ∧
      (p.len = 0 → (p.kind = .put ∨ p.kind = .get ∨ p.kind = .xacc) →
        Gives (.remoteOpArrive p) s (fun s' => same s' ∧ answers 0 [] s' ∧ signals sen s')) ∧
      (p.len ≠ 0 → p.kind = .put → Gives (.remoteOpArrive p) s (fun s' =>
        stored (fun i => p.data.getD i 0) s' ∧ answers 0 [] s' ∧ signals sen s')) ∧
      (p.len ≠ 0 → p.kind = .get → Gives (.remoteOpArrive p) s (fun s' => same s' ∧ answers 0 old s' ∧ signals 0 s')) ∧
      (p.len ≠ 0 → p.len % 16 = 0 → p.kind = .xacc →
        (∀ bs, xaccBytes (p.len / 16) p.data old = some bs → Gives (.remoteOpArrive p) s (fun s' =>
          stored (fun i => bs.getD i 0) s' ∧ answers 0 [] s' ∧ signals sen s')) ∧
        (xaccBytes (p.len / 16) p.data old = none → Gives (.remoteOpArrive p) s (fun s' =>
          same s' ∧ answers 5 [] s' ∧ signals 0 s'))) ∧
      (p.kind = .puts → Gives (.remoteOpArrive p) s (fun s' =>
        stored (fun i => BitVec.ofNat 8 (p.value.toNat / 2 ^ (8 * i))) s' ∧ answers 0 [] s' ∧ signals sen s')) ∧
      (p.len = (if p.sz32 then 4 else 8) →
        (p.kind = .aadd → word ((ofLe old + p.value.toNat) % m)) ∧ (p.kind = .swap → word (p.value.toNat % m)) ∧
        (p.kind = .cas → word (if ofLe old = p.comparand.toNat % m then p.value.toNat % m else ofLe old))))

/-- O35. An operation completes at its tile: with no error a GET's bytes are in scratch and an atomic's old value is in its register
before c[D] rises by 1; with an error the status word holds it and c[D] rises all the same. -/
def Obligations.RemoteCompletion : Prop :=
  ∀ (o : RemoteOp) (t : TileId) (before after : List RemoteOp) (s : State) (err : BitVec 4) (data : List Byte),
    s.rops = before ++ o :: after → (∀ q ∈ before ++ after, q.id ≠ o.id) → o.departed = true → o.src = .tile t →
    NoErr true t.toNat o.laddr o.pkt.len s →
    let x := tileAt t.toNat s
    let done (s' : State) : Prop :=
      s'.rops = (before ++ after).map (fun q => { q with waits := q.waits.filter (· ≠ o.id) }) ∧
      s'.fences = s.fences.map (fun g => { g with waits := g.waits.filter (· ≠ o.id) }) ∧
      (∀ k : BitVec 6, cGet (tileAt t.toNat s') k.toNat = cGet x k.toNat + if k = o.ctr then 1 else 0) ∧
      (∀ u : Nat, u ≠ t.toNat → tileAt u s' = tileAt u s) ∧ s'.vault = s.vault ∧ s'.out = s.out ∧ s'.regs = s.regs
    let sameRegs (s' : State) : Prop := (tileAt t.toNat s').sreg = x.sreg ∧ (tileAt t.toNat s').rstat = x.rstat
    let c := Instr.remoteOpComplete o.id err data
    (err = 0 → o.pkt.kind = .get → Gives c s (fun s' => done s' ∧ sameRegs s' ∧
      (∀ k : Nat, mapGet 0 s'.scratch k =
        if t.toNat * 2 ^ 20 + o.laddr ≤ k ∧ k < t.toNat * 2 ^ 20 + o.laddr + o.pkt.len then
          data.getD (k - (t.toNat * 2 ^ 20 + o.laddr)) 0 else mapGet 0 s.scratch k))) ∧
    (err = 0 → (o.pkt.kind = .aadd ∨ o.pkt.kind = .cas ∨ o.pkt.kind = .swap) → Gives c s (fun s' => done s' ∧
      s'.scratch = s.scratch ∧ (tileAt t.toNat s').rstat = x.rstat ∧
      (∀ k : BitVec 6, sGet (tileAt t.toNat s') k.toNat = if k = o.e ∧ o.e ≠ 0 then
        BitVec.ofNat 64 (ofLe (data.take (if o.pkt.sz32 then 4 else 8))) else sGet x k.toNat))) ∧
    (err = 0 → (o.pkt.kind = .put ∨ o.pkt.kind = .puts ∨ o.pkt.kind = .xacc ∨ o.pkt.kind = .notify) → Gives c s (fun s' =>
      done s' ∧ sameRegs s' ∧ s'.scratch = s.scratch)) ∧
    (err ≠ 0 → Gives c s (fun s' => done s' ∧ s'.scratch = s.scratch ∧ (tileAt t.toNat s').sreg = x.sreg ∧
      (tileAt t.toNat s').rstat = BitVec.ofNat 64 (o.dest.toNat * 2 ^ 48 +
        min 0xFFFF (x.rstat.toNat / 2 ^ 32 % 2 ^ 16 + 1) * 2 ^ 32 + err.toNat * 2 ^ 24 + o.ctr.toNat * 2 ^ 18 + o.op.toNat))) ∧
    (o.id ∈ waitingOps s → exec (.remoteOpTimeout o.id) s = .next s) ∧
    (o.id ∉ waitingOps s → regF 0x310010 15 0 s ≠ 0 → o.since + regF 0x310010 15 0 s * 1000 ≤ s.tick → jobOfTile t.toNat s = none →
      Gives (.remoteOpTimeout o.id) s (fun s' => done s' ∧ s'.scratch = s.scratch ∧
        ((tileAt t.toNat s').rstat >>> 24).setWidth 4 = 7#4)) ∧
    (s.tick < o.since + regF 0x310010 15 0 s * 1000 → exec (.remoteOpTimeout o.id) s = .next s)
/-! ### The control space (R10 to R15, R85, R264) -/

/-- O36. Accesses to registers. Only an aligned 32-bit access is accepted. An unmapped register reads as zero and takes no write, with
one record; a read-only register ignores a write; an origin without the right is refused, with one record. Reading the low word of a
64-bit value keeps the high word of that instant for the origin's next read of it. SYS.PKG_ID is written while no link has left
DETECT, and a write of 1 to TILE.FAULT.VALID clears the record, after which STATE 8, a fault with its record, reads 7. GOV.HB ignores
every origin but the rack manager (R286). -/
def Obligations.RegisterAccess : Prop :=
  ∀ (o : Origin) (addr : BitVec 24) (v : BitVec 32) (s : State), NothingWaits s →
    let a := addr.toNat
    let answers (c : Instr) (r : Resp) (t : State) : Prop := Gives c s (Answered o a r t)
    (∀ w : Nat, ¬ (w = 32 ∧ a % 4 = 0) → answers (.registerWrite o addr w v) .error s) ∧
    (a % 4 ≠ 0 → answers (.lowWordRead o addr) .error s) ∧
    (a % 4 = 0 → hasRight 0 o s = false → answers (.lowWordRead o addr) .rights (report 0x50 o (BitVec.ofNat 32 a) [] s)) ∧
    (a % 4 = 0 → hasRight 0 o s = true → regAt a = none →
      answers (.lowWordRead o addr) (.ok 0) (report 0x51 o (BitVec.ofNat 32 a) [0] s)) ∧
    (a % 4 = 0 → logRoom s = true → regAt a = none →
      answers (.registerWrite o addr 32 v) (.ok 0) (report 0x51 o (BitVec.ofNat 32 a) [1] s)) ∧
    (∀ r, a % 4 = 0 → logRoom s = true → regAt a = some r → r.readOnly = true → a ≠ 0x1_0014 → a / 0x10000 ≠ 0x13 →
      answers (.registerWrite o addr 32 v) (.ok 0) s) ∧
    (∀ r, a % 4 = 0 → logRoom s = true → regAt a = some r → r.readOnly = false → inChannel a = false → a ≠ 0x3_1104 →
      a ≠ 0x1_0000 → a ≠ 0x1_0014 → a ≠ 8 → a ≠ 0x10_0044 → a / 0x10000 ≠ 0x13 → mayWrite o a v s = false →
      answers (.registerWrite o addr 32 v) .rights (report 0x50 o (BitVec.ofNat 32 a) [] s)) ∧
    (a = 0x10_0044 → logRoom s = true → o ≠ oRack → answers (.registerWrite o addr 32 v) (.ok 0) s) ∧
    (∀ r, a % 4 = 0 → logRoom s = true → regAt a = some r → r.readOnly = false → inChannel a = false → a ≠ 0x3_1104 →
      a ≠ 0x1_0000 → a ≠ 0x1_0014 → a ≠ 8 → a / 0x10000 ≠ 0x13 → mayWrite o a v s = true →
      (∀ t, regWriteOp o a v s = (.logged, t) → NothingWaits t → Gives (.registerWrite o addr 32 v) s (Accepted o a v s t)) ∧
      (∀ t, regWriteOp o a v s = (.silent, t) → NothingWaits t → answers (.registerWrite o addr 32 v) (.ok 0) t) ∧
      (∀ t, regWriteOp o a v s = (.refused, t) → answers (.registerWrite o addr 32 v) .error s)) ∧
    (0x40_8940 ≤ a → a ≤ 0x40_8970 → a % 4 = 0 → logRoom s = true → hasRight 2 o s = true →
      Gives (.registerWrite o addr 32 v) s (Accepted o a v s (setReg a v s)) ∧ reg a (setReg a v s) = v) ∧
    (a % 4 = 0 → hasRight 0 o s = true → (regAt a).isSome = true → lowWord a = true → inChannel a = false → a ≠ aCtl 0xE4 →
      inChannel (a + 4) = false → a + 4 ≠ aCtl 0xE4 → mapGet none s.shadow o.toNat = none →
      Gives (.lowWordRead o addr) s (fun s' => Answered o a (.ok (regVal a s))
        { s with shadow := mapSet none s.shadow o.toNat (some (BitVec.ofNat 24 (a + 4), regVal (a + 4) s)) } s')) ∧
    (∀ x, a % 4 = 0 → hasRight 0 o s = true → (regAt a).isSome = true → mapGet none s.shadow o.toNat = some (addr, x) →
      answers (.lowWordRead o addr) (.ok x) { s with shadow := mapSet none s.shadow o.toNat none }) ∧
    (logRoom s = true → isCard s = false → (isS0 o s = true ∨ o = oRack) → (∀ n : Nat, n < 64 → linkSt n s ≤ lsDetect) →
      Gives (.placeWrite o v) s (Accepted o 8 v s { s with place := v.extractLsb' 2 14, pkgSet := true })) ∧
    (∀ t : TileId, logRoom s = true → hasRight 2 o s = true → Gives (.faultValidClear o t) s (fun s' =>
      ∃ t' : State, Accepted o (0x80_0008 + 0x1000 * t.toNat) 0x80000000 s t' s' ∧
        (∀ u : Nat, tileAt u t' = if u = t.toNat then
          { tileAt u s with fault := FaultRec.zero, st := if (tileAt u s).st = 8 then 7 else (tileAt u s).st } else tileAt u s) ∧
        { t' with tile := s.tile } = s))

/-! ### Kernels and barriers (R71 to R76, R108, R253) -/

/-- O37. A posted kernel starts when its queue and all its tiles are free and its images can be read: every tile holds its own image
from instruction 0, the argument, its index and the number of tiles, zeroed registers, accumulators, predicates and flags, and
counters that are kept only where the descriptor says so; the partition's tag becomes 0 if it was idle. Otherwise, and while the vaults
are in self-refresh, nothing happens. The
kernel is complete when the last of its tiles has drained after END. -/
def Obligations.KernelsStartAndComplete : Prop :=
  (∀ (q : BitVec 8) (s : State),
    let x := queueAt q.toNat s
    (x.running ≠ none ∨ x.posted = [] → exec (.kernelStart q) s = .next s) ∧
    (∀ (k : Kernel) (rest : List Kernel), x.running = none → x.posted = k :: rest →
      let ts := onesOf k.d.tiles
      let p := k.part.toNat
      let off := k.d.imageOff.toNat
      let len := k.d.imageLen.toNat
      (s.selfRefresh = true ∨ ts.any (fun t => tileBusy (tileAt t s)) = true ∨ ts.any (fun t => decide (ownerOf t s ≠ some p)) = true →
        exec (.kernelStart q) s = .next s) ∧
      (s.selfRefresh = false → ts.all (fun t => !tileBusy (tileAt t s) && decide (ownerOf t s = some p)) = true →
        (∀ t ∈ ts, NoErr false t off (8 * len) s) → Gives (.kernelStart q) s (fun s' =>
          queueAt q.toNat s' = { x with posted := rest, running := some k, ended := 0 } ∧
          (∀ r : Nat, r ≠ q.toNat → queueAt r s' = queueAt r s) ∧
          (∀ t : Nat, t ∉ ts → tileAt t s' = tileAt t s) ∧
          (∀ t ∈ ts, let y := tileAt t s'
            y = { tileAt t s with
              istore := y.istore, pc := 0, sreg := y.sreg, vreg := [], acc := [], pred := 0, flags := 0, wait := .none, st := 1,
              ctr := (if k.d.flags.getLsbD 0 then (tileAt t s).ctr else []), queue := k.d.queue, dmas := [], mats := [],
              vattn := none, credit := 0, launchCycle := s.cycle, rstat := 0, incs := [] } ∧
            (∀ j : Nat, mapGet 0 y.istore j = if j < len then BitVec.ofNat 64 (ofLe (readVault t (off + 8 * j) 8 s))
              else mapGet 0 (tileAt t s).istore j) ∧
            (∀ r : BitVec 6, sGet y r.toNat = if r = 1 then k.d.arg
              else if r = 2 then BitVec.ofNat 64 (ts.filter (fun u => decide (u < t))).length
              else if r = 3 then BitVec.ofNat 64 ts.length else 0)) ∧
          (∀ r : Nat, partAt r s' = if r = p ∧ partActive p s = false then { partAt r s with tag := 0 } else partAt r s) ∧
          s'.vault = s.vault ∧ s'.scratch = s.scratch ∧ s'.regs = s.regs ∧ s'.out = s.out ∧ s'.rops = s.rops ∧
          s'.session = s.session ∧ s'.jobs = s.jobs ∧ s'.group = s.group))) ∧
  (∀ (t : TileId) (s : State), (tileAt t.toNat s).wait = .drainEnd →
    let x := tileAt t.toNat s
    let q := x.queue.toNat
    let idle := updTile t.toNat (fun x => { x with st := 0, wait := .none }) s
    let ended := setBit (queueAt q s).ended t.toNat true
    (drained t.toNat s = false → exec (.endCompletion t) s = .next s) ∧
    (∀ k, drained t.toNat s = true → (queueAt q s).running = some k →
      (ended &&& k.d.tiles ≠ k.d.tiles →
        exec (.endCompletion t) s = .next (updQueue q (fun y => { y with ended := ended }) idle)) ∧
      (ended &&& k.d.tiles = k.d.tiles → CanSend k.ses.toNat s → Gives (.endCompletion t) s
        (Sent k.ses.toNat (.kernelComplete k.tag) (updQueue q (fun y => { y with running := none, ended := 0 }) idle))))))

/-- O38. A tile that has drained arrives at its barrier group; the last local member sends the package's arrival to the group's root,
the member package with the lowest identifier, which releases when it holds the arrival of every member; a release is held until the
beat boundary, where the waiting members become due for their feathered release. -/
def Obligations.BarriersReleaseTogether : Prop :=
  (∀ (t : TileId) (g : BitVec 4) (p : Nat) (j : BitVec 16) (s : State), (tileAt t.toNat s).wait = .drainBarrier g →
    ownerOf t.toNat s = some p → jobOfPart p s = some j →
    let k := 16 * p + g.toNat
    let y := mapGet Group.zero s.group k
    let arrived := setBit y.arrived t.toNat true
    let waits := updTile t.toNat (fun x => { x with st := 3, wait := .barrier g }) s
    let c := Instr.barrierArrive t
    (drained t.toNat s = false → exec c s = .next s) ∧
    (drained t.toNat s = true → (arrived ≠ y.tiles ∨ y.sent = true) → Gives c s (fun s' =>
      s'.tile = waits.tile ∧ mapGet Group.zero s'.group k = { y with arrived := arrived } ∧
      (∀ i : Nat, i ≠ k → mapGet Group.zero s'.group i = mapGet Group.zero s.group i) ∧
      { s' with tile := s.tile, group := s.group } = s)) ∧
    (drained t.toNat s = true → arrived = y.tiles → y.sent = false → y.members = [pkgId s] → Gives c s (fun s' =>
      s'.tile = waits.tile ∧
      mapGet Group.zero s'.group k = { y with arrived := arrived, sent := true, pkgs := [], held := true, epoch := y.epoch + 1 } ∧
      (∀ i : Nat, i ≠ k → mapGet Group.zero s'.group i = mapGet Group.zero s.group i) ∧
      { s' with tile := s.tile, group := s.group } = s)) ∧
    (∀ r ∈ y.members, drained t.toNat s = true → arrived = y.tiles → y.sent = false → r ≠ pkgId s →
      (∀ q ∈ y.members, r.toNat ≤ q.toNat) → Gives c s (fun s' =>
        ∃ t', t'.tile = waits.tile ∧ mapGet Group.zero t'.group k = { y with arrived := arrived, sent := true } ∧
          (∀ i : Nat, i ≠ k → mapGet Group.zero t'.group i = mapGet Group.zero s.group i) ∧
          { t' with tile := s.tile, group := s.group } = s ∧ s' = cl0To .barrier r (.barrierArrive j g) t'))) ∧
  (∀ (j : BitVec 16) (g : BitVec 4) (src : PkgId) (k : Nat) (s : State), groupsOf j g s = [k] →
    let y := mapGet Group.zero s.group k
    let becomes (c : Instr) (z : Group) : Prop := Gives c s (fun s' => mapGet Group.zero s'.group k = z ∧
      (∀ i : Nat, i ≠ k → mapGet Group.zero s'.group i = mapGet Group.zero s.group i) ∧ { s' with group := s.group } = s)
    (¬ (src ∈ y.members ∧ rootOf y = pkgId s ∧ src ∉ y.pkgs) → exec (.barrierArrival j g src) s = .next s) ∧
    (src ∈ y.members → rootOf y = pkgId s → src ∉ y.pkgs → (∃ m ∈ y.members, m ≠ src ∧ m ∉ y.pkgs) →
      becomes (.barrierArrival j g src) { y with pkgs := src :: y.pkgs }) ∧
    (y.members = [src, pkgId s] → rootOf y = pkgId s → src ≠ pkgId s → y.pkgs = [pkgId s] →
      Gives (.barrierArrival j g src) s (fun s' => ∃ t', mapGet Group.zero t'.group k =
          { y with pkgs := [], held := true, epoch := y.epoch + 1 } ∧
        (∀ i : Nat, i ≠ k → mapGet Group.zero t'.group i = mapGet Group.zero s.group i) ∧ { t' with group := s.group } = s ∧
        s' = cl0To .barrier src (.barrierRelease j (BitVec.ofNat 4 (k % 16))) t')) ∧
    (y.sent = false → exec (.barrierReleaseMessage j g) s = .next s) ∧
    (y.sent = true → becomes (.barrierReleaseMessage j g) { y with held := true })) ∧
  (∀ (part g : BitVec 4) (s : State),
    let k := 16 * part.toNat + g.toNat
    let y := mapGet Group.zero s.group k
    let mine (t : Nat) : Bool := y.tiles.getLsbD t && (tileAt t s).st == 3
    (y.held = false → exec (.barrierRelease part g) s = .next s) ∧
    (y.held = true → Gives (.barrierRelease part g) s (fun s' =>
      mapGet Group.zero s'.group k = { y with held := false, arrived := 0, sent := false, pkgs := [] } ∧
      (∀ i : Nat, i ≠ k → mapGet Group.zero s'.group i = mapGet Group.zero s.group i) ∧
      (∀ t : Nat, tileAt t s' = if mine t then { tileAt t s with st := 6 } else tileAt t s) ∧
      s'.gov.due = s.gov.due ++ (inOrder (fun c => (List.range 1024).any (fun t => mine t && clusterOf t == c)) s).zipIdx.map
        (fun e => (s.tick + 1 + e.2 * spanOf s / 64, BitVec.ofNat 6 e.1, some k)) ∧
      { s'.gov with due := s.gov.due } = s.gov ∧
      { s' with group := s.group, tile := s.tile, gov := s.gov } = s)))

/-- O39. A tile cycle gives every tile its credit, up to 1,024, and takes it away in a halt; a tile with a matrix instruction whose turn
it is runs one active cycle of it when 256 is at hand (R115); a wash cluster's idle tile spends 256 of a full credit. An MMA whose active
cycles are over then writes its accumulator and nothing else (O21 says what). -/
def Obligations.TileCyclesSpendCredit : Prop :=
  (∀ s : State, Gives .tileCycle s (fun s' =>
    (∀ t : TileId,
      let x := tileAt t.toNat s
      let c := clusterOf t.toNat
      let on := s.gov.admitted.getLsbD c || s.gov.wash.getLsbD c
      let credit := if on then min (x.credit + mapGet 0 s.gov.limit c) 1024 else 0
      let y : Tile :=
        if s.gov.halt ≠ 0 ∨ s.gov.held.getLsbD c = true then { x with credit := 0, incs := [] }
        else if (matReady x.mats).isSome = true then
          (if on = true ∧ 256 ≤ credit then { x with credit := credit - 256, mats := matCycle true x.mats, incs := [] }
           else { x with credit := credit, mats := matCycle false x.mats, incs := [] })
        else { x with mats := matCycle false x.mats, incs := [],
                      credit := if s.gov.wash.getLsbD c = true ∧ credit = 1024 then 768 else credit }
      ((∀ m ∈ y.mats, m.active = 0 → m.job = none) → tileAt t.toNat s' = y) ∧
      ((∃ m ∈ y.mats, m.active = 0 ∧ m.job ≠ none) →
        tileAt t.toNat s' = { y with
          acc := (tileAt t.toNat s').acc, flags := (tileAt t.toNat s').flags
          mats := y.mats.map (fun m => if m.active = 0 then { m with job := none } else m) })) ∧
    s'.cycle = s.cycle + 1 ∧ { s'.attr with counts := s.attr.counts } = s.attr ∧
    { s' with tile := s.tile, cycle := s.cycle, attr := s.attr, free := s.free } = s)) ∧
  (∀ (m : MatOp) (r : List MatOp),
    (m.active ≠ 0 → matReady (m :: r) = some m) ∧
    (m.active = 0 → m.mma = true → mmaNext r = true → matReady (m :: r) = matReady r) ∧
    (m.active = 0 → (m.mma = false ∨ mmaNext r = false) → matReady (m :: r) = none))

/-! ### Memory upkeep (R158, R163 to R174) -/

/-- O40. Refresh counts on at stroke 4, and at stroke 6 while it is not aligned with the beat, and closes the row of its bank in every
vault (R152, R159). A scrubber reads its next unit and wraps; a correctable one is counted and gets its write-back, an uncorrectable one is
shown and left as it is; it does not run with interval 0, before the interval has passed, during cold initialisation, in self-refresh or
while its vault is being cleared. A write-back repairs its grain once. Clearing and initialisation leave zeros and closed windows.
MEM.CE_CLEAR zeroes one tile's counters or all. -/
def Obligations.MemoryUpkeep : Prop :=
  (∀ s : State,
    let closed (s' : State) : Prop := ∀ v q : Nat, q < 64 → openRow v q s' = if q = s.rc.toNat % 64 then none else openRow v q s
    (s.frac.toNat ≤ 2048 → Gives .vaultRefresh s (fun s' => closed s' ∧ { s' with vaultRow := s.vaultRow } =
      { s with rc := s.rc + 1, aligned := decide (s.rc = s.beat.extractLsb' 0 14), frac := 2048 })) ∧
    (2048 < s.frac.toNat → exec .vaultRefresh s = .next s) ∧
    (s.aligned = true ∨ 3072 < s.frac.toNat → exec .catchUpRefresh s = .next s) ∧
    (s.aligned = false → s.frac.toNat ≤ 3072 → Gives .catchUpRefresh s (fun s' => closed s' ∧
      { s' with vaultRow := s.vaultRow } = { s with rc := s.rc + 1, frac := 3072 }))) ∧
  (∀ (t : TileId) (s : State),
    let due (k : Nat) : Prop := ∀ b, mapGet none s.scrubAt k = some b → b + regF 0x30_0000 15 0 s ≤ s.tick
    let runs := regF 0x30_0000 15 0 s ≠ 0 ∧ memInitDone s = true ∧ s.selfRefresh = false ∧ clearing t.toNat s = false
    let on := runs ∧ due (2 * t.toNat)
    let on2 := runs ∧ due (2 * t.toNat + 1)
    let g := mapGet 0 s.vaultScrub t.toNat
    let w := mapGet 0 s.scratchScrub t.toNat
    let bad (c : Nat) : List Nat := badGrains false t.toNat (64 * g) 64 c s
    let k := 2 ^ 21 * t.toNat + g
    let read (k : Nat) (s' : State) : Prop := ∀ i : Nat, mapGet none s'.scrubAt i = if i = k then some s.tick else mapGet none s.scrubAt i
    let steps (s' : State) : Prop := read (2 * t.toNat) s' ∧ (∀ u : Nat, mapGet 0 s'.vaultScrub u =
      if u = t.toNat then (g + 1) % 2 ^ 21 else mapGet 0 s.vaultScrub u)
    (¬ on ∨ vdramOn s = false → exec (.vaultScrub t) s = .next s) ∧
    (on → vdramOn s = true → bad 1 = [] → bad 2 = [] → Gives (.vaultScrub t) s (fun s' => steps s' ∧
      (∀ a : Nat, reg a s' = if a = 0x30_0004 ∧ t = 0 ∧ g + 1 = 2 ^ 21 then reg a s + 1 else reg a s) ∧
      { s'.attr with counts := s.attr.counts } = s.attr ∧
      openRow t.toNat (bankNo (64 * g)) s' = some (vaultRowOf (64 * g)) ∧
      { s' with vaultScrub := s.vaultScrub, scrubAt := s.scrubAt, vaultRow := s.vaultRow, regs := s.regs, attr := s.attr } = s)) ∧
    (on → vdramOn s = true → bad 1 = [g] → bad 2 = [] → Gives (.vaultScrub t) s (fun s' => steps s' ∧ k ∈ s'.vaultFix ∧
      s'.vaultErr = s.vaultErr ∧ s'.vault = s.vault ∧ s'.scratch = s.scratch ∧ s'.tile = s.tile ∧
      fld (reg (0x30_1000 + 4 * t.toNat) s') 15 0 = min 0xFFFF (fld (reg (0x30_1000 + 4 * t.toNat) s) 15 0 + 1))) ∧
    (on → vdramOn s = true → bad 1 = [] → bad 2 = [g] → jobOfTile t.toNat s = none → Gives (.vaultScrub t) s (fun s' => steps s' ∧
      s'.vaultErr = s.vaultErr ∧ s'.vault = s.vault ∧ s'.scratch = s.scratch ∧ s'.tile = s.tile ∧ s'.jobs = s.jobs ∧
      reg 0x30_0010 s' = satAdd (reg 0x30_0010 s) 1 ∧ reg 0x30_0020 s' = BitVec.ofNat 32 (t.toNat * 2 ^ 27 + 64 * g) ∧
      reg 0x30_0030 s' = (now s).setWidth 32)) ∧
    (¬ on2 → exec (.scratchScrub t) s = .next s) ∧
    (on2 → NoErr true t.toNat (8 * w) 8 s → Gives (.scratchScrub t) s (fun s' => read (2 * t.toNat + 1) s' ∧
      (∀ u : Nat, mapGet 0 s'.scratchScrub u = if u = t.toNat then (w + 1) % 2 ^ 17 else mapGet 0 s.scratchScrub u) ∧
      { s'.attr with counts := s.attr.counts } = s.attr ∧
      { s' with scratchScrub := s.scratchScrub, scrubAt := s.scrubAt, attr := s.attr } = s)) ∧
    (∀ u : Nat, u < 2 ^ 21 → let k := t.toNat * 2 ^ 21 + u
      (k ∉ s.vaultFix → exec (.vaultWriteBack t u) s = .next s) ∧
      (k ∈ s.vaultFix → Gives (.vaultWriteBack t u) s (fun s' => k ∉ s'.vaultFix ∧
        (∀ i : Nat, mapGet 0 s'.vaultErr i = if i = k then 0 else mapGet 0 s.vaultErr i) ∧
        { s' with vaultFix := s.vaultFix, vaultErr := s.vaultErr, vaultRow := s.vaultRow } = s))) ∧
    (∀ u : Nat, u < 2 ^ 17 → let k := t.toNat * 2 ^ 17 + u
      (k ∉ s.scratchFix → exec (.scratchWriteBack t u) s = .next s) ∧
      (k ∈ s.scratchFix → Gives (.scratchWriteBack t u) s (fun s' => k ∉ s'.scratchFix ∧
        (∀ i : Nat, mapGet 0 s'.scratchErr i = if i = k then 0 else mapGet 0 s.scratchErr i) ∧
        { s' with scratchFix := s.scratchFix, scratchErr := s.scratchErr } = s))) ∧
    (∀ u : Nat, 2 ^ 21 ≤ u → exec (.vaultWriteBack t u) s = .fault .noSuchAddress) ∧
    (∀ u : Nat, 2 ^ 17 ≤ u → exec (.scratchWriteBack t u) s = .fault .noSuchAddress) ∧
    (clearing t.toNat s = false ∨ memInitDone s = false → exec (.clearingComplete t) s = .next s) ∧
    (clearing t.toNat s = true → memInitDone s = true → Gives (.clearingComplete t) s (fun s' =>
      (∀ a : Nat, mapGet 0 s'.vault a = if a / 2 ^ 27 = t.toNat then 0 else mapGet 0 s.vault a) ∧
      (∀ a : Nat, mapGet 0 s'.scratch a = if a / 2 ^ 20 = t.toNat then 0 else mapGet 0 s.scratch a) ∧
      (∀ a : Nat, winAt a s' = if a / 2 ^ 11 = t.toNat then 0 else winAt a s) ∧
      (∀ a : Nat, mapGet 0 s'.vaultErr a = if a / 2 ^ 21 = t.toNat then 0 else mapGet 0 s.vaultErr a) ∧
      (∀ a : Nat, mapGet 0 s'.scratchErr a = if a / 2 ^ 17 = t.toNat then 0 else mapGet 0 s.scratchErr a) ∧
      (∀ u : Nat, tileAt u s' = if u = t.toNat then { tileAt u s with istore := [] } else tileAt u s) ∧
      clearing t.toNat s' = false ∧ (∀ u : TileId, u ≠ t → clearing u.toNat s' = clearing u.toNat s) ∧
      s'.rops = s.rops ∧ s'.session = s.session ∧ s'.changes = s.changes ∧ s'.recorder = s.recorder))) ∧
  (∀ s : State,
    (vdramOn s = false ∨ s.rst.released.getLsbD 2 = false ∨ memInitDone s = true → exec .memInitDone s = .next s) ∧
    (vdramOn s = true → s.rst.released.getLsbD 2 = true → memInitDone s = false → Gives .memInitDone s (fun s' =>
      ∃ t', s' = releaseBlocks t' ∧ t'.vault = [] ∧ t'.scratch = [] ∧ t'.window = [] ∧ t'.vaultErr = [] ∧ t'.scratchErr = [] ∧
        t'.istoreErr = [] ∧ memInitDone t' = true ∧ (∀ u : TileId, clearing u.toNat t' = false) ∧
        t'.rst = s.rst ∧ t'.rails = s.rails ∧ t'.session = s.session ∧
        (∀ u : Nat, tileAt u t' =
          { Tile.zero with part := (tileAt u s).part, assigned := (tileAt u s).assigned })))) ∧
  (∀ (o : Origin) (v : BitVec 32) (s : State), logRoom s = true → hasRight 2 o s = true →
    Gives (.ceClear o v) s (fun s' => ∃ t', Accepted o 0x30_0014 v s t' s' ∧ { t' with regs := s.regs } = s ∧
      (∀ a : Nat, reg a t' =
        if (v = 0xFFFFFFFF ∧ 0x30_1000 ≤ a ∧ a < 0x30_2000) ∨ (v.toNat < 1024 ∧ a = 0x30_1000 + 4 * v.toNat) then 0 else reg a s)))

/-! ### Windows (R177 to R180, R206, R246) -/

/-- O41. An entry of the window table is written with the origin's staged low word, or the committed one, as one record of the change
log; a write to a tile without a partition or being cleared, or with a reserved bit set, is discarded, shown and reported. A write that
narrows sets BUSY until what had passed is applied, what waits for the end of self-refresh included; WINDOW_SET is answered when BUSY is
clear, and needs the owner's session. -/
def Obligations.WindowTableWrites : Prop :=
  (∀ (o : Origin) (v : BitVec 32) (s : State), logRoom s = true → hasRight 2 o s = true →
    let w := regF (aWin 0) 20 0 s
    let lo := (mapGet none s.stagedLo o.toNat).getD ((winAt w s).setWidth 32)
    let e : BitVec 64 := v ++ lo
    let rest : State := { s with stagedLo := mapSet none s.stagedLo o.toNat none }
    let good := (ownerOf (w / 2048) s).isSome = true ∧ clearing (w / 2048) s = false ∧ e.extractLsb' 8 24 = 0
    Gives (.entryLoStage o v) s (Accepted o (aWin 4) v s { s with stagedLo := mapSet none s.stagedLo o.toNat (some v) }) ∧
    (good → narrows (winAt w s) e = false → Gives (.entryHiCommit o v) s (Accepted o (aWin 8) v s
      { rest with window := mapSet 0 s.window w e, changes := { s.changes with
          intake := s.changes.intake ++ [⟨o, 1, now s, BitVec.ofNat 32 w, 0, winAt w s, e, markNow s⟩] } })) ∧
    (good → narrows (winAt w s) e = true → Gives (.entryHiCommit o v) s (Accepted o (aWin 8) v s
      (regBit (aWin 0xC) 0 true { rest with window := mapSet 0 s.window w e, changes := { s.changes with
          intake := s.changes.intake ++ [⟨o, 1, now s, BitVec.ofNat 32 w, 0, winAt w s, e, markNow s⟩] } }))) ∧
    (¬ good → Gives (.entryHiCommit o v) s (Accepted o (aWin 8) v s
      (report 0x28 o (BitVec.ofNat 32 w) (leBytes 8 e.toNat) (regBit (aWin 0xC) 1 true rest))))) ∧
  (∀ (h : CmdHdr) (w : BitVec 32) (e : BitVec 64) (s : State), Serves h (.windowSet w e) s → w.toNat < 2 ^ 21 →
    let n := h.ses.toNat
    let p := ownerOf (w.toNat / 2048) s
    let written : State := { s with window := mapSet 0 s.window w.toNat e, changes := { s.changes with
          intake := s.changes.intake ++ [⟨h.ses, 1, now s, BitVec.ofNat 32 w.toNat, 0, winAt w.toNat s, e, markNow s⟩] } }
    let c := Instr.windowSet h w e
    (clearing (w.toNat / 2048) s = true → Gives c s (Replies h 4 [] s)) ∧
    (clearing (w.toNat / 2048) s = false → p = none → Gives c s (Replies h 8 [] s)) ∧
    (clearing (w.toNat / 2048) s = false → p ≠ none → (sesAt n s).part.map (·.toNat) = p → e.extractLsb' 8 24 = 0 →
      (narrows (winAt w.toNat s) e = false → regIs (aWin 0xC) 0 s = false → Gives c s (Replies h 0 [] written)) ∧
      (narrows (winAt w.toNat s) e = true → Gives c s (fun s' => s'.windowWaits = [(h.ses, h.tag)] ∧
        sesAt n s' = { sesAt n s with cmds := (sesAt n s).cmds + 1 } ∧ (∀ m : Nat, m ≠ n → sesAt m s' = sesAt m s) ∧
        { s' with windowWaits := s.windowWaits, session := s.session } = regBit (aWin 0xC) 0 true written)))) ∧
  (∀ s : State, s.passed ≠ [] → exec .windowDrainEnd s = .next s) ∧
  (∀ s : State, NothingWaits s → s.passed = [] →
    (s.windowWaits = [] → Gives .windowDrainEnd s (fun s' => s' = regBit (aWin 0xC) 0 false s)) ∧
    (∀ n tag : BitVec 16, s.windowWaits = [(n, tag)] → CanSend n.toNat s → Gives .windowDrainEnd s
      (Sent n.toNat (.response tag 0 0 [])
        (updSes n.toNat (fun x => { x with cmds := x.cmds - 1 }) (regBit (aWin 0xC) 0 false { s with windowWaits := [] })))))

/-! ### Mailboxes and doorbells (R256 to R263) -/

/-- O42. A message is staged register by register and posted whole by GO, when the channel is empty, its origin may send and the
receiver's domain is powered; the receiver's bell is set, and a bell that rises notifies unless it is masked: the Governor and the pack
controller at the next FRAC 0, every other receiver at once (R260). A full channel, an unpowered receiver and a missing right have their
answers and MBX.ERR. A GO on channels 24 to 27 waits for the answer of the other package, which a message to it gets whether it is posted
or refused (R258). The receiver's RELEASE empties the channel. COMPAT is written until the first message; a go bit then posts eight
registers at once. Bells 24 to 27 are the Stewards' to ring. -/
def Obligations.MailboxesDeliver : Prop :=
  ∀ (o : Origin) (ch : BitVec 5) (v : BitVec 32) (s : State), logRoom s = true → NothingWaits s →
    let c := ch.toNat
    let m := mbxAt c s
    let r := mbxReceiver c
    let aC := aMbx c 0x40
    let bellsOf (s' : State) (out : List Out) (always : Bool) : Prop :=
      let rings := always = true ∨ (regIs (aBell r) c s = false ∧ regIs (aMask r) c s = true)
      (∀ a : Nat, reg a s' = if a = aBell r then setBit (reg a s) c true else reg a s) ∧
      s'.out = out ++ (if rings ∧ r ≠ 1 ∧ r ≠ 2 then .interrupt (BitVec.ofNat 3 r) :: s.out else s.out) ∧
      s'.bellsDue = (if rings ∧ (r = 1 ∨ r = 2) then setBit s.bellsDue r true else s.bellsDue)
    let others (s' : State) : Prop := ∀ d : Nat, d ≠ c → mbxAt d s' = mbxAt d s
    let taken (msg : List (BitVec 32)) (s' : State) : Prop :=
      mbxAt c s' = { m with msg := msg, origin := o, stamp := now s, full := true, lock := true } ∧ others s'
    let staged (s' : State) (x : Staged) : Prop := ∀ i : Nat,
      mapGet Staged.zero s'.staged i = if i = 32 * o.toNat + c then x else mapGet Staged.zero s.staged i
    let plain := isCompat c s = false ∧ (28 ≤ c → v.getLsbD 28 = m.compat) ∧ v.getLsbD 30 = false
    let errs (cause : Nat) (t : State) : State := setReg aMbxErr (BitVec.ofNat 32 (o.toNat * 65536 + c * 256 + cause)) t
    (∀ k : BitVec 4, let a := aMbx c (4 * k.toNat)
      (maySend c o s = false → Gives (.mbxMsgStage o ch k v) s
        (Answered o a .rights (report 0x50 o (BitVec.ofNat 32 a) [] (errs 3 s)))) ∧
      (maySend c o s = true → mbxPowered c s = false → isCompat c s = false →
        Gives (.mbxMsgStage o ch k v) s (Answered o a .poweredDown (errs 2 s))) ∧
      (maySend c o s = true → mbxPowered c s = true → isCompat c s = false → Gives (.mbxMsgStage o ch k v) s (fun s' =>
        ∃ t', Answered o a (.ok 0) t' s' ∧ { t' with staged := s.staged } = s ∧ staged t' { stagedAt o c s with
          regs := mapSet 0 (stagedAt o c s).regs k.toNat v }))) ∧
    (¬ (24 ≤ c ∧ c < 28) → r ≠ 5 → plain → maySend c o s = true → mbxPowered c s = true →
      let n := v.toNat % 16 + 8
      (m.full = false → n ≤ 16 → Gives (.mbxGo o ch v) s (fun s' =>
        taken ((List.range n).map (fun i => mapGet 0 (stagedAt o c s).regs i)) s' ∧ staged s' Staged.zero ∧
        bellsOf s' [.access o (BitVec.ofNat 24 aC) (.ok 0)] false ∧
        { s' with mbox := s.mbox, staged := s.staged, regs := s.regs, out := s.out, bellsDue := s.bellsDue } = s)) ∧
      (m.full = true → Gives (.mbxGo o ch v) s (fun s' => ∃ t', Answered o aC .busError (errs 1 t') s' ∧
        { t' with staged := s.staged } = s ∧ staged t' { stagedAt o c s with len := BitVec.ofNat 4 v.toNat }))) ∧
    (24 ≤ c → c < 28 → plain → maySend c o s = true → mbxPowered c s = true → v.toNat % 16 ≤ 8 →
      let d := v.toNat / 2 ^ 16 % 128
      let dst := if d / 64 = 1 then partnerPkg (rackPkg s (d % 64)) else rackPkg s (d % 64)
      dst ≠ pkgId s → Gives (.mbxGo o ch v) s (fun s' => ∃ t', { t' with staged := s.staged } = s ∧
        staged t' { stagedAt o c s with len := BitVec.ofNat 4 v.toNat, dest := BitVec.ofNat 7 d } ∧
        (route dst s = none → Answered o aC .unreachable (errs 4 t') s') ∧
        (route dst s ≠ none →
          let q := (netSend 1 none acctIdle dst (.mbox ch ((List.range (v.toNat % 16 + 8)).map (fun i =>
            mapGet 0 (stagedAt o c s).regs i))) t').2
          Answered o aC .held { q with goWaits := s.goWaits ++ [(o, ch, dst)] } s'))) ∧
    (isReceiver c o s = true → mbxPowered c s = true → Gives (.mbxRelease o ch) s (fun s' =>
      ∃ t', Answered o aC (.ok 0) t' s' ∧ mbxAt c t' = { m with msg := [], full := false } ∧ others t' ∧
        (∀ i : Nat, mapGet Staged.zero t'.staged i = mapGet Staged.zero s.staged i) ∧
        { t' with mbox := s.mbox, staged := s.staged } = s)) ∧
    (∀ on : Bool, 28 ≤ c → on ≠ m.compat → mbxPowered c s = true →
      (hasRight 2 o s = false → Gives (.mbxCompatWrite o ch on) s
        (Answered o aC .rights (report 0x50 o (BitVec.ofNat 32 aC) [] (errs 3 s)))) ∧
      (hasRight 2 o s = true → m.lock = true → Gives (.mbxCompatWrite o ch on) s (Answered o aC .error (errs 5 s))) ∧
      (hasRight 2 o s = true → m.lock = false → Gives (.mbxCompatWrite o ch on) s (fun s' =>
        ∃ t', Answered o aC (.ok 0) t' s' ∧ mbxAt c t' = { m with compat := on } ∧ others t' ∧
          (∀ i : Nat, mapGet Staged.zero t'.staged i = mapGet Staged.zero s.staged i) ∧
          t'.changes.intake = s.changes.intake ++ [⟨o, 0, now s, BitVec.ofNat 32 aC, 0,
            (if on then 0 else 0x10000000), (if on then 0x10000000 else 0), markNow s⟩] ∧
          { t'.changes with intake := s.changes.intake } = s.changes ∧
          { t' with mbox := s.mbox, staged := s.staged, changes := s.changes } = s))) ∧
    (∀ on : Bool, 28 ≤ c → on ≠ m.compat → hasRight 2 o s = true → mbxPowered c s = false →
      (m.compat = false → Gives (.mbxCompatWrite o ch on) s (Answered o aC .poweredDown (errs 2 s))) ∧
      (m.compat = true → Gives (.mbxCompatWrite o ch on) s (fun s' => ∃ w, w.getLsbD 28 = on ∧ Answered o aC .held
        { s with compatHeld := s.compatHeld ++ [⟨o, BitVec.ofNat 24 aC, w⟩] } s'))) ∧
    (28 ≤ c → m.compat = true → hasRight 3 o s = true → mbxPowered c s = true → m.full = false →
      let w := v ||| 0x80000000
      Gives (.compatPost o ch v) s (fun s' =>
        taken ((List.range 8).map (fun i => if i = 7 then w else mapGet 0 (stagedAt o c s).regs i)) s' ∧ staged s' Staged.zero ∧
        bellsOf s' [.access o (BitVec.ofNat 24 (aMbx c 0x1C)) (.ok 0)] true ∧
        s'.changes.intake = s.changes.intake ++ [⟨o, 0, now s, BitVec.ofNat 32 (aMbx c 0x1C), 0, 0, w.setWidth 64, markNow s⟩] ∧
        { s'.changes with intake := s.changes.intake } = s.changes ∧
        { s' with mbox := s.mbox, staged := s.staged, regs := s.regs, out := s.out, bellsDue := s.bellsDue, changes := s.changes } = s)) ∧
    (let b := v.toNat % 32
     let d := v.toNat / 2 ^ 16 % 128
     let dst := if d / 64 = 1 then partnerPkg (rackPkg s (d % 64)) else rackPkg s (d % 64)
     let errB (cause : Nat) : State := setReg aMbxErr (BitVec.ofNat 32 (o.toNat * 65536 + b * 256 + cause)) s
     (isSteward o = false ∨ b < 24 ∨ 27 < b → Gives (.mbxRing o v) s
        (Answered o 0x3_1104 .rights (report 0x50 o 0x31104 [] (errB 3)))) ∧
      (isSteward o = true → 24 ≤ b → b ≤ 27 → dst = pkgId s → Gives (.mbxRing o v) s
        (Answered o 0x3_1104 (.ok 0) (ringBell 0 b false s))) ∧
      (isSteward o = true → 24 ≤ b → b ≤ 27 → route dst s = none → Gives (.mbxRing o v) s
        (Answered o 0x3_1104 .unreachable (errB 4)))) ∧
    (∀ q : BitVec 3, q.toNat < 5 → isBellReceiver q.toNat o s = true → Gives (.mbxMaskWrite o q v) s (fun s' =>
      let rings := v &&& reg (aBell q.toNat) s ≠ 0
      (∀ a : Nat, reg a s' = if a = aMask q.toNat then v else reg a s) ∧
      { s' with regs := s.regs, out := s.out, bellsDue := s.bellsDue } = s ∧
      s'.out = .access o (BitVec.ofNat 24 (aMask q.toNat)) (.ok 0) ::
        (if rings ∧ q ≠ 1 ∧ q ≠ 2 then .interrupt q :: s.out else s.out) ∧
      s'.bellsDue = (if rings ∧ (q = 1 ∨ q = 2) then setBit s.bellsDue q.toNat true else s.bellsDue))) ∧
    (∀ msg : List (BitVec 32), 24 ≤ c → c < 28 →
      let answers (cause : BitVec 4) (t' s' : State) : Prop :=
        s' = (netSend 1 none acctIdle (peerPkg o s) (.mboxReply ch cause) t').2
      (mbxPowered c s = false → Gives (.mbxRemotePost o ch msg) s (answers 2 (errs 2 s))) ∧
      (mbxPowered c s = true → m.full = true → Gives (.mbxRemotePost o ch msg) s (answers 1 (errs 1 s))) ∧
      (mbxPowered c s = true → m.full = false → 8 ≤ msg.length → msg.length ≤ 16 → Gives (.mbxRemotePost o ch msg) s (fun s' =>
        ∃ t', answers 0 t' s' ∧ taken msg t' ∧ bellsOf t' [] false ∧
          { t' with mbox := s.mbox, regs := s.regs, out := s.out, bellsDue := s.bellsDue } = s))) ∧
    (c < 24 ∨ 27 < c → Gives (.ringReceive o ch) s (fun s' =>
      s' = report 0x50 o 0x31104 [] (errs 3 s))) ∧
    (24 ≤ c → c ≤ 27 → Gives (.ringReceive o ch) s (fun s' => bellsOf s' [] false ∧ { s' with regs := s.regs, out := s.out } = s)) ∧
    (vsramOn s = false ∨ s.compatHeld = [] → exec .compatHeldRelease s = .next s) ∧
    (∀ k : BitVec 4, k.toNat < 7 → 28 ≤ c → m.compat = true → hasRight 3 o s = true → vsramOn s = true →
      s.compatHeld = [⟨o, BitVec.ofNat 24 (aMbx c (4 * k.toNat)), v⟩] → Gives .compatHeldRelease s (fun s' =>
        ∃ t', Answered o (aMbx c (4 * k.toNat)) (.ok 0) t' s' ∧ { t' with staged := s.staged, compatHeld := s.compatHeld } = s ∧
          t'.compatHeld = [] ∧ staged t' { stagedAt o c s with regs := mapSet 0 (stagedAt o c s).regs k.toNat v })) ∧
    (s.changes.heldWrites = [] → exec .changeHoldRelease s = .next s) ∧
    (∀ (x : HeldWrite) (q : Resp) (t : State), s.changes.heldWrites = [x] →
      writeNow x.origin x.addr.toNat x.value { s with changes := { s.changes with heldWrites := [] } } = (q, t) → NothingWaits t →
      Gives .changeHoldRelease s (Answered x.origin x.addr.toNat q t))

/-! ### Links (R208 to R223, R232 to R235) -/

/-- O43. The states of a link: each event leads from its state to the next one and changes no other link's state, no tile, no memory and
no operation; in any other state it does nothing. A failure goes to DETECT, and to DOWN after three in a row, with its code; IDENT
accepts the expected partner only; a traffic lane that is lost leads through RECOVER; 10,000 beats out of service declare the link down
and stop the jobs with a member across it. A cable meets R216 with its memory map, its page B0h, a ready time of at most 400 ms and the
length its link may have; ALIGN starts the sequence numbers anew (R211); no lane that LNK.CTRL disables carries traffic (R233). What an
operation's timer counts from may move on, since packets leave when a link comes back. -/
def Obligations.LinkStates : Prop :=
  ∀ (n : LinkId) (s : State),
    let k := n.toNat
    let l := linkAt k s
    let st := linkSt k s
    let same (s' : State) : Prop := (∀ j : Nat, j < 64 → j ≠ k → linkSt j s' = linkSt j s) ∧ s'.tile = s.tile ∧
      s'.vault = s.vault ∧ s'.scratch = s.scratch ∧ s'.jobs = s.jobs ∧ s'.session = s.session ∧
      s'.rops.map (fun o => { o with since := 0 }) = s.rops.map (fun o => { o with since := 0 })
    let moves (c : Instr) (dst : Nat) : Prop := Gives c s (fun s' => linkSt k s' = dst ∧ (linkAt k s').since = s.tick ∧ same s')
    let fails (c : Instr) (code : Nat) : Prop := Gives c s (fun s' => (linkAt k s').fails = l.fails + 1 ∧
      linkSt k s' = (if 3 ≤ l.fails + 1 then lsDown else lsDetect) ∧ fld (reg (aLnk k 4) s') 19 16 = code ∧ same s')
    let up (c : Instr) (lanes : BitVec 2) : Prop := moves c (if lanes = 3 then lsActive else lsDegraded) ∧
      Gives c s (fun s' => (linkAt k s').fails = 0 ∧ (linkAt k s').leftAt = none ∧ (linkAt k s').lanes = lanes)
    let only (c : Instr) (y : Link) : Prop := Gives c s (fun s' =>
      (∀ j : Nat, linkAt j s' = if j = k then y else linkAt j s) ∧ { s' with link := s.link } = s)
    let stays (c : Instr) : Prop := exec c s = .next s
    let ok (o : Origin) : Prop := logRoom s = true ∧ hasRight 2 o s = true ∧ linkUnused k s = false
    (st = lsDetect → pkgKnown s = true → linkUnused k s = false → moves (.cablePresent n) lsCable) ∧
    (st ≠ lsDetect → only (.cablePresent n) { l with present := true }) ∧
    (st ≠ lsDisabled → st ≠ lsDetect → moves (.cablePresenceLost n) lsDetect) ∧
    (st = lsDisabled ∨ st = lsDetect → only (.cablePresenceLost n) { l with present := false }) ∧
    (∀ x id, st = lsCable →
      let meets := x.cmis = true ∧ x.pageB0 = true ∧ x.readyAfter ≤ 400000 ∧ x.dm ≤ if k = 63 then 50 else 30
      (meets → moves (.cableReady n x id) lsTrain) ∧
      (¬ meets → Gives (.cableReady n x id) s (fun s' => linkSt k s' = lsCable ∧ same s' ∧
        fld (reg (aLnk k 4) s') 19 16 = 2))) ∧
    (∀ x id, st ≠ lsCable → stays (.cableReady n x id)) ∧
    (∀ x, st = lsTrain → x.lanes &&& lanesEn k s ≠ 0 → moves (.trainDone n x) lsAlign ∧
      Gives (.trainDone n x) s (fun s' =>
        let left := l.replay.filter (fun p => decide ((p.seq - x.seen).toNat < 2 ^ 15))
        (linkAt k s').lanes = x.lanes &&& lanesEn k s ∧ (linkAt k s').rxSeq = 0 ∧ (linkAt k s').txSeq = BitVec.ofNat 16 left.length ∧
        (linkAt k s').replay = left.zipIdx.map (fun e => { e.1 with seq := BitVec.ofNat 16 e.2 }) ∧ (linkAt k s').queue = l.queue)) ∧
    (∀ x, st ≠ lsTrain ∨ x.lanes &&& lanesEn k s = 0 → stays (.trainDone n x)) ∧
    (st = lsAlign → moves (.fecLock n) lsIdent ∧
      Gives (.fecLock n) s (fun s' => s'.out = .ident n (pkgId s) s.rst.straps.role :: s.out)) ∧
    (st ≠ lsAlign → stays (.fecLock n)) ∧
    (∀ pkg far role, st = lsIdent → (isCard s = true ∨ (pkg, far.toNat) = expected k s) →
      Gives (.ident n pkg far role) s (fun s' => reg (aLnk k 8) s' = BitVec.ofNat 32 (far.toNat * 65536 + pkg.toNat)) ∧
      (l.lanes &&& lanesEn k s ≠ 0 → up (.ident n pkg far role) (l.lanes &&& lanesEn k s)) ∧
      (l.lanes &&& lanesEn k s = 0 → Gives (.ident n pkg far role) s (fun s' => linkSt k s' = lsIdent ∧ same s'))) ∧
    (∀ pkg far role, st = lsIdent → isCard s = false → (pkg, far.toNat) ≠ expected k s → moves (.ident n pkg far role) lsMiswired) ∧
    (∀ pkg far role, st ≠ lsIdent → stays (.ident n pkg far role)) ∧
    (∀ beats code, linkLimit st = some (beats, code) →
      (l.since + beats ≤ s.tick → fails (.linkStateTimeout n) code) ∧ (s.tick < l.since + beats → stays (.linkStateTimeout n))) ∧
    (linkLimit st = .none → stays (.linkStateTimeout n)) ∧
    (∀ lane, linkUsable k s = true → l.lanes.getLsbD lane.toNat = true → moves (.laneLockLost n lane) lsRecover) ∧
    (∀ lane, linkUsable k s = false ∨ l.lanes.getLsbD lane.toNat = false → stays (.laneLockLost n lane)) ∧
    (∀ lanes, st = lsRecover → lanes &&& l.lanes &&& lanesEn k s ≠ 0 →
      up (.recoverDone n lanes) (lanes &&& l.lanes &&& lanesEn k s)) ∧
    (∀ lanes, st ≠ lsRecover ∨ lanes &&& l.lanes &&& lanesEn k s = 0 → stays (.recoverDone n lanes)) ∧
    (∀ lane, st = lsActive → moves (.laneDegrade n lane) lsRecover ∧
      Gives (.laneDegrade n lane) s (fun s' => (linkAt k s').lanes = if lane = 0 then 2 else 1)) ∧
    (∀ lane, st ≠ lsActive → stays (.laneDegrade n lane)) ∧
    (st = lsDown → l.since + 1000000 ≤ s.tick → moves (.downRetrain n) lsDetect) ∧
    (st ≠ lsDown ∨ s.tick < l.since + 1000000 → stays (.downRetrain n)) ∧
    (∀ t, l.leftAt = some t → l.declared = false → t + 10000 ≤ s.tick → l.queue = [] → l.replay = [] → l.held = [] →
      Gives (.linkDown n) s (fun s' => (linkAt k s').declared = true ∧ linkSt k s' = st ∧
        reg (aLnk k 0x18) s' = satAdd (reg (aLnk k 0x18) s) 1 ∧ reg (aLnk k 0x20) s' = (now s).setWidth 32 ∧
        (isCard s = false → ∀ j ∈ s.jobs, isMember (farPkg k s) j = true → jobRunning j.num s = true → jobStopped j.num s' = true) ∧
        ((∀ j ∈ s.jobs, isMember (farPkg k s) j = true → jobRunning j.num s = false) → same s'))) ∧
    (l.leftAt = .none ∨ l.declared = true → stays (.linkDown n)) ∧
    (∀ o, ok o → linkUsable k s = true → regIs (aLnk k 0) 0 s = true → lanesEn k s &&& l.lanes ≠ 0 → moves (.retrain o n) lsRecover ∧
      Gives (.retrain o n) s (fun s' => s'.out.head? = some (.access o (BitVec.ofNat 24 (aLnk k 0)) (.ok 0)))) ∧
    (∀ o v, ok o → v.getLsbD 0 = false → st ≠ lsDisabled → memberAcross k s = false → moves (.linkDisableWrite o n v) lsDisabled) ∧
    (∀ o v, ok o → v.getLsbD 0 = false → st ≠ lsDisabled → memberAcross k s = true →
      Gives (.linkDisableWrite o n v) s (Answered o (aLnk k 0) .error s)) ∧
    (∀ o v, ok o → v.getLsbD 0 = true → st = lsDisabled → moves (.linkDisableWrite o n v) lsDetect) ∧
    (∀ o v, ok o → v.getLsbD 0 = true → (linkUsable k s = true ∨ st = lsRecover) → BitVec.ofNat 2 (v.toNat / 4) &&& l.lanes = 0 →
      memberAcross k s = true → Gives (.linkDisableWrite o n v) s (Answered o (aLnk k 0) .error s))

/-- O44. Cable transactions: one at a time, to the device at 0x50 at the speed that LNK.CTRL names, a write to the cable's own bytes only
while the link is out of use; the answer ends it. A write has its entry of kind 7 in the change log (R420), whose OLD value is free (log
32). A cable is polled every 1,000 beats while it is present; what was read is kept, and flags that are set are counted. -/
def Obligations.CableManagement : Prop :=
  ∀ (n : LinkId) (s : State),
    let k := n.toNat
    let a := aLnk k 0x40
    let st := linkSt k s
    (∀ (o : Origin) (v : BitVec 32), logRoom s = true → hasRight 2 o s = true →
      let w := v ||| 0x80000000
      let addr := v.toNat / 2 ^ 8 % 256
      let page := v.toNat / 2 ^ 16 % 256
      let own := (page = 0xB0 ∧ 128 ≤ addr) ∨ addr = 26
      let kept := v &&& 0x40FFFFFF
      let c := Instr.cmgtGo o n v
      (regIs a 31 s = true → Gives c s (Accepted o a w s s)) ∧
      (regIs a 31 s = false → v.getLsbD 30 = true → own → st ≠ lsDisabled → st ≠ lsDetect → st ≠ lsDown →
        Gives c s (Answered o a (.ok 0) (setReg a (kept ||| 0x20000000) s))) ∧
      (let at' := if addr < 128 then 0 else page
       let sent := emit (.cable n 0x50 (regIs (aLnk k 0) 1 s) (v.getLsbD 30) (BitVec.ofNat 8 at') (BitVec.ofNat 8 addr)
         (BitVec.ofNat 8 v.toNat)) (setReg a (kept ||| 0x80000000) s)
       (regIs a 31 s = false → v.getLsbD 30 = false → Gives c s (Accepted o a w s sent)) ∧
       (regIs a 31 s = false → v.getLsbD 30 = true → (¬ own ∨ st = lsDisabled ∨ st = lsDetect ∨ st = lsDown) →
        Gives c s (Accepted o a w s { sent with free := s.free + 1, changes := { s.changes with intake := s.changes.intake ++
          [⟨o, 7, now s, BitVec.ofNat 32 (k * 65536 + at' * 256 + addr), 0, (Config.freeByte s.free).setWidth 64,
            (BitVec.ofNat 8 v.toNat).setWidth 64, markNow s⟩] } })))) ∧
    (∀ (acked : Bool) (data : Byte),
      (regIs a 31 s = false → exec (.cmgtDone n acked data) s = .next s) ∧
      (regIs a 31 s = true → Gives (.cmgtDone n acked data) s (fun s' => regIs a 31 s' = false ∧ regIs a 29 s' = !acked ∧
        fld (reg a s') 7 0 = (if acked = true ∧ regIs a 30 s = false then data.toNat else fld (reg a s) 7 0) ∧
        fld (reg a s') 28 8 = fld (reg a s) 28 8 ∧ (∀ b : Nat, b ≠ a → reg b s' = reg b s) ∧ { s' with regs := s.regs } = s))) ∧
    (∀ (low : List Byte) (x : CableState), low.length = 4 → x.flags.length = 6 → x.mon.length = 12 →
      let l := linkAt k s
      let on := l.present = true ∧ (∀ b, l.polledAt = some b → b + 1000 ≤ s.tick) ∧ st ≠ lsDisabled ∧ st ≠ lsDetect
      let reads (lo hi : Byte) : Out := .cableRead n 0x50 (regIs (aLnk k 0) 1 s) 0 lo hi
      let c := Instr.cablePoll n low x
      (¬ on → exec c s = .next s) ∧
      (on → Gives c s (fun s' =>
        (∀ j : Nat, linkAt j s' = if j = k then { l with polledAt := some s.tick, polled := low ++ x.flags ++ x.mon } else linkAt j s) ∧
        s'.out = reads 14 25 :: reads 8 13 :: reads 0 3 :: s.out ∧
        (∀ b : Nat, reg b s' = if b = aLnk k 0x28 ∧ (∃ f ∈ x.flags, f ≠ 0) then satAdd (reg b s) 1 else reg b s) ∧
        ((∀ f ∈ x.flags, f = 0) → s'.recorder = s.recorder) ∧
        { s' with link := s.link, out := s.out, regs := s.regs, recorder := s.recorder } = s)))

/-! ### Packets, link states, the port (R20 to R22, R209, R210, R221, R222, R227, R228, R237) -/

/-- O45. A link takes its packets in sequence: the next one is acknowledged and applied here or forwarded, an older one only
acknowledged, a bad one and one ahead of its turn answered with a negative acknowledgement; that sends again, in order, every packet
from the named one on. Held CL0 packets go when their allowance has refilled. Link states are told to the pair and kept. The port drops
and counts what R228 lets it not deliver, counts codewords (R236), and holds CL1 while priority flow control says so. -/
def Obligations.PacketsInSequence : Prop :=
  (∀ (n : LinkId) (p : LinkFrame) (s : State),
    let k := n.toNat
    let l := linkAt k s
    let c := Instr.linkPacket n p
    let clean := linkUsable k s = true ∧ p.good = true ∧ p.fecUncorr = 0 ∧ p.nack = false ∧ l.queue = [] ∧ l.replay = []
    let u := linkFec k p s
    let next (s' : State) : Prop :=
      (∀ j : Nat, linkAt j s' = if j = k then { l with rxSeq := l.rxSeq + 1 } else linkAt j s) ∧
      { s' with link := s.link, out := s.out } = u ∧ s'.out = .linkAck n (p.seq + 1) :: s.out
    let only (o : Out) : Prop := Gives c s (fun s' => (∀ j : Nat, linkAt j s' = linkAt j s) ∧ s'.out = o :: s.out ∧
      { s' with link := s.link, out := s.out } = u)
    (∀ a : Nat, reg a u = if a = aLnk k 0xC then satAdd (reg a s) p.fecCorr
      else if a = aLnk k 0x10 then satAdd (reg a s) p.fecUncorr else reg a s) ∧ { u with regs := s.regs } = s ∧
    (linkUsable k s = false → exec c s = .next s) ∧
    (linkUsable k s = true → (p.good = false ∨ p.fecUncorr ≠ 0) → only (.linkNack n l.rxSeq)) ∧
    (∀ m, clean → p.body = some m → p.seq = l.rxSeq → p.dst = pkgId s →
      Gives c s (fun s' => ∃ t, next t ∧ s' = pumpAll (applyMsg p.src (some k) m t))) ∧
    (∀ m, clean → p.body = some m → p.seq = l.rxSeq → p.dst ≠ pkgId s →
      Gives c s (fun s' => ∃ t, next t ∧ s' = pumpAll (match onward k p t with
        | some j => linkSend j acctIdle p t
        | none => noRoute p t))) ∧
    (∀ m, clean → p.body = some m → 2 ^ 15 ≤ (p.seq - l.rxSeq).toNat → only (.linkAck n l.rxSeq)) ∧
    (∀ m, clean → p.body = some m → p.seq ≠ l.rxSeq → (p.seq - l.rxSeq).toNat < 2 ^ 15 → only (.linkNack n l.rxSeq))) ∧
  (∀ (n : LinkId) (from_ : BitVec 16) (s : State),
    let k := n.toNat
    let l := linkAt k s
    let left := l.replay.filter (fun p => decide ((p.seq - from_).toNat < 2 ^ 15))
    let c := Instr.linkRetry n from_
    (linkUsable k s = false → exec c s = .next s) ∧
    (linkUsable k s = true → l.queue = [] → left ≠ [] → l.headRetries < 8 → Gives c s (fun s' =>
      (∀ j : Nat, linkAt j s' = if j = k then { l with replay := left, headRetries :=
        (if left.length = l.replay.length then l.headRetries else 0) + 1 } else linkAt j s) ∧
      s'.out = (left.filterMap (fun p => p.body.map (fun m => Out.net (.link n) p.cls p.dst m))).reverse ++ s.out ∧
      reg (aLnk k 0x14) s' = satAdd (reg (aLnk k 0x14) s) 1 ∧ { s' with link := s.link, out := s.out, regs := s.regs } = s)) ∧
    (linkUsable k s = true → left ≠ [] → left.length = l.replay.length → 8 ≤ l.headRetries →
      Gives c s (fun s' => linkSt k s' = lsRecover))) ∧
  (∀ (n : LinkId) (src : Cl0Source) (s : State),
    let l := linkAt n.toNat s
    (l.held.all (fun h => decide (h.1 ≠ src)) = true → exec (.cl0HeldRelease n src) s = .next s) ∧
    (∀ h rest, l.held = h :: rest → h.1 = src →
      (1024 < mapGet 0 l.used (srcIx src) + 64 → exec (.cl0HeldRelease n src) s = .next s) ∧
      (mapGet 0 l.used (srcIx src) + 64 ≤ 1024 → Gives (.cl0HeldRelease n src) s (fun s' =>
        ∃ t, s' = linkSend n.toNat acctIdle h.2 t ∧ { t with link := s.link } = s ∧ (∀ j : Nat, linkAt j t =
          if j = n.toNat then { l with held := rest, used := mapUpd 0 l.used (srcIx src) (· + 64) } else linkAt j s))))) ∧
  (∀ s : State,
    (isCard s = true ∨ pkgKnown s = false → exec .linkStatePeriod s = .next s) ∧
    (isCard s = false → pkgKnown s = true → Gives .linkStatePeriod s (fun s' =>
      s' = forAll ((rackPeers s ++ (List.range 64).map (fun i => partnerPkg (rackPkg s i))).filter
        (fun p => decide (p ≠ pkgId s))) (fun p t => if (route p t).isSome then cl0To .time p (.linkState (upMask s)) t else t) s)) ∧
    (∀ (src : BitVec 7) (up : BitVec 64), Gives (.linkStatePacket src up) s (fun s' =>
      (∀ i : Nat, mapGet 0 s'.rackUp i = if i = src.toNat then up else mapGet 0 s.rackUp i) ∧ { s' with rackUp := s.rackUp } = s)) ∧
    (∀ (lanes : BitVec 8) (fec : Bool),
      let speed := regF 0x20_0000 3 2 s
      let c := Instr.portLinkChange lanes fec
      let shows (v : BitVec 32) : Prop := Gives c s (fun s' => s' = setReg 0x20_0004 v s)
      (regIs 0x20_0000 0 s = false → exec c s = .next s) ∧
      (regIs 0x20_0000 0 s = true →
        (fec = true → lanes = 0xFF → speed ≠ 2 → shows 0xFF0B) ∧
        (fec = true → speed ≠ 1 → (lanes ≠ 0xFF ∨ speed = 2) → lanes &&& 0x0F = 0x0F → shows 0x0F07) ∧
        (fec = true → speed ≠ 1 → lanes &&& 0x0F ≠ 0x0F → lanes &&& 0xF0 = 0xF0 → shows 0xF007) ∧
        (fec = false ∨ (lanes &&& 0x0F ≠ 0x0F ∧ lanes &&& 0xF0 ≠ 0xF0) → shows 0))) ∧
    (∀ (o : Origin) (v : BitVec 32), logRoom s = true → hasRight 2 o s = true →
      let t : State := { setReg 0x20_0000 (v &&& 0xFFF010F) s with
        eth := { s.eth with paused := if v.getLsbD 8 = true then s.eth.paused else none } }
      (v.getLsbD 0 = false → hallOpOut s = true → Gives (.portEnableWrite o v) s (Answered o 0x20_0000 .error s)) ∧
      (v.getLsbD 0 = false → hallOpOut s = false →
        Gives (.portEnableWrite o v) s (Accepted o 0x20_0000 v s (ethPump (setReg 0x20_0004 0 t)))) ∧
      (v.getLsbD 0 = true → Gives (.portEnableWrite o v) s (Accepted o 0x20_0000 v s (ethPump t)))) ∧
    (∀ e : EthFrame, regIs 0x20_0004 0 s = false → exec (.ethFrame e) s = .next s) ∧
    (∀ e : EthFrame, regIs 0x20_0004 0 s = true →
      let bad := e.fcsOk = false ∨ 9216 < e.len ∨ (e.vid ≠ 0 ∧ e.vid.toNat ≠ regF 0x20_0000 27 16 s)
      let u := portFec e s
      let drops : Prop := Gives (.ethFrame e) s (fun s' => s' = countReg 0x20_003C 1 u)
      (∀ a : Nat, reg a u = if a = 0x20_0030 then lo32 (join64 (reg 0x20_0034 s) (reg 0x20_0030 s) + BitVec.ofNat 64 e.fecCorr)
        else if a = 0x20_0034 then hi32 (join64 (reg 0x20_0034 s) (reg 0x20_0030 s) + BitVec.ofNat 64 e.fecCorr)
        else if a = 0x20_0038 then satAdd (reg a s) e.fecUncorr else reg a s) ∧ { u with regs := s.regs } = s ∧
      (bad ∨ e.kind = .ipv4 ∨ e.kind = .other → drops) ∧ (¬ bad → e.kind = .ptp → exec (.ethFrame e) s = .next u) ∧
      (∀ q, ¬ bad → e.kind = .pfc q →
        (regIs 0x20_0000 8 s = false → exec (.ethFrame e) s = .next u) ∧
        (regIs 0x20_0000 8 s = true → exec (.ethFrame e) s = .next (ethPump { u with
          eth := { s.eth with paused := if q = 0 then none else some (s.tick + pauseBeats q.toNat s) } }))) ∧
      (∀ src dst sport dport dscp d, ¬ bad → e.kind = .udp src dst sport dport dscp d → NothingWaits s →
        (dport.toNat ≠ regF 0x20_0100 31 16 s → dport ≠ 319 → dport ≠ 320 → drops) ∧
        (dport.toNat = regF 0x20_0100 31 16 s → ownAddr dst s = false → Gives (.ethFrame e) s (· = u)) ∧
        (dport.toNat = regF 0x20_0100 31 16 s → ownAddr dst s = true → htOn s = false ∨ datagramOk d = false → drops) ∧
        (∀ m, dport.toNat = regF 0x20_0100 31 16 s → ownAddr dst s = true → htOn s = true → datagramOk d = true →
          d.ses = 0xFFFF → 6 ≤ d.type.toNat → d.type ≠ 7 → d.body = some m → s.eth.queue = [] →
          let x := chanOf (.peer d.peer) s
          (d.seq ≠ x.rxSeq → x.queued = [] → Gives (.ethFrame e) s (fun s' =>
            s'.out = .hallAck (ethTag 2 s) d.peer (x.rxSeq - 1) :: s.out ∧
            { s' with peer := s.peer, out := s.out, eth := s.eth } = u)) ∧
          (d.seq = x.rxSeq → x.queued = [] → Gives (.ethFrame e) s (fun s' =>
            ∃ t, s' = pumpAll (applyMsg d.peer none (withClass d.cls m) t) ∧
            t.out = .hallAck (ethTag 2 s) d.peer x.rxSeq :: s.out ∧ (chanOf (.peer d.peer) t).rxSeq = x.rxSeq + 1 ∧
            { t with peer := s.peer, out := s.out, eth := s.eth } = u))))))
/-! ### Time synchronisation and the event stream (R35 to R44, R230) -/

/-- O46. A measured offset is shown with its source. Once the package has locked, an offset of at most 1 ms is taken away by a rate within
100 ppm (whose value is free, log 31), a larger one waits as a pending step in FREE; before the first lock it is the first step. The
delay of a path is measured by an exchange of its own before an offset counts. Announcements go out every 1,024 beats and decide whom the
package follows; losing the source leads from LOCKED to HOLDOVER, and to FREE at its limit, and a leader silent for 192 beats is passed
over. A step moves the time by exactly the pending offset, only while no job runs. -/
def Obligations.TimeFollowsItsSource : Prop :=
  ∀ s : State,
    let aS := 0x2_0008
    let measures (c : Instr) (code : Nat) (off : Int) (t : State) : Prop :=
      let shows (s' : State) : Prop := fld (reg aS s') 7 4 = code ∧ s'.sync.lastSync = some t.tick ∧
        (∀ a : Nat, a ≠ aS → a ≠ 0x2_0010 → reg a s' = reg a t) ∧
        { s'.sync with pendingStep := t.sync.pendingStep, inBound := t.sync.inBound, lastSync := t.sync.lastSync,
                       rate := t.sync.rate } = t.sync ∧
        { s' with regs := t.regs, sync := t.sync, free := t.free, evs := t.evs, evsLost := t.evsLost } = t
      (t.sync.firstLock = true → -4096000 ≤ off → off ≤ 4096000 → Gives c s (fun s' => shows s' ∧
        (reg 0x2_0010 s').toInt = off ∧ s'.sync.pendingStep = none ∧ -100000 ≤ s'.sync.rate ∧ s'.sync.rate ≤ 100000 ∧
        (0 < off → s'.sync.rate ≤ 0) ∧ (off < 0 → 0 ≤ s'.sync.rate) ∧ regIs aS 15 s' = false ∧ syncState s' = syncState t)) ∧
      (t.sync.firstLock = true → (off < -4096000 ∨ 4096000 < off) → Gives c s (fun s' => shows s' ∧
        s'.sync.pendingStep = some off ∧ s'.sync.inBound = none ∧ regIs aS 15 s' = true ∧ syncState s' = 1)) ∧
      (t.sync.firstLock = false → t.sync.pendingStep = none → (off < -1024 ∨ 1024 < off) → Gives c s (fun s' => shows s' ∧
        s'.sync.pendingStep = some off ∧ s'.sync.inBound = some t.tick ∧ syncState s' = syncState t)) ∧
      (t.sync.firstLock = false → -81 ≤ off → off ≤ 81 → Gives c s (fun s' => shows s' ∧
        s'.sync.pendingStep = none ∧ s'.sync.inBound.isSome = true ∧ syncState s' = syncState t))
    let steps (off : Int) (s' : State) : Prop := now s' = now s - BitVec.ofInt 64 off ∧ regIs aS 14 s' = true ∧
      regIs aS 15 s' = false ∧ s'.sync.pendingStep = none ∧ s'.tick = s.tick
    (∀ m : PtpMsg,
      let ok := takesPtp s = true ∧ regIs 0x20_0004 0 s = true ∧ m.domain.toNat = ptpDomain s ∧ m.eth = regIs 0x20_0020 0 s
      let mine := (bestMaster s).map (·.port) = some m.port
      let p := s.sync.ptp
      let asks (origin arrival : BitVec 64) (corr : Int) : Prop :=
        let down : Int := arrival.toNat - origin.toNat - corr
        let t := { s with
          out := .ptpDelayReq p.seq :: s.out
          sync := { s.sync with lastSync := some s.tick, ptp := { p with sync := none, down := down, seq := p.seq + 1, req := some (p.seq, now s) } } }
        (p.delay = none → exec (.ptpMessage m) s = .next t) ∧
        (∀ d, p.delay = some d → measures (.ptpMessage m) 3 (down - d - (reg 0x20_0024 s).toInt) t)
      (¬ ok → exec (.ptpMessage m) s = .next s) ∧
      (∀ scale x, m.body = .announce scale x → (x.port ≠ m.port → exec (.ptpMessage m) s = .next s) ∧
        (ok → x.port = m.port → Gives (.ptpMessage m) s (fun s' =>
          s'.sync.ptp.masters = (if scale then [x] else []) ++ p.masters.filter (fun y => decide (y.port ≠ x.port)) ∧
          s'.sync.ptp.delay = (if (bestMaster s').map (·.port) = (bestMaster s).map (·.port) then p.delay else none) ∧
          s'.sync.ptp.seq = p.seq ∧ { s'.sync with ptp := p } = s.sync ∧ { s' with sync := s.sync } = s))) ∧
      ((∀ scale x, m.body ≠ .announce scale x) → ¬ mine → exec (.ptpMessage m) s = .next s) ∧
      (∀ origin, ok → mine → m.body = .sync false origin → asks origin m.arrival m.corr) ∧
      (∀ origin, ok → mine → m.body = .sync true origin → exec (.ptpMessage m) s = .next
        { s with sync := { s.sync with ptp := { p with sync := some (m.seq, m.arrival, m.corr) } } }) ∧
      (∀ origin, ok → mine → m.body = .followUp origin →
        (∀ arrival c, p.sync = some (m.seq, arrival, c) → asks origin arrival (c + m.corr)) ∧
        (p.sync.map (·.1) ≠ some m.seq → exec (.ptpMessage m) s = .next s)) ∧
      (∀ receipt, ok → mine → m.body = .delayResp receipt →
        (∀ t3, p.req = some (m.seq, t3) → exec (.ptpMessage m) s = .next { s with sync := { s.sync with ptp := { p with
          req := none, delay := some (Int.fdiv (p.down + ((receipt.toNat : Int) - t3.toNat - m.corr)) 2) } } }) ∧
        (p.req.map (·.1) ≠ some m.seq → exec (.ptpMessage m) s = .next s))) ∧
    (∀ (n : LinkId) (src : PkgId) (stamp : BitVec 64),
      (∀ code, linkSource s = some (src, code) → src ∉ s.sync.passed → pathTo src code s = some n.toNat →
        let due := ∀ k t u, s.sync.exch = some (k, t, u) → t + 1024 ≤ s.tick
        let heard := { s with sync := { s.sync with lastSync := some s.tick } }
        let asked := cl0To .time src (.delayRequest (now s))
          { s with sync := { s.sync with lastSync := some s.tick, exch := some (n.toNat, s.tick, now s), exchDone := false } }
        let takes (t : State) : Prop :=
          (mapGet none t.sync.delay n.toNat = none → exec (.syncPacket n src stamp) s = .next t) ∧
          (∀ d, mapGet none t.sync.delay n.toNat = some d →
            measures (.syncPacket n src stamp) code ((now t).toNat - (stamp.toNat + d)) t)
        (due → takes asked) ∧ (¬ due → takes heard)) ∧
      (src ∈ s.sync.passed → pathTo src 1 s = some n.toNat →
        Gives (.syncPacket n src stamp) s (fun s' => src ∉ s'.sync.passed)) ∧
      (src ∉ s.sync.passed → (linkSource s = none ∨ (∃ p code, linkSource s = some (p, code) ∧ (p ≠ src ∨ pathTo p code s ≠ some n.toNat))) →
        exec (.syncPacket n src stamp) s = .next s)) ∧
    (∀ (n : LinkId) (t1 t2 t3 t4 : BitVec 64),
      (∀ t, s.sync.exch = some (n.toNat, t, t1) → s.sync.exchDone = false → Gives (.delayExchange n t1 t2 t3 t4) s (fun s' =>
        (∀ i : Nat, mapGet none s'.sync.delay i = if i = n.toNat then
          some (Int.fdiv (((t2.toNat : Int) - t1.toNat) + ((t4.toNat : Int) - t3.toNat)) 2) else mapGet none s.sync.delay i) ∧
        { s'.sync with delay := s.sync.delay, exchDone := false } = s.sync ∧ { s' with sync := s.sync } = s)) ∧
      ((∀ t, s.sync.exch ≠ some (n.toNat, t, t1)) ∨ s.sync.exchDone = true → exec (.delayExchange n t1 t2 t3 t4) s = .next s)) ∧
    (isCard s = true ∨ pkgKnown s = false ∨ s.beat.toNat % 64 ≠ 0 → exec .syncPeriod s = .next s) ∧
    (isCard s = false → pkgKnown s = true → s.beat.toNat % 64 = 0 → Gives .syncPeriod s (fun s' =>
      s' = forAll ((if sendsTime s then rackPeers s else []) ++ (if rackBit (pkgId s) = 0 then [partnerPkg (pkgId s)] else []))
        (fun p t => cl0To .time p (.sync (now t)) t) s)) ∧
    (let t := follow s
     reg 0x2_0014 t = (match linkSource s with | some (p, _) => p.setWidth 32 | none => 0) ∧ t.sync.following = linkSource s ∧
     (linkSource s = s.sync.following → (linkSource s).isSome = true → t.sync = s.sync) ∧
     (linkSource s ≠ s.sync.following → (linkSource s).isSome = true →
       t.sync = { s.sync with following := linkSource s, lastSync := some s.tick, inBound := none }) ∧
     syncState t = (if (linkSource s).isSome = true ∨ takesPtp s = true then syncState s else if syncState s = 0 then 1
       else if syncState s ≠ 2 then syncState s else if regF 0x2_000C 15 8 s = 0 then 1 else 3) ∧
     (∀ a : Nat, a ≠ aS → a ≠ 0x2_0014 → reg a t = reg a s) ∧
     { t with regs := s.regs, sync := s.sync, evs := s.evs, evsLost := s.evsLost } = s) ∧
    (let due := ∀ t l, s.sync.said = some (t, l) → t + 1024 ≤ s.tick
     let locked := decide (syncState s = 2)
     (isCard s = true ∨ pkgKnown s = false ∨ ¬ due → exec .announcementPeriod s = .next s) ∧
     (isCard s = false → pkgKnown s = true → due → Gives .announcementPeriod s (fun s' => s' =
       forAll (rackPeers s) (fun p t => cl0To .time p (.announce locked) t)
         (follow { s with sync := { s.sync with said := some (s.tick, locked) } })))) ∧
    (∀ (src : PkgId) (locked : Bool),
      let heard := s.sync.heard.filter (fun h => decide (h.1 ≠ src))
      let old := s.sync.heard.filter (fun h => decide (h.1 ≠ src) || decide (s.tick ≤ h.2.1 + 3072))
      (isCard s = true ∨ sameRack src (pkgId s) = false ∨ src = pkgId s → exec (.leaderAnnouncement src locked) s = .next s) ∧
      (isCard s = false → sameRack src (pkgId s) = true → src ≠ pkgId s → Gives (.leaderAnnouncement src locked) s (fun s' =>
        s' = follow { s with sync := { s.sync with heard := (src, s.tick, locked) :: heard } })) ∧
      Gives (.leaderAnnouncementLapse src) s (fun s' => s' = follow { s with sync := { s.sync with heard := old } })) ∧
    (let ptp := takesPtp s = true ∧ fld (reg aS s) 7 4 = 3
     let keeps (s' : State) : Prop := s'.sync.inBound = none ∧ s'.sync.pendingStep = s.sync.pendingStep ∧
       (syncState s ≠ 0 → syncState s' = (if syncState s ≠ 2 then syncState s else if regF 0x2_000C 15 8 s = 0 then 1 else 3)) ∧
       (syncState s = 2 → regF 0x2_000C 15 8 s ≠ 0 → s'.sync.holdSince = some s.tick ∧ s'.sync.rate = s.sync.rate) ∧
       { s' with regs := s.regs, sync := s.sync, evs := s.evs, evsLost := s.evsLost } = s
     (ptp → Gives .holdover s (fun s' => keeps s' ∧ s'.sync.passed = s.sync.passed ∧
       s'.sync.ptp.masters = (match bestMaster s with
         | some b => s.sync.ptp.masters.filter (fun m => decide (m.port ≠ b.port))
         | none => s.sync.ptp.masters))) ∧
     (∀ p code t, ¬ ptp → s.sync.following = some (p, code) → s.sync.lastSync = some t → t + 192 ≤ s.tick → Gives .holdover s (fun s' =>
       keeps s' ∧ s'.sync.passed = (if code = 1 then p :: s.sync.passed else s.sync.passed) ∧ s'.sync.ptp = s.sync.ptp)) ∧
     (¬ ptp → (s.sync.following = none ∨ s.sync.lastSync = none ∨ (∃ t, s.sync.lastSync = some t ∧ s.tick < t + 192)) →
       exec .holdover s = .next s)) ∧
    (∀ t, s.sync.holdSince = some t → syncState s = 3 →
      (t + regF 0x2_000C 15 8 s * 100000 < s.tick → Gives .holdoverLimitExpiry s (fun s' => syncState s' = 1 ∧
        fld (reg aS s') 7 4 = 0 ∧ s'.sync = { s.sync with holdSince := none, rate := 0 } ∧
        { s' with regs := s.regs, sync := s.sync, evs := s.evs, evsLost := s.evsLost } = s)) ∧
      (s.tick ≤ t + regF 0x2_000C 15 8 s * 100000 → exec .holdoverLimitExpiry s = .next s)) ∧
    (s.sync.holdSince = none ∨ syncState s ≠ 3 → exec .holdoverLimitExpiry s = .next s) ∧
    (∀ t, s.sync.inBound = some t →
      (t + 1024 ≤ s.tick → syncState s ≠ 2 → regIs aS 15 s = false →
        (s.sync.firstLock = true ∨ s.sync.pendingStep = none → Gives .syncLock s (fun s' => syncState s' = 2 ∧
          s'.sync = { s.sync with firstLock := true, holdSince := none } ∧ now s' = now s)) ∧
        (∀ off, s.sync.firstLock = false → s.sync.pendingStep = some off → Gives .syncLock s (fun s' => syncState s' = 2 ∧
          steps off s' ∧ s'.sync.firstLock = true))) ∧
      (s.tick < t + 1024 ∨ syncState s = 2 ∨ regIs aS 15 s = true → exec .syncLock s = .next s)) ∧
    (s.sync.inBound = none → exec .syncLock s = .next s) ∧
    (∀ off, s.frac = 0 → anyRunning s = false → s.sync.pendingStep = some off → regIs aS 15 s = true →
      Gives .stepApply s (fun s' => steps off s' ∧ (s.changes.intake.length < 64 →
        s'.changes.intake = s.changes.intake ++ [⟨0x4000, 5, now s', 0x2_0000, 0, now s, now s', markNow s'⟩]))) ∧
    (s.frac ≠ 0 ∨ anyRunning s = true ∨ s.sync.pendingStep = none ∨ regIs aS 15 s = false → exec .stepApply s = .next s) ∧
    (∀ o : Origin, logRoom s = true → hasRight 2 o s = true →
      let v := regVal 0x2_000C s ||| 2
      (anyRunning s = true → Gives (.stepNow o) s (Answered o 0x2_000C .error s)) ∧
      (anyRunning s = false → (takesPtp s = true ∨ fld (reg aS s) 7 4 ≠ 3) →
        Gives (.stepNow o) s (Accepted o 0x2_000C v s (setReg 0x2_000C (v &&& 0xFF01) s)))) ∧
    (∀ (o : Origin) (v : BitVec 32), logRoom s = true → mayClear o s = true → Gives (.evsFree o v) s (fun s' =>
      ∃ t, Answered o 0x2_0108 (.ok 0) t s' ∧ { t with evs := s.evs, evsLost := s.evsLost } = s ∧
        (s.evsLost = 0 → t.evs = s.evs.drop v.toNat ∧ t.evsLost = 0) ∧
        (s.evsLost ≠ 0 → (s.evs.drop v.toNat).length < 4096 → t.evsLost = 0 ∧ t.evs = s.evs.drop v.toNat ++
          [⟨now s, pkgId s, 5, BitVec.ofNat 8 (syncState s), BitVec.ofNat 32 (min 0xFFFFFFFF s.evsLost)⟩])))

/-! ### Job stops, fault stops and VAUX warnings (R25, R28 to R30, R249, R429, R462, R463) -/

/-- O47. A fault stops the job on this package, is recorded, and is told once to every other member; a fault stop or a leaving notice of
another member stops a running job here without being forwarded, and is acknowledged over the host transport; one of a package that is no
member stops nothing. Members that have not acknowledged are told again every 1,000 beats. A VAUX warning halts issue, defers flash writes
and puts the vaults in self-refresh, until it clears. -/
def Obligations.FaultsStopJobs : Prop :=
  (∀ (cause : BitVec 8) (r : Option Report) (j : BitVec 16) (s : State),
    (jobAt j s = none → jobFault cause r j s = s) ∧
    (∀ x, jobAt j s = some x → x.stopped = true → jobFault cause r j s = s) ∧
    (∀ x, jobAt j s = some x → x.stopped = false → ∃ t, JobStops j (r.getD (stopReport 0x4000 (pkgId s) cause j s)) s t ∧
      jobFault cause r j s = forAll (x.members.filter (fun p => decide (p ≠ pkgId s))) (toMember (.faultStop j))
        (updJob j (fun y => { y with unacked := x.members.filter (fun p => decide (p ≠ pkgId s) && (isCard s || !samePair p (pkgId s))) })
          (report 0x11 0x4000 (j.setWidth 32) (leBytes 2 (pkgId s).toNat ++ [cause]) t)))) ∧
  (∀ (src : PkgId) (j : BitVec 16) (s : State),
    let record : Report := stopReport (oPeer src s) src 0x11 j s
    let recorded (t : State) : State := report 0x11 (oPeer src s) (j.setWidth 32) (leBytes 2 src.toNat ++ [0x11]) t
    let acked (t : State) : State := if isCard s = true ∨ samePair src (pkgId s) = false then toMember (.faultStopAck j) src t else t
    (jobRunning j s = false ∨ (∀ x, jobAt j s = some x → src ∉ x.members) → exec (.faultStop src j) s = .next (acked s)) ∧
    (∀ x, jobAt j s = some x → src ∈ x.members → jobRunning j s = true →
      Gives (.faultStop src j) s (fun s' => ∃ t, JobStops j record s t ∧ s' = acked (recorded t))) ∧
    Gives (.faultStopAck src j) s (fun s' =>
      (∀ k, jobAt k s' = if k = j then (jobAt k s).map (fun x => { x with unacked := x.unacked.filter (· ≠ src) }) else jobAt k s) ∧
      { s' with jobs := s.jobs } = s) ∧
    (NothingWaits s →
      (jobAt j s = none ∨ (∃ x, jobAt j s = some x ∧ src ∉ x.members) → exec (.leavingNotice src j) s = .next s) ∧
      (∀ x, jobAt j s = some x → src ∈ x.members →
        let left := if src ∈ x.left then x.left else src :: x.left
        (jobRunning j s = false → Gives (.leavingNotice src j) s (fun s' => jobAt j s' = some { x with left := left } ∧
          (∀ k, k ≠ j → jobAt k s' = jobAt k s) ∧ { s' with jobs := s.jobs } = s)) ∧
        (jobRunning j s = true → Gives (.leavingNotice src j) s (fun s' => ∃ t, JobStops j record s t ∧
          jobAt j s' = some { x with stopped := true, stopAt := s.tick, left := left } ∧
          (∀ k, k ≠ j → jobAt k s' = jobAt k s) ∧ { s' with jobs := t.jobs } = recorded t))))) ∧
  (∀ s : State,
    Gives .faultStopRepeat s (fun s' => s' =
      forAll ((s.jobs.filter (fun x => x.stopped && decide (x.stopAt < s.tick) && (s.tick - x.stopAt) % 1000 == 0)).flatMap
        (fun x => x.unacked.map (fun p => (x.num, p)))) (fun e => toMember (.faultStop e.1) e.2) s) ∧
    Gives .vauxWarning s (fun s' => s' = regBit 0x10_0004 2 false { s with
      rst := { s.rst with vauxWarn := true }
      nvDeferred := true
      selfRefresh := true
      vaultRow := []
      gov := { s.gov with halt := s.gov.halt ||| 4, admitted := 0, wash := 0, held := 0,
                          due := s.gov.due.filter (fun e => e.2.2.isSome) } }) ∧
    (s.rst.vauxWarn = false → exec .vauxWarningClear s = .next s) ∧
    (s.rst.vauxWarn = true → Gives .vauxWarningClear s (fun s' =>
      s'.rst = { s.rst with vauxWarn := false } ∧ s'.selfRefresh = s.rails.retain ∧
      s'.nvDeferred = (if s.gov.ejectAt.isSome = true then s.nvDeferred else false) ∧
      s'.gov.halt = s.gov.halt &&& 0xFB ∧
      s'.gov.haltEnded = (s.gov.haltEnded || s.gov.halt.getLsbD 2) ∧
      (∀ c : Nat, c < 64 → s.gov.halt.getLsbD 2 = true → s'.gov.halt = 0 → (∃ t ∈ tilesIn s, clusterOf t = c ∧
        ((tileAt t s).st = 1 ∨ (tileAt t s).st = 2 ∨ (tileAt t s).st = 4)) → s'.gov.launched.getLsbD c = true) ∧
      (s'.gov.halt ≠ 0 → s'.gov.launched = s.gov.launched) ∧
      { s'.gov with halt := s.gov.halt, haltEnded := s.gov.haltEnded, launched := s.gov.launched } = s.gov ∧
      { s' with rst := s.rst, selfRefresh := s.selfRefresh, nvDeferred := s.nvDeferred, gov := s.gov, rails := s.rails,
                pack := s.pack } = s ∧
      { s'.rails with writing := s.rails.writing, waiting := s.rails.waiting, frecLost := s.rails.frecLost } = s.rails ∧
      (∀ w, s.gov.ejectAt = none → s.rails.writing = none → s.pack.capStarted = false → s.rails.waiting = some w →
        s'.rails.writing.isSome = true ∧ s'.rails.waiting = none ∧ s'.rails.frecLost = 0) ∧
      { s'.pack with capStarted := s.pack.capStarted } = s.pack)))

/-! ### The host transport (R238, R239, R241, R243, R265) -/

/-- O48. Only the management address opens session 0, replacing it; a closed session's waiting commands that have not begun and its queued
events are discarded, and what it had begun goes on and answers to nobody. An acknowledgement frees what it covers and grows the window, an
ECN echo halves it; every datagram whose interval has passed is sent again, with half the window for each, and after eight times its space
is lost. -/
def Obligations.SessionTransport : Prop :=
  ∀ s : State,
    let aDrop := 0x20_003C
    let up := regIs 0x20_0004 0 s = true
    let comesFrom (n : BitVec 16) (addr : BitVec 128) (port : BitVec 16) : Prop := regIs 0x20_0100 0 s = true ∧ n.toNat < 64 ∧
      (sesAt n.toNat s).isOpen = true ∧ (sesAt n.toNat s).addr = addr ∧ (sesAt n.toNat s).port = port
    let drops (c : Instr) : Prop := Gives c s (fun s' => reg aDrop s' = satAdd (reg aDrop s) 1 ∧
      (∀ a : Nat, a ≠ aDrop → reg a s' = reg a s) ∧ { s' with regs := s.regs } = s)
    let closed (n : Nat) (s' : State) : Prop :=
      (∀ k : Nat, sesAt k s' = if k = n then Session.closed else sesAt k s) ∧
      s'.orphans = s.orphans ++ ((sesAt n s).waiting.filter (·.begun)).map
        (fun w => (n, { sesAt n s with isOpen := false, chan := Chan.fresh, waiting := [] }, w)) ∧
      reg 0x20_0128 s' = satAdd (reg 0x20_0128 s) ((sesAt n s).chan.queued.filter isEvent).length ∧
      (∀ a : Nat, a ≠ 0x20_0128 → reg a s' = reg a s) ∧
      (∀ o ∈ s'.rops, ∀ tag, o.src ≠ .session (BitVec.ofNat 16 n) tag) ∧ s'.rops.map (·.id) = s.rops.map (·.id) ∧
      (∀ q, ∀ k ∈ (queueAt q s').posted, k.ses ≠ BitVec.ofNat 16 n) ∧
      (∀ q, (queueAt q s').posted.map (·.d) = (queueAt q s).posted.map (·.d)) ∧
      { s' with session := s.session, regs := s.regs, rops := s.rops, att := s.att, queue := s.queue, clears := s.clears,
                windowWaits := s.windowWaits, orphans := s.orphans } = s
    (∀ (addr : BitVec 128) (port : BitVec 16) (seq : BitVec 32),
      let mgmt := reg 0x20_011C s ++ reg 0x20_0118 s ++ reg 0x20_0114 s ++ reg 0x20_0110 s
      let c := Instr.openSes addr port seq
      (regIs 0x20_0100 0 s = false ∨ addr ≠ mgmt → drops c) ∧
      (regIs 0x20_0100 0 s = true → addr = mgmt → Gives c s (fun s' =>
        sesAt 0 s' = ⟨true, addr, port, 0xF, none, ⟨0, seq + 1, 16, 0, [], []⟩, 0, []⟩ ∧
        (∀ k : Nat, k ≠ 0 → sesAt k s' = sesAt k s) ∧
        (s.eth.queue = [] → (up → s'.out = .host (ethTag 2 s) 0 (.openAck seq) :: s.out) ∧ (¬ up → s'.out = s.out) ∧
          s'.eth = { s.eth with turn := afterClass s.eth.turn 2 } ∧
          ((sesAt 0 s).isOpen = false → { s' with session := s.session, out := s.out, eth := s.eth } = s) ∧
          ((sesAt 0 s).isOpen = true → ∃ t, closed 0 t ∧ { s' with session := t.session, out := t.out, eth := t.eth } = t))))) ∧
    (∀ (n : BitVec 16) (addr : BitVec 128) (port : BitVec 16),
      (¬ comesFrom n addr port → drops (.close n addr port)) ∧
      (comesFrom n addr port → Gives (.close n addr port) s (closed n.toNat)) ∧
      (∀ (ackno : BitVec 32) (ecn : Bool),
        let x := sesAt n.toNat s
        let left := x.chan.unacked.filter (fun d => decide (2 ^ 31 ≤ (ackno - d.seq).toNat))
        let grown := x.chan.grown + (x.chan.unacked.length - left.length)
        let full := decide (x.chan.window ≤ grown)
        let w := if full then min 256 (x.chan.window + 1) else x.chan.window
        (¬ comesFrom n addr port → drops (.ack n addr port ackno ecn)) ∧
        (comesFrom n addr port → x.chan.queued = [] → Gives (.ack n addr port ackno ecn) s (fun s' =>
          sesAt n.toNat s' = { x with chan := { x.chan with
            unacked := left, grown := if full then grown - x.chan.window else grown, window := if ecn then max 1 (w / 2) else w } } ∧
          (∀ k : Nat, k ≠ n.toNat → sesAt k s' = sesAt k s) ∧ { s' with session := s.session } = s)) ∧
        (∀ m, comesFrom n addr port → x.chan.queued = [m] → x.chan.unacked ≠ [] → left = [] → 2 ≤ x.chan.window →
          up → s.eth.queue = [] → hostClass m = 0 ∨ hostClass m = 2 →
          Gives (.ack n addr port ackno ecn) s (fun s' => s'.out = .host (ethTag (hostClass m) s) n m :: s.out ∧
            s'.eth = { s.eth with turn := afterClass s.eth.turn (hostClass m) } ∧
            (sesAt n.toNat s').chan.queued = [] ∧ (sesAt n.toNat s').chan.unacked = [⟨x.chan.txSeq, 0, s.tick, m⟩] ∧
            (sesAt n.toNat s').chan.txSeq = x.chan.txSeq + 1 ∧
            { s' with session := s.session, out := s.out, eth := s.eth } = s)))) ∧
    (∀ sp : Space,
      let c := Instr.datagramRetransmit sp
      let x := chanOf sp s
      let overdue (d : TxDg) : Bool := decide (d.sentAt + min 64000 (1000 * 2 ^ d.retries) ≤ s.tick)
      let late := x.unacked.filter overdue
      let sends (d : TxDg) : List Out := match sp, d.msg with
        | .session n, m => [.host (ethTag (hostClass m) s) (n.setWidth 16) m]
        | .peer p, .net cls m => [.hall (ethTag cls s) (hallAddr p s) cls p m]
        | _, _ => []
      (late = [] → exec c s = .next s) ∧
      ((∀ d ∈ late, d.retries < 8) → (x.unacked.map (·.seq)).Nodup → s.eth.queue = [] →
        (∀ d ∈ late, hostClass d.msg = 0 ∨ hostClass d.msg = 2) → Gives c s (fun s' =>
          chanOf sp s' = { x with
            unacked := x.unacked.map (fun d => if overdue d then { d with retries := d.retries + 1, sentAt := s.tick } else d)
            window := late.foldl (fun w _ => max 1 (w / 2)) x.window } ∧
          (∀ other, other ≠ sp → chanOf other s' = chanOf other s) ∧
          s'.out = (if regIs 0x20_0004 0 s then late.flatMap sends else []).reverse ++ s.out ∧ s'.eth.queue = [] ∧
          reg 0x20_0120 s' = satAdd (reg 0x20_0120 s) late.length ∧ (∀ a : Nat, a ≠ 0x20_0120 → reg a s' = reg a s) ∧
          s'.rops.map (fun o => { o with since := 0 }) = s.rops.map (fun o => { o with since := 0 }) ∧
          { s' with session := s.session, peer := s.peer, out := s.out, regs := s.regs, eth := s.eth, rops := s.rops } = s)) ∧
      (∀ n d, d ∈ late → 8 ≤ d.retries → sp = .session n → Gives c s (fun s' => ∃ t, closed n.toNat t ∧
        reg 0x20_0124 s' = satAdd (reg 0x20_0124 s) 1 ∧ { s' with regs := t.regs } = t)) ∧
      (∀ p d, d ∈ late → 8 ≤ d.retries → sp = .peer p → x.queued = [] → (∀ o ∈ s.rops, o.dest ≠ p) → Gives c s (fun s' =>
        chanOf sp s' = Chan.fresh ∧ (∀ other, other ≠ sp → chanOf other s' = chanOf other s) ∧ { s' with peer := s.peer } = s))) ∧
    (∀ (o : Origin) (v : BitVec 32), logRoom s = true → hasRight 2 o s = true →
      let others := s.session.any (fun e => e.2.isOpen && decide (e.1 ≠ o.toNat))
      (v.getLsbD 0 = false → others = true → Gives (.htEnableWrite o v) s (Answered o 0x20_0100 .error s)) ∧
      (v.getLsbD 0 = true ∨ others = false → Gives (.htEnableWrite o v) s
        (Accepted o 0x20_0100 v s (setReg 0x20_0100 (v &&& 0xFFFF0001) s))))

/-! ### Session commands (R10, R23, R72, R173, R241 to R247, R250 to R255, R258, R319, R451, R463) -/

/-- O49. Commands that manage sessions, tiles, queues and kernels have their effect, their entry in the change log and status 0, or the
first status whose check they fail and no effect. -/
def Obligations.SessionsTilesAndQueues : Prop :=
  ∀ (h : CmdHdr) (s : State),
    let n := h.ses.toNat
    let norights (op : Nat) : State := report 0x50 h.ses (BitVec.ofNat 32 op) [] s
    let does (c : Instr) (op : Nat) (P : State → Prop) : Prop := Gives c s (fun s' => ∃ t, P t ∧ Performed h op t s')
    let ends (c : Instr) (st : BitVec 8) : Prop := Gives c s (Replies h st [] s)
    let bars (c : Instr) (op : Nat) : Prop := Gives c s (Replies h 1 [] (norights op))
    (∀ m addr port part rights, Serves h (.openSession m addr port part rights) s →
      let c := Instr.openSession h m addr port part rights
      (n ≠ 0 → bars c 1) ∧ (n = 0 → m = 0 ∨ (sesAt m.toNat s).isOpen = true → ends c 2) ∧
      (n = 0 → m ≠ 0 → (sesAt m.toNat s).isOpen = false → does c 1 (fun t => (∀ k : Nat, sesAt k t =
        if k = m.toNat then ⟨true, addr, port, rights, part, Chan.fresh, 0, []⟩ else sesAt k s) ∧ { t with session := s.session } = s))) ∧
    (∀ m, Serves h (.closeSession m) s →
      (n ≠ 0 → bars (.closeSession h m) 2) ∧ (n = 0 → m = 0 ∨ (sesAt m.toNat s).isOpen = false → ends (.closeSession h m) 2) ∧
      (n = 0 → m ≠ 0 → (sesAt m.toNat s).isOpen = true → does (.closeSession h m) 2 (fun t => t = closeSession m.toNat s))) ∧
    (∀ id, Serves h (.setPackageId id) s →
      (isCard s = false → ends (.setPackageId h id) 13) ∧ (isCard s = true → n ≠ 0 → bars (.setPackageId h id) 3) ∧
      (isCard s = true → n = 0 → s.pkgSet = true → ends (.setPackageId h id) 2) ∧
      (isCard s = true → n = 0 → s.pkgSet = false → does (.setPackageId h id) 3 (fun t => t = { s with cardId := some id, pkgSet := true }))) ∧
    (∀ (p : BitVec 4) (map : BitVec 1024),
      let foreign := ∃ u : TileId, map.getLsbD u.toNat = true ∧ (tileAt u.toNat s).assigned = true ∧ (tileAt u.toNat s).part ≠ p
      let busy := memInitDone s = false ∨ ∃ u : TileId, map.getLsbD u.toNat = true ∧ clearing u.toNat s = true
      (Serves h (.assignTiles p map) s →
        (n ≠ 0 → bars (.assignTiles h p map) 0x20) ∧ (n = 0 → map = 0 → ends (.assignTiles h p map) 10) ∧
        (n = 0 → map ≠ 0 → busy → ends (.assignTiles h p map) 4) ∧
        (n = 0 → map ≠ 0 → ¬ busy → foreign → ends (.assignTiles h p map) 8) ∧
        (n = 0 → map ≠ 0 → ¬ busy → ¬ foreign → does (.assignTiles h p map) 0x20 (fun t => (∀ u : Nat, tileAt u t =
          if map.getLsbD u = true then { tileAt u s with part := p, assigned := true } else tileAt u s) ∧ { t with tile := s.tile } = s))) ∧
      (Serves h (.releaseTiles p map) s →
        let gone (u : Nat) : Prop := map.getLsbD u = true ∧ (tileAt u s).assigned = true
        (n ≠ 0 → bars (.releaseTiles h p map) 0x21) ∧ (n = 0 → map = 0 → ends (.releaseTiles h p map) 10) ∧
        (n = 0 → map ≠ 0 → foreign → ends (.releaseTiles h p map) 8) ∧
        (n = 0 → map ≠ 0 → ¬ foreign → queuesRunning map s = [] → does (.releaseTiles h p map) 0x21 (fun t =>
          (∀ u : Nat, gone u → let x := tileAt u s
            tileAt u t = { Tile.zero with
              fault := x.fault
              st := if x.st = 7 ∨ x.st = 8 then x.st else 0
              queue := x.queue
              lastErrRec := x.lastErrRec }) ∧
          (∀ u : Nat, ¬ gone u → tileAt u t = tileAt u s) ∧
          (∀ w : Nat, (gone (w / 2048) → winAt w t = 0) ∧ (¬ gone (w / 2048) → winAt w t = winAt w s)) ∧
          (∀ u : TileId, clearing u.toNat t = true ↔ gone u.toNat ∨ clearing u.toNat s = true) ∧
          (∀ a : Nat, (a < 0x30_0040 ∨ 0x30_00C0 ≤ a) → reg a t = reg a s) ∧
          (∀ o ∈ t.rops, o ∈ s.rops ∧ ∀ u : TileId, o.src = .tile u → ¬ gone u.toNat) ∧
          (∀ o ∈ s.rops, o ∈ t.rops ∨ ∃ u : TileId, o.src = .tile u ∧ gone u.toNat) ∧
          (∀ k : Nat, { linkAt k t with queue := (linkAt k s).queue } = linkAt k s ∧ (∀ x ∈ (linkAt k t).queue, x ∈ (linkAt k s).queue ∧
            ∀ o ∈ s.rops, o ∉ t.rops → x.src = pkgId s → x.body.bind requestId ≠ some o.id)) ∧
          { t.eth with queue := s.eth.queue } = s.eth ∧
          { t with tile := s.tile, window := s.window, regs := s.regs, rops := s.rops, fences := s.fences, link := s.link, peer := s.peer,
                   eth := s.eth } = s)))) ∧
    (∀ (p : BitVec 4) (q : BitVec 8),
      let y := queueAt q.toNat s
      let becomes (z : Queue) (t : State) : Prop := (∀ k : Nat, queueAt k t = if k = q.toNat then z else queueAt k s) ∧
        { t with queue := s.queue } = s
      (Serves h (.queueBind p q) s →
        ((sesAt n s).part ≠ some p → bars (.queueBind h p q) 0x22) ∧
        ((sesAt n s).part = some p → y.part = none → does (.queueBind h p q) 0x22 (becomes { y with part := some p })) ∧
        ((sesAt n s).part = some p → y.part = some p → does (.queueBind h p q) 0x22 (fun t => t = s)) ∧
        (∀ r, (sesAt n s).part = some p → y.part = some r → r ≠ p → ends (.queueBind h p q) 2)) ∧
      (Serves h (.queueUnbind p q) s →
        ((sesAt n s).part ≠ some p → bars (.queueUnbind h p q) 0x23) ∧
        ((sesAt n s).part = some p → (y.part ≠ some p ∨ y.running ≠ none ∨ y.posted ≠ []) → ends (.queueUnbind h p q) 2) ∧
        ((sesAt n s).part = some p → y.part = some p → y.running = none → y.posted = [] →
          does (.queueUnbind h p q) 0x23 (becomes Queue.zero)))) ∧
    (∀ (p : BitVec 4) (d : LaunchDesc), Serves h (.launch p d) s →
      let y := queueAt d.queue.toNat s
      let c := Instr.launch h p d
      let len := d.imageLen.toNat
      let mine := (sesAt n s).part = some p ∧ y.part = some p ∧ d.flags.toNat < 2 ∧ d.imageOff.toNat % 64 = 0 ∧
        d.imageOff.toNat + 8 * len ≤ 2 ^ 27 ∧ len ≠ 0
      let owned := ∀ u : TileId, d.tiles.getLsbD u.toNat = true → (tileAt u.toNat s).assigned = true ∧ (tileAt u.toNat s).part = p
      let goes := ∀ j, jobOfPart p.toNat s = some j → jobStopped j s = false
      let whole := ∀ u : TileId, d.tiles.getLsbD u.toNat = true → (tileAt u.toNat s).fault.valid = false
      ((sesAt n s).part ≠ some p → bars c 0x24) ∧ ((sesAt n s).part = some p → ¬ mine → ends c 2) ∧
      (mine → 8192 < len → ends c 9) ∧ (mine → len ≤ 8192 → d.tiles = 0 → ends c 10) ∧
      (mine → len ≤ 8192 → d.tiles ≠ 0 → ¬ owned → ends c 8) ∧ (mine → len ≤ 8192 → d.tiles ≠ 0 → owned → ¬ goes → ends c 7) ∧
      (mine → len ≤ 8192 → d.tiles ≠ 0 → owned → goes → ¬ whole → ends c 5) ∧
      (mine → len ≤ 8192 → d.tiles ≠ 0 → owned → goes → whole → 16 ≤ y.posted.length → ends c 3) ∧
      (mine → len ≤ 8192 → d.tiles ≠ 0 → owned → goes → whole → y.posted.length < 16 → feedRefused s = true → ends c 13) ∧
      (mine → len ≤ 8192 → d.tiles ≠ 0 → owned → goes → whole → y.posted.length < 16 → feedRefused s = false →
        Gives c s (Replies h 0 [] (updQueue d.queue.toNat (fun _ => { y with posted := y.posted ++ [⟨h.ses, h.tag, p, d⟩] }) s))))

/-- O50. Commands on jobs, barriers, palette entries, memory, registers, mailboxes and attestation. A job stop clears only when every
other member of the job has reported it stopped; a report that it is not, or 10,000 beats without one, ends the command with status 6. -/
def Obligations.JobAndMemoryCommands : Prop :=
  ∀ (h : CmdHdr) (s : State),
    let n := h.ses.toNat
    let norights (op : Nat) : State := report 0x50 h.ses (BitVec.ofNat 32 op) [] s
    let does (c : Instr) (op : Nat) (P : State → Prop) : Prop := Gives c s (fun s' => ∃ t, P t ∧ Performed h op t s')
    let ends (c : Instr) (st : BitVec 8) : Prop := Gives c s (Replies h st [] s)
    let bars (c : Instr) (op : Nat) : Prop := Gives c s (Replies h 1 [] (norights op))
    let begun (c : Instr) (P : State → Prop) : Prop := Gives c s (fun s' =>
      sesAt n s' = { sesAt n s with cmds := (sesAt n s).cmds + 1 } ∧ (∀ k : Nat, k ≠ n → sesAt k s' = sesAt k s) ∧ P s')
    let enters (k : Nat) (v : BitVec 32) (t : State) : Prop :=
      (∀ i : Nat, palInact i t = if i = k then palWritten k v s else palInact i s) ∧ (∀ i : Nat, palAct i t = palAct i s) ∧
      t.loop.entries = s.loop.entries.filter (fun e => decide (e.1 ≠ k)) ++ [(k, h.ses)] ∧
      { t.loop with palA := s.loop.palA, palB := s.loop.palB, entries := s.loop.entries } = s.loop ∧ { t with loop := s.loop } = s
    (∀ (p : BitVec 4) (j : BitVec 16) (ms : List PkgId), Serves h (.jobCreate p j ms) s →
      let ok := j ≠ 0xFFFF ∧ ms ≠ [] ∧ ms.length ≤ 4096 ∧ pkgId s ∈ ms ∧ jobOfPart p.toNat s = none
      let inJob (t : State) : Prop := (∀ k : Nat, partAt k t = if k = p.toNat then { partAt k s with job := some j } else partAt k s)
      ((sesAt n s).part ≠ some p → bars (.jobCreate h p j ms) 0x28) ∧
      ((sesAt n s).part = some p → ¬ ok → ends (.jobCreate h p j ms) 2) ∧
      ((sesAt n s).part = some p → ok → jobAt j s = none → does (.jobCreate h p j ms) 0x28 (fun t =>
        inJob t ∧ t.jobs = s.jobs ++ [⟨j, ms, false, 0, [], []⟩] ∧ { t with part := s.part, jobs := s.jobs } = s)) ∧
      (∀ x, (sesAt n s).part = some p → ok → jobAt j s = some x → (∀ m, m ∈ x.members ↔ m ∈ ms) →
        does (.jobCreate h p j ms) 0x28 (fun t => inJob t ∧ { t with part := s.part } = s))) ∧
    (∀ (p : BitVec 4) (j : BitVec 16) (x : Job), (sesAt n s).part = some p → jobOfPart p.toNat s = some j → jobAt j s = some x →
      (Serves h (.jobClearStop p) s →
        let waits := x.members.filter (fun m => decide (m ≠ pkgId s) && !x.left.contains m)
        (x.stopped = false → ends (.jobClearStop h p) 6) ∧
        (x.stopped = true → (∀ m ∈ x.members, m = pkgId s) → does (.jobClearStop h p) 0x2A (fun t =>
          (∀ k, jobAt k t = if k = j then some { x with stopped := false, unacked := [], left := [] } else jobAt k s) ∧
          { t with jobs := s.jobs } = s)) ∧
        (x.stopped = true → waits ≠ [] → begun (.jobClearStop h p) (fun s' => s'.clears = [⟨h.ses, h.ses, none, h.tag, j, s.tick, waits⟩] ∧
          s'.jobs = s.jobs ∧ ∃ t, { t with clears := s.clears, session := s.session } = s ∧ { s' with session := t.session } =
            { forAll (x.members.filter (fun m => decide (m ≠ pkgId s))) (toMember (.stopQuery j)) t with session := t.session }))) ∧
      (Serves h (.jobLeave p) s →
        let runs := ∃ q ∈ queuesOf p.toNat s, (queueAt q s).running ≠ none
        (jobStopped j s = true → ends (.jobLeave h p) 7) ∧ (jobStopped j s = false → runs → ends (.jobLeave h p) 2) ∧
        (jobStopped j s = false → ¬ runs → does (.jobLeave h p) 0x2B (fun t =>
          (∀ k : Nat, partAt k t = if k = p.toNat then { partAt k s with job := none } else partAt k s) ∧
          (∀ k : Nat, mapGet Group.zero t.group k = if k / 16 = p.toNat then Group.zero else mapGet Group.zero s.group k) ∧
          (∀ k, k ≠ j → jobAt k t = jobAt k s) ∧ ((∀ r, r ∈ partsOfJob j s → r = p.toNat) → jobAt j t = none) ∧
          ((∃ r ∈ partsOfJob j s, r ≠ p.toNat) → t.jobs = s.jobs) ∧
          { t with part := s.part, group := s.group, jobs := s.jobs } = s))) ∧
      (∀ (g : BitVec 8) (map : BitVec 1024) (ms : List PkgId), Serves h (.barrierSet p g map ms) s →
        let waits := ∃ u ∈ tilesOfPart p.toNat s, (tileAt u s).wait = .barrier (g.setWidth 4) ∨ (tileAt u s).wait = .drainBarrier (g.setWidth 4)
        let fits := (∀ u : TileId, map.getLsbD u.toNat = true → (tileAt u.toNat s).assigned = true ∧ (tileAt u.toNat s).part = p) ∧
          (∀ m ∈ ms, m ∈ x.members) ∧ pkgId s ∈ ms
        (16 ≤ g.toNat ∨ waits ∨ (map ≠ 0 ∧ ¬ fits) → ends (.barrierSet h p g map ms) 2) ∧
        (g.toNat < 16 → ¬ waits → map = 0 ∨ fits → does (.barrierSet h p g map ms) 0x2C (fun t => (∀ k : Nat,
          mapGet Group.zero t.group k = if k ≠ 16 * p.toNat + g.toNat then mapGet Group.zero s.group k
            else if map = 0 then Group.zero else { Group.zero with tiles := map, members := ms }) ∧ { t with group := s.group } = s)))) ∧
    (∀ (src : PkgId) (j tag : BitVec 16) (x : Job) (c : ClearStop), jobAt j s = some x → c.job = j → c.tag = tag →
      s.clears = [c] → (∀ e ∈ s.session, e.2.waiting = []) → s.orphans = [] → CanSend c.ses.toNat s →
      let ends (st : BitVec 8) (t : State) : State → Prop := Sent c.ses.toNat (.response tag st 0 [])
        (updSes c.ses.toNat (fun y => { y with cmds := y.cmds - 1 }) { t with clears := [] })
      let clear : State := { updJob j (fun x => { x with stopped := false, unacked := [], left := [] }) s with
        free := (if c.new.isSome then s.free else s.free + 1),
        changes := { s.changes with intake := s.changes.intake ++
          [⟨c.org, 2, now s, BitVec.ofNat 32 (c.org.toNat * 65536 + 0x2A), 0, 0, c.new.getD (Config.freeValue s.free), markNow s⟩] } }
      (src ∉ x.members → c.waiting ≠ [] → ∀ b, exec (.jobStopAnswer src j b) s = .next s) ∧
      (src ∈ x.members → c.waiting ≠ [] → Gives (.jobStopAnswer src j false) s (ends 6 s)) ∧
      (src ∈ x.members → c.waiting = [src] → logRoom s = true → Gives (.jobStopAnswer src j true) s (ends 0 clear)) ∧
      (∀ m ∈ c.waiting, src ∈ x.members → m ≠ src → Gives (.jobStopAnswer src j true) s (fun s' =>
        s' = { s with clears := [{ c with waiting := c.waiting.filter (· ≠ src) }] })) ∧
      (c.waiting ≠ [] → c.since + 10000 ≤ s.tick → Gives (.jobClearStopTimeout j) s (ends 6 s)) ∧
      (c.waiting ≠ [] → s.tick < c.since + 10000 → exec (.jobClearStopTimeout j) s = .next s)) ∧
    (∀ (src : PkgId) (j : BitVec 16),
      (jobAt j s = none → exec (.jobStopQuery src j) s = .next s) ∧
      (jobAt j s ≠ none → Gives (.jobStopQuery src j) s (fun s' => s' = toMember (.stopAnswer j (jobStopped j s)) src s))) ∧
    (∀ w : BitVec 32,
        (Serves h (.setCap w) s → (n ≠ 0 → bars (.setCap h w) 0x30) ∧ (n = 0 → 0xFFFF < w.toNat → ends (.setCap h w) 2) ∧
          (n = 0 → w.toNat ≤ 0xFFFF → does (.setCap h w) 0x30 (enters 2 w))) ∧
        (Serves h (.setEnvelope w) s → (n ≠ 0 → bars (.setEnvelope h w) 0x32) ∧ (n = 0 → 0xFFFF < w.toNat → ends (.setEnvelope h w) 2) ∧
          (n = 0 → w.toNat ≤ 0xFFFF → does (.setEnvelope h w) 0x32 (enters 5 w)))) ∧
    (∀ (p tag op : BitVec 8) (l : BitVec 16), Serves h (.setPhasePoint p tag op l) s →
        let may := n = 0 ∨ ((sesAt n s).rights.getLsbD 1 = true ∧ (sesAt n s).part.map (·.toNat) = some p.toNat)
        let fits := p.toNat < 16 ∧ tag.toNat < 16 ∧ op.toNat < 8 ∧ l.toNat < 512
        (¬ may → bars (.setPhasePoint h p tag op l) 0x31) ∧ (may → ¬ fits → ends (.setPhasePoint h p tag op l) 2) ∧
        (may → fits → does (.setPhasePoint h p tag op l) 0x31
          (enters (0x40 + 16 * p.toNat + tag.toNat) (BitVec.ofNat 32 (op.toNat * 65536 + l.toNat))))) ∧
    (∀ (ga : BitVec 64) (data : List Byte) (count : Nat),
      let goes (c : Instr) (k : RKind) (len : Nat) (data : List Byte) : Prop :=
        (sesAt n s).part ≠ none → 0 < len → len ≤ 8176 → ga.toNat < 2 ^ 53 → ga.toNat % 2 ^ 16 + len ≤ 2 ^ 16 →
        BitVec.ofNat 16 (ga.toNat / 2 ^ 37) = pkgId s → s.Inv →
        let pkt : RemotePkt :=
          { id := s.nextOp, origin := sessionOrigin n s, kind := k, window := BitVec.ofNat 21 (ga.toNat / 2 ^ 16),
            offset := BitVec.ofNat 16 ga.toNat, len := len, data := data, value := 0, comparand := 0, sz32 := false, sen := false, g := 0,
            bulk := false }
        begun c (fun s' => s'.out = .net .die 1 (pkgId s) (.remote pkt) :: s.out ∧ s'.nextOp = s.nextOp + 1 ∧
          s'.rops = s.rops ++ [
            { id := s.nextOp, src := .session h.ses h.tag, pkt := pkt, dest := pkgId s, laddr := 0, ctr := 0, e := 0,
              op := BitVec.ofNat 8 (rkOp k), bulk := false, departed := true, since := s.tick, waits := [], pc := 0, word := 0 }] ∧
          { s' with out := s.out, nextOp := s.nextOp, rops := s.rops, session := s.session } = s)
      (Serves h (.memWrite ga data) s →
        ((sesAt n s).part = none → bars (.memWrite h ga data) 0x18) ∧
        ((sesAt n s).part ≠ none → data = [] → ends (.memWrite h ga data) 0) ∧
        ((sesAt n s).part ≠ none → data ≠ [] → (8176 < data.length ∨ 2 ^ 16 < ga.toNat % 2 ^ 16 + data.length) → ends (.memWrite h ga data) 2) ∧
        goes (.memWrite h ga data) .put data.length data) ∧
      (Serves h (.memRead ga count) s → ((sesAt n s).part = none → bars (.memRead h ga count) 0x19) ∧
        goes (.memRead h ga count) .get count [])) ∧
    (∀ (a : BitVec 32) (count : Nat), Serves h (.regRead a count) s → mapWf Session.closed s.session = true →
      let r := readRegs h.ses a.toNat count s
      ((sesAt n s).rights.getLsbD 0 = false → bars (.regRead h a count) 0x10) ∧
      ((sesAt n s).rights.getLsbD 0 = true → count = 0 ∨ 64 < count → ends (.regRead h a count) 2) ∧
      ((sesAt n s).rights.getLsbD 0 = true → 0 < count → count ≤ 64 → Gives (.regRead h a count) s
        (Sent n (.response h.tag r.1 r.2.1.length (r.2.1.flatMap (fun v => leBytes 4 v.toNat))) r.2.2))) ∧
    (∀ (a : BitVec 32) (vals : List (BitVec 32)), Serves h (.regWrite a vals) s → logRoom s = true →
      ((sesAt n s).rights.getLsbD 2 = false → bars (.regWrite h a vals) 0x11) ∧
      ((sesAt n s).rights.getLsbD 2 = true → vals = [] ∨ 64 < vals.length → ends (.regWrite h a vals) 2) ∧
      ((sesAt n s).rights.getLsbD 2 = true → vals ≠ [] → vals.length ≤ 64 → a.toNat % 4 ≠ 0 ∨ 2 ^ 24 ≤ a.toNat → ends (.regWrite h a vals) 2) ∧
      (∀ v, (sesAt n s).rights.getLsbD 2 = true → vals = [v] → a = 0x30_0000 → Gives (.regWrite h a vals) s
        (Replies h 0 [] { setReg 0x30_0000 (v &&& 0xFFFF) s with changes := { s.changes with intake := s.changes.intake ++
          [⟨h.ses, 0, now s, a, 0, (reg 0x30_0000 s).setWidth 64, v.setWidth 64, markNow s⟩] } }))) ∧
    (∀ nonce : BitVec 256, Serves h (.attest nonce) s →
      ((sesAt n s).rights.getLsbD 0 = false → bars (.attest h nonce) 0x38) ∧
      ((sesAt n s).rights.getLsbD 0 = true → 8 ≤ attPending s → ends (.attest h nonce) 3) ∧
      ((sesAt n s).rights.getLsbD 0 = true → attPending s < 8 → begun (.attest h nonce) (fun s' =>
        s'.att = { s.att with queue := s.att.queue ++ [.command h.ses h.tag nonce] } ∧ { s' with att := s.att, session := s.session } = s))) ∧
    (∀ (ch : BitVec 8) (dest : BitVec 7) (msg : List (BitVec 32)), Serves h (.mbxPost ch dest msg) s →
      let c := Instr.mbxPost h ch dest msg
      let k := ch.toNat
      let fails (st : BitVec 8) (cause : Nat) : Prop :=
        Gives c s (Replies h st [] (setReg 0x3_1100 (BitVec.ofNat 32 (n * 65536 + k * 256 + cause)) s))
      (32 ≤ k → ends c 2) ∧
      (k < 32 → isCompat k s = false → (sesAt n s).rights.getLsbD 1 = true → maySend k h.ses s = true →
        (mbxPowered k s = false → fails 12 2) ∧
        (mbxPowered k s = true → (mbxAt k s).full = true → fails 11 1) ∧
        (mbxPowered k s = true → (mbxAt k s).full = false → (msg.length < 8 ∨ 16 < msg.length) → fails 2 6) ∧
        (mbxPowered k s = true → 8 ≤ msg.length → msg.length ≤ 16 → (mbxAt k s).full = false → (k < 24 ∨ 28 ≤ k) → mbxReceiver k ≠ 5 →
          Gives c s (fun s' => ∃ t, Replies h 0 [] t s' ∧
            (∀ i : Nat, mbxAt i t = if i = k then
              { mbxAt k s with msg := msg, origin := h.ses, stamp := now s, full := true, lock := true } else mbxAt i s) ∧
            stagedAt h.ses k t = Staged.zero ∧ regIs (aBell (mbxReceiver k)) k t = true ∧
            (∀ a : Nat, a ≠ aBell (mbxReceiver k) → reg a t = reg a s) ∧
            (let rings := regIs (aBell (mbxReceiver k)) k s = false ∧ regIs (aMask (mbxReceiver k)) k s = true
             let later := mbxReceiver k = 1 ∨ mbxReceiver k = 2
             t.out = (if rings ∧ ¬ later then [Out.interrupt (BitVec.ofNat 3 (mbxReceiver k))] else []) ++ s.out ∧
             t.bellsDue = (if rings ∧ later then setBit s.bellsDue (mbxReceiver k) true else s.bellsDue)) ∧
            { t with mbox := s.mbox, staged := s.staged, regs := s.regs, out := s.out, bellsDue := s.bellsDue } = s))))
/-! ### The Governor (R267, R276 to R282, R285 to R291, R349, R461) -/

/-- O51. The Governor's stops, holds and supervision: a thermal trip and a coolant stop halt every cluster, fault every job and put the
rails in retention; the last cause of a halt that ends releases the clusters that hold work; heartbeat, pack answers and the companion's
level message are supervised by their counts. Every bit of GOV.STATUS that is set here, and CAP_UNATT when it clears, is one event. -/
def Obligations.GovernorSupervision : Prop :=
  ∀ s : State,
    let aG := 0x10_0004
    let g := s.gov
    let bit (i : Nat) : Bool := regIs aG i s
    let held (cause : BitVec 8) (g : Gov) : Gov :=
      { g with halt := g.halt ||| cause, admitted := 0, wash := 0, held := 0, due := g.due.filter (fun e => e.2.2.isSome) }
    let stopped (s' : State) : Prop := ∀ j, jobRunning j s = true → (jobAt j s).isSome = true → jobStopped j s' = true
    let retains (s' : State) : Prop := s'.rails.retain = true ∧ s'.rails.start = false ∧ ∀ r : Nat, r < 4 →
      let x := railAt r s
      ((x.st ≠ 1 ∧ x.st ≠ 2) → railAt r s' = x) ∧ ((x.st = 1 ∨ x.st = 2) → retainOf r s = 0 → (railAt r s').st = 0) ∧
      ((x.st = 1 ∨ x.st = 2) → retainOf r s ≠ 0 → railAt r s' = { x with st := 3, tgt := retainOf r s })
    let refreshes (s' : State) : Prop :=
      (retainOf 2 s ≠ 0 → s'.selfRefresh = true ∧ s'.vaultRow = []) ∧
      (retainOf 2 s = 0 → (railAt 2 s).st = 1 ∨ (railAt 2 s).st = 2 → s'.vault = [] ∧ memInitDone s' = false)
    let leaves (t : State) : State := { t with
      selfRefresh := if s.rst.vauxWarn then s.selfRefresh else false
      rails := { s.rails with retain := false, start := true, offSeq := false } }
    let off (t : State) : State := { t with rails := { s.rails with offSeq := true, offAt := s.tick, start := false, retain := false } }
    let halts (g : Gov) : State := regBit aG 2 false { s with gov := g }
    (∀ (i : Nat) (b : Bool), i < 32 →
      let t := govBit i b s
      regIs aG i t = b ∧ (∀ k : Nat, k ≠ i → regIs aG k t = bit k) ∧ (∀ a : Nat, a ≠ aG → reg a t = reg a s) ∧
      { t with regs := s.regs, recorder := s.recorder } = s ∧ (b = true ∨ i = 1 → bit i = b → t = s) ∧
      (b = false → i ≠ 1 → t.recorder = s.recorder) ∧
      (b = true ∨ i = 1 → bit i ≠ b → t.recorder = (report 0x60 0x4000 (reg aG t) [BitVec.ofNat 8 (if b then i else i + 128)] s).recorder)) ∧
    (∀ (k r : Nat), k < 6 →
      let t := endHalt k r s
      let cs := clustersWith (fun x => x.st == 1 || x.st == 2 || x.st == 4) s
      let ended := g.haltEnded || decide (s.tick < r)
      (g.halt.getLsbD k = false → t = s) ∧ t.gov.halt = g.halt &&& ~~~(BitVec.ofNat 8 (2 ^ k)) ∧ { t with gov := g } = s ∧
      (g.halt.getLsbD k = true → t.gov.halt ≠ 0 → t.gov = { g with halt := t.gov.halt, haltEnded := ended }) ∧
      (g.halt.getLsbD k = true → t.gov.halt = 0 → k = 2 ∨ k = 3 ∨ k = 5 →
        t.gov = { g with halt := 0, haltEnded := ended, launched := g.launched ||| cs }) ∧
      (g.halt.getLsbD k = true → t.gov.halt = 0 → k = 0 ∨ k = 1 ∨ k = 4 → t.gov = { g with
          halt := 0, haltEnded := ended, held := g.held ||| (cs &&& ~~~g.admitted),
          due := g.due ++ (inOrder (fun c => cs.getLsbD c) s).zipIdx.map (fun e => (r + e.2 * spanOf s / 64, BitVec.ofNat 6 e.1, none)) })) ∧
    (let n := s.tick
     let starts := g.lam < 11 ∧ ∀ b run, g.burst = some (b, run) → b + 1024 ≤ n
     (¬ starts → exec .burstPeriod s = .next s) ∧
     (starts → g.lam = 0 → Gives .burstPeriod s (fun s' => s' = halts (held 0x10 { g with burst := some (n, 0) }))) ∧
     (starts → g.lam ≠ 0 → Gives .burstPeriod s (fun s' =>
       s' = endHalt 4 n { s with gov := { g with burst := some (n, 1024 * g.lam / 11) } }))) ∧
    ((16 ≤ g.lowBeats → Gives .capUnatt s (fun s' => s' = govBit 1 true s)) ∧
     (g.lowBeats < 16 → 16 ≤ g.okBeats → Gives .capUnatt s (fun s' => s' = govBit 1 false s)) ∧
     (g.lowBeats < 16 → g.okBeats < 16 → exec .capUnatt s = .next s)) ∧
    ((g.upReady = false → exec .clockSwitchUp s = .next s) ∧
     (g.upReady = true → Gives .clockSwitchUp s (fun s' => s' = { s with gov := { g with opNow := g.opTgt, upReady := false } }))) ∧
    (∀ m : LevelMsg,
      let taken : Gov := { g with partner := some m, levelMiss := 0, partnerHold := false }
      (isCompanion s = false ∨ m.fromSlot0 ≠ isSlot1 s → exec (.levelMessage m) s = .next s) ∧
      (isCompanion s = true → m.fromSlot0 = isSlot1 s → (isSlot1 s = false ∨ m.railFault = false) →
        Gives (.levelMessage m) s (fun s' => s' = { s with gov := taken })) ∧
      (isCompanion s = true → m.fromSlot0 = true → isSlot1 s = true → m.railFault = true →
        Gives (.levelMessage m) s (fun s' => s'.gov = taken ∧ stopped s'))) ∧
    ((isSlot1 s = true → 3 ≤ g.levelMiss → Gives .levelMessageMissing s (fun s' => s' = { s with gov := { g with partnerHold := true } })) ∧
     (isSlot1 s = false ∨ g.levelMiss < 3 → exec .levelMessageMissing s = .next s)) ∧
    (∀ temp : Int,
      (temp < 1840 → exec (.thermalTrip temp) s = .next s) ∧
      (1840 ≤ temp → bit 8 = true → Gives (.thermalTrip temp) s (fun s' => s' = govBit 7 true s)) ∧
      (1840 ≤ temp → bit 8 = false → Gives (.thermalTrip temp) s (fun s' => s'.gov = { held 1 g with tripAt := some s.tick } ∧
        regIs aG 7 s' = true ∧ regIs aG 8 s' = true ∧ stopped s' ∧ retains s' ∧ refreshes s')) ∧
      (∀ b, g.tripAt = some b →
        (s.tick < b + 10000 → exec (.tripSwitchOff temp) s = .next s) ∧
        (b + 10000 ≤ s.tick → temp < 1840 → Gives (.tripSwitchOff temp) s (fun s' => s' = { s with gov := { g with tripAt := none } })) ∧
        (b + 10000 ≤ s.tick → 1840 ≤ temp → Gives (.tripSwitchOff temp) s (fun s' =>
          s' = off { s with gov := { g with tripAt := none } }))) ∧
      (g.tripAt = none → exec (.tripSwitchOff temp) s = .next s)) ∧
    (∀ o : Origin, logRoom s = true → hasRight 2 o s = true →
      let may := bit 8 = true ∧ g.hot < (palF 3 7 0 s * 16 : Nat)
      let t := endHalt 0 (s.tick + 1) (govBit 8 false { s with gov := { g with tripAt := none } })
      (¬ may → Gives (.tripClear o) s (Accepted o aG 0x100 s s)) ∧
      (may → bit 9 = true → Gives (.tripClear o) s (Accepted o aG 0x100 s t)) ∧
      (may → bit 9 = false → Gives (.tripClear o) s (Accepted o aG 0x100 s (leaves t)))) ∧
    (∀ (o : Origin) (v : BitVec 32), logRoom s = true →
      let taken : State := setReg 0x10_0044 (v &&& 0xFFFF) { s with gov := { g with hbAt := s.tick } }
      let back : State := govBit 4 false (govBit 3 false taken)
      (o ≠ 0x1000 → Gives (.heartbeat o v) s (Answered o 0x10_0044 (.ok 0) s)) ∧
      (bit 3 = false → bit 4 = false → Gives (.heartbeat 0x1000 v) s (Accepted 0x1000 0x10_0044 v s taken)) ∧
      (bit 3 = true ∨ bit 4 = true → Gives (.heartbeat 0x1000 v) s (Accepted 0x1000 0x10_0044 v s { back with
        gov := { g with hbAt := s.tick, returning := true },
        changes := { s.changes with intake := s.changes.intake ++
          [⟨0x4000, 4, now s, 0x10_0004, 0, (reg aG s).setWidth 64, (reg aG back).setWidth 64, markNow s⟩] } }))) ∧
    (let lost := hbEn s = true ∧ g.hbAt + 100000 ≤ s.tick
     (lost → Gives .hbLost s (fun s' => s' = govBit 3 true s)) ∧ (¬ lost → exec .hbLost s = .next s)) ∧
    (let v := palFix 7 s
     let due := hbEn s = true ∧ bit 3 = true ∧ bit 4 = false ∧ g.hbAt + 10100000 ≤ s.tick ∧
       fld v 31 16 * min 100 (fld v 6 0) * 10 < g.shareMw
     (¬ due → exec .orphan s = .next s) ∧
     (due → s.changes.intake.length < 64 → Gives .orphan s (fun s' => s' = { govBit 4 true s with
       changes := { s.changes with intake := s.changes.intake ++
         [⟨0x4000, 4, now s, 0x10_0004, 0, (reg aG s).setWidth 64, (reg aG (govBit 4 true s)).setWidth 64, markNow s⟩] } }))) ∧
    (∀ a : PackAns,
      (packEn s = false ∨ a.epoch.toNat < g.pack.epoch.toNat → exec (.packAnswer a) s = .next s) ∧
      (packEn s = true → g.pack.epoch.toNat ≤ a.epoch.toNat → Gives (.packAnswer a) s (fun s' => s' = { s with gov := { g with
        pack := { g.pack with cPack := a.cPack, cAbs := a.cAbs, pRide := a.pRide, shelf := a.shelfLost, fresh := true } } }))) ∧
    ((packEn s = true → 3 ≤ g.pack.missed → Gives .noPack s (fun s' => s' = govBit 5 true s)) ∧
     (packEn s = false ∨ g.pack.missed < 3 → exec .noPack s = .next s)) ∧
    (let forced (b : Bool) : State := { s with gov := { g with pack := { g.pack with forced := b } } }
     let low := isModule s = true ∧ bit 5 = true ∧ 1000 ≤ g.pack.busLow
     (low → Gives .noPackBusLow s (fun s' => s' = forced true)) ∧ (¬ low → exec .noPackBusLow s = .next s) ∧
     (g.pack.forced = true → 100000 ≤ g.pack.busHigh → Gives .noPackBusRestored s (fun s' => s' = forced false)) ∧
     (g.pack.forced = false ∨ g.pack.busHigh < 100000 → exec .noPackBusRestored s = .next s)) ∧
    ((g.flowOk = true ∨ bit 9 = true → exec .flowLost s = .next s) ∧
     (g.flowOk = false → bit 9 = false → Gives .flowLost s (fun s' => s'.gov = { held 2 g with flowLostAt := some s.tick, flowOff := false } ∧
       regIs aG 9 s' = true ∧ stopped s' ∧ retains s' ∧ refreshes s')) ∧
     (g.flowLostAt = none → exec .flowSwitchOff s = .next s) ∧
     (∀ b, g.flowLostAt = some b →
       let due := bit 9 = true ∧ b + 10000 ≤ s.tick ∧ g.flowOff = false
       (¬ due → exec .flowSwitchOff s = .next s) ∧
       (due → Gives .flowSwitchOff s (fun s' => s' = off { s with gov := { g with flowOff := true } }))) ∧
     (let t := endHalt 1 (s.tick + 1) (govBit 9 false { s with gov := { g with flowLostAt := none, flowOff := false } })
      let back := bit 9 = true ∧ 1000 ≤ g.flowGood
      (¬ back → exec .flowReturn s = .next s) ∧
      (back → bit 8 = true → Gives .flowReturn s (fun s' => s' = t)) ∧
      (back → bit 8 = false → Gives .flowReturn s (fun s' => s' = leaves t))))
/-! ### The beat and its strokes (R33, R70, R275, R278, R316, R331 to R334, R338, R340) -/

/-- O52. At FRAC 0 the time moves one beat, the measured inputs and the straps are latched, the peak guard follows the package power, phase
tags and palette entries that fixed-function blocks read are latched and the program's run begins. A stroke steps a rail's reference at its
slew, and moves its phases by the proportional and integral loop, each output high below the band, low above it and held between; a voltage
beyond the limits is a rail fault. No stroke comes after its FRAC has passed. -/
def Obligations.BeatsAndStrokes : Prop :=
  (∀ (inp : BeatInputs) (s : State), Gives (.beatStart inp) s (fun s' =>
    let v := inp.railV
    let i := inp.railI
    let power := v.vcore * i.vcore + v.vsram * i.vsram + v.vdram * i.vdram + v.vlink * i.vlink
    let room := max 0 (s.gov.guardB + (power - 2000 * 64000000))
    s'.tick = s.tick + 1 ∧ s'.beat = s.beat + 1 ∧ s'.frac = 0 ∧ s'.rst.pins = inp.straps ∧ s'.rst.straps = s.rst.straps ∧
    s'.gov.power = power ∧ s'.gov.busV = inp.busV ∧ s'.gov.railV = v ∧ s'.gov.railI = i ∧
    s'.gov.flowOk = inp.flowOk ∧ s'.gov.flowGood = (if inp.flowOk then s.gov.flowGood + 1 else 0) ∧
    s'.gov.eject = inp.eject ∧ s'.gov.ejectGone = (if inp.eject then 0 else s.gov.ejectGone + 1) ∧
    (∀ t ∈ inp.temps, t ≤ s'.gov.hot) ∧ (inp.temps ≠ [] → s'.gov.hot ∈ inp.temps) ∧
    ((∃ t ∈ inp.temps, 1680 < t) → regIs 0x10_0004 7 s' = true) ∧
    s'.gov.guardB = room ∧ s'.gov.guard = (if 2400 * 64000000 < power ∨ 4000000 * 64000000 ≤ room then s.gov.guard - 256
      else if room = 0 then 2048 else s.gov.guard) ∧ regIs 0x10_0004 0 s' = decide (s'.gov.guard < 2048) ∧
    (∀ p : Nat, partAt p s' = { partAt p s with latched := (partAt p s).tag }) ∧
    (∀ k : Nat, palFix k s' = palAct k s') ∧
    (s'.loop.source ≠ 0 → s'.loop.running = true ∧ s'.loop.pc = 0 ∧ s'.loop.cycles = 0) ∧
    (s'.loop.source = 0 → s'.loop.running = false ∧ s'.loop.romPhase = 1) ∧ s'.loop.shadow = s'.loop.vars ∧
    (∀ r : Nat, r < 4 → (railAt r s').iAvg = railsGet i r) ∧ s'.window = s.window ∧
    (s.passed = [] → isSlot1 s = false → s'.vault = s.vault ∧ s'.scratch = s.scratch ∧ s'.jobs = s.jobs))) ∧
  (∀ (k : BitVec 3) (inp : StrokeInputs) (s0 : State),
    (512 * k.toNat < s0.frac.toNat → exec (.stroke k inp) s0 = .next s0) ∧
    (let s := romUpTo k.toNat s0
     s0.frac.toNat ≤ 512 * k.toNat → isSlot1 s = true → Gives (.stroke k inp) s0 (fun s' =>
       s'.frac = BitVec.ofNat 12 (512 * k.toNat) ∧ s'.rails = { s.rails with stroke := k, busV := inp.busV } ∧
       { s' with frac := s.frac, rails := s.rails, loop := s.loop } = s)) ∧
    (∀ r : Nat, r < 4 → s0.frac.toNat ≤ 512 * k.toNat →
      let s := romUpTo k.toNat s0
      let x := railAt r s
      let v := railsGet inp.v r
      isSlot1 s = false → (∀ q : Nat, q < 4 → q ≠ r → (railAt q s).st = 0 ∧ railsGet inp.v q ≤ absOv q) →
      x.st = 2 → x.reqBurst = false → x.asleep = false →
      let d := slewOf r s
      let ref := x.ref + max (-d) (min d (x.tgt - x.ref))
      let e := ref - v
      let lim : Int := ((healthyOf r s).length : Nat) * ilimOf r s
      let ff := if k = 0 ∧ r = 0 then s.gov.dff else 0
      let acc := max (-lim) (min lim (x.acc + (railP r 4 15 0 s : Nat) * e * 4)) + ff
      let tot := acc + (railP r 4 31 16 s : Nat) * e * 4
      let faulted (code : BitVec 4) (st : BitVec 3) (left : BitVec 4) (s' : State) : Prop :=
        (railAt r s').st = st ∧ (railAt r s').lastFault = code ∧ (railAt r s').left = left ∧ activeOf r s' = [] ∧
        s'.rails.offSeq = true ∧ s'.rails.offAt = s.tick + 1 ∧ s'.rails.start = false ∧ s'.rails.retain = false ∧
        reg (aRail r 0x30) s' = satAdd (reg (aRail r 0x30) s) 1 ∧
        (∀ j, jobRunning j s = true → (jobAt j s).isSome = true → jobStopped j s' = true)
      (ref - uvOf r s ≤ v → v ≤ ref + ovOf r s → v ≤ absOv r → Gives (.stroke k inp) s0 (fun s' =>
        let n : Int := ((activeOf r s').length : Nat)
        let cmd := if n = 0 then 0 else max (-(bandOf r s)) (min (ilimOf r s) (tot / n))
        railAt r s' = { x with
          ref := ref, err := e, acc := acc, iTotal := tot, dff := ff, vSense := v, iSum := phaseSum r inp.ph, uv := 0, ov := 0,
          iPh := cmd, burst := false, trace := v :: x.trace.take 31 } ∧
        (∀ i ∈ phasesOf r, let cur := inp.ph.getD i 0 * 256
          mapGet 0 s'.rails.level i = if s'.rails.phActive.getLsbD i = false then 0
            else if cur < cmd - bandOf r s then 2 else if cmd + bandOf r s < cur then 1 else mapGet 0 s.rails.level i) ∧
        s'.frac = BitVec.ofNat 12 (512 * k.toNat) ∧ s'.rails.phFault = s.rails.phFault ∧
        (∀ i ∈ activeOf r s, i ∈ activeOf r s') ∧
        { s' with frac := s.frac, rails := s.rails, loop := s.loop } = s)) ∧
      (absOv r < v → Gives (.stroke k inp) s0 (faulted 4 5 x.left)) ∧
      (v < ref - uvOf r s → v ≤ absOv r → v ≤ ref + ovOf r s → 7 ≤ x.uv → Gives (.stroke k inp) s0 (fun s' =>
        (x.left ≠ 0 → faulted 3 4 (x.left - 1) s' ∧ (railAt r s').waitAt = s.tick) ∧ (x.left = 0 → faulted 3 5 0 s')))))

/-! ### The loop engine (R299 to R327) -/

/-- O53. Every operation of a loop program issues only while a bank's run goes on, where the word at its PC spells it, and within its 910
cycles; it takes the cycles of its class, writes its one result to the shadow of its variable or stages it for its port, and moves on; past
the last instruction, and at END, the shadow becomes the variables. An uncorrectable word, or palette entry that it reads, aborts the run as
a missed beat. Floating-point results carry one canonical NaN; a NaN is never staged. -/
def Obligations.LoopOperations : Prop :=
  ∀ (i : LoopIns) (s : State),
    let l := s.loop
    let d := i.d.toNat
    let get (code : Nat) : BitVec 32 := if code < 0x100 then mapGet 0 l.shadow code else if code < 0x180 then mapGet 0 l.input code else 0
    let A := get i.a.toNat
    let B := get i.b.toNat
    let C := get i.c.toNat
    let D := if d < 0x100 then mapGet 0 l.shadow d else mapGet (mapGet 0 l.output d) l.staged d
    let pal (j : Nat) : BitVec 32 := palAct (i.k.toNat + j) s
    let truth (b : Bool) : BitVec 32 := if b then 0x3F800000 else 0
    let runs := l.running = true ∧ l.source ≠ 0
    let spelt (op : Nat) : Prop := activeBad s = false ∧ loopFields (activeWord s).toNat = (op, i)
    let may (op reads n : Nat) : Prop := runs ∧ spelt op ∧ l.cycles + n ≤ 910 ∧ ∀ j, j < reads → palBad (i.k.toNat + j) s = false
    let aborted (s' : State) : Prop := s'.loop.running = false ∧ s'.loop.missedRun = true ∧ s'.loop.misses = l.misses + 1 ∧
      s'.loop.shadow = [] ∧ s'.loop.staged = [] ∧ s'.loop.vars = l.vars ∧ s'.loop.output = l.output ∧
      regIs (aCtl 4) 0 s' = true ∧ regIs (aCtl 4) 3 s' = true ∧ { s' with loop := s.loop, regs := s.regs, recorder := s.recorder } = s
    let stops (c : Instr) (op reads n : Nat) : Prop :=
      (¬ runs ∨ (activeBad s = false ∧ (¬ spelt op ∨ 910 < l.cycles + n)) → exec c s = .next s) ∧
      (runs → activeBad s = true → Gives c s (fun s' => aborted s' ∧ s'.loop.romNext = true)) ∧
      (runs → spelt op → l.cycles + n ≤ 910 → (∃ j, j < reads ∧ palBad (i.k.toNat + j) s = true) → Gives c s aborted)
    let ended (n : Nat) (vars : SMap (BitVec 32)) (s' : State) : Prop := s'.loop.vars = vars ∧ s'.loop.running = false ∧
      s'.loop.misses = 0 ∧ s'.loop.missedRun = false ∧ fld (reg (aCtl 0x14) s') 11 0 = l.cycles + n ∧ s'.loop.output = l.output ∧
      (∀ a : Nat, a ≠ aCtl 0x14 → reg a s' = reg a s) ∧ { s' with loop := s.loop, regs := s.regs } = s
    let goes (c : Instr) (op jump : Nat) : Prop :=
      let n := 1
      let may := may op 0 n
      stops c op 0 n ∧
      (may → l.pc + jump < l.len → Gives c s (fun s' => s' = { s with loop := { l with pc := l.pc + jump, cycles := l.cycles + n } })) ∧
      (may → l.len ≤ l.pc + jump → Gives c s (ended n l.shadow))
    let does (c : Instr) (op reads n : Nat) (r : BitVec 32) : Prop :=
      let v := if isNan r then 0x7FC00000 else r
      let may := may op reads n
      stops c op reads n ∧
      (may → l.pc + 1 < l.len → d < 0x100 → Gives c s (fun s' => s' = { s with
        loop := { l with shadow := mapSet 0 l.shadow d v, pc := l.pc + 1, cycles := l.cycles + n } })) ∧
      (may → l.pc + 1 < l.len → portAssigned d = true → isNan v = false → Gives c s (fun s' => s' = { s with
        loop := { l with
          staged := (d, portConv d v s) :: l.staged.filter (fun e => decide (e.1 ≠ d)), pc := l.pc + 1, cycles := l.cycles + n } })) ∧
      (may → l.pc + 1 < l.len → portAssigned d = true → isNan v = true → Gives c s (fun s' => s' = { regBit (aCtl 4) 2 true s with
        loop := { l with pc := l.pc + 1, cycles := l.cycles + n } })) ∧
      (may → l.len ≤ l.pc + 1 → d < 0x100 → Gives c s (ended n (mapSet 0 l.shadow d v)))
    let f := i.f.toNat
    let w := (pal 0).toNat / 2 ^ (f / 16 % 32) % 2 ^ (f % 16 + 1)
    let pos := flt 0 A
    let clamp (v lo hi : BitVec 32) : BitVec 32 := fmin (fmax v lo) hi
    goes (.loopNop i) 0x00 1 ∧ goes (.loopBr i) 0x11 f ∧ goes (.loopBrp i) 0x12 (if pos then f else 1) ∧
    goes (.loopBrn i) 0x13 (if pos then 1 else f) ∧
    stops (.loopEnd i) 0x01 0 1 ∧ (may 0x01 0 1 → Gives (.loopEnd i) s (ended 1 l.shadow)) ∧
    does (.loopMov i) 0x02 0 1 A ∧ does (.loopAdd i) 0x04 0 1 (fadd A B) ∧ does (.loopSub i) 0x05 0 1 (fsub A B) ∧ does (.loopMul i) 0x06 0 1 (fmul A B) ∧
    does (.loopFma i) 0x07 0 2 (ffma A B C) ∧ does (.loopDiv i) 0x08 0 4 (fdiv A B) ∧ does (.loopMin i) 0x09 0 1 (fmin A B) ∧ does (.loopMax i) 0x0A 0 1 (fmax A B) ∧
    does (.loopClamp i) 0x0B 0 1 (clamp A B C) ∧ does (.loopAbs i) 0x0C 0 1 (fabs A) ∧ does (.loopSel i) 0x0D 0 1 (if flt 0 C then A else B) ∧
    does (.loopCgt i) 0x0E 0 1 (truth (flt B A)) ∧ does (.loopCge i) 0x0F 0 1 (truth (fle B A)) ∧ does (.loopCeq i) 0x10 0 1 (truth (feq A B)) ∧
    (f / 512 = 0 → does (.loopLdk i) 0x03 1 1 (pal 0)) ∧ (f / 512 = 1 → does (.loopLdk i) 0x03 1 1 (ofInt32 0 (w : Nat))) ∧
    (f / 512 = 2 → does (.loopLdk i) 0x03 1 1 (ofInt32 0 (if w < 2 ^ (f % 16) then (w : Int) else (w : Int) - 2 ^ (f % 16 + 1)))) ∧
    does (.flt i) 0x18 1 2 (ffma (pal 0) (fsub A D) D) ∧ does (.slew i) 0x19 2 2 (fadd D (clamp (fsub A D) (fneg (pal 1)) (pal 0))) ∧
    (f % 2 = 0 → does (.hyst i) 0x1A 1 2 (if flt (fadd B (pal 0)) A then 0x3F800000 else if flt A (fsub B (pal 0)) then 0 else D)) ∧
    (f % 2 = 1 → does (.hyst i) 0x1A 1 2 (if flt (pal 0) (fabs (fsub A D)) then A else D)) ∧
    does (.pi i) 0x1B 1 2 (ffma (pal 0) A C) ∧ does (.trk i) 0x1D 3 2 (fmin D (fadd A (pal 2))) ∧
    (B = 0 → does (.piu i) 0x1C 2 2 D) ∧ (B = 0x3F800000 → does (.piu i) 0x1C 2 2 (ffma (pal 1) A D)) ∧
    (B = 0x40000000 → does (.piu i) 0x1C 2 2 (if fle A 0 then ffma (pal 1) A D else D)) ∧
    (B = 0x40400000 → does (.piu i) 0x1C 2 2 (if fle 0 A then ffma (pal 1) A D else D)) ∧
    (let t := if flt (pal 0) (fabs (fsub A B)) then fadd D 0x3F800000 else 0
     let ran : Loop := { l with shadow := mapSet 0 l.shadow d t, pc := l.pc + 1, cycles := l.cycles + 2 }
     let may := may 0x1E 2 2
     stops (.flw i) 0x1E 2 2 ∧
     (may → l.pc + 1 < l.len → d < 0x100 → feq t (fmax (pal 1) 0x3F800000) = false → Gives (.flw i) s (fun s' => s' = { s with loop := ran })) ∧
     (may → l.pc + 1 < l.len → d < 0x100 → feq t (fmax (pal 1) 0x3F800000) = true → Gives (.flw i) s (fun s' =>
       s'.loop = { ran with followRun := if regIs (aCtl 0x18) (f % 32) s then l.followRun else (f % 32) :: l.followRun } ∧ regIs (aCtl 0x18) (f % 32) s' = true ∧
       (∀ a : Nat, a ≠ aCtl 0x18 → reg a s' = reg a s) ∧ { s' with loop := l, regs := s.regs, recorder := s.recorder } = s)))
/-- O54. Loading, verifying and committing loop programs and palettes: what a run that misses its beat leaves, when the ROM takes over,
when a bank is verified, how entry commits, staged writes, COMMIT and direct writes reach the active palette, who may stage, and the
sketchbook's arming, triggering, stopping and reading. -/
def Obligations.LoopControl : Prop :=
  (∀ s : State,
    let l := s.loop
    let others (s' : State) : Prop := { s' with loop := l, regs := s.regs, recorder := s.recorder } = s
    (l.running = false → exec .loopDeadlineMiss s = .next s) ∧
    (l.running = true → Gives .loopDeadlineMiss s (fun s' => s'.loop.shadow = [] ∧ s'.loop.staged = [] ∧ s'.loop.running = false ∧
      s'.loop.missedRun = true ∧ s'.loop.misses = l.misses + 1 ∧ s'.loop.vars = l.vars ∧ s'.loop.output = l.output ∧
      s'.loop.source = l.source ∧ (s'.loop.romNext = true ↔ l.romNext = true ∨
        (fld (reg (aCtl 0) s) 15 8 ≠ 0 ∧ fld (reg (aCtl 0) s) 15 8 ≤ l.misses + 1)) ∧
      reg (aCtl 0x10) s' = satAdd (reg (aCtl 0x10) s) 1 ∧ regIs (aCtl 4) 0 s' = true ∧ fld (reg (aCtl 0x14) s') 11 0 = 910 ∧ others s')) ∧
    (let falls := l.romNext = true ∧ l.source ≠ 0 ∧ ∀ c, l.commit = some c → c.prog = false ∨ c.lapsed = true
     (¬ falls → exec .loopFallback s = .next s) ∧
     (falls → Gives .loopFallback s (fun s' => s'.loop = { l with source := 0, romNext := false } ∧
       regIs (aCtl 4) 1 s' = true ∧ (∀ a : Nat, a ≠ aCtl 4 → reg a s' = reg a s) ∧
       mapGet 0 s'.att.ms 4 = sha3 (digestBytes (mapGet 0 s.att.ms 4) ++ digestBytes (sha3 romBytes)) ∧
       others { s' with att := s.att }))) ∧
    (l.verifying = false → exec .verifyDone s = .next s) ∧
    (l.verifying = true → Gives .verifyDone s (fun s' =>
      let n := fld (reg (aCtl 0x20) s) 9 0
      let word (k : Nat) : BitVec 64 := mapGet 0 (if l.source = 1 then l.bankB else l.bankA) k
      let wcet := ((List.range n).map (fun k => loopCycles (word k))).foldl (· + ·) 0
      let good := 1 ≤ n ∧ n ≤ 512 ∧ (∀ k : Nat, k < n → loopErr (word k) k n = none) ∧ (wcet ≤ 910 ∨ regIs (aCtl 0x20) 30 s = true)
      (regIs (aCtl 0x24) 31 s' = true ↔ good) ∧ (fld (reg (aCtl 0x24) s') 30 27 = 0 ↔ good) ∧
      (1 ≤ n → n ≤ 512 → fld (reg (aCtl 0x24) s') 11 0 = min 4095 wcet) ∧
      (∀ a : Nat, a ≠ aCtl 0x24 → reg a s' = reg a s) ∧ { s' with loop := l, regs := s.regs } = s ∧ s'.loop = { l with verifying := false })) ∧
    (l.commit = none → exec .commitApply s = .next s) ∧
    (∀ c, l.commit = some c →
      (c.lapsed = true → Gives .commitApply s (fun s' => s'.loop = { l with commit := none } ∧ regIs (aCtl 4) 11 s' = true ∧
        (∀ a : Nat, a ≠ aCtl 4 → reg a s' = reg a s) ∧ others s')) ∧
      (c.lapsed = false → Gives .commitApply s (fun s' => s'.loop.commit = none ∧
        (∀ k : Nat, palAct k s' = if c.pal then palInact k s else palAct k s) ∧
        (∀ k : Nat, palInact k s' = palInact k s) ∧
        (c.prog = true → s'.loop.source = (if l.source = 1 then 2 else 1) ∧ s'.loop.len = fld (reg (aCtl 0x20) s) 9 0 ∧
          s'.loop.bankA = l.bankA ∧ s'.loop.bankB = l.bankB ∧ regIs (aCtl 4) 1 s' = false ∧ regIs (aCtl 0x24) 31 s' = false ∧
          (∀ k : Nat, mapGet 0 s'.loop.vars k = if c.clr = true ∧ 64 ≤ k ∧ k < 256 then 0 else mapGet 0 l.vars k)) ∧
        (c.prog = false → s'.loop.source = l.source ∧ s'.loop.len = l.len ∧ s'.loop.vars = l.vars ∧ s'.att = s.att)))) ∧
    Gives .entryCommitApply s (fun s' => s'.loop.entries = [] ∧ (∀ k : Nat, palInact k s' = palInact k s) ∧
      (∀ k : Nat, palAct k s' = if k ∈ l.entries.map (·.1) then palInact k s else palAct k s) ∧
      (∀ k o, l.entries = [(k, o)] → s.changes.intake.length < 64 → s'.changes.intake = s.changes.intake ++
        [⟨o, 3, now s, BitVec.ofNat 32 k, 0, (palAct k s).setWidth 64, (palInact k s).setWidth 64, markNow s⟩]) ∧
      others { s' with changes := s.changes }) ∧
    Gives .paletteCopyEnd s (fun s' => s' = { s with loop := { l with copying := false } }) ∧
    (l.stage = none → exec .stageTimeout s = .next s) ∧
    (∀ o b, l.stage = some (o, b) →
      let t := fld (reg (aCtl 0) s) 31 16
      (t = 0 ∨ s.tick < b + t * 1000 → exec .stageTimeout s = .next s) ∧
      (t ≠ 0 → b + t * 1000 ≤ s.tick → Gives .stageTimeout s (fun s' => s'.loop.stage = none ∧ (∀ k : Nat, palAct k s' = palAct k s) ∧
        (∀ k : Nat, palInact k s' = if k ∈ l.entries.map (·.1) then palInact k s else palAct k s) ∧ others s' ∧
        s'.regs = s.regs))) ∧
    (let done := l.sk.st = 2 ∧ l.sk.late = [] ∧ ∀ n : Nat, n < 8 → mapGet 0 l.sk.left n = 0
     (¬ done → exec .postComplete s = .next s) ∧
     (done → Gives .postComplete s (fun s' => s' = { s with loop := { l with sk := { l.sk with st := 3 } } })))) ∧
  (∀ (o : Origin) (v : BitVec 32) (s : State), logRoom s = true → hasRight 2 o s = true →
    let l := s.loop
    let owner := ∀ w b, l.stage = some (w, b) → w = o
    let touched : Loop := { l with commit := l.commit.map (fun c => { c with lapsed := c.lapsed || c.prog }) }
    let k := fld (reg (aCtl 0x40) s) 10 0
    Gives (.progDataLo o v) s (Accepted o (aCtl 0x2C) v s { s with loop := { l with dataLo := mapSet 0 l.dataLo o.toNat v } }) ∧
    Gives (.progDataHi o v) s (fun s' => ∃ t, Accepted o (aCtl 0x30) v s t s' ∧
      (let n := fld (reg (aCtl 0x28) s) 8 0
       let w : BitVec 64 := v ++ mapGet 0 l.dataLo o.toNat
       (if l.source = 1 then t.loop = { touched with bankB := mapSet 0 l.bankB n w, wordErr := l.wordErr.filter (· ≠ n + 512) }
        else t.loop = { touched with bankA := mapSet 0 l.bankA n w, wordErr := l.wordErr.filter (· ≠ n) }) ∧
       reg (aCtl 0x28) t = BitVec.ofNat 32 ((n + 1) % 512) ∧ regIs (aCtl 0x24) 31 t = false ∧ { t with loop := l, regs := s.regs } = s)) ∧
    Gives (.verify o v) s (fun s' => ∃ t, Accepted o (aCtl 0x20) (v ||| 0x80000000) s t s' ∧ t.loop = { touched with verifying := true } ∧
      reg (aCtl 0x20) t = v &&& 0x400003FF ∧ regIs (aCtl 0x24) 31 t = false ∧ { t with loop := l, regs := s.regs } = s) ∧
    (let asks := v.getLsbD 0 = true ∨ v.getLsbD 1 = true
     let ok := owner ∧ (v.getLsbD 1 = true → regIs (aCtl 0x24) 31 s = true)
     let c := l.commit.getD ⟨o, false, false, false, false⟩
     (¬ ok → Gives (.commit o v) s (Answered o (aCtl 8) .error s)) ∧ (ok → ¬ asks → Gives (.commit o v) s (Accepted o (aCtl 8) v s s)) ∧
     (ok → asks → Gives (.commit o v) s (Accepted o (aCtl 8) v s { s with loop := { l with
       commit := some ⟨o, c.pal || v.getLsbD 0, c.prog || v.getLsbD 1, c.clr || v.getLsbD 2, c.lapsed && !v.getLsbD 1⟩, stage := none } }))) ∧
    (l.stage.isSome = true → Gives (.stageOpen o) s (Answered o (aCtl 0xC) .error s)) ∧
    (l.stage = none → Gives (.stageOpen o) s (Accepted o (aCtl 0xC) 0x80000000 s { s with loop := { l with stage := some (o, s.tick) } })) ∧
    (l.stage = none → Gives (.stageAbort o) s (Answered o (aCtl 0xC) .error s)) ∧
    (∀ w b, l.stage = some (w, b) →
      (w ≠ o → o ≠ 0 → Gives (.stageAbort o) s (Answered o (aCtl 0xC) .error s)) ∧
      (w = o ∨ o = 0 → Gives (.stageAbort o) s (fun s' => ∃ t, Accepted o (aCtl 0xC) 0x40000000 s t s' ∧ t.loop.stage = none ∧
        (∀ k : Nat, palAct k t = palAct k s) ∧ { t with loop := l } = s ∧
        (∀ k : Nat, palInact k t = if k ∈ l.entries.map (·.1) then palInact k s else palAct k s)))) ∧
    (let may := regIs (aCtl 0) 0 s = true ∧ owner
     (¬ may → Gives (.directWrite o v) s (Answered o (aCtl 0x48) .error s)) ∧
     (may → Gives (.directWrite o v) s (fun s' => ∃ t, Accepted o (aCtl 0x48) v s t s' ∧
       (∀ i : Nat, palAct i t = if i = k then palWritten k v s else palAct i s) ∧
       (∀ i : Nat, palInact i t = if i = k then palWritten k v s else palInact i s) ∧
       t.loop.entries = l.entries.filter (fun e => decide (e.1 ≠ k)) ∧ (∀ i : Nat, palFix i t = palFix i s) ∧ { t with loop := l } = s))) ∧
    (∀ n : BitVec 11,
      let k := n.toNat
      let stages (u t : State) : Prop := (∀ i : Nat, palInact i t = if i = k then palWritten k v s else palInact i s) ∧
        (∀ i : Nat, palAct i t = palAct i s) ∧ t.loop.entries = l.entries.filter (fun e => decide (e.1 ≠ k)) ∧ { t with loop := l } = u
      (entryCommits k = false → owner → (∀ a, palReg k = some a → (a < 0x13_0000 ∨ isCandidate s = true) →
        Gives (.paletteWrite o n v) s (fun s' => ∃ t, Accepted o a v s t s' ∧ stages s t)) ∧
        (palReg k = none → s.changes.intake.length ≤ 54 → Gives (.paletteWrite o n v) s (fun s' => ∃ u t,
          Accepted o (aCtl 0x40) (BitVec.ofNat 32 k) s (setReg (aCtl 0x40) (BitVec.ofNat 32 k) s) u ∧
          Accepted o (aCtl 0x44) v u t s' ∧ stages u t))) ∧
      (∀ a, entryCommits k = false → ¬ owner → palReg k = some a → (a < 0x13_0000 ∨ isCandidate s = true) →
        Gives (.paletteWrite o n v) s (Answered o a .error s))) ∧
    (let arms (c : Instr) (bit : BitVec 32) (flags : List Nat) (sk : Sketch) : Prop := Gives c s (fun s' => ∃ t,
       Accepted o (aCtl 0x80) (reg (aCtl 0x80) s ||| bit) s t s' ∧ t.loop = { l with sk := sk, followRun := flags } ∧ (∀ a : Nat, reg a t = reg a s) ∧
       { t with loop := l, regs := s.regs } = s)
     let post := min 8192 (fld (reg (aCtl 0x80) s) 13 0)
     let late := (List.range 8).filter (fun n => skDue n s && decide (mapGet 0 l.sk.seen n ≠ skStamp n s))
     reg (aCtl 0x80) s &&& 0x1FFF3FFF = reg (aCtl 0x80) s →
     arms (.arm o) 0x80000000 [] ⟨1, false, 0, [], [], [], none, reg 0x10_0004 s &&& 0x3FA, [], []⟩ ∧
     (l.sk.st ≠ 1 → arms (.force o) 0x40000000 l.followRun l.sk) ∧
     (l.sk.st = 1 → arms (.force o) 0x40000000 l.followRun { l.sk with
       trig := true, stamp := now s, tpos := [], st := if post = 0 ∧ late = [] then 3 else 2, late := late,
       left := mapSetAll 0 [] ((List.range 8).map (fun n => (n, post))) }) ∧
     (l.sk.st = 1 ∨ l.sk.st = 2 → arms (.stop o) 0x20000000 l.followRun { l.sk with st := 3 }) ∧
     (l.sk.st ≠ 1 → l.sk.st ≠ 2 → arms (.stop o) 0x20000000 l.followRun l.sk))) ∧
  (∀ (o : Origin) (addr : BitVec 24) (v : BitVec 32) (s : State), logRoom s = true →
    let a := addr.toNat
    let l := s.loop
    (a = 0x10_0008 ∨ a = 0x10_0014) → o = 0x1000 ∨ isSteward o = true ∨ (o = 0 ∧ (sesAt 0 s).isOpen = true) →
    (∀ w b, l.stage = some (w, b) → w ≠ o) →
    let k := (a - 0x10_0000) / 4
    Gives (.entryCommitWrite o addr v) s (fun s' => ∃ t, Accepted o a v s t s' ∧
      (∀ i : Nat, palInact i t = if i = k then palWritten k v s else palInact i s) ∧ (∀ i : Nat, palAct i t = palAct i s) ∧
      t.loop.entries = l.entries.filter (fun e => decide (e.1 ≠ k)) ++ [(k, o)] ∧ t.loop.stage = l.stage ∧ { t with loop := l } = s)) ∧
  (∀ (o : Origin) (s : State), hasRight 0 o s = true → mapGet none s.shadow o.toNat = none →
    let r := reg (aCtl 0xE0) s
    let taken := mapGet [] s.loop.sk.samples (fld r 18 16)
    let i := fld r 12 0
    (s.loop.sk.st ≠ 3 → Gives (.skDataRead o) s (Answered o (aCtl 0xE4) .error s)) ∧
    (s.loop.sk.st = 3 → Gives (.skDataRead o) s (Answered o (aCtl 0xE4)
      (.ok (if i < taken.length then taken.reverse.getD i 0 else 0)) (setReg (aCtl 0xE0) (setFld r 12 0 ((i + 1) % 8192)) s))))
/-! ### Rails (R330, R335 to R339, R346 to R352) -/

/-- O55. A rail soft-starts only at a beat boundary and in the order of the sequence, from its sensed voltage, and reaches regulation within
its window from beat n + 2,000, or fails at n + 2,500; a fault takes a retry or latches, switches the other rails off from the next beat, one
in a beat, stops every job and is captured and written to the older flash slot; a retry restarts from VCORE, and a LATCHED rail waits for its
CLEAR; a faulted phase, active or not, drops out alone while half of its rail's phases are healthy. -/
def Obligations.RailsStartAndFail : Prop :=
  (∀ (rid : RailId) (s : State),
    let r := rid.toNat
    let x := railAt r s
    let keeps (s' : State) : Prop := (∀ q : Nat, q ≠ r → railAt q s' = railAt q s) ∧ { s' with rails := s.rails } = s
    let other (s' : State) : Prop := { s'.rails with rail := s.rails.rail, phActive := s.rails.phActive, level := s.rails.level } = s.rails
    let faults (c : Instr) (code : BitVec 4) : Prop := Gives c s (fun s' =>
      (railAt r s').st = (if x.left ≠ 0 then 4 else 5) ∧ (railAt r s').left = x.left - (if x.left ≠ 0 then 1 else 0) ∧
      (railAt r s').lastFault = code ∧ (x.left ≠ 0 → (railAt r s').waitAt = s.tick) ∧ activeOf r s' = [] ∧
      s'.rails.offSeq = true ∧ s'.rails.offAt = s.tick + 1 ∧ s'.rails.start = false ∧ s'.rails.retain = false ∧
      s'.rails.frecSrc = false ∧ s'.rails.faulted = true ∧
      (flashBusy s = false → s.nvDeferred = false → s'.rails.writing.isSome = true ∧ s'.rails.waiting = none) ∧
      (flashBusy s = true ∨ s.nvDeferred = true → s'.rails.writing = s.rails.writing ∧ s'.rails.waiting.isSome = true) ∧
      reg (aRail r 0x30) s' = satAdd (reg (aRail r 0x30) s) 1 ∧
      (∀ j, jobRunning j s = true → (jobAt j s).isSome = true → jobStopped j s' = true))
    r < 4 →
    (let may := x.st = 0 ∧ regIs (aRail r 0) 0 s = true ∧ s.rails.start = true ∧ s.rails.offSeq = false ∧ s.rails.retain = false ∧
       (∀ q : Nat, q < 4 → (railAt q s).st ≠ 5) ∧ isSlot1 s = false ∧ s.rst.safe = false ∧ s.frac = 0 ∧
       regIs 0x10_0004 8 s = false ∧ regIs 0x10_0004 9 s = false ∧
       (∀ q : Nat, q < r → regIs (aRail q 0) 0 s = true → (railAt q s).st = 2 ∧ (railAt q s).regAt < s.tick)
     ∀ v : Nat, (¬ may → exec (.railSoftStart rid v) s = .next s) ∧
      (may → Gives (.railSoftStart rid v) s (fun s' => railAt r s' = { x with
          st := 1, ref := v, vSense := v, tgt := targetOf r s, acc := 0, softAt := s.tick, lineAt := 0, softFrom := v,
          softTgt := targetOf r s } ∧
        (∀ i : Nat, i ∈ activeOf r s' ↔ i ∈ healthyOf r s) ∧ keeps s' ∧ other s'))) ∧
    (let short := x.st = 1 ∧ s.tick = x.softAt + 1500 ∧ railsGet s.gov.railV r * 100 < 40 * x.tgt ∧ x.iPh = ilimOf r s
     (¬ short → exec (.shortCheck rid) s = .next s) ∧ (short → faults (.shortCheck rid) 1)) ∧
    (let within := x.ref - uvOf r s ≤ x.vSense ∧ x.vSense ≤ x.ref + ovOf r s
     let enters (s' : State) : Prop := railAt r s' = { x with st := 2, regAt := s.tick } ∧ keeps s' ∧ other s'
     let good := x.st = 1 ∧ x.softAt + 2000 ≤ s.tick ∧ within
     let late := x.st = 1 ∧ x.softAt + 2500 ≤ s.tick
     (¬ good → exec (.softStartEnd rid) s = .next s) ∧
     (good → Gives (.softStartEnd rid) s enters) ∧ (¬ late → exec (.softStartTimeout rid) s = .next s) ∧
     (late → within → Gives (.softStartTimeout rid) s enters) ∧ (late → ¬ within → faults (.softStartTimeout rid) 2)) ∧
    (let due := x.st = 4 ∧ x.waitAt + max 1 (railP r 8 15 8 s) * 10000 ≤ s.tick
     (¬ due → exec (.railRetry rid) s = .next s) ∧
     (due → Gives (.railRetry rid) s (fun s' => railAt r s' = { x with st := 0 } ∧ s'.rails.start = true ∧ s'.rails.offSeq = false ∧ keeps s'))) ∧
    (let due := x.st = 2 ∧ x.regAt + 10000000 ≤ s.tick
     (¬ due → exec (.countLeftReload rid) s = .next s) ∧
     (due → Gives (.countLeftReload rid) s (fun s' => railAt r s' = { x with left := BitVec.ofNat 4 (railP r 8 3 0 s) } ∧ keeps s' ∧ other s'))) ∧
    (∀ o : Origin, logRoom s = true → hasRight 2 o s = true →
      let en := regIs (aRail r 0) 0 s
      let v := regVal (aRail r 0) s ||| 2
      (reg (aRail r 0) s).toNat < 2 →
      (en = false → anyRunning s = true → Gives (.railClear o rid) s (Answered o (aRail r 0) .error s)) ∧
      (en = true ∨ anyRunning s = false → Gives (.railClear o rid) s (fun s' => ∃ t, Accepted o (aRail r 0) v s t s' ∧
        (∀ a : Nat, reg a t = reg a s) ∧ (x.st ≠ 4 → x.st ≠ 5 → t.rails = s.rails) ∧
        (x.st = 4 ∨ x.st = 5 → t.rails.start = true ∧ t.rails.offSeq = false ∧ (∀ q : Nat, q ≠ r → railAt q t = railAt q s) ∧
          railAt r t = { x with st := 0, left := BitVec.ofNat 4 (railP r 8 3 0 s) }) ∧ { t with rails := s.rails, regs := s.regs } = s)) ∧
      (anyRunning s = true → Gives (.railEnWrite o rid false) s (Answered o (aRail r 0) .error s)) ∧
      (drivesRails s = true → en = false → Gives (.railEnWrite o rid true) s (fun s' => ∃ t, Accepted o (aRail r 0) 1 s t s' ∧
        regIs (aRail r 0) 0 t = true ∧ (∀ a : Nat, a ≠ aRail r 0 → reg a t = reg a s) ∧ { t with rails := s.rails, regs := s.regs } = s ∧
        t.rails = { s.rails with start := s.rails.start || !s.rails.offSeq })) ∧
      (drivesRails s = true → en = true → anyRunning s = false → Gives (.railEnWrite o rid false) s (fun s' => ∃ t,
        Accepted o (aRail r 0) 0 s t s' ∧ regIs (aRail r 0) 0 t = false ∧ (∀ q : Nat, q ≠ r → railAt q t = railAt q s) ∧
        (x.st = 5 → railAt r t = x ∧ t.rails = s.rails) ∧ (x.st ≠ 5 → (railAt r t).st = 0 ∧ activeOf r t = []) ∧
        (r = 2 → x.st = 1 ∨ x.st = 2 ∨ x.st = 3 → t.vault = [] ∧ memInitDone t = false))) ∧
      (drivesRails s = false ∨ en = true → Gives (.railEnWrite o rid true) s (Accepted o (aRail r 0) 1 s s)) ∧
      (drivesRails s = false → anyRunning s = false → Gives (.railEnWrite o rid false) s (Accepted o (aRail r 0) 0 s s)))) ∧
  (∀ s : State,
    let on (r : Nat) : Prop := (railAt r s).st = 1 ∨ (railAt r s).st = 2 ∨ (railAt r s).st = 3
    let due := s.rails.offSeq = true ∧ s.rails.offAt ≤ s.tick
    (¬ due → exec .railSwitchOff s = .next s) ∧
    (due → (∀ r : Nat, r < 4 → ¬ on r) → Gives .railSwitchOff s (fun s' =>
      s' = { s with rails := { s.rails with offSeq := false } })) ∧
    (∀ r : Nat, due → r < 4 → on r → (∀ q : Nat, r < q → q < 4 → ¬ on q) → Gives .railSwitchOff s (fun s' =>
      (railAt r s').st = 0 ∧ activeOf r s' = [] ∧ (∀ q : Nat, q ≠ r → railAt q s' = railAt q s) ∧
      (s'.rails.offSeq = true ↔ ∃ q, q < r ∧ on q) ∧ s'.rails.offAt = s.tick + 1 ∧
      (r = 2 → s'.vault = [] ∧ memInitDone s' = false) ∧ (r ≠ 2 → { s' with rails := s.rails } = s))) ∧
    (s.rails.writing = none → exec .frecWriteDone s = .next s) ∧
    (∀ bs, s.rails.writing = some bs → bs.length ≤ 4096 → Gives .frecWriteDone s (fun s' =>
      let k := if newestSlot (flashRead (aFrec 0) 256 s) (flashRead (aFrec 1) 256 s) = some 0 then 1 else 0
      (∀ a : Nat, mapGet 0xFF s'.flash a = if aFrec k ≤ a ∧ a < aFrec k + bs.length then bs.getD (a - aFrec k) 0
        else if aFrec k ≤ a ∧ a < aFrec k + 4096 then 0xFF else mapGet 0xFF s.flash a) ∧
      let held := s.nvDeferred = true ∨ (s.pack.capStarted = true ∧ s.pack.capWrite.isSome = true)
      (held → s'.rails = { s.rails with writing := none } ∧ s'.pack = s.pack) ∧
      (¬ held → s.rails.waiting = none → s'.rails = { s.rails with writing := none } ∧
        s'.pack = { s.pack with capStarted := s.pack.capWrite.isSome }) ∧
      (¬ held → s.rails.waiting.isSome = true → s'.rails.writing.isSome = true ∧ s'.pack = s.pack ∧
        s'.rails = { s.rails with writing := s'.rails.writing, waiting := none, frecLost := 0 }) ∧
      { s' with flash := s.flash, rails := s.rails, pack := s.pack } = s)) ∧
    (∀ (ph : BitVec 6) (mA : Nat),
      let i := ph.toNat
      let r := if i < 48 then 0 else if i < 54 then 1 else if i < 60 then 2 else 3
      let above := isSlot1 s = false ∧ s.rails.phFault.getLsbD i = false ∧ 3 * ilimOf r s < 2 * ((mA * 256 : Nat) : Int)
      let left := (healthyOf r s).length - 1
      (¬ above → exec (.phaseFault ph mA) s = .next s) ∧
      (above → phaseCount r ≤ 2 * left → Gives (.phaseFault ph mA) s (fun s' =>
        s'.rails.phFault = s.rails.phFault ||| BitVec.ofNat 64 (2 ^ i) ∧ s'.rails.phActive = s.rails.phActive &&& ~~~(BitVec.ofNat 64 (2 ^ i)) ∧
        mapGet 0 s'.rails.level i = 0 ∧ s'.rails.rail = s.rails.rail ∧ s'.rails.offSeq = s.rails.offSeq ∧ s'.jobs = s.jobs ∧ s'.rails.frecSrc = false ∧
        { s' with rails := s.rails, recorder := s.recorder } = s)) ∧
      (above → 2 * left < phaseCount r → Gives (.phaseFault ph mA) s (fun s' => s'.rails.phFault.getLsbD i = true ∧
        (railAt r s').lastFault = 5 ∧ ((railAt r s').st = 4 ∨ (railAt r s').st = 5) ∧ s'.rails.offSeq = true ∧
        (∀ j, jobRunning j s = true → (jobAt j s).isSome = true → jobStopped j s' = true)))) ∧
    (∀ (o : Origin) (hi : Bool) (v : BitVec 32), logRoom s = true → hasRight 2 o s = true →
      Gives (.phFaultClear o hi v) s (fun s' => ∃ t, Accepted o (if hi then 0x12_0404 else 0x12_0400) v s t s' ∧
        t.rails.phFault = s.rails.phFault &&& ~~~(if hi then v ++ (0 : BitVec 32) else (0 : BitVec 32) ++ v) ∧
        (∀ r : Nat, r < 4 → (railAt r s).st = 1 → ∀ i, i ∈ activeOf r t ↔ i ∈ healthyOf r t) ∧
        (∀ r : Nat, r < 4 → (railAt r s).st ≠ 1 → activeOf r t = activeOf r s) ∧
        { t.rails with phFault := s.rails.phFault, phActive := s.rails.phActive, level := s.rails.level } = s.rails ∧
        { t with rails := s.rails } = s)))

/-! ### The tray energy pack (R354 to R386, R460, R462) -/

/-- O56. Who commands the stage: a holder renews its lease and stops as soon as a newer epoch, another holder or 16,000 beats without an
acknowledged renewal say so; a standby queries, claims only on the conditions of its end, and takes the estimator's state from notices;
reports, exclusion, self-diagnosis, re-arming, hand-over and ejection follow their conditions. -/
def Obligations.PackHolderAndReports : Prop :=
  (∀ s : State,
    let p := s.pack
    let st := 0x13_0004
    let sends (type : Byte) (epoch : BitVec 32) (value : Int) : Out := .stage type epoch value p.frameSeq
    let lost (q : Pack) : Prop := q.role = 1 ∧ q.diagPending = true ∧ q.claiming = false ∧ q.renewSeq = none ∧ q.released = false ∧
      q.handover = false ∧ q.openNext = false ∧ q.got = none ∧ q.farUsed = false ∧ q.farAt = none ∧ q.est = p.est ∧ q.iSet = p.iSet ∧
      q.crPhase = (if 1 ≤ p.crPhase.toNat ∧ p.crPhase.toNat ≤ 4 then 6 else p.crPhase)
    let mayClaim := p.role = 1 ∧ p.diagPending = false ∧ p.claiming = false ∧ p.stageSeen = true ∧ p.stage.lease ≠ 0 ∧
      (p.noticeAt + 22000 ≤ s.tick ∨ p.handover = true ∨ (packEnd s = some 0 ∧ p.stage.lease = 3) ∨
        (packEnd s = some 1 ∧ ∃ b, p.noneSince = some b ∧ b + 50000 ≤ s.tick))
    let others (s' : State) : Prop := { s' with pack := p, regs := s.regs, recorder := s.recorder, out := s.out } = s
    (∀ x : StageStatus, (x.crcOk = false ∨ isCandidate s = false) → exec (.statusFrame x) s = .next s) ∧
    (∀ x : StageStatus, x.crcOk = true → isCandidate s = true →
      let c := Instr.statusFrame x
      let mine := packEnd s = some (if x.holdPort then 1 else 0)
      let seen : Pack := { p with
        stage := x, stageSeen := true, noneSince := if x.lease = 3 then some (p.noneSince.getD s.tick) else none }
      let kept (q : Pack) (s' : State) : Prop := s'.pack = q ∧ reg (aPack 8) s' = x.epoch ∧ s'.out = s.out ∧
        (∀ a : Nat, a ≠ aPack 8 → reg a s' = reg a s) ∧ others s'
      (p.role = 2 → (p.epoch.toNat < x.epoch.toNat ∨ ¬ mine) → Gives c s (fun s' => lost s'.pack ∧ s'.pack.stage = x ∧ s'.out = s.out ∧ others s')) ∧
      (p.role = 2 → x.epoch.toNat ≤ p.epoch.toNat → mine → p.renewSeq ≠ some x.ackSeq → Gives c s (kept seen)) ∧
      (p.role = 2 → x.epoch.toNat ≤ p.epoch.toNat → mine → p.renewSeq = some x.ackSeq → Gives c s (fun s' => ∃ t,
        kept { seen with renewAt := s.tick, renewSeq := none } t ∧ s' = sendNotice (.notice (brushInfo t)) t)) ∧
      (p.role ≠ 2 → p.claiming = true → x.lease = 0 → mine → x.epoch = p.epoch → Gives c s (fun s' => s'.pack.role = 2 ∧
        s'.pack.claiming = false ∧ s'.pack.claimAt = s.tick ∧ s'.pack.renewAt = s.tick ∧ s'.pack.iSet = x.iSet ∧ s'.pack.handover = false ∧
        s'.pack.epoch = x.epoch ∧ s'.gov.pack.epoch = x.epoch ∧ s'.pack.got = none ∧
        s'.pack.farUsed = false ∧ reg (aPack 0x180) s' = satAdd (reg (aPack 0x180) s) 1 ∧ s'.pack.stage = x)) ∧
      (p.role ≠ 2 → p.claiming = true → ¬ (x.lease = 0 ∧ mine ∧ x.epoch = p.epoch) → x.claimRefused = true → Gives c s (fun s' =>
        s'.pack = { seen with claiming := false } ∧ reg (aPack 0x184) s' = satAdd (reg (aPack 0x184) s) 1 ∧ s'.out = s.out ∧ others s')) ∧
      (p.role ≠ 2 → p.claiming = true → ¬ (x.lease = 0 ∧ mine ∧ x.epoch = p.epoch) → x.claimRefused = false → Gives c s (kept seen)) ∧
      (let may := p.role = 1 ∧ p.diagPending = false ∧ x.lease ≠ 0 ∧
         (p.noticeAt + 22000 ≤ s.tick ∨ p.handover = true ∨ (packEnd s = some 0 ∧ x.lease = 3) ∨
           (packEnd s = some 1 ∧ x.lease = 3 ∧ p.noneSince.getD s.tick + 50000 ≤ s.tick))
       (p.claiming = false → may → Gives c s (fun s' =>
         s'.out = sends 3 (x.epoch + 1) 0 :: s.out ∧ others s' ∧ reg (aPack 8) s' = x.epoch ∧
         s'.pack = { seen with claiming := true, epoch := x.epoch + 1, frameSeq := p.frameSeq + 1 })) ∧
       (p.role ≠ 2 → p.claiming = false → ¬ may → Gives c s (kept seen)))) ∧
    (let due := p.role = 2 ∧ s.tick ≠ p.claimAt ∧ (s.tick - p.claimAt) % 4000 = 0
     (¬ due → exec .renew s = .next s) ∧
     (due → Gives .renew s (fun s' => s' = { s with
       out := sends 2 p.epoch 0 :: s.out, pack := { p with renewSeq := some p.frameSeq, frameSeq := p.frameSeq + 1 } }))) ∧
    (let due := p.role = 2 ∧ p.renewAt + 16000 ≤ s.tick
     (¬ due → exec .brushLost s = .next s) ∧ (due → Gives .brushLost s (fun s' => lost s'.pack ∧ s'.out = s.out ∧ others s'))) ∧
    (let every := if p.handover = true then 1 else if p.noticeAt + 20000 ≤ s.tick then 100 else 1000
     let due := p.role = 1 ∧ p.diagPending = false ∧ p.queryAt + every ≤ s.tick
     (¬ due → exec .standbyQuery s = .next s) ∧
     (due → Gives .standbyQuery s (fun s' => s' = { s with
       out := sends 6 0 0 :: s.out, pack := { p with queryAt := s.tick, claiming := false, frameSeq := p.frameSeq + 1 } })) ∧
     (packEnd s ≠ some 1 ∨ ¬ mayClaim → exec .endBClaim s = .next s) ∧
     (packEnd s = some 1 → mayClaim → Gives .endBClaim s (fun s' => s' = { s with
       out := sends 3 (p.stage.epoch + 1) 0 :: s.out,
       pack := { p with claiming := true, epoch := p.stage.epoch + 1, frameSeq := p.frameSeq + 1 } }))) ∧
    (∀ (src : PkgId) (x : BrushInfo), isModule s = true → src.toNat / 4 = (pkgId s).toNat / 4 →
      let e := if s.gov.pack.epoch.toNat < x.epoch.toNat then x.epoch else s.gov.pack.epoch
      let tells (c : Instr) (hand : Bool) : Prop := Gives c s (fun s' => s'.gov = { s.gov with pack := { s.gov.pack with epoch := e } } ∧
        (isCandidate s = false ∨ p.role = 2 ∨ p.role = 0 → s'.pack = p ∧ { s' with gov := s.gov } = s) ∧
        (isCandidate s = true → p.role = 1 ∨ p.role = 3 → fld (reg (aPack 0x48) s') 7 0 = x.cut % 256 ∧
          (∀ a : Nat, a ≠ aPack 0x48 → reg a s' = reg a s) ∧ s'.pack = { p with
            noticeAt := s.tick, handover := p.handover || hand,
            est := { p.est with
              cL := x.cL, socInt := x.socInt, socRep := x.socRep, err := x.err, refAge := x.refAge, rest := x.rest, seeded := true } }))
      tells (.brushNotice src x) false ∧ tells (.handoverNotice src x) true) ∧
    (∀ stageOk eccOk slotsOk : Bool,
      let code := if stageOk = false then 1 else if eccOk = false then 2 else if slotsOk = false then 3 else 0
      (p.diagPending = false → exec (.selfDiagnosis stageOk eccOk slotsOk) s = .next s) ∧
      (p.diagPending = true → Gives (.selfDiagnosis stageOk eccOk slotsOk) s (fun s' =>
        s'.pack = { p with
          diagPending := false, role := if (reg (aPack 0) s).getLsbD 0 = false then 0 else if code = 0 then 1 else 3 } ∧ fld (reg st s') 27 24 = code ∧
        (∀ i : Nat, i < 24 → regIs st i s' = regIs st i s) ∧ s'.out = s.out ∧ others s' ∧ (code = 0 → s'.recorder = s.recorder)))) ∧
    (∀ x : PackRep,
      let here := isCandidate s = true ∧ x.pkg.toNat / 4 = (pkgId s).toNat / 4
      let run := 1 ≤ p.crPhase.toNat ∧ p.crPhase.toNat ≤ 4
      (¬ here → exec (.packReport x) s = .next s) ∧
      (here → Gives (.packReport x) s (fun s' => (∀ k : Nat, repAt k s' = if k = x.pkg.toNat % 4 then
          { repAt k s with rep := some x, fresh := true } else repAt k s) ∧
        s'.pack.crPhase = (if x.jobRun = true ∧ p.role = 2 ∧ run then 6 else p.crPhase) ∧
        { s'.pack with reports := p.reports, crPhase := p.crPhase } = p ∧ { s' with pack := p, recorder := s.recorder } = s))) ∧
    (∀ slot : BitVec 2,
      let r := repAt slot.toNat s
      let due := p.role = 2 ∧ r.excluded = false ∧ 1000 ≤ r.missing
      (¬ due → exec (.packageExcluded slot) s = .next s) ∧
      (due → Gives (.packageExcluded slot) s (fun s' => (∀ k : Nat, repAt k s' = if k = slot.toNat then { r with excluded := true } else repAt k s) ∧
        { s'.pack with reports := p.reports } = p ∧ { s' with pack := p, recorder := s.recorder } = s)))) ∧
  (∀ (o : Origin) (s : State), logRoom s = true → hasRight 2 o s = true → isCandidate s = true → reg (aPack 0) s = 1 →
    let p := s.pack
    let inside := (∀ i : Nat, i < 24 → cellAge i s ≤ 3 → cellV i s ≤ cellCode 15 8 s ∧ cellCode 7 0 s ≤ cellV i s) ∧
      ∀ i : Nat, i < 6 → mapGet 0 p.temps i < (fld (reg (aPack 0x24) s) 15 8 * 10 : Nat)
    let same (t : State) : Prop := (∀ a : Nat, a ≠ 0x13_0004 → reg a t = reg a s) ∧ { t with pack := p, regs := s.regs, out := s.out } = s
    let start := p.role = 2 ∧ ¬ (1 ≤ p.crPhase.toNat ∧ p.crPhase.toNat ≤ 4)
    (p.role = 3 → Gives (.rearm o) s (fun s' => ∃ t, Accepted o (aPack 0) 9 s t s' ∧ t.pack = { p with diagPending := true } ∧ same t)) ∧
    (p.role = 2 → inside → (regIs 0x13_0004 7 s = true ∨ p.stage.contactor = false) → Gives (.rearm o) s (fun s' => ∃ t,
      Accepted o (aPack 0) 9 s t s' ∧ t.out = .stage 5 p.epoch 1 p.frameSeq :: s.out ∧ regIs 0x13_0004 7 t = false ∧
      t.pack = { p with openNext := false, frameSeq := p.frameSeq + 1 } ∧ same t)) ∧
    (p.role = 2 → ¬ (inside ∧ (regIs 0x13_0004 7 s = true ∨ p.stage.contactor = false)) → Gives (.rearm o) s (fun s' => ∃ t,
      Accepted o (aPack 0) 9 s t s' ∧ t.pack = p ∧ t.out = s.out ∧ (∀ a : Nat, reg a t = reg a s))) ∧
    (¬ start → p.role ≠ 0 → Gives (.handover o) s (Answered o (aPack 0) .error s)) ∧
    (start → Config.freeBool s.free = false → Gives (.handover o) s (Answered o (aPack 0) .error { s with free := s.free + 1 })) ∧
    (start → Config.freeBool s.free = true → Gives (.handover o) s (fun s' => ∃ t u, Accepted o (aPack 0) 0x11 s u s' ∧
      u.pack = { p with released := true } ∧ (∀ a : Nat, reg a t = reg a s) ∧ { t with free := s.free, regs := s.regs } = s ∧
      t.free = s.free + 1 ∧ { u with pack := p } = sendNotice (.handover (brushInfo s)) t))) ∧
  (∀ s : State,
    let g := s.gov
    (g.eject = false ∨ g.ejectAt ≠ none → exec .eject s = .next s) ∧
    (g.eject = true → g.ejectAt = none → Gives .eject s (fun s' =>
      s'.gov = { g with
        ejectAt := some s.tick, halt := g.halt ||| 8, admitted := 0, wash := 0, held := 0, due := g.due.filter (fun e => e.2.2.isSome) } ∧
      regIs aGovStatus 2 s' = false ∧ s'.nvDeferred = true ∧ s'.rails.retain = true ∧ s'.rails.start = false ∧
      (∀ j, (jobAt j s).isSome = true → partsOfJob j s ≠ [] → jobStopped j s' = true) ∧
      (s.pack.role = 2 → s'.pack.openNext = true ∧ s'.pack.iSet = 0 ∧ ¬ (1 ≤ s'.pack.crPhase.toNat ∧ s'.pack.crPhase.toNat ≤ 4)) ∧
      (s.pack.role ≠ 2 → s'.pack = s.pack))) ∧
    (let due := ∃ b, g.ejectAt = some b ∧ b + 1000 ≤ s.tick ∧ s.rails.offSeq = false
     (¬ due → exec .ejectSwitchOff s = .next s) ∧
     (due → Gives .ejectSwitchOff s (fun s' => s' = { s with rails := { s.rails with offSeq := true, offAt := s.tick, start := false, retain := false } }))) ∧
    (let due := g.ejectAt ≠ none ∧ 1000 ≤ g.ejectGone
     (¬ due → exec .ejectRelease s = .next s) ∧
     (due → Gives .ejectRelease s (fun s' => s'.gov.ejectAt = none ∧ s'.gov.halt = g.halt &&& 0xF7 ∧ s'.selfRefresh = (s.rst.vauxWarn && s.selfRefresh) ∧
       s'.rails.start = true ∧ s'.rails.retain = false ∧ s'.rails.offSeq = false ∧
       s'.nvDeferred = (if s.rst.vauxWarn then s.nvDeferred else false) ∧ s'.jobs = s.jobs ∧ s'.tile = s.tile))))
/-- O57. Cell sweeps, balancing, the state-of-charge estimator, capacity runs and hibernation: monitors are read over the chain one after
another with two retries, the values come into force when the sweep closes, a standby reads the far segment of a broken chain, ages and
limits follow each sweep, at most one cell in two is bled at a time and only above the lowest, the reported state of charge moves by at
most 1/6,000 % a sweep, a capacity run goes through its phases on its conditions, and its record goes to the other slot when the flash is
free. -/
def Obligations.PackCellsAndCharge : Prop :=
  (∀ s : State,
    let p := s.pack
    let st := 0x13_0004
    let at_ := s.beat.toNat % 10000
    let hib := regIs st 10 s
    let run := 1 ≤ p.crPhase.toNat ∧ p.crPhase.toNat ≤ 4
    let cell (i : Nat) (s : State) : Nat := mapGet 0 s.pack.cells i
    let age (i : Nat) (s : State) : Nat := mapGet 255 s.pack.cellAge i
    let frame (s' : State) : Prop := { s' with pack := p, out := s.out } = s
    let retries (c : Instr) (mon : BitVec 2) : Prop :=
      let n := mapGet 0 p.tries mon.toNat + 1
      (n < 3 → Gives c s (fun s' => s'.out = .chainRead mon :: s.out ∧ s'.pack = { p with tries := mapSet 0 p.tries mon.toNat n } ∧ frame s')) ∧
      (3 ≤ n → Gives c s (fun s' => s'.out = s.out ∧ mapGet 0 s'.pack.tries mon.toNat = n ∧
        s'.pack.brokenAt = (if p.role = 2 then some mon else p.brokenAt) ∧
        { s'.pack with tries := p.tries, brokenAt := p.brokenAt } = p ∧ frame s'))
    let reads := p.got.isSome = true ∧ (p.role = 2 ∨ p.farUsed = true)
    let far (brk : BitVec 2) : List Nat :=
      if packEnd s = some 1 then [2, 1, 0].filter (fun m => decide (brk.toNat ≤ m)) else [0, 1, 2].filter (fun m => decide (m ≤ brk.toNat))
    let mine : List Nat := if p.role = 2 then reachable s else (match p.farAt with | some brk => far brk | none => [])
    let readOf (ms : List Nat) : List Out := (ms.take 1).map (fun m => Out.chainRead (BitVec.ofNat 2 m))
    let balance (ms : List Nat) (mask : BitVec 24) : List Out :=
      (ms.map (fun k => Out.chainBalance (BitVec.ofNat 2 k) (BitVec.ofNat 8 (mask.toNat / 2 ^ (8 * k))))).reverse
    let takes (m : MonReply) (s' : State) : Prop :=
      s'.out = readOf (mine.dropWhile (fun k => decide (k ≠ m.mon.toNat))).tail ++ s.out ∧ frame s' ∧
      s'.pack = { p with ownOk := setBit p.ownOk m.mon.toNat true, got := p.got.map (fun l => l ++ [m]) }
    (at_ ≠ 9400 → exec .balancePause s = .next s) ∧
    (at_ = 9400 → Gives .balancePause s (fun s' => s' = { s with pack := { p with bleed := 0 }, out := balance mine 0 ++ s.out })) ∧
    (let due := (p.role = 2 ∨ p.farAt ≠ none) ∧ (if hib then s.beat.toNat % 60000000 = 0 else at_ = 0)
     (¬ due → exec .sweepLatch s = .next s) ∧
     (due → Gives .sweepLatch s (fun s' => s' = { s with
       out := readOf mine ++ .chainLatch :: s.out,
       pack := { p with
         got := some [], ownOk := 0, tries := [], slot := s.beat.toNat / 10000, farUsed := if p.role = 2 then p.farUsed else true } }))) ∧
    (∀ m : MonReply,
      (m.wf = false ∨ ¬ reads → exec (.monitorReply m) s = .next s) ∧
      (m.wf = true → m.crcOk = true → reads → p.role = 2 → Gives (.monitorReply m) s (takes m)) ∧
      (m.wf = true → m.crcOk = true → reads → p.role ≠ 2 → Gives (.monitorReply m) s (fun s' => ∃ t, takes m t ∧
        s' = sendNotice (.farValues [m]) t)) ∧
      (m.wf = true → m.crcOk = false → reads → retries (.monitorReply m) m.mon)) ∧
    (∀ ms : List MonReply,
      (p.role ≠ 2 ∨ p.farUsed = false → exec (.farSegmentValues ms) s = .next s) ∧
      (p.role = 2 → p.farUsed = true → Gives (.farSegmentValues ms) s (fun s' => s' = { s with
        pack := { p with got := p.got.map (fun l => l ++ ms.filter (fun m => m.wf && m.crcOk)) } }))) ∧
    (∀ mon : BitVec 2, (¬ reads → exec (.monitorTimeout mon) s = .next s) ∧ (reads → retries (.monitorTimeout mon) mon)) ∧
    (∀ q : FarRequest, (p.role ≠ 1 → exec (.farSegmentRequest q) s = .next s) ∧
      (p.role = 1 → Gives (.farSegmentRequest q) s (fun s' => s' = { s with
        pack := { p with farAt := some q.brk, farUsed := false, got := none }, out := balance (far q.brk) q.mask ++ s.out }))) ∧
    (at_ ≠ 2000 ∨ p.got = none → exec .sweepClose s = .next s) ∧
    (at_ = 2000 → p.got ≠ none → p.role ≠ 2 → Gives .sweepClose s (fun s' => s' = { s with
      pack := { p with got := none, farUsed := false, farAt := none } })) ∧
    (∀ ms, at_ = 2000 → p.got = some ms → p.role = 2 → Gives .sweepClose s (fun s' =>
      let has (k : Nat) : Prop := ∃ m ∈ ms, m.mon.toNat = k
      let ok := has 0 ∧ has 1 ∧ has 2
      let fresh (i : Nat) : Prop := i < 24 ∧ age i s' ≤ 3
      let low := ∃ i, fresh i ∧ (cell i s' < cellCode 7 0 s ∨ cellCode 15 8 s < cell i s')
      let hot := ∃ i : Nat, i < 6 ∧ (fld (reg (aPack 0x24) s) 15 8 * 10 : Nat) ≤ mapGet 0 s'.pack.temps i
      (∀ i : Nat, i < 24 → (has (i / 8) → age i s' = 0) ∧ (¬ has (i / 8) → age i s' = min 255 (age i s + 1))) ∧
      ((∀ m ∈ ms, m.wf = true) → ∀ i : Nat, (¬ has (i / 8) → cell i s' = cell i s) ∧
        (¬ has (i / 2) → mapGet 0 s'.pack.temps i = mapGet 0 p.temps i)) ∧
      ((∀ m ∈ ms, m.wf = true) → (ms.map (fun m => m.mon)).Nodup → ∀ m ∈ ms,
        (∀ i : Nat, i < 8 → cell (8 * m.mon.toNat + i) s' = m.cells.getD i 0) ∧
        ∀ i : Nat, i < 2 → mapGet 0 s'.pack.temps (2 * m.mon.toNat + i) = m.temps.getD i 0) ∧
      s'.pack.got = none ∧ s'.pack.brokenAt = (if p.ownOk = 7 then none else p.brokenAt) ∧
      (s'.pack.farUsed = true ↔ s'.pack.brokenAt ≠ none) ∧
      (ok → s'.pack.goodRun = p.goodRun + 1 ∧ reg (aPack 0x188) s' = reg (aPack 0x188) s) ∧
      (¬ ok → s'.pack.goodRun = 0 ∧ reg (aPack 0x188) s' = satAdd (reg (aPack 0x188) s) 1) ∧
      (low ∨ hot → regIs st 7 s' = true ∧ (regIs st 7 s = false → s'.pack.iSet = 0 ∧ s'.pack.openNext = true)) ∧
      (¬ (low ∨ hot) → regIs st 7 s' = regIs st 7 s) ∧
      (¬ ok → 3 ≤ ((false :: p.sweeps).take 16).count false → regIs st 9 s' = true) ∧
      (ok → 100 ≤ p.goodRun + 1 → regIs st 9 s' = false) ∧
      (ok → p.est.seeded = true → hib = false → 0 ≤ p.est.socRep → p.est.socRep ≤ 100 → 0 ≤ s'.pack.est.socRep ∧ s'.pack.est.socRep ≤ 100 ∧
        s'.pack.est.socRep ≤ p.est.socRep + 1 / 6000 ∧ p.est.socRep ≤ s'.pack.est.socRep + 1 / 6000) ∧
      (¬ ok → s'.pack.est = p.est) ∧
      (∃ t, t.pack = s'.pack ∧ (let u := sendBalance (reachable t) t.pack.bleed t
        s' = match t.pack.brokenAt with | some b => sendNotice (.farRequest b t.pack.bleed) u | none => u)) ∧
      (∀ i : Nat, s'.pack.bleed.getLsbD i = true → fresh i ∧ i % 2 = p.slot % 2 ∧ regIs (aPack 0x58) 8 s = true ∧ regIs st 9 s' = false ∧
        regIs st 10 s' = false ∧ ∃ j, fresh j ∧ cell j s' + 10 * fld (reg (aPack 0x58) s) 7 0 < cell i s'))) ∧
    (let due := p.role = 2 ∧ fld (reg (aPack 0x44) s) 31 16 * 3600000000 < p.est.refAge ∧ regIs st 11 s = false
     (¬ due → exec .refOverdue s = .next s) ∧
     (due → Gives .refOverdue s (fun s' => ∃ t, s' = stewardPost 20 t ∧ regIs st 11 t = true ∧ (∀ a : Nat, a ≠ st → reg a t = reg a s) ∧
       (∀ i : Nat, i ≠ 11 → regIs st i t = regIs st i s) ∧ { t with regs := s.regs, recorder := s.recorder } = s))) ∧
    (let c := Instr.caprunPhaseEnd
     let small := -100 < p.lat.iPack ∧ p.lat.iPack < 100
     (p.role ≠ 2 ∨ p.crPhase = 0 ∨ p.crPhase = 5 ∨ p.crPhase = 6 → exec c s = .next s) ∧
     (p.role = 2 → p.crPhase = 1 → small → 27000 ≤ highCell s → Gives c s (fun s' => s' = { s with
       pack := { p with crPhase := 2, crRef := false, est := { p.est with rest := 0 } } })) ∧
     (p.role = 2 → p.crPhase = 1 → ¬ (small ∧ 27000 ≤ highCell s) → exec c s = .next s) ∧
     (p.role = 2 → p.crPhase = 2 → p.crRef = true → Gives c s (fun s' => s' = { s with pack := { p with crPhase := 3, qRun := 0, crBeats := 0 } })) ∧
     (p.role = 2 → p.crPhase = 2 → p.crRef = false → exec c s = .next s) ∧
     (p.role = 2 → p.crPhase = 3 → 18000 < lowCell s → exec c s = .next s) ∧
     (p.role = 2 → p.crPhase = 3 → lowCell s ≤ 18000 → Gives c s (fun s' =>
       let cap := divR p.qRun (1 - cutPct s / 100)
       let nom := mkRat (reg (aPack 0x3C) s).toNat 1000
       let good := nom / 2 ≤ cap ∧ cap ≤ nom * 11 / 10
       s'.pack.crPhase = 4 ∧
       (good → s'.pack.est = { p.est with
           cL := (cap * 1000).floor.toNat, socInt := cutPct s, socRep := 0, err := 1, refAge := 0 } ∧
         regIs st 12 s' = false ∧ regIs st 11 s' = false ∧
         ∃ u, u.pack.est = s'.pack.est ∧ u.pack.qRun = p.qRun ∧ u.pack.crBeats = p.crBeats ∧ u.pack.temps = p.temps ∧ now u = now s ∧
           (∀ a : Nat, a ≠ st → reg a u = reg a s) ∧
           (if p.capStarted = true ∧ p.capWrite ≠ none then
              s'.pack.capNext = some (capRecord u) ∧ s'.pack.capWrite = p.capWrite ∧ s'.pack.capStarted = true
            else s'.pack.capWrite = some (capRecord u) ∧ (s.rails.writing = none → s.nvDeferred = false → s.rails.waiting = none →
              s'.pack.capStarted = true))) ∧
       (¬ good → s'.pack = { p with crPhase := 4 } ∧ s'.regs = s.regs ∧ s'.out = s.out))) ∧
     (p.role = 2 → p.crPhase = 4 → ((min 100 (packP 5 23 16 s) : Nat) : Rat) ≤ p.est.socRep → Gives c s (fun s' =>
       s' = { s with pack := { p with crPhase := 5 } })) ∧
     (p.role = 2 → p.crPhase = 4 → p.est.socRep < ((min 100 (packP 5 23 16 s) : Nat) : Rat) → exec c s = .next s)) ∧
    (p.capWrite = none ∨ p.capStarted = false → exec .capRecordWriteDone s = .next s) ∧
    (∀ bs, p.capWrite = some bs → p.capStarted = true → Gives .capRecordWriteDone s (fun s' =>
      let k := if newestSlot (flashRead (aCapSlot 0) 64 s) (flashRead (aCapSlot 1) 64 s) = some 0 then 1 else 0
      let sealed_ := capSealed bs s
      sealed_.length = 64 ∧
      (∀ a : Nat, mapGet 0xFF s'.flash a = if aCapSlot k ≤ a ∧ a < aCapSlot k + 64 then sealed_.getD (a - aCapSlot k) 0
        else if aCapSlot k ≤ a ∧ a < aCapSlot k + 4096 then 0xFF else mapGet 0xFF s.flash a) ∧
      s' = flashNext { s with flash := s'.flash, pack := { p with capWrite := p.capNext, capNext := none, capStarted := false } })) ∧
    (let due := p.role = 2 ∧ hib = false ∧ ¬ run ∧ p.lat.busform = false ∧ max 1 (fld (reg (aPack 0x54) s) 15 0) * 1000000 ≤ p.est.quiet
     (¬ due → exec .hibernate s = .next s) ∧
     (due → Gives .hibernate s (fun s' => s' = { regBit st 10 true s with
       pack := { p with bleed := 0, est := { p.est with hibAcc := 0, hibErr := 0 } }, out := balance (reachable s) 0 ++ s.out })))) ∧
  (∀ (o : Origin) (s : State), logRoom s = true → hasRight 2 o s = true → isCandidate s = true → reg (aPack 0) s = 1 → s.pack.role ≠ 0 →
    let p := s.pack
    let hib := regIs 0x13_0004 10 s
    let run := 1 ≤ p.crPhase.toNat ∧ p.crPhase.toNat ≤ 4
    let same (t : State) : Prop := (∀ a : Nat, a ≠ 0x13_0004 → reg a t = reg a s) ∧ { t with pack := p, regs := s.regs, recorder := s.recorder } = s
    let may := p.role = 2 ∧ ¬ run ∧ (∀ r ∈ countedReps s, r.jobRun = false) ∧ anyRunning s = false ∧ p.brokenAt = none ∧
      p.sweeps.head? = some true ∧ regIs 0x13_0004 9 s = false ∧ p.lat.busform = false ∧ tempsWithin 15 40 s = true
    (¬ may → Gives (.caprun o) s (Answered o (aPack 0) .error s)) ∧
    (may → Gives (.caprun o) s (fun s' => ∃ t, Accepted o (aPack 0) 0x21 s t s' ∧ same t ∧
      t.pack = { p with crPhase := 1, qRun := 0, crBeats := 0, crRef := false })) ∧
    Gives (.capabort o) s (fun s' => ∃ t, Accepted o (aPack 0) 0x41 s t s' ∧ same t ∧ { t.pack with crPhase := p.crPhase } = p ∧
      (run → t.pack.crPhase = 6) ∧ (¬ run → t.pack = p)) ∧
    Gives (.wake o) s (fun s' => ∃ t, Accepted o (aPack 0) 0x81 s t s' ∧ same t ∧ regIs 0x13_0004 10 t = false ∧ (hib = false → t.pack = p) ∧
      (hib = true → let f := divR (100 * p.est.hibAcc) (mkRat p.est.cL 1000)
        t.pack = { p with est := { p.est with
          hibAcc := 0, hibErr := 0, quiet := 0,
          socInt := clampR 0 100 (p.est.socInt - f), err := clampR 0 100 (p.est.err + divR (100 * p.est.hibErr) (mkRat p.est.cL 1000)),
          socRep := clampR 0 100 (p.est.socRep - f * divR 100 (100 - cutPct s)) } })))
/-! ### The Varnish die (R387 to R400, R450) -/

/-- O58. The Varnish die: samples add energy, saves go to the next place and sectors are erased ahead, a start resumes from the newest
valid save, service frames act only while the seal link is broken, what an event or a change announces is logged while the log has room,
a feed frame carries the register at its cut, at the edge that came or after 192 µs without one, and a query changes the reply and its
two channels alone. Without supply nothing is measured. -/
def Obligations.VarnishMeters : Prop :=
  ∀ s : State,
    let v := s.varnish
    let sets (c : Instr) (q : Varnish) : Prop := Gives c s (fun s' => s' = { s with varnish := q })
    let uJ := v.acc / 16000
    let logged (type : Byte) (payload : List Byte) (q : Varnish) : Varnish :=
      let n := BitVec.ofNat 32 q.log.length
      if 1024 ≤ q.log.length then { q with lost := satAdd q.lost 1 }
      else { q with
        flags := setBit q.flags 4 (decide (1024 ≤ q.log.length + 1)),
        log := q.log ++ [⟨n, type, BitVec.ofNat 64 (q.optime / 2), payload⟩],
        uncarried := q.uncarried ++ [n] }
    let saved (q : Varnish) : Prop :=
      let seq := match newestSave s with | some e => e.2.seq + 1 | none => 0
      (∀ k : Nat, mapGet saveNone q.saves k = if k = v.place then ⟨seq, uJ, v.optime / 2, true⟩ else mapGet saveNone v.saves k) ∧
      { q with saves := v.saves } = { v with place := (v.place + 1) % 8192, flags := setBit v.flags 6 false }
    let sealed := v.flags.getLsbD 0 = false
    let refused (c : Instr) : Prop := Gives c s (fun s' => s' = { s with out := .serviceReply false :: s.out })
    let full := 1024 < v.log.length + 2
    let version := (v.sw.getD Config.varnishSoftware).1
    (v.supply = false → (∀ mV mA, exec (.varnishSample mV mA) s = .next s) ∧ exec .vmarkCut s = .next s ∧ exec .freeCut s = .next s ∧
      exec .varnishSave s = .next s ∧ exec .varnishSupplyWarn s = .next s ∧ exec .sectorErase s = .next s ∧
      (∀ b, exec (.sealTest b) s = .next s) ∧ (∀ b n, exec (.selfCheck b n) s = .next s)) ∧
    (v.supply = false ∨ sealed → (∀ i x t, exec (.setParam i x t) s = .next s) ∧ (∀ i d, exec (.swBlock i d) s = .next s) ∧
      (∀ n h w t, exec (.swCommit n h w t) s = .next s)) ∧
    (v.supply = true → ∀ mV mA : Int, sets (.varnishSample mV mA) { v with
      optime := v.optime + 125, vSum := v.vSum + mV, iSum := v.iSum + mA, samples := v.samples + 1,
      acc := if mA < 0 ∨ v.flags.getLsbD 5 = true then v.acc else v.acc + (mV * mA).toNat,
      flags := if mA < 0 then setBit v.flags 2 true
               else if mA < 200 ∨ 60000 < mA ∨ mV < 40000 ∨ 60000 < mV then setBit v.flags 1 true else v.flags }) ∧
    (v.supply = true →
      let last := match newestSave s with | some e => e.2.optime | none => 0
      (v.optime / 2 / 60000000 ≤ last / 60000000 → exec .varnishSave s = .next s) ∧
      (last / 60000000 < v.optime / 2 / 60000000 → Gives .varnishSave s (fun s' => saved s'.varnish ∧ { s' with varnish := v } = s)) ∧
      Gives .varnishSupplyWarn s (fun s' => ∃ q, saved q ∧ s'.varnish = logged 0x02 (leBytes 8 uJ) q ∧ { s' with varnish := v } = s)) ∧
    (∀ e, newestSave s = some e → e ∈ v.saves ∧ e.2.ok = true) ∧
    (v.supply = true →
      let empty (k : Nat) : Prop := ∀ e ∈ v.saves, e.1 / 128 ≠ k % 64
      let n := v.place / 128
      (empty (n + 1) → empty (n + 2) → exec .sectorErase s = .next s) ∧
      (∀ k : Nat, (¬ empty (n + 1) ∧ k = (n + 1) % 64) ∨ (empty (n + 1) ∧ ¬ empty (n + 2) ∧ k = (n + 2) % 64) →
        Gives .sectorErase s (fun s' => { s' with varnish := v } = s ∧ { s'.varnish with saves := v.saves } = v ∧
          (∀ i : Nat, mapGet saveNone s'.varnish.saves i = if i / 128 = k then saveNone else mapGet saveNone v.saves i)))) ∧
    (∀ cause : Byte,
      let place := match newestSave s with | some e => (e.1 + 1) % 8192 | none => 0
      let there := mapGet saveNone v.saves place
      let torn := decide (there ≠ saveNone ∧ there.ok = false)
      let sw := match v.swNext with | some x => some x | none => v.sw
      let cum := match newestSave s with | some e => e.2.cum | none => 0
      let up := (match newestSave s with | some e => e.2.optime | none => 0) * 2
      sets (.varnishStart cause) (logged 0x01 ([cause] ++ leBytes 8 cum ++ (digestBytes (sw.getD Config.varnishSoftware).2).take 8) { v with
        supply := true, acc := cum * 16000, optime := up, marked := false, markAt := up, cutAt := up,
        vSum := 0, iSum := 0, samples := 0, fseq := 0, starts := v.starts + 1, place := if torn then (place + 1) % 8192 else place,
        flags := setBit (setBit (setBit (setBit v.flags 1 false) 2 false) 3 false) 6 torn,
        checkStart := true, sealBad := 0, sealGood := 0, cycle := 0, sw := sw, swNext := none, reply := none, part := [] })) ∧
    (v.supply = true →
      let cut (c : Instr) (free : Bool) : Prop := Gives c s (fun s' => ∃ f : List Byte,
        let flags := setBit v.flags 3 free
        s'.out = .feed f :: s.out ∧ f.length = 128 ∧ crcGood f = true ∧ frameNat 0 4 f = v.fseq.toNat ∧ frameNat 4 8 f = uJ % 2 ^ 64 ∧
        (v.samples ≠ 0 → (v.samples : Int) ∣ v.vSum → BitVec.ofNat 32 (frameNat 12 4 f) = BitVec.ofInt 32 (v.vSum / (v.samples : Int))) ∧
        (v.samples ≠ 0 → (v.samples : Int) ∣ v.iSum → BitVec.ofNat 32 (frameNat 16 4 f) = BitVec.ofInt 32 (v.iSum / (v.samples : Int))) ∧
        frameNat 20 4 f = flags.toNat ∧ frameNat 24 4 f = v.log.length % 2 ^ 32 ∧ frameNat 28 4 f = v.lost.toNat ∧
        frameNat 32 8 f = Config.varnishSerial.toNat ∧ frameNat 40 4 f = v.starts.toNat ∧ frameNat 48 8 f = v.optime / 2 % 2 ^ 64 ∧
        frameNat 56 4 f = version.toNat ∧
        (v.log = [] → v.uncarried = [] → frameNat 44 4 f = 0xFFFFFFFF) ∧
        (∀ x rest, v.uncarried = x.seq :: rest → legalAt x.seq.toNat s = some x → x.payload.length ≤ 36 → frameNat 44 4 f = x.seq.toNat ∧
          (f.drop 64).take (legalBytes x).length = legalBytes x ∧ s'.varnish.uncarried = rest) ∧
        { s'.varnish with uncarried := v.uncarried, cycle := v.cycle } = { v with
          vSum := 0, iSum := 0, samples := 0, fseq := v.fseq + 1, marked := false, cutAt := v.optime,
          flags := setBit (setBit flags 1 false) 2 false } ∧
        { s' with varnish := v, out := s.out, free := s.free } = s)
      (v.marked = true → cut .vmarkCut false) ∧ (v.marked = false → exec .vmarkCut s = .next s) ∧
      (let due := v.marked = false ∧ v.markAt + 384 < v.optime + 125 ∧ v.cutAt + 128 < v.optime + 125
       (due → cut .freeCut true) ∧ (¬ due → exec .freeCut s = .next s))) ∧
    (v.supply = true →
      let bad := { v with sealBad := v.sealBad + 1, sealGood := 0 }
      let good := { v with sealBad := 0, sealGood := v.sealGood + 1 }
      sets (.sealTest false) (if sealed ∧ 3 ≤ v.sealBad + 1 then logged 0x03 [] { bad with flags := setBit v.flags 0 true, sealChanges := 0 } else bad) ∧
      sets (.sealTest true) (if ¬ sealed ∧ 100 ≤ v.sealGood + 1
        then logged 0x04 (leBytes 2 v.sealChanges) { good with flags := setBit v.flags 0 false } else good)) ∧
    (v.supply = true → ¬ sealed →
      let changed (t : Varnish) (q : Varnish) : Prop := q.changes = satAdd v.changes 1 ∧ q.sealChanges = v.sealChanges + 1 ∧
        { q with changes := v.changes, sealChanges := v.sealChanges } = t
      (∀ (i : Byte) (x : BitVec 32) (tool : BitVec 64), let c := Instr.setParam i x tool
        (full ∨ i.toNat < 1 ∨ 6 < i.toNat → refused c) ∧
        (¬ full → 1 ≤ i.toNat → i.toNat ≤ 6 → Gives c s (fun s' => { s' with varnish := v } = s ∧
          (∀ k : Nat, vParam k s' = if k = i.toNat then x else vParam k s) ∧
          changed (logged 0x05 ([i] ++ leBytes 4 (vParam i.toNat s).toNat ++ leBytes 4 x.toNat ++ leBytes 8 tool.toNat) v)
            { s'.varnish with params := v.params }))) ∧
      (∀ (i : BitVec 16) (data : List Byte), data.length = 256 → Gives (.swBlock i data) s (fun s' => { s' with varnish := v } = s ∧
        { s'.varnish with image := v.image } = v ∧ ∀ a : Nat, mapGet 0 s'.varnish.image a =
          if 256 * i.toNat ≤ a ∧ a < 256 * i.toNat + 256 then data.getD (a - 256 * i.toNat) 0 else mapGet 0 v.image a)) ∧
      (∀ (n : BitVec 32) (h : BitVec 256) (w : BitVec 16) (tool : BitVec 64), let c := Instr.swCommit n h w tool
        let right := sha3 ((List.range n.toNat).map (mapGet 0 v.image)) = h
        (full ∨ ¬ right → refused c) ∧
        (¬ full → right → Gives c s (fun s' => { s' with varnish := v } = s ∧ s'.varnish.swNext = some (w, h) ∧
          changed (logged 0x06 (leBytes 2 version.toNat ++ leBytes 2 w.toNat ++ (digestBytes h).take 16) v)
            { s'.varnish with swNext := v.swNext })))) ∧
    (v.supply = true → ∀ code : BitVec 16,
      let t := { v with checkStart := false }
      sets (.selfCheck true code) (if v.checkStart then { t with flags := setBit v.flags 5 false } else t) ∧
      sets (.selfCheck false code) (if v.flags.getLsbD 5 = true then t
        else logged 0x07 (leBytes 2 code.toNat) { t with flags := setBit v.flags 5 true })) ∧
    (let m := (mbxAt 14 s).msg
     let m0 := (m.getD 0 0).toNat
     let waiting := v.supply = true ∧ v.reply = none ∧ (mbxAt 14 s).full = true
     let head (status : Nat) : BitVec 32 := BitVec.ofNat 32 (m0 / 65536 * 65536 + status * 256 + m0 % 256)
     let posted (r : List (BitVec 32)) (s' : State) : Prop :=
       (∀ k : Nat, mbxAt k s' = if k = 15 then { mbxAt 15 s with msg := r, origin := 0x6000, stamp := now s, full := true, lock := true }
         else if k = 14 then { mbxAt 14 s with msg := [], full := false } else mbxAt k s) ∧
       reg 0x3_1050 s' = setBit (reg 0x3_1050 s) 15 true ∧
       ((regIs 0x3_1050 15 s = true ∨ regIs 0x3_1054 15 s = false) → (∀ a : Nat, a ≠ 0x3_1050 → reg a s' = reg a s) ∧
         { s' with mbox := s.mbox, regs := s.regs, varnish := v, free := s.free } = s)
     let replies (c : Instr) (status : Nat) (body : List (BitVec 32)) : Prop :=
       let r := head status :: body ++ List.replicate (7 - body.length) 0
       ((mbxAt 15 s).full = false → Gives c s (fun s' => posted r s' ∧ s'.varnish = { v with reply := none })) ∧
       ((mbxAt 15 s).full = true → sets c { v with reply := some r, replySince := s.tick, retryAt := s.tick })
     let words (x : Nat) : List (BitVec 32) := [BitVec.ofNat 32 x, BitVec.ofNat 32 (x / 2 ^ 32)]
     (∀ temp : BitVec 32, ∀ e ∈ [(1, Instr.queryStatus temp), (2, .queryRecord), (3, .queryIdent), (4, .queryParams), (5, .queryAttest)],
       (¬ waiting → exec e.2 s = .next s) ∧
       (waiting → 2 ^ 31 ≤ m0 → replies e.2 2 []) ∧
       (waiting → m0 < 2 ^ 31 → m0 % 256 ≠ e.1 → m0 % 256 = 0 ∨ 5 < m0 % 256 → replies e.2 1 []) ∧
       (waiting → m0 < 2 ^ 31 → m0 % 256 ≠ e.1 → 1 ≤ m0 % 256 → m0 % 256 ≤ 5 → exec e.2 s = .next s)) ∧
     (waiting → m0 < 2 ^ 31 →
       (m0 % 256 = 1 → ∀ temp : BitVec 32, replies (.queryStatus temp) 0 (words uJ ++ words (uJ / 3600000) ++ words (v.optime / 2) ++
         [BitVec.ofNat 32 v.log.length, v.lost, v.starts, v.flags, temp])) ∧
       (m0 % 256 = 2 → ∀ x, legalAt (m.getD 1 0).toNat s = some x → replies .queryRecord 0 (wordsOf 14 (padTo 56 (legalBytes x)))) ∧
       (m0 % 256 = 2 → legalAt (m.getD 1 0).toNat s = none → replies .queryRecord 2 []) ∧
       (m0 % 256 = 3 → replies .queryIdent 0 ([0x2D4E5256, 0x4C, version.setWidth 32] ++
         wordsOf 8 (digestBytes (v.sw.getD Config.varnishSoftware).2) ++ words Config.varnishSerial.toNat)) ∧
       (m0 % 256 = 4 → replies .queryParams 0 ([1, 2, 3, 4, 5, 6].map (fun i => vParam i s) ++ [v.changes])) ∧
       (m0 % 256 = 5 →
         let a := (m.getD 1 0).toNat % 65536
         let part (k : Nat) (bs : List Byte) : List (BitVec 32) := wordsOf 15 (padTo 60 ((bs.drop (60 * (k - 1))).take 60))
         (a = 0 → (mbxAt 15 s).full = false → Gives .queryAttest s (fun s' => posted [head 0, 2564, 0, 0, 0, 0, 0, 0] s' ∧
           s'.varnish.part.length = 2564 ∧ (s'.varnish.part.drop 4).take 32 = padTo 32 (((m.drop 2).take 8).flatMap (fun w => leBytes 4 w.toNat)) ∧
           frameNat 44 8 s'.varnish.part = uJ % 2 ^ 64 ∧ { s'.varnish with part := v.part } = { v with reply := none })) ∧
         (1 ≤ a → a ≤ 43 → replies .queryAttest 0 (part a v.part)) ∧
         (0x8001 ≤ a → a ≤ 0x803F → replies .queryAttest 0 (part (a - 0x8000) Config.varnishCertificate)) ∧
         ((44 ≤ a ∧ a ≤ 0x8000) ∨ 0x8040 ≤ a → replies .queryAttest 2 []))) ∧
     (v.reply = none → exec .replyRetry s = .next s ∧ exec .replyDrop s = .next s) ∧
     (∀ r, v.reply = some r →
       (s.tick < v.retryAt + 100 → exec .replyRetry s = .next s) ∧
       (v.retryAt + 100 ≤ s.tick → (mbxAt 15 s).full = false → Gives .replyRetry s (fun s' => posted r s' ∧ s'.varnish = { v with reply := none })) ∧
       (v.retryAt + 100 ≤ s.tick → (mbxAt 15 s).full = true → sets .replyRetry { v with retryAt := s.tick }) ∧
       (s.tick < v.replySince + 10000 → exec .replyDrop s = .next s) ∧
       (v.replySince + 10000 ≤ s.tick → Gives .replyDrop s (fun s' => s'.varnish = { v with reply := none } ∧
         (∀ k : Nat, mbxAt k s' = if k = 14 then { mbxAt 14 s with msg := [], full := false } else mbxAt k s) ∧
         { s' with varnish := v, mbox := s.mbox } = s))))
/-! ### Attribution, the service recorder and the change log (R393, R394, R401 to R405, R410 to R421) -/

/-- O59. A reconciliation gives out exactly the energy that was metered, the leftover microjoules to the largest remainders; frames are
accepted once at one beat in 64, anomalies credit nothing, a clear moves one account; the recorder commits the oldest report in either
mode, the change log the oldest entry, and a clear leaves one record or entry that says what was discarded. -/
def Obligations.AttributionAndRecorders : Prop :=
  (∀ (e : Nat) (ws : List (Nat × Nat)), (ws.map (·.1)).Nodup → acctIdle ∈ ws.map (·.1) →
    let wt := (ws.map (·.2)).sum
    let sh := sharesOf e ws
    sh.map (·.1) = ws.map (·.1) ∧ (sh.map (·.2)).sum = e ∧
    (wt = 0 → ∀ x ∈ sh, x.2 = if x.1 = acctIdle then e else 0) ∧
    (wt ≠ 0 → ∀ x ∈ sh, ∀ w : Nat, (x.1, w) ∈ ws → x.2 = e * w / wt ∨ (x.2 = e * w / wt + 1 ∧ e * w % wt ≠ 0 ∧
      ∀ y ∈ sh, ∀ u : Nat, (y.1, u) ∈ ws → y.2 = e * u / wt → e * u % wt < e * w % wt ∨ (e * u % wt = e * w % wt ∧ x.1 < y.1)))) ∧
  (∀ s : State,
    let a := s.attr
    let aDis := 0x40_8910
    let aErr := 0x14_0088
    let st := 0x40_8904
    let due := s.beat.toNat % 64 = 32 ∧ a.pointAt ≠ some s.tick
    let at_ := some s.tick
    let quiet (s' : State) : Prop :=
      { s' with attr := a, regs := s.regs, recorder := s.recorder, evs := s.evs, evsLost := s.evsLost } = s
    let engine (q : Attr) : Prop := { q with
      acct := a.acct, metered := a.metered, cleared := a.cleared, lastCleared := a.lastCleared, closed := a.closed, cumLast := a.cumLast,
      serial := a.serial, clear := a.clear, frame := a.frame, feed := a.feed, seq := a.seq, acceptAt := a.acceptAt, missed := a.missed,
      mirror := a.mirror, pointAt := a.pointAt } = a
    (∀ f : List Byte, Gives (.feedFrame f) s (fun s' => s' = { s with attr := { a with frame := some f } })) ∧
    (¬ due → exec .feedAccept s = .next s) ∧
    (due → a.frame = none → Gives .feedAccept s (fun s' => s' = { s with attr := { a with pointAt := at_, missed := a.missed + 1 } })) ∧
    (∀ f, due → a.frame = some f → ¬ (f.length = 128 ∧ crcGood f = true) → Gives .feedAccept s (fun s' =>
      s'.attr = { a with frame := none, pointAt := at_, missed := a.missed + 1 } ∧ (∀ k : Nat, reg k s' = if k = aErr then satAdd (reg k s) 1 else reg k s) ∧
      { s' with attr := a, regs := s.regs } = s)) ∧
    (∀ f, due → a.frame = some f → f.length = 128 → crcGood f = true → Gives .feedAccept s (fun s' =>
      let q := s'.attr
      let cum := frameNat 4 8 f
      let serial := BitVec.ofNat 64 (frameNat 32 8 f)
      let ws := (List.range 274).map (fun i => (i, weightOf i s))
      let jump (last : Nat) : Prop := cum < last ∨ serial ≠ a.serial
      let share (i : Nat) : Nat := match a.cumLast with
        | some last => if cum < last ∨ serial ≠ a.serial then 0 else mapGet 0 (sharesOf (cum - last) ws) i
        | none => 0
      let after (i : Nat) : Nat := if share i = 0 then mapGet 0 a.acct i else (mapGet 0 a.acct i + share i) % 2 ^ 64
      engine q ∧ quiet s' ∧ q.feed = f ∧ q.seq.toNat = frameNat 0 4 f ∧ q.acceptAt = s.tick ∧ q.pointAt = at_ ∧ q.missed = 0 ∧ q.frame = none ∧
      q.cumLast = some cum ∧ q.serial = serial ∧ regIs st 0 s' = false ∧
      ((∀ i, a.clear = some i → i < 274) → ∀ i : Nat, i < 274 → mapGet 0 a.acct i < 2 ^ 64 →
        mapGet 0 q.acct i = if a.clear = some i then 0 else after i) ∧
      (∀ last, a.cumLast = some last → ¬ jump last → q.metered = (a.metered + (cum - last)) % 2 ^ 64 ∧ q.closed = [] ∧
        (∀ k : Nat, k ≠ 0x14_0080 → k ≠ st → reg k s' = reg k s)) ∧
      (∀ last, a.cumLast = some last → jump last → q.metered = a.metered ∧ q.closed = [] ∧ regIs st 1 s' = true ∧
        reg aDis s' = satAdd (reg aDis s) 1) ∧
      (a.cumLast = none → q.metered = a.metered ∧ q.closed = a.closed ∧ reg aDis s' = reg aDis s) ∧
      (a.clear = none → q.clear = none ∧ q.cleared = a.cleared ∧ q.lastCleared = a.lastCleared) ∧
      (∀ i, a.clear = some i → i < 274 → mapGet 0 a.acct i < 2 ^ 64 →
        q.clear = none ∧ q.lastCleared = after i ∧ q.cleared = (a.cleared + after i) % 2 ^ 64) ∧
      (let n := frameNat 44 4 f
       let len := 4 * (f.getD 68 0).toNat
       let bs := (f.drop 64).take len
       let good := n < 1024 ∧ 12 ≤ len ∧ len ≤ 56 ∧ crcGood bs = true
       let old := mapGet [] a.mirror n
       let now' : StreamRec := ⟨now s, pkgId s, 0x02, BitVec.ofNat 8 (syncState s), BitVec.ofNat 32 n⟩
       (∀ i : Nat, mapGet [] q.mirror i = if good ∧ i = n then bs else mapGet [] a.mirror i) ∧
       (good → old = [] → s.evs.length < 4096 → s'.evs = s.evs ++ [now']) ∧ (¬ good ∨ old ≠ [] → s'.evs = s.evs ∧ s'.evsLost = s.evsLost) ∧
       (good → old ≠ [] → old ≠ bs → regIs 0x14_0080 2 s' = true) ∧
       (¬ good ∨ old = [] ∨ old = bs → reg 0x14_0080 s' = reg 0x14_0080 s)))) ∧
    (a.missed < 3 → exec .feedStale s = .next s) ∧
    (3 ≤ a.missed → Gives .feedStale s (fun s' => regIs st 0 s' = true ∧ (∀ k : Nat, k ≠ st → reg k s' = reg k s) ∧
      { s' with regs := s.regs, recorder := s.recorder } = s)) ∧
    (let above := a.frozen.isSome = true ∧ a.frozenAt + 10000 ≤ s.tick
     (¬ above → exec .freezeTimeout s = .next s) ∧
     (above → Gives .freezeTimeout s (fun s' => s'.attr = { a with frozen := none } ∧ regIs 0x40_8900 0 s' = false ∧
       (∀ k : Nat, k ≠ 0x40_8900 → reg k s' = reg k s) ∧ { s' with attr := a, regs := s.regs, recorder := s.recorder } = s ∧
       (s.recorder.intake.length < 64 → ∃ x, s'.recorder.intake = s.recorder.intake ++ [x] ∧ x.type = 0xA0 ∧ x.payload = [64] ∧ x.stamp = now s)))) ∧
    (∀ i : Nat, mapGet 0 (viewAcct s) i = match a.frozen with | some v => mapGet 0 v.1 i | none => mapGet 0 a.acct i)) ∧
  (∀ (o : Origin) (s : State), logRoom s = true →
    let a := s.attr
    (∀ v : BitVec 32, hasRight 2 o s = true →
      let i := v.toNat % 512
      let go := v.getLsbD 31 = true
      (go → (a.clear.isSome = true ∨ 273 < i) → Gives (.attrClear o v) s (Answered o 0x40_890C .error s)) ∧
      (go → a.clear = none → i ≤ 273 → Gives (.attrClear o v) s (Accepted o 0x40_890C v s { s with attr := { a with clear := some i } })) ∧
      (¬ go → Gives (.attrClear o v) s (Accepted o 0x40_890C v s s))) ∧
    (∀ on : Bool, hasRight 1 o s = true → hasRight 2 o s = true → Gives (.freeze o on) s (fun s' => ∃ t,
      Accepted o 0x40_8900 (setBit (reg 0x40_8900 s) 0 on) s t s' ∧ regIs 0x40_8900 0 t = on ∧
      (∀ k : Nat, k ≠ 0x40_8900 → reg k t = reg k s) ∧ { t with regs := s.regs, attr := a } = s ∧
      t.attr = if on = false then { a with frozen := none } else if a.frozen.isSome = true then a
        else { a with frozen := some (a.acct, a.seq, a.feed), frozenAt := s.tick })) ∧
    (∀ mode : Bool, hasRight 2 o s = true →
      let r := s.recorder
      let gone := if histMode s then min 0x7FFFFFFF (r.hist.foldl (fun n e => n + e.2.count.toNat) 0) else r.recs.length
      let first : Report := ⟨now s, 0x02, o, BitVec.ofNat 32 gone, [BitVec.ofNat 8 (if mode then 1 else 0)], markNow s⟩
      Gives (.recClear o mode) s (fun s' => ∃ t, Accepted o 0x5_0000 (if mode then 0x80000001 else 0x80000000) s t s' ∧ histMode t = mode ∧
        (∀ k : Nat, k ≠ 0x5_0000 → reg k t = reg k s) ∧
        { t.recorder with recs := r.recs, hist := r.hist, fill := r.fill } =
          { r with firstSeq := r.nextSeq, nextSeq := r.nextSeq + 1, full := false, pendLost := 0 } ∧
        (mode = false → t.recorder.recs = [(r.nextSeq, first)] ∧ t.recorder.hist = [] ∧ t.recorder.fill = 20) ∧
        (mode = true → t.recorder.recs = [] ∧ ∀ k : Nat, mapGet Hist.zero t.recorder.hist k =
          if k = 2 then ⟨1, r.nextSeq, BitVec.ofNat 32 gone, BitVec.ofNat 32 gone⟩ else Hist.zero) ∧
        { t with recorder := r, regs := s.regs, evs := s.evs, evsLost := s.evsLost } = s)) ∧
    (isS0 o s = true →
      let l := s.changes
      Gives (.logClear o) s (fun s' => ∃ t, Answered o 0x4_0000 (.ok 0) t s' ∧
        t.changes = { l with
          entries := [(l.nextSeq, ⟨o, 6, now s, 0x4_0000, 0, BitVec.ofNat 64 l.entries.length, 0, markNow s⟩)],
          firstSeq := l.nextSeq, nextSeq := l.nextSeq + 1 } ∧
        { t with changes := l, recorder := s.recorder, evs := s.evs, evsLost := s.evsLost } = s ∧
        (l.entries.length < 6144 → t.recorder = s.recorder)))) ∧
  (∀ s : State,
    let r := s.recorder
    let l := s.changes
    let posted (src : Byte) (seq : BitVec 32) (stamp : BitVec 64) (m : Mark) (s' : State) : Prop :=
      (s.evs.length < 4096 → s'.evs = s.evs ++ [⟨stamp, m.pkg, src, m.st, seq⟩] ∧ s'.evsLost = s.evsLost) ∧
      (4096 ≤ s.evs.length → s'.evs = s.evs ∧ s'.evsLost = s.evsLost + 1)
    (r.intake = [] → exec .recordCommit s = .next s) ∧
    (∀ x rest, r.intake = x :: rest →
      let q : Recorder := { r with
        intake := if r.pendLost = 0 then rest
          else rest ++ [⟨r.pendStamp, 0x01, 0x4000, sat32 r.pendLost, leBytes 8 r.pendStamp.toNat, r.pendMark⟩],
        pendLost := 0 }
      let size := 4 * ((19 + x.payload.length) / 4)
      let stamp := if x.type = 0x01 then now s else x.stamp
      let mark := if x.type = 0x01 then ⟨pkgId s, BitVec.ofNat 8 (syncState s)⟩ else x.mark
      (histMode s = true → Gives .recordCommit s (fun s' =>
        { s'.recorder with hist := r.hist } = { q with nextSeq := r.nextSeq + 1 } ∧
        (∀ k : Nat, mapGet Hist.zero s'.recorder.hist k = let h := mapGet Hist.zero r.hist k
          if k ≠ x.type.toNat then h else if h.count = 0 then ⟨1, r.nextSeq, x.key, x.key⟩
          else ⟨satAdd h.count 1, r.nextSeq, if h.min.sle x.key then h.min else x.key, if x.key.sle h.max then h.max else x.key⟩) ∧
        posted 0x01 r.nextSeq stamp mark s' ∧ { s' with recorder := r, evs := s.evs, evsLost := s.evsLost } = s)) ∧
      (histMode s = false → r.full = false → r.fill + size ≤ 262144 → Gives .recordCommit s (fun s' =>
        s'.recorder = { q with nextSeq := r.nextSeq + 1, fill := r.fill + size, recs := r.recs ++ [(r.nextSeq, x)] } ∧
        posted 0x01 r.nextSeq stamp mark s' ∧ { s' with recorder := r, evs := s.evs, evsLost := s.evsLost } = s)) ∧
      (histMode s = false → (r.full = true ∨ 262144 < r.fill + size) → Gives .recordCommit s (fun s' =>
        s' = { s with recorder := { q with full := true, lost := satAdd r.lost 1 } }))) ∧
    (l.intake = [] → exec .changeLogCommit s = .next s) ∧
    (∀ c rest, l.intake = c :: rest →
      let n := l.entries.length
      (8192 ≤ n → Gives .changeLogCommit s (fun s' => s' = { s with changes := { l with intake := rest, lost := satAdd l.lost 1 } })) ∧
      (n < 8192 → Gives .changeLogCommit s (fun s' =>
        s'.changes = { l with intake := rest, entries := l.entries ++ [(l.nextSeq, c)], nextSeq := l.nextSeq + 1 } ∧
        posted 0x03 l.nextSeq c.stamp c.mark s' ∧
        { s' with changes := l, recorder := r, evs := s.evs, evsLost := s.evsLost } = s ∧
        (n + 1 ≠ 6144 → n + 1 ≠ 8192 → s'.recorder = r) ∧
        (n + 1 = 6144 ∨ n + 1 = 8192 → r.intake.length < 64 → ∃ x, s'.recorder.intake = r.intake ++ [x] ∧ x.type = 0xA8 ∧
          x.payload = [if n + 1 = 6144 then 1 else 0])))))
/-! ### Reset, boot and attestation (R425 to R455) -/

/-- O60. A cold reset keeps the cause registers, Varnish and the flash; a warm reset clears the tiles, sessions, queues and mailboxes and
keeps the windows, the flash, the rails and the energy accounts; a Steward reset empties its channels. A flash write that a cold reset
interrupts leaves its slot erased. Blocks leave reset by clock and supply; option loading, the boot sources and the measurement slots
follow their rules, and a report carries what the package measured. -/
def Obligations.ResetBootAttestation : Prop :=
  (∀ s : State,
    let r := s.rst
    let z := State.reset
    let stuck (x : Straps) : Bool := x.role == 3 || (x.role == 2 && decide (2 ≤ x.slot.toNat))
    let odd (x : Straps) : Bool := x.bootsrc == 3 || x.clkmode == 3 || x.role == 3 || x.packcand == 3 ||
      ((x.role == 1 || x.role == 2) && (x.packcand == 1 || x.packcand == 2)) || (x.role == 2 && decide (2 ≤ x.slot.toNat))
    let counted := if r.count = 255 then 255 else r.count + 1
    let fired (src : Nat) : BitVec 11 := if r.phase = 1 then r.sticky else setBit r.sticky src true
    let capWrites := s.pack.capStarted = true ∧ s.pack.capWrite ≠ none
    let other (k n : Nat) : Nat := if newestSlot (flashRead k n s) (flashRead (k + 0x1000) n s) = some 0 then k + 0x1000 else k
    let torn (i : Nat) : Prop :=
      (s.rails.writing ≠ none ∧ other 0x3FF_E000 256 ≤ i ∧ i < other 0x3FF_E000 256 + 4096) ∨
      (capWrites ∧ other 0x3FF_C000 64 ≤ i ∧ i < other 0x3FF_C000 64 + 4096)
    let fresh (st : Straps) (x : Rst) (s' : State) : Prop := s'.rst = { x with conflict := odd st, safe := stuck st } ∧
      { s' with loop := z.loop, rst := z.rst, pending := z.pending, free := z.free, out := z.out, flash := z.flash, varnish := z.varnish } = z ∧
      (∀ i : Nat, mapGet 0xFF s'.flash i = if torn i then 0xFF else mapGet 0xFF s.flash i) ∧
      (s.rails.writing = none → ¬ capWrites → s'.flash = s.flash) ∧
      s'.varnish = { s.varnish with replySince := 0, retryAt := 0 } ∧ s'.pending = s.pending ∧ s'.free = s.free ∧
      (isModule s' = true → s'.loop = z.loop) ∧ (isModule s' = false → palAct 0 s' = 8 ∧ palInact 0 s' = 8 ∧ palFix 0 s' = 8)
    let cold (src : Nat) (st : Straps) (ok : Bool) (s' : State) : Prop := fresh st { Rst.powerOn st with
      last := BitVec.ofNat 5 src, kind := 0, count := counted, sticky := fired src, vauxOk := ok, loading := ok } s'
    let same (st : Straps) : Prop := st.role = r.straps.role ∧ st.packcand = r.straps.packcand ∧ st.slot = r.straps.slot ∧
      st.clkmode = r.straps.clkmode
    let stewardUp := r.released.getLsbD 1 = true
    let inCold := r.starting = true ∧ r.kind = 0
    let inWider := r.starting = true ∧ r.kind.toNat < 2
    let acts (src kind : Nat) (s' : State) : Prop := s'.rst.last = BitVec.ofNat 5 src ∧ s'.rst.kind = BitVec.ofNat 2 kind ∧
      s'.rst.count = counted ∧ s'.rst.sticky = fired src ∧ s'.rst.phase = 0 ∧ s'.rst.starting = true ∧ s'.rst.steward = false ∧ s'.rst.bootRuns = false ∧
      s'.goWaits = [] ∧ s'.pkgSet = (s.pkgSet && !isCard s) ∧
      s'.rst.released.getLsbD 1 = false ∧ s'.att.lock = false ∧
      (∀ k : Nat, mapGet 0 s'.att.ms k = if k ∈ [3, 5, 6, 7] then 0 else mapGet 0 s.att.ms k)
    let warm (src : Nat) (st : Straps) (s' : State) : Prop := acts src 1 s' ∧ s'.rst.straps = st ∧ s'.rst.pins = st ∧ s'.rst.released.getLsbD 3 = false ∧
      (∀ u : Nat, tileAt u s' = { Tile.zero with part := (tileAt u s).part, assigned := (tileAt u s).assigned }) ∧
      s'.scratch = [] ∧ s'.scratchErr = [] ∧ s'.window = s.window ∧ s'.flash = s.flash ∧ s'.varnish = s.varnish ∧ s'.rails = s.rails ∧
      s'.attr.acct = s.attr.acct ∧ s'.attr.metered = s.attr.metered ∧ s'.attr.cleared = s.attr.cleared ∧
      (∀ n : Nat, (sesAt n s').isOpen = false) ∧ (∀ q : Nat, (queueAt q s').posted = [] ∧ (queueAt q s').running = none) ∧
      (∀ c : Nat, (mbxAt c s').full = false ∧ (28 ≤ c → c < 32 → (mbxAt c s').compat = r.optCompat.getLsbD (c - 28))) ∧
      (∀ b : Nat, b < 6 → reg (0x3_1000 + 16 * b) s' = 0 ∧ reg (0x3_1004 + 16 * b) s' = 0) ∧
      s'.gov.halt.getLsbD 5 = true ∧ s'.gov.admitted = 0 ∧ (∀ j ∈ s.jobs, partsOfJob j.num s ≠ [] → jobStopped j.num s' = true) ∧
      (s.jobs = [] → s'.vault = s.vault ∧ s'.vaultErr = s.vaultErr) ∧
      (s.sync.pendingStep = none → s'.beat = s.beat ∧ s'.tick = s.tick ∧ (s.jobs = [] → s.recorder.intake.length < 64 →
        ∃ x ∈ s'.recorder.intake, x.type = 0xB0 ∧ x.key = causeReg s' ∧ x.stamp = now s'))
    let steward (src : Nat) (s' : State) : Prop := acts src 2 s' ∧
      (∀ c : Nat, mbxAt c s' = if c < 8 ∨ (24 ≤ c ∧ c < 32) then { mbxAt c s with msg := [], full := false } else mbxAt c s) ∧
      { s'.rst with
          sticky := r.sticky, last := r.last, kind := r.kind, count := r.count, phase := r.phase, released := r.released,
          bootRuns := r.bootRuns, steward := r.steward, bootFail := r.bootFail, imgStarted := r.imgStarted, img := r.img,
          starting := r.starting } = r ∧
      (s.sync.pendingStep = none →
        { s' with
          rst := r, mbox := s.mbox, att := s.att, recorder := s.recorder, out := s.out, changes := s.changes, goWaits := s.goWaits,
          pkgSet := s.pkgSet } = s)
    let turned (st : Straps) (s' : State) : Prop := s'.rst.straps = st ∧ s'.rst.kind = 0 ∧ s'.rst.last = 5 ∧ s'.rst.released = 0 ∧
      s'.tile = [] ∧ s'.vault = []
    (∀ st : Straps, Gives (.vauxPowerOn st) s (fun s' => fresh st (Rst.powerOn st) s' ∧ s'.out = s.out) ∧
      Gives (.vauxReset st) s (fun s' => cold 1 st false s' ∧ s'.out = s.out) ∧
      Gives (.resetN st) s (fun s' => cold 2 st r.vauxOk s' ∧ s'.out = s.out) ∧
      (r.clkGood.getLsbD 0 = true → Gives (.quietClockLost st) s (fun s' => cold 3 st r.vauxOk s' ∧ s'.out = s.out)) ∧
      (r.clkGood.getLsbD 0 = false → exec (.quietClockLost st) s = .next s) ∧
      (∀ mem : Bool, let k := if mem then 2 else 3
        (r.released.getLsbD k = false → exec (.pllLockLost mem st) s = .next { s with rst := { r with pins := st } }) ∧
        (r.released.getLsbD k = true → inCold → Gives (.pllLockLost mem st) s (fun s' => s' = { s with rst := { r with
          pins := st, clkGood := setBit r.clkGood k false, released := setBit r.released k false, sticky := fired 7 } })) ∧
        (r.released.getLsbD k = true → ¬ inCold → ¬ same st → Gives (.pllLockLost mem st) s (turned st)) ∧
        (r.released.getLsbD k = true → ¬ inCold → same st → Gives (.pllLockLost mem st) s (fun s' =>
          warm 7 st s' ∧ s'.rst.released.getLsbD k = false ∧ s'.rst.clkGood = setBit r.clkGood k false)))) ∧
    (r.vauxOk = true → exec .vauxRelease s = .next s) ∧
    (r.vauxOk = false → Gives .vauxRelease s (fun s' => s' = { s with rst := { r with vauxOk := true, loading := true } })) ∧
    (let t := (reg 0x1_0010 s).toNat % 65536
     let due := stewardUp ∧ t ≠ 0 ∧ r.wdogAt + t * 1000 ≤ s.tick
     (¬ due → exec .watchdogExpire s = .next s) ∧ (due → ¬ inWider → Gives .watchdogExpire s (steward 9)) ∧
     (due → inWider → Gives .watchdogExpire s (fun s' => s' = { s with rst := { r with sticky := fired 9 } }))) ∧
    (let due := r.straps.clkmode = 2 ∧ s.frac = 0 ∧ 4 ≤ linkSt 0 s ∧ linkSt 0 s ≤ 8
     (¬ due → exec .recoveredClockSwitch s = .next s) ∧
     (due → Gives .recoveredClockSwitch s (fun s' => s' = { s with rst := { r with recovered := true } }))) ∧
    (∀ k : BitVec 3,
      (6 ≤ k.toNat → exec (.clockGood k) s = .next s ∧ exec (.clockFail k) s = .next s) ∧
      (r.clkGood.getLsbD k.toNat = true → exec (.clockFail k) s = .next s) ∧
      (let late := k = 0 ∨ ∃ b, mapGet none r.clkAt k.toNat = some b ∧ b + 1000 ≤ s.tick
       (k.toNat < 6 → ¬ late → exec (.clockFail k) s = .next s) ∧
       (k.toNat < 6 → late → r.clkGood.getLsbD k.toNat = false → Gives (.clockFail k) s (fun s' =>
        s'.rst = { r with
          clkFail := setBit r.clkFail k.toNat true, clkAt := mapSet none r.clkAt k.toNat (some (s.tick + 10000)) } ∧
        { s' with rst := r, recorder := s.recorder, free := s.free } = s ∧
        (s.recorder.intake.length < 64 → ∃ x : Report,
          s'.recorder.intake = s.recorder.intake ++ [x] ∧ x.stamp = now s ∧ x.origin = 0x4000)))) ∧
      (k.toNat < 6 → supplied k.toNat s = false → exec (.clockGood k) s = .next s) ∧
      (k.toNat < 6 → supplied k.toNat s = true → (∀ i : Nat, i < 6 → r.released.getLsbD i = true → supplied i s = true) →
        (∀ i : Nat, i < 6 → i ≠ k.toNat → r.released.getLsbD i = false → r.clkGood.getLsbD i = false) → Gives (.clockGood k) s (fun s' =>
          let reg1 (i : Nat) : Prop := railReg i s = true
          let may : Prop := match k.toNat with
            | 0 => r.optDone = true
            | 1 => reg1 1
            | 2 => reg1 2
            | 3 => reg1 0 ∧ reg1 1 ∧ regIs 0x30_00C0 0 s = true
            | 4 => reg1 3 ∧ r.micro = true
            | _ => r.safe = true ∨ (reg1 3 ∧ r.micro = true)
          s'.rst.clkGood = setBit r.clkGood k.toNat true ∧
          (may → s'.rst.released.getLsbD k.toNat = true) ∧ (¬ may → s'.rst.released = r.released) ∧
          (∀ i : Nat, i ≠ k.toNat → s'.rst.released.getLsbD i = r.released.getLsbD i)))) ∧
    (∀ (o : Origin) (st : Straps), logRoom s = true →
      let tells (s' : State) : Prop := s'.out.head? = some (.access o 0x1_0000 (.ok 0))
      let phase (c : Instr) (v : BitVec 32) (ph : BitVec 2) : Prop := Gives c s (fun s' => tells s' ∧ s'.rst = { r with phase := ph } ∧
        { s' with rst := r, out := s.out, changes := s.changes } = s ∧
        s'.changes.intake = s.changes.intake ++ [⟨o, 0, now s, 0x1_0000, 0, 0, v.setWidth 64, markNow s⟩])
      (hasRight 2 o s = false →
        (∀ c ∈ [Instr.cold o st, .warm o st],
          Gives c s (Answered o 0x1_0000 .rights (report 0x50 o 0x1_0000 [] { s with rst := { r with pins := st } }))) ∧
        ∀ c ∈ [Instr.steward o, .test o], Gives c s (Answered o 0x1_0000 .rights (report 0x50 o 0x1_0000 [] s))) ∧
      (isSteward o = false → ∀ c ∈ [Instr.stewardSelf o, .inService o],
        Gives c s (Answered o 0x1_0000 .rights (report 0x50 o 0x1_0000 [] s))) ∧
      (hasRight 2 o s = true →
        Gives (.cold o st) s (fun s' => cold 4 st r.vauxOk s' ∧ s'.out = .access o 0x1_0000 (.ok 0) :: s.out) ∧
        (inCold → Gives (.warm o st) s (fun s' => tells s' ∧ s'.rst = { r with pins := st, sticky := fired 6 })) ∧
        (¬ inCold → same st → Gives (.warm o st) s (fun s' => warm 6 st s' ∧ tells s')) ∧
        (¬ inCold → ¬ same st → Gives (.warm o st) s (fun s' => tells s' ∧ turned st s')) ∧
        (¬ inWider → Gives (.steward o) s (fun s' => steward 8 s' ∧ tells s')) ∧
        (inWider → Gives (.steward o) s (fun s' => tells s' ∧ s'.rst = { r with sticky := fired 8 })) ∧
        phase (.test o) 4 2) ∧
      (isSteward o = true → (¬ inWider → Gives (.stewardSelf o) s (fun s' => steward 10 s' ∧ tells s')) ∧
        (inWider → Gives (.stewardSelf o) s (fun s' => tells s' ∧ s'.rst = { r with sticky := fired 10 })) ∧ phase (.inService o) 8 1) ∧
      (∀ v : BitVec 32, hasRight 2 o s = true ∨ isSteward o = true → Gives (.wdogWrite o v) s (fun s' => ∃ t,
        Accepted o 0x1_0010 v s t s' ∧ t.rst = { r with wdogAt := s.tick } ∧
        (∀ a : Nat, reg a t = if a = 0x1_0010 then v &&& 0xFFFF else reg a s) ∧ { t with rst := r, regs := s.regs } = s)))) ∧
  (∀ s : State,
    let r := s.rst
    let done (src : BitVec 2) (digest : BitVec 256) (s' : State) : Prop := s'.rst.optSrc = src ∧ s'.rst.optDigest = digest ∧
      s'.rst.optDone = true ∧ s'.rst.loading = false
    (r.loading = false → exec .optionLoadDone s = .next s) ∧
    (r.loading = true → optUsed s = none → Gives .optionLoadDone s (fun s' => done 3 0 s' ∧ s'.rst.skipped = r.skipped)) ∧
    (∀ k bs t, r.loading = true → optUsed s = some (k, bs) → optApply (bs.drop 32) ((bs.length - 32) / 8) s = (false, t) →
      Gives .optionLoadDone s (fun s' => done (BitVec.ofNat 2 k) (sha3 bs) s' ∧ s'.rst.skipped = t.rst.skipped)) ∧
    (∀ k bs, optUsed s = some (k, bs) → (k = 1 ∨ k = 2) ∧ bs = flashRead (if k = 1 then 0 else 0x8000) bs.length s ∧
      wordAt bs 0 = 0x4B474F42 ∧ bs.length = 32 + 8 * frameNat 10 2 bs ∧ crc32c (bs.take 28 ++ bs.drop 32) = BitVec.ofNat 32 (wordAt bs 28)) ∧
    (∀ (a : Nat) (v : BitVec 32), a < 2 ^ 24 →
      (a / 65536 ∈ [4, 6, 0x14, 0x31] ∨ 0x80_0000 ≤ a → optApply (leBytes 4 a ++ leBytes 4 v.toNat) 1 s =
        (false, { s with rst := { r with skipped := r.skipped + 1 } })) ∧
      (0x40_8940 ≤ a → a ≤ 0x40_8970 → a % 4 = 0 → optApply (leBytes 4 a ++ leBytes 4 v.toNat) 1 s = (false, setReg a v s)))) ∧
  (∀ s : State, NothingWaits s →
    let r := s.rst
    let starts (src copy : Nat) (img : List Byte) (t : State) : Prop :=
      t.rst = { r with
        bootRuns := false, steward := true, bootSrc := BitVec.ofNat 2 src, bootCopy := BitVec.ofNat 2 copy,
        imgStarted := false, img := [] } ∧
      (∀ k : Nat, mapGet 0 t.att.ms k = if k = 3 then sha3 (digestBytes (mapGet 0 s.att.ms 3) ++ digestBytes (sha3 img)) else mapGet 0 s.att.ms k) ∧
      t.att.lock = true ∧ { t with rst := r, att := s.att, regs := s.regs } = s
    let begins (src copy : Nat) (img : List Byte) (s' : State) : Prop := starts src copy img s' ∧ s'.regs = s.regs
    let dropped (t : State) : Prop := t.rst = { r with imgStarted := false, img := [] } ∧ { t with rst := r, regs := s.regs } = s
    let src := if r.straps.bootsrc = 3 then 0 else r.straps.bootsrc.toNat
    let eth := r.bootRuns = true ∧ (src = 1 ∨ r.bootFail ≠ 0)
    (let sends := r.bootRuns = true ∧ src = 2 ∧ linkUsable 0 s = true ∧ ∀ b, r.bootReqAt = some b → b + 1000000 ≤ s.tick
     (¬ sends → exec .bootRequestPeriod s = .next s) ∧
     (sends → Gives .bootRequestPeriod s (fun s' => s' = linkSend 0 acctIdle ⟨0, 0, false, true, 2, pkgId s, farPkg 0 s, some .bootRequest, 0, 0⟩
       { s with rst := { r with img := [], bootReqAt := some s.tick } }))) ∧
    (∀ (last : Bool) (data : List Byte), let c := Instr.bootPacket last data
      (r.bootRuns = false ∨ src ≠ 2 → exec c s = .next s) ∧
      (r.bootRuns = true → src = 2 → last = false → Gives c s (fun s' => s' = { s with rst := { r with img := r.img ++ data } })) ∧
      (r.bootRuns = true → src = 2 → last = true → imageIntact 0x80_0000 (r.img ++ data) = true → Gives c s (begins 2 2 (r.img ++ data))) ∧
      (r.bootRuns = true → src = 2 → last = true → imageIntact 0x80_0000 (r.img ++ data) = false → Gives c s (fun s' => dropped s' ∧ s'.regs = s.regs))) ∧
    (∀ x, r.bootRuns = true → r.micro = true → src = 0 → stewardImage s = some x →
      Gives (.bootImageLoaded false) s (begins 0 x.1 x.2) ∧
      (r.bootFail ≠ 0 → r.bootAt + 10000000 ≤ s.tick → Gives .bootRetry s (fun s' => s'.rst.steward = true ∧ s'.rst.bootSrc = 0 ∧
        s'.rst.bootCopy = BitVec.ofNat 2 x.1 ∧ s'.att.lock = true ∧ s'.rst.bootAt = s.tick))) ∧
    (r.bootRuns = false → (∀ b, exec (.bootImageLoaded b) s = .next s) ∧ exec .bootRetry s = .next s ∧ exec .bootFailure s = .next s) ∧
    (r.micro = true → exec (.bootImageLoaded true) s = .next s) ∧
    (src ≠ 0 ∨ r.micro = false → exec (.bootImageLoaded false) s = .next s) ∧
    (∀ x, r.bootRuns = true → r.micro = false → microImage s = some x → Gives (.bootImageLoaded true) s (fun s' => s'.rst.micro = true ∧
      mapGet 0 s'.att.ms 2 = sha3 (digestBytes (mapGet 0 s.att.ms 2) ++ digestBytes (sha3 x.2)))) ∧
    (s.tick < r.bootAt + 10000000 ∨ r.bootFail = 0 → exec .bootRetry s = .next s) ∧
    (let late := r.bootAt + 60000000 ≤ s.tick
     let code : BitVec 4 := if r.micro = false ∧ microImage s = none then 4
       else if src = 0 then (if stewardImage s = none then 1 else 0)
       else if ¬ late then 0 else if src = 1 then 2 else 3
     (r.bootFail ≠ 0 ∨ code = 0 → exec .bootFailure s = .next s) ∧
     (r.bootRuns = true → r.bootFail = 0 → code ≠ 0 → Gives .bootFailure s (fun s' =>
       s' = { s with rst := { r with bootFail := code, phase := 3, bootAt := s.tick } }))) ∧
    (s.att.queue = [] → exec .attestReportDone s = .next s) ∧
    (∀ (nonce : BitVec 256) rest, s.att.queue = .register nonce :: rest → Gives .attestReportDone s (fun s' =>
      let f := s'.att.report
      let part := if s.varnish.supply = true then 2564 else 0
      s'.att.done = true ∧ s'.att.queue = rest ∧ s'.att.ms = s.att.ms ∧ { s' with att := s.att, free := s.free } = s ∧
      f.length = 388 + part + 2420 ∧ frameNat 0 2 f = 1 ∧ frameNat 2 2 f = f.length ∧ frameNat 4 32 f = nonce.toNat ∧
      frameNat 36 8 f = (now s).toNat ∧ frameNat 44 2 f = (pkgId s).toNat ∧ frameNat 96 4 f = (causeReg s).toNat ∧
      frameNat 104 4 f = (bootStatus s).toNat ∧ frameNat 108 4 f = (optStatus s).toNat ∧
      (∀ k : Nat, k < 8 → frameNat (128 + 32 * k) 32 f = (mapGet 0 s.att.ms k).toNat) ∧ frameNat 384 2 f = part)) ∧
    (∀ (n tag : BitVec 16) (nonce : BitVec 256) rest, s.att.queue = .command n tag nonce :: rest → CanSend n.toNat s →
      Gives .attestReportDone s (fun s' => s'.att = { s.att with queue := rest } ∧ s'.regs = s.regs ∧
        ∃ (f : List Byte) (t : State), frameNat 4 32 f = nonce.toNat ∧ sesAt n.toNat t =
          { sesAt n.toNat s with cmds := (sesAt n.toNat s).cmds - 1 } ∧ Sent n.toNat (.response tag 0 0 f) t s')) ∧
    (∀ o : Origin, logRoom s = true → isS0 o s = true →
      (∀ len : BitVec 24, let v : BitVec 32 := 0x80000000 ||| len.setWidth 32
        (eth → 64 ≤ len.toNat → len.toNat ≤ 8388608 → Gives (.bootStart o len) s (fun s' => ∃ t, Accepted o 0x1_0020 v s t s' ∧
          t.rst = { r with imgStarted := true, imgLen := len.toNat, img := [] } ∧
          (∀ a : Nat, reg a t = if a = 0x1_0020 then len.setWidth 32 else reg a s) ∧ { t with rst := r, regs := s.regs } = s)) ∧
        (¬ eth ∨ len.toNat < 64 ∨ 8388608 < len.toNat → Gives (.bootStart o len) s (Answered o 0x1_0020 .error s))) ∧
      (∀ v : BitVec 32,
        (eth → Gives (.bootWinWrite o v) s (Answered o 0x1_0100 (.ok 0)
          (if r.imgStarted = true then { s with rst := { r with img := r.img ++ leBytes 4 v.toNat } } else s))) ∧
        (¬ eth → Gives (.bootWinWrite o v) s (Answered o 0x1_0100 .error s))) ∧
      (let n := (reg 0x1_0020 s).toNat % 2 ^ 24
       (eth → 64 ≤ n → n ≤ 8388608 → Gives (.bootDone o) s (fun s' => ∃ t, Accepted o 0x1_0020 (regVal 0x1_0020 s ||| 0x40000000) s t s' ∧
         (∀ a : Nat, a ≠ 0x1_0020 → reg a t = reg a s) ∧
         (r.imgStarted = true → r.img.length = r.imgLen → imageIntact 0x80_0000 r.img = true → starts 1 2 r.img t) ∧
         (r.imgStarted = true → ¬ (r.img.length = r.imgLen ∧ imageIntact 0x80_0000 r.img = true) → dropped t) ∧
         (r.imgStarted = false → { t with regs := s.regs } = s))) ∧
       (¬ eth ∨ n < 64 ∨ 8388608 < n → Gives (.bootDone o) s (Answered o 0x1_0020 .error s)))) ∧
    (∀ o : Origin, logRoom s = true →
      let staged (a : Nat) : BitVec 256 := BitVec.ofNat 256 (ofLe ((List.range 8).flatMap (fun i => leBytes 4 (reg (a + 4 * i) s).toNat)))
      let busy := ∃ nonce, AttReq.register nonce ∈ s.att.queue
      (isSteward o = true ∨ o = 0x1000 →
        (busy → Gives (.attGo o) s (Answered o 0x6_0000 .error s)) ∧
        (¬ busy → Gives (.attGo o) s (fun s' => ∃ t, Accepted o 0x6_0000 (regVal 0x6_0000 s ||| 0x80000000) s t s' ∧
          t.att = { s.att with queue := s.att.queue ++ [.register (staged 0x6_0020)], done := false } ∧
          (∀ a : Nat, a ≠ 0x6_0000 → reg a t = reg a s) ∧ { t with att := s.att, regs := s.regs } = s))) ∧
      (∀ slot : BitVec 3, isSteward o = true →
        (slot.toNat < 5 → Gives (.attExt o slot) s (Answered o 0x6_0000 .error s)) ∧
        (5 ≤ slot.toNat → Gives (.attExt o slot) s (fun s' => ∃ t, Accepted o 0x6_0000 (0x40000000 ||| slot.setWidth 32) s t s' ∧
          { t.att with ms := s.att.ms } = s.att ∧ (∀ k : Nat, mapGet 0 t.att.ms k = if k = slot.toNat
            then sha3 (digestBytes (mapGet 0 s.att.ms k) ++ digestBytes (staged 0x6_0040)) else mapGet 0 s.att.ms k) ∧
          (∀ a : Nat, reg a t = if a = 0x6_0000 then slot.setWidth 32 else reg a s) ∧ { t with att := s.att, regs := s.regs } = s)))))
end

