-- ==== Sys2Proof/Laws/Maps.lean ====
section
/-! SUPPORT. Laws of the sparse maps: a read after a write, and the canonical form that every map operation keeps. -/

namespace Sys2Proof.Machine

/-! ### Reading after a change -/

/-- Erasing key `k` makes it read as the default; every other key reads as before. -/
theorem mapGet_mapErase {α : Type} (d : α) (m : SMap α) (k j : Nat) :
    mapGet d (mapErase m k) j = if j = k then d else mapGet d m j := by
  induction m with
  | nil => simp [mapErase, mapGet]
  | cons e r ih =>
    obtain ⟨a, v⟩ := e
    by_cases h : a = k
    · subst h
      by_cases hj : j = a
      · subst hj; simpa [mapErase] using ih
      · simp [mapErase, ih, mapGet, hj, Ne.symm hj]
    · by_cases ha : a = j
      · subst ha
        simp [mapErase, h, mapGet]
      · simp [mapErase, h, mapGet, ha, ih]

/-- Inserting a key that the map does not list. -/
theorem mapGet_mapInsert {α : Type} (d : α) (m : SMap α) (k : Nat) (v : α) (j : Nat) :
    mapGet d (mapInsert (mapErase m k) k v) j = if j = k then v else mapGet d m j := by
  have other : ∀ l : SMap α, j ≠ k → mapGet d (mapInsert l k v) j = mapGet d l j := by
    intro l hj
    induction l with
    | nil => simp [mapInsert, mapGet, Ne.symm hj]
    | cons e r ih =>
      obtain ⟨a, w⟩ := e
      by_cases h : k < a
      · simp [mapInsert, h, mapGet, Ne.symm hj]
      · simp [mapInsert, h, mapGet, ih]
  have self : ∀ l : SMap α, (∀ e ∈ l, e.1 ≠ k) → mapGet d (mapInsert l k v) k = v := by
    intro l hl
    induction l with
    | nil => simp [mapInsert, mapGet]
    | cons e r ih =>
      obtain ⟨a, w⟩ := e
      have ha : a ≠ k := hl (a, w) (by simp)
      by_cases h : k < a
      · simp [mapInsert, h, mapGet]
      · simpa [mapInsert, h, mapGet, ha] using ih (fun e he => hl e (by simp [he]))
  have gone : ∀ l : SMap α, ∀ e ∈ mapErase l k, e.1 ≠ k := by
    intro l
    induction l with
    | nil => simp [mapErase]
    | cons e r ih =>
      obtain ⟨a, w⟩ := e
      by_cases h : a = k
      · simpa [mapErase, h] using ih
      · intro e he
        rcases (by simpa [mapErase, h] using he : e = (a, w) ∨ e ∈ mapErase r k) with rfl | h'
        · exact h
        · exact ih e h'
  by_cases hj : j = k
  · subst hj
    simpa using self _ (gone m)
  · simp [other _ hj, mapGet_mapErase, hj]

/-- A read after a write: the written key reads what was written, every other key reads as before. -/
theorem mapGet_mapSet {α : Type} [DecidableEq α] (d : α) (m : SMap α) (k : Nat) (v : α) (j : Nat) :
    mapGet d (mapSet d m k v) j = if j = k then v else mapGet d m j := by
  unfold mapSet
  split
  · next h => subst h; exact mapGet_mapErase _ _ _ _
  · exact mapGet_mapInsert _ _ _ _ _

@[simp] theorem mapGet_mapSet_self {α : Type} [DecidableEq α] (d : α) (m : SMap α) (k : Nat) (v : α) :
    mapGet d (mapSet d m k v) k = v := by simp [mapGet_mapSet]

theorem mapGet_mapSet_ne {α : Type} [DecidableEq α] (d : α) (m : SMap α) {k j : Nat} (v : α) (h : j ≠ k) :
    mapGet d (mapSet d m k v) j = mapGet d m j := by simp [mapGet_mapSet, h]

/-- A write leaves every other key alone, whatever an unlisted key reads as. -/
theorem mapGet_mapSet_other {α : Type} [DecidableEq α] (d e : α) (m : SMap α) {k j : Nat} (v : α) (h : j ≠ k) :
    mapGet e (mapSet d m k v) j = mapGet e m j := by
  unfold mapSet
  split
  · simp [mapGet_mapErase, h]
  · simp [mapGet_mapInsert, h]

theorem mapGet_mapUpd {α : Type} [DecidableEq α] (d : α) (m : SMap α) (k : Nat) (f : α → α) (j : Nat) :
    mapGet d (mapUpd d m k f) j = if j = k then f (mapGet d m k) else mapGet d m j := by
  simp [mapUpd, mapGet_mapSet]

/-- Clearing a range of keys makes them read as the default; every other key reads as before. -/
theorem mapGet_mapClear {α : Type} (d : α) (m : SMap α) (lo hi j : Nat) :
    mapGet d (mapClear m lo hi) j = if lo ≤ j ∧ j < hi then d else mapGet d m j := by
  induction m with
  | nil => simp [mapClear, mapGet]
  | cons e r ih =>
    obtain ⟨a, v⟩ := e
    by_cases h : lo ≤ a ∧ a < hi
    · have : mapClear ((a, v) :: r) lo hi = mapClear r lo hi := by simp [mapClear, h]
      rw [this, ih]
      by_cases ha : a = j
      · subst ha; simp [h]
      · simp [mapGet, ha]
    · have : mapClear ((a, v) :: r) lo hi = (a, v) :: mapClear r lo hi := by
        simp only [mapClear, List.filter_cons]
        have : (!(decide (lo ≤ a) && decide (a < hi))) = true := by
          by_cases h1 : lo ≤ a <;> by_cases h2 : a < hi <;> simp_all
        simp [this]
      rw [this]
      by_cases ha : a = j
      · subst ha; simp [mapGet, h]
      · simp [mapGet, ha, ih]

/-! ### The canonical form -/

/-- The canonical form as a statement about the entries. -/
theorem mapWf_iff {α : Type} [DecidableEq α] (d : α) (m : SMap α) :
    mapWf d m = true ↔ (∀ e ∈ m, e.2 ≠ d) ∧ m.Pairwise (fun x y => x.1 < y.1) := by
  induction m with
  | nil => simp [mapWf]
  | cons e r ih =>
    obtain ⟨a, v⟩ := e
    cases r with
    | nil => simp [mapWf]
    | cons f q =>
      obtain ⟨b, w⟩ := f
      simp only [mapWf, Bool.and_eq_true, decide_eq_true_eq, ih, List.pairwise_cons, List.mem_cons, forall_eq_or_imp]
      constructor
      · rintro ⟨⟨hv, hab⟩, ⟨hw, hq⟩, hb, hp⟩
        exact ⟨⟨hv, hw, hq⟩, ⟨hab, fun e he => Nat.lt_trans hab (hb e he)⟩, hb, hp⟩
      · rintro ⟨⟨hv, hw, hq⟩, ⟨hab, _⟩, hb, hp⟩
        exact ⟨⟨hv, hab⟩, ⟨hw, hq⟩, hb, hp⟩

theorem mapErase_eq_filter {α : Type} (m : SMap α) (k : Nat) : mapErase m k = m.filter (fun e => decide (e.1 ≠ k)) := by
  induction m with
  | nil => rfl
  | cons e r ih =>
    obtain ⟨a, v⟩ := e
    by_cases h : a = k <;> simp [mapErase, h, ih]

/-- Dropping entries keeps the canonical form. -/
theorem mapWf_filter {α : Type} [DecidableEq α] (d : α) (m : SMap α) (p : Nat × α → Bool) (h : mapWf d m = true) :
    mapWf d (m.filter p) = true := by
  rw [mapWf_iff] at *
  exact ⟨fun e he => h.1 e (List.mem_filter.1 he).1, h.2.filter p⟩

theorem mapWf_mapErase {α : Type} [DecidableEq α] (d : α) (m : SMap α) (k : Nat) (h : mapWf d m = true) :
    mapWf d (mapErase m k) = true := by
  rw [mapErase_eq_filter]; exact mapWf_filter d m _ h

theorem mapWf_mapClear {α : Type} [DecidableEq α] (d : α) (m : SMap α) (lo hi : Nat) (h : mapWf d m = true) :
    mapWf d (mapClear m lo hi) = true := mapWf_filter d m _ h

theorem mem_mapInsert {α : Type} (m : SMap α) (k : Nat) (v : α) (e : Nat × α) :
    e ∈ mapInsert m k v ↔ e = (k, v) ∨ e ∈ m := by
  induction m with
  | nil => simp [mapInsert]
  | cons f r ih =>
    obtain ⟨a, w⟩ := f
    by_cases h : k < a
    · simp [mapInsert, h]
    · simp only [mapInsert, if_neg h, List.mem_cons, ih]
      constructor
      · rintro (h | h | h) <;> simp [h]
      · rintro (h | h | h) <;> simp [h]

/-- Inserting an unlisted key with a value that is not the default keeps the canonical form. -/
theorem mapWf_mapInsert {α : Type} [DecidableEq α] (d : α) (m : SMap α) (k : Nat) (v : α) (hm : mapWf d m = true)
    (hk : ∀ e ∈ m, e.1 ≠ k) (hv : v ≠ d) : mapWf d (mapInsert m k v) = true := by
  rw [mapWf_iff] at *
  refine ⟨fun e he => ?_, ?_⟩
  · rcases (mem_mapInsert m k v e).1 he with rfl | h
    · exact hv
    · exact hm.1 e h
  · have hp := hm.2
    clear hm
    induction m with
    | nil => simp [mapInsert]
    | cons f r ih =>
      obtain ⟨a, w⟩ := f
      have ha : a ≠ k := hk (a, w) (by simp)
      rw [List.pairwise_cons] at hp
      by_cases h : k < a
      · simp only [mapInsert, if_pos h, List.pairwise_cons, List.mem_cons, forall_eq_or_imp]
        exact ⟨⟨h, fun e he => Nat.lt_trans h (hp.1 e he)⟩, hp.1, hp.2⟩
      · simp only [mapInsert, if_neg h, List.pairwise_cons]
        refine ⟨fun e he => ?_, ih (fun e he => hk e (by simp [he])) hp.2⟩
        rcases (mem_mapInsert r k v e).1 he with rfl | h'
        · exact Nat.lt_of_le_of_ne (Nat.le_of_not_lt h) ha
        · exact hp.1 e h'

/-- A write keeps the canonical form. -/
theorem mapWf_mapSet {α : Type} [DecidableEq α] (d : α) (m : SMap α) (k : Nat) (v : α) (h : mapWf d m = true) :
    mapWf d (mapSet d m k v) = true := by
  unfold mapSet
  split
  · exact mapWf_mapErase d m k h
  · next hv =>
    refine mapWf_mapInsert d _ k v (mapWf_mapErase d m k h) (fun e he => ?_) hv
    rw [mapErase_eq_filter] at he
    simpa using (List.mem_filter.1 he).2

theorem mapWf_mapSetAll {α : Type} [DecidableEq α] (d : α) (l : List (Nat × α)) : ∀ m : SMap α, mapWf d m = true →
    mapWf d (mapSetAll d m l) = true := by
  induction l with
  | nil => intro m h; exact h
  | cons e r ih => intro m h; exact ih _ (mapWf_mapSet d m e.1 e.2 h)

/-! ### Bytes of a memory -/

/-- Every write of bytes into a memory keeps its canonical form. -/
theorem writeMem_wf (bs : List Byte) : ∀ (m : List Host.Cell) (a : Nat), mapWf 0 m = true → mapWf 0 (writeMem m a bs) = true := by
  induction bs with
  | nil => intro m a h; exact h
  | cons b r ih => intro m a h; exact ih _ _ (mapWf_mapSet 0 m a b h)

/-- A byte read after a write of bytes: the written byte inside the written range, and what was there outside it. -/
theorem mapGet_writeMem (bs : List Byte) : ∀ (m : List Host.Cell) (a j : Nat),
    mapGet 0 (writeMem m a bs) j = if a ≤ j ∧ j < a + bs.length then bs.getD (j - a) 0 else mapGet 0 m j := by
  induction bs with
  | nil => intro m a j; simp [writeMem] <;> omega
  | cons b r ih =>
    intro m a j
    rw [writeMem, ih, mapGet_mapSet]
    by_cases hj : j = a
    · subst hj
      have h1 : ¬ (j + 1 ≤ j ∧ j < j + 1 + r.length) := by omega
      have h2 : j ≤ j ∧ j < j + (b :: r).length := by simp only [List.length_cons]; omega
      rw [if_neg h1, if_pos h2]
      simp
    · by_cases h : a + 1 ≤ j ∧ j < a + 1 + r.length
      · have h2 : a ≤ j ∧ j < a + (b :: r).length := by simp only [List.length_cons]; omega
        rw [if_pos h, if_pos h2]
        obtain ⟨n, rfl⟩ : ∃ n, j = a + 1 + n := ⟨j - (a + 1), by omega⟩
        have e1 : a + 1 + n - (a + 1) = n := by omega
        have e2 : a + 1 + n - a = n + 1 := by omega
        rw [e1, e2, List.getD_cons_succ]
      · have h2 : ¬ (a ≤ j ∧ j < a + (b :: r).length) := by simp only [List.length_cons]; omega
        rw [if_neg h, if_neg h2, if_neg hj]

/-- Bytes outside a written range read as before. -/
theorem readMem_writeMem_disjoint (m : List Host.Cell) (a : Nat) (bs : List Byte) (j n : Nat)
    (h : j + n ≤ a ∨ a + bs.length ≤ j) : readMem (writeMem m a bs) j n = readMem m j n := by
  unfold readMem
  apply List.map_congr_left
  intro i hi
  rw [List.mem_range] at hi
  rw [mapGet_writeMem, if_neg (by omega)]

/-- Reading back what was written. -/
theorem readMem_writeMem_self (m : List Host.Cell) (a : Nat) (bs : List Byte) : readMem (writeMem m a bs) a bs.length = bs := by
  unfold readMem
  apply List.ext_getElem
  · simp
  · intro i h1 h2
    rw [List.getElem_map, List.getElem_range, mapGet_writeMem, if_pos (by omega)]
    simp [h2]

end Sys2Proof.Machine
end

