-- ==== Sys2Proof/Laws/Ledger.lean ====
section
/-! SUPPORT. The split of R403 gives out exactly the energy that was metered, and crediting and clearing keep the ledger of R401. -/

namespace Sys2Proof.Machine

/-! ### Ranks -/

/-- The order in which leftover microjoules are handed out: `y` goes before `x`. -/
def Before (y x : Split) : Prop := x.r < y.r ∨ (y.r = x.r ∧ y.acct < x.acct)

theorem rankOf_eq (l : List Split) (x : Split) :
    rankOf l x = l.countP (fun y => decide (x.r < y.r) || (decide (y.r = x.r) && decide (y.acct < x.acct))) :=
  (List.countP_eq_length_filter ..).symm

theorem countP_lt {α : Type} (p q : α → Bool) (l : List α) (h : ∀ z, p z = true → q z = true) (y : α) (hy : y ∈ l)
    (hq : q y = true) (hp : p y = false) : l.countP p < l.countP q := by
  induction l with
  | nil => cases hy
  | cons a r ih =>
    have hle : r.countP p ≤ r.countP q := List.countP_mono_left (fun z _ => h z)
    rw [List.countP_cons, List.countP_cons]
    rcases List.mem_cons.mp hy with e | e
    · subst e; simp [hq, hp]; omega
    · have := ih e
      by_cases ha : p a = true
      · simp [ha, h a ha]; omega
      · simp [ha]; split <;> omega

theorem rankOf_lt_length (l : List Split) (x : Split) (hx : x ∈ l) : rankOf l x < l.length := by
  rw [rankOf_eq]
  have := countP_lt (fun y : Split => decide (x.r < y.r) || (decide (y.r = x.r) && decide (y.acct < x.acct))) (fun _ => true) l
    (fun _ _ => rfl) x hx rfl (by simp)
  simpa using this

theorem rankOf_lt_rankOf (l : List Split) (x y : Split) (hy : y ∈ l) (h : Before y x) : rankOf l y < rankOf l x := by
  rw [rankOf_eq, rankOf_eq]
  refine countP_lt _ _ l (fun z hz => ?_) y hy ?_ (by simp)
  · simp only [Bool.or_eq_true, Bool.and_eq_true, decide_eq_true_eq] at hz ⊢
    unfold Before at h
    omega
  · simpa [Before] using h

theorem rankOf_nodup (l : List Split) (h : (l.map (·.acct)).Nodup) : (l.map (rankOf l)).Nodup := by
  refine (List.nodup_map_iff_inj_on (List.Nodup.of_map _ h)).mpr (fun x hx y hy e => ?_)
  by_contra hne
  have hacct : x.acct ≠ y.acct := fun ha => hne (List.inj_on_of_nodup_map h hx hy ha)
  have : Before x y ∨ Before y x := by unfold Before; omega
  rcases this with hb | hb
  · have := rankOf_lt_rankOf l y x hx hb; omega
  · have := rankOf_lt_rankOf l x y hy hb; omega

theorem sum_below (n k : Nat) (h : k ≤ n) : ((List.range n).map (fun i => b2n (decide (i < k)))).sum = k := by
  induction n with
  | zero => simp; omega
  | succ n ih =>
    rw [List.range_succ, List.map_append, List.sum_append]
    by_cases hk : k ≤ n
    · have h0 : ¬ n < k := by omega
      rw [ih hk]
      simp [h0, b2n]
    · have hk : k = n + 1 := by omega
      subst hk
      have : ∀ i ∈ List.range n, b2n (decide (i < n + 1)) = 1 := fun i hi => by
        have := List.mem_range.mp hi
        simp [b2n]; omega
      rw [List.map_congr_left this]
      simp [b2n, List.map_const']

/-- Exactly `k` accounts rank below `k`. -/
theorem sum_ranked (l : List Split) (h : (l.map (·.acct)).Nodup) (k : Nat) (hk : k ≤ l.length) :
    (l.map (fun x => b2n (decide (rankOf l x < k)))).sum = k := by
  have hp : (l.map (rankOf l)).Perm (List.range l.length) := by
    refine List.perm_of_nodup_nodup_toFinset_eq (rankOf_nodup l h) List.nodup_range ?_
    refine Finset.eq_of_subset_of_card_le (fun i hi => ?_) ?_
    · rw [List.mem_toFinset, List.mem_map] at hi
      obtain ⟨x, hx, rfl⟩ := hi
      simpa using rankOf_lt_length l x hx
    · rw [List.toFinset_card_of_nodup (rankOf_nodup l h), List.toFinset_card_of_nodup List.nodup_range]
      simp
  have := (hp.map (fun i => b2n (decide (i < k)))).sum_eq
  rw [List.map_map] at this
  rw [sum_below _ _ hk] at this
  exact this

/-! ### The split of R403 -/

theorem foldl_add_eq_sum {α : Type} (f : α → Nat) (l : List α) (a : Nat) : l.foldl (fun a x => a + f x) a = a + (l.map f).sum := by
  induction l generalizing a with
  | nil => rfl
  | cons x r ih => rw [List.foldl_cons, ih, List.map_cons, List.sum_cons]; omega

theorem splitOf_acct (e : Nat) (ws : List (Nat × Nat)) : (splitOf e ws).map (·.acct) = ws.map (·.1) := by
  unfold splitOf
  dsimp only
  split <;> simp [Function.comp_def]

/-- An account alone in a list takes all that is given to it. -/
theorem sum_idle (e : Nat) (ws : List (Nat × Nat)) (hn : (ws.map (·.1)).Nodup) (hi : acctIdle ∈ ws.map (·.1)) :
    (ws.map (fun w => if w.1 = acctIdle then e else 0)).sum = e := by
  induction ws with
  | nil => cases hi
  | cons w r ih =>
    rw [List.map_cons, List.nodup_cons] at hn
    rw [List.map_cons, List.sum_cons]
    by_cases hw : w.1 = acctIdle
    · have : ∀ x ∈ r, (if x.1 = acctIdle then e else 0) = 0 :=
        fun x hx => if_neg (fun hxe => hn.1 (List.mem_map.mpr ⟨x, hx, hxe.trans hw.symm⟩))
      rw [List.map_congr_left this]
      simp [hw]
    · rcases List.mem_cons.mp hi with h | h
      · exact absurd h.symm hw
      · rw [if_neg hw, ih hn.2 h]; omega

/-- The quotients leave less than one microjoule an account. -/
theorem splitOf_quotients (e : Nat) (ws : List (Nat × Nat)) (hn : (ws.map (·.1)).Nodup) (hi : acctIdle ∈ ws.map (·.1)) :
    ((splitOf e ws).map (·.q)).sum ≤ e ∧ e - ((splitOf e ws).map (·.q)).sum ≤ (splitOf e ws).length := by
  unfold splitOf
  dsimp only
  rw [foldl_add_eq_sum]
  split
  · rw [List.map_map, List.length_map]
    change (ws.map (fun w => if w.1 = acctIdle then e else 0)).sum ≤ e ∧
      e - (ws.map (fun w => if w.1 = acctIdle then e else 0)).sum ≤ ws.length
    rw [sum_idle e ws hn hi]
    omega
  · next hw =>
    set wt := (ws.map (·.2)).sum with hwt
    rw [Nat.zero_add] at hw ⊢
    have hpos : 0 < wt := Nat.pos_of_ne_zero hw
    have key : ∀ l : List (Nat × Nat), wt * (l.map (fun w => e * w.2 / wt)).sum ≤ e * (l.map (·.2)).sum ∧
        e * (l.map (·.2)).sum ≤ wt * (l.map (fun w => e * w.2 / wt)).sum + wt * l.length := by
      intro l
      induction l with
      | nil => simp
      | cons a r ih =>
        have h1 := Nat.div_add_mod (e * a.2) wt
        have h2 := Nat.mod_lt (e * a.2) hpos
        simp only [List.map_cons, List.sum_cons, List.length_cons, Nat.mul_add, Nat.mul_one]
        omega
    have hk := key ws
    rw [← hwt] at hk
    have hq : ((ws.map (fun w => (⟨w.1, e * w.2 / wt, e * w.2 % wt⟩ : Split))).map (·.q)).sum
        = (ws.map (fun w => e * w.2 / wt)).sum := by simp [Function.comp_def]
    rw [hq, List.length_map]
    set q := (ws.map (fun w => e * w.2 / wt)).sum
    have a1 : q ≤ e := by nlinarith [hk.1]
    have a2 : e ≤ q + ws.length := by nlinarith [hk.2]
    omega

/-- All of the energy is given out, once (R403). -/
theorem sharesOf_sum (e : Nat) (ws : List (Nat × Nat)) (hn : (ws.map (·.1)).Nodup) (hi : acctIdle ∈ ws.map (·.1)) :
    ((sharesOf e ws).map (·.2)).sum = e := by
  have hq := splitOf_quotients e ws hn hi
  unfold sharesOf
  dsimp only
  rw [foldl_add_eq_sum, List.map_map, Nat.zero_add]
  set l := splitOf e ws with hl
  have hnd : (l.map (·.acct)).Nodup := by rw [hl, splitOf_acct]; exact hn
  have hs := sum_ranked l hnd _ hq.2
  have : ((fun x : Nat × Nat => x.2) ∘ fun x : Split => (x.acct, x.q + b2n (decide (rankOf l x < e - (l.map (·.q)).sum))))
      = fun x => x.q + b2n (decide (rankOf l x < e - (l.map (·.q)).sum)) := rfl
  rw [this, List.sum_map_add, hs]
  change (l.map Split.q).sum + (e - (l.map Split.q).sum) = e
  exact Nat.add_sub_of_le hq.1

theorem sharesOf_acct (e : Nat) (ws : List (Nat × Nat)) : (sharesOf e ws).map (·.1) = ws.map (·.1) := by
  unfold sharesOf
  dsimp only
  rw [List.map_map]
  exact splitOf_acct e ws

/-! ### The ledger -/

theorem sum_update (l : List Nat) (h : l.Nodup) (f g : Nat → Nat) (i : Nat) (hi : i ∈ l) (hg : ∀ j, j ≠ i → g j = f j) :
    (l.map g).sum + f i = (l.map f).sum + g i := by
  induction l with
  | nil => cases hi
  | cons a r ih =>
    rw [List.nodup_cons] at h
    rw [List.map_cons, List.map_cons, List.sum_cons, List.sum_cons]
    rcases List.mem_cons.mp hi with e | e
    · subst e
      have : r.map g = r.map f := List.map_congr_left (fun j hj => hg j (fun hji => h.1 (hji ▸ hj)))
      rw [this]; omega
    · have := ih h.2 e
      rw [hg a (fun hai => h.1 (hai ▸ e))]
      omega

theorem acctTotal_upd (acct : SMap Nat) (i x : Nat) (hi : i < accounts) :
    (acctTotal (mapUpd 0 acct i (fun v => (v + x) % 2 ^ 64))) % 2 ^ 64 = (acctTotal acct + x) % 2 ^ 64 := by
  have := sum_update (List.range accounts) List.nodup_range (mapGet 0 acct)
    (mapGet 0 (mapUpd 0 acct i (fun v => (v + x) % 2 ^ 64))) i (List.mem_range.mpr hi)
    (fun j hj => by rw [mapGet_mapUpd, if_neg hj])
  rw [mapGet_mapUpd, if_pos rfl] at this
  unfold acctTotal
  omega

theorem acctTotal_foldl (l : List (Nat × Nat)) (acct : SMap Nat) (h : ∀ x ∈ l, x.1 < accounts) :
    (acctTotal (l.foldl (fun m x => mapUpd 0 m x.1 (fun v => (v + x.2) % 2 ^ 64)) acct)) % 2 ^ 64
      = (acctTotal acct + (l.map (·.2)).sum) % 2 ^ 64 := by
  induction l generalizing acct with
  | nil => simp
  | cons a r ih =>
    rw [List.foldl_cons, ih _ (fun x hx => h x (List.mem_cons_of_mem _ hx)), List.map_cons, List.sum_cons]
    have := acctTotal_upd acct a.1 a.2 (h a List.mem_cons_self)
    omega

theorem ledger_credit (acct : SMap Nat) (cleared metered e : Nat) (clear : Option Nat) (ws : List (Nat × Nat))
    (hw : ws.map (·.1) = List.range accounts) (h : Ledger acct cleared metered clear) :
    Ledger ((sharesOf e ws).foldl (fun m x => mapUpd 0 m x.1 (fun v => (v + x.2) % 2 ^ 64)) acct) cleared
      ((metered + e) % 2 ^ 64) clear := by
  refine ⟨?_, h.pending⟩
  have h1 := acctTotal_foldl (sharesOf e ws) acct (fun x hx => by
    have : x.1 ∈ (sharesOf e ws).map (·.1) := List.mem_map_of_mem hx
    rw [sharesOf_acct, hw] at this
    exact List.mem_range.mp this)
  rw [sharesOf_sum e ws (by rw [hw]; exact List.nodup_range) (by rw [hw]; exact List.mem_range.mpr (by decide))] at h1
  have := h.sum
  omega

theorem acctTotal_erase (acct : SMap Nat) (i : Nat) (hi : i < accounts) :
    acctTotal (mapErase acct i) + mapGet 0 acct i = acctTotal acct := by
  have := sum_update (List.range accounts) List.nodup_range (mapGet 0 acct) (mapGet 0 (mapErase acct i)) i (List.mem_range.mpr hi)
    (fun j hj => by rw [mapGet_mapErase, if_neg hj])
  rw [mapGet_mapErase, if_pos rfl] at this
  unfold acctTotal
  omega

theorem ledger_clear (acct : SMap Nat) (cleared metered i : Nat) (h : Ledger acct cleared metered (some i)) :
    Ledger (mapErase acct i) ((cleared + mapGet 0 acct i) % 2 ^ 64) metered none := by
  refine ⟨?_, fun j hj => by cases hj⟩
  have h1 := acctTotal_erase acct i (h.pending i rfl)
  have := h.sum
  omega

theorem ledger_zero : Ledger [] 0 0 none := ⟨by simp [acctTotal, mapGet], fun i hi => by cases hi⟩

end Sys2Proof.Machine
end

