-- ==== Sys2Proof/Laws/KeepsShared.lean ====
section
/-! SUPPORT. One lemma for each operation of the model, by module: it keeps the command queue, the canonical form of the
memories, and the bounds of the event stream and of the recorder's intake, the numbers of the remote operations, and the energy
ledger. Here: the operations over the whole state, the recorders, routes, transport, jobs and memories. -/

namespace Sys2Proof.Machine

/-- What every command keeps: the queue it finds, the canonical form of the memories, the bounds of the event stream (R44)
and of the recorder's intake (R413), and remote operations numbered below the next number, and
the energy ledger of R401. -/
structure K (cq pend : List Instr) (sc va fl : List Host.Cell) (ev : List StreamRec) (ri : List Report)
    (ro : List RemoteOp) (nx : Nat) (ac : SMap Nat) (cl me : Nat) (pc : Option Nat) : Prop where
  pend : pend = cq
  sc : mapWf 0 sc = true
  va : mapWf 0 va = true
  fl : mapWf 0xFF fl = true
  ev : ev.length ≤ evsMax
  ri : ri.length ≤ intakeMax
  led : Ledger ac cl me pc
  ids : ∀ o ∈ ro, o.id < nx

/-- The state keeps all of it; `cq` is the queue. -/
def Kept (cq : List Instr)
    (s : State) : Prop := K cq s.pending s.scratch s.vault s.flash s.evs s.recorder.intake s.rops s.nextOp
  s.attr.acct s.attr.cleared s.attr.metered s.attr.clear
/-- Whatever next state an outcome gives keeps all of it. -/
structure KeptO (cq : List Instr) (r : Res) : Prop where
  out : ∀ t, r = .next t → Kept cq t

/-- A change of the attribution engine that keeps the ledger keeps all of it. -/
theorem kept_of_ledger {cq : List Instr} (a : Attr) (s : State) (h : Kept cq s)
    (hl : Ledger a.acct a.cleared a.metered a.clear) :
    Kept cq { s with attr := a } := ⟨h.pend, h.sc, h.va, h.fl, h.ev, h.ri, hl, h.ids⟩

/-- Operations that change otherwise than in their numbers. -/
theorem kept_mapOps {cq : List Instr} (s : State) (p : RemoteOp → Bool) (g : RemoteOp → RemoteOp) (hg : ∀ o, (g o).id = o.id)
    (h : Kept cq s) : Kept cq { s with rops := mapIf p g s.rops } :=
  ⟨h.pend, h.sc, h.va, h.fl, h.ev, h.ri, h.led, fun o ho => by
    obtain ⟨x, hx, rfl⟩ := List.mem_map.mp ho
    split
    · rw [hg]; exact h.ids x hx
    · exact h.ids x hx⟩

theorem keptO_next {cq : List Instr} (s : State) (h : Kept cq s) : KeptO cq (.next s) := by
  constructor; intro t ht; cases ht; exact h
theorem kept_foldl {cq : List Instr} {β : Type} (l : List β) (f : State → β → State) (s : State)
    (hf : ∀ s b, Kept cq s → Kept cq (f s b)) (h : Kept cq s) : Kept cq (l.foldl f s) := by
  induction l generalizing s with
  | nil => exact h
  | cons a r ih => exact ih _ (hf _ _ h)
theorem kept_foldl2 {cq : List Instr} {α β : Type} (l : List β) (f : α × State → β → α × State) (p : α × State)
    (hf : ∀ p b, Kept cq p.2 → Kept cq (f p b).2) (h : Kept cq p.2) : Kept cq (l.foldl f p).2 := by
  induction l generalizing p with
  | nil => exact h
  | cons a r ih => exact ih _ (hf _ _ h)
theorem kept_foldl1 {cq : List Instr} {α β : Type} (l : List β) (f : State × α → β → State × α) (p : State × α)
    (hf : ∀ p b, Kept cq p.1 → Kept cq (f p b).1) (h : Kept cq p.1) : Kept cq (l.foldl f p).1 := by
  induction l generalizing p with
  | nil => exact h
  | cons a r ih => exact ih _ (hf _ _ h)
theorem keptO_fault {cq : List Instr} (r : Fault) : KeptO cq (.fault r) := by
  constructor; intro t ht; cases ht

/-! ### Ops -/

theorem kept_setReg {cq : List Instr} (a : Nat) (v : BitVec 32) (s : State) (h_s : Kept cq s) : Kept cq (setReg a v s) := by
  unfold setReg
  try dsimp only
  repeat' (first
    | with_reducible assumption | with_reducible apply kept_foldl | with_reducible apply kept_foldl2
    | with_reducible apply kept_foldl1 | (intro _) | (with_reducible split)
    | (dsimp only [Kept]; (first | with_reducible assumption | change Kept _ _)))

theorem kept_updReg {cq : List Instr} (a : Nat) (f : BitVec 32 → BitVec 32) (s : State) (h_s : Kept cq s) : Kept cq (updReg a f
    s) := by
  unfold updReg
  try dsimp only
  repeat' (first | with_reducible assumption | with_reducible apply kept_setReg)

theorem kept_countReg {cq : List Instr} (a : Nat) (n : Nat) (s : State) (h_s : Kept cq s) : Kept cq (countReg a n s) := by
  unfold countReg
  try dsimp only
  repeat' (first | with_reducible assumption | with_reducible apply kept_updReg)

theorem kept_regBit {cq : List Instr} (a : Nat) (i : Nat) (b : Bool) (s : State) (h_s : Kept cq s) : Kept cq (regBit a i b s) :=
    by
  unfold regBit
  try dsimp only
  repeat' (first | with_reducible assumption | with_reducible apply kept_updReg)

theorem kept_setReg64 {cq : List Instr} (a : Nat) (v : BitVec 64) (s : State) (h_s : Kept cq s) : Kept cq (setReg64 a v s) := by
  unfold setReg64
  try dsimp only
  repeat' (first | with_reducible assumption | with_reducible apply kept_setReg)

theorem kept_setTile {cq : List Instr} (t : Nat) (x : Tile) (s : State) (h_s : Kept cq s) : Kept cq (setTile t x s) := by
  unfold setTile
  try dsimp only
  repeat' (first
    | with_reducible assumption | with_reducible apply kept_foldl | with_reducible apply kept_foldl2
    | with_reducible apply kept_foldl1 | (intro _) | (with_reducible split)
    | (dsimp only [Kept]; (first | with_reducible assumption | change Kept _ _)))

theorem kept_updTile {cq : List Instr} (t : Nat) (f : Tile → Tile) (s : State) (h_s : Kept cq s) : Kept cq (updTile t f s) := by
  unfold updTile
  try dsimp only
  repeat' (first | with_reducible assumption | with_reducible apply kept_setTile)

theorem kept_updPart {cq : List Instr} (p : Nat) (f : Part → Part) (s : State) (h_s : Kept cq s) : Kept cq (updPart p f s) := by
  unfold updPart
  try dsimp only
  repeat' (first
    | with_reducible assumption | with_reducible apply kept_foldl | with_reducible apply kept_foldl2
    | with_reducible apply kept_foldl1 | (intro _) | (with_reducible split)
    | (dsimp only [Kept]; (first | with_reducible assumption | change Kept _ _)))

theorem kept_updJob {cq : List Instr} (j : BitVec 16) (f : Job → Job) (s : State) (h_s : Kept cq s) : Kept cq (updJob j f s) :=
    by
  unfold updJob
  try dsimp only
  repeat' (first
    | with_reducible assumption | with_reducible apply kept_foldl | with_reducible apply kept_foldl2
    | with_reducible apply kept_foldl1 | (intro _) | (with_reducible split)
    | (dsimp only [Kept]; (first | with_reducible assumption | change Kept _ _)))

theorem kept_writeScratch {cq : List Instr} (t : Nat) (a : Nat) (bs : List Byte) (s : State) (h_s : Kept cq s) : Kept cq
    (writeScratch t a bs s) := by
  exact ⟨h_s.pend, writeMem_wf _ _ _ h_s.sc, h_s.va, h_s.fl, h_s.ev, h_s.ri, h_s.led, h_s.ids⟩

theorem kept_writeVault {cq : List Instr} (t : Nat) (a : Nat) (bs : List Byte) (s : State) (h_s : Kept cq s) : Kept cq
    (writeVault t a bs s) := by
  exact ⟨h_s.pend, h_s.sc, writeMem_wf _ _ _ h_s.va, h_s.fl, h_s.ev, h_s.ri, h_s.led, h_s.ids⟩

theorem kept_updAllTiles {cq : List Instr} (f : Tile → Tile) (s : State) (h_s : Kept cq s) : Kept cq (updAllTiles f s) := by
  unfold updAllTiles
  generalize tilesIn s = l
  induction l generalizing s with
  | nil => exact h_s
  | cons a r ih => exact ih _ (kept_updTile _ _ _ h_s)

theorem kept_emit {cq : List Instr} (o : Out) (s : State) (h_s : Kept cq s) : Kept cq (emit o s) := by
  unfold emit
  try dsimp only
  repeat' (first
    | with_reducible assumption | with_reducible apply kept_foldl | with_reducible apply kept_foldl2
    | with_reducible apply kept_foldl1 | (intro _) | (with_reducible split)
    | (dsimp only [Kept]; (first | with_reducible assumption | change Kept _ _)))

theorem kept_useFree {cq : List Instr} (s : State) (h_s : Kept cq s) : Kept cq (useFree s) := by
  unfold useFree
  try dsimp only
  repeat' (first
    | with_reducible assumption | with_reducible apply kept_foldl | with_reducible apply kept_foldl2
    | with_reducible apply kept_foldl1 | (intro _) | (with_reducible split)
    | (dsimp only [Kept]; (first | with_reducible assumption | change Kept _ _)))

theorem kept_forAll {cq : List Instr} {α : Type} (l : List α) (f : α → State → State) (s : State)
    (h_f : ∀ x0 x1, Kept cq x1 → Kept cq (f x0 x1)) (h_s : Kept cq s) : Kept cq (forAll l f s) := by
  unfold forAll
  induction l generalizing s with
  | nil => exact h_s
  | cons a r ih => exact ih _ (h_f _ _ h_s)

theorem kept_onlyIf {cq : List Instr} (c : Bool) (f : State → State) (s : State) (h_f : ∀ x0, Kept cq x0 → Kept cq (f x0)) (h_s
    : Kept cq s) : Kept cq (onlyIf c f s) := by
  unfold onlyIf
  try dsimp only
  repeat' (first
    | with_reducible assumption | with_reducible apply h_f | with_reducible apply kept_foldl | with_reducible apply kept_foldl2
    | with_reducible apply kept_foldl1 | (intro _) | (with_reducible split))

theorem kept_evPostAt {cq : List Instr} (src : Byte) (value : BitVec 32) (stamp : BitVec 64) (mk : Mark) (s : State)
    (h_s : Kept cq s) : Kept cq (evPostAt src value stamp mk s) := by
  unfold evPostAt
  split
  · next h => exact ⟨h_s.pend, h_s.sc, h_s.va, h_s.fl, by simpa using Nat.succ_le_of_lt h, h_s.ri, h_s.led, h_s.ids⟩
  · exact ⟨h_s.pend, h_s.sc, h_s.va, h_s.fl, h_s.ev, h_s.ri, h_s.led, h_s.ids⟩

theorem kept_evPost {cq : List Instr} (src : Byte) (value : BitVec 32) (s : State) (h_s : Kept cq s) : Kept cq (evPost src value
    s) := by
  unfold evPost
  try dsimp only
  repeat' (first | with_reducible assumption | with_reducible apply kept_evPostAt)

theorem kept_report {cq : List Instr} (type : Byte) (origin : Origin) (key : BitVec 32) (payload : List Byte) (s : State)
    (h_s : Kept cq s) : Kept cq (report type origin key payload s) := by
  unfold report
  dsimp only
  split
  · next h => exact ⟨h_s.pend, h_s.sc, h_s.va, h_s.fl, h_s.ev, by simpa using Nat.succ_le_of_lt h, h_s.led, h_s.ids⟩
  · exact ⟨h_s.pend, h_s.sc, h_s.va, h_s.fl, h_s.ev, h_s.ri, h_s.led, h_s.ids⟩

theorem kept_statusReport {cq : List Instr} (type : Byte) (origin : Origin) (v : BitVec 32) (i : Nat) (up : Bool) (s : State)
    (h_s : Kept cq s) : Kept cq (statusReport type origin v i up s) := by
  unfold statusReport
  try dsimp only
  repeat' (first | with_reducible assumption | with_reducible apply kept_report)

theorem kept_statusBit {cq : List Instr} (type : Byte) (origin : Origin) (a : Nat) (i : Nat) (b : Bool) (s : State) (h_s : Kept
    cq s) : Kept cq (statusBit type origin a i b s) := by
  unfold statusBit
  try dsimp only
  repeat' (first
    | with_reducible assumption | with_reducible apply kept_regBit | with_reducible apply kept_statusReport
    | with_reducible apply kept_foldl | with_reducible apply kept_foldl2 | with_reducible apply kept_foldl1 | (intro _)
    | (with_reducible split))

theorem kept_govBit {cq : List Instr} (i : Nat) (b : Bool) (s : State) (h_s : Kept cq s) : Kept cq (govBit i b s) := by
  unfold govBit
  try dsimp only
  repeat' (first
    | with_reducible assumption | with_reducible apply kept_statusBit | with_reducible apply kept_regBit
    | with_reducible apply kept_foldl | with_reducible apply kept_foldl2 | with_reducible apply kept_foldl1 | (intro _)
    | (with_reducible split))

theorem kept_attrBit {cq : List Instr} (i : Nat) (b : Bool) (s : State) (h_s : Kept cq s) : Kept cq (attrBit i b s) := by
  unfold attrBit
  try dsimp only
  repeat' (first | with_reducible assumption | with_reducible apply kept_statusBit)

theorem kept_logEntry {cq : List Instr} (c : Change) (s : State) (h_s : Kept cq s) : Kept cq (logEntry c s) := by
  unfold logEntry
  try dsimp only
  repeat' (first
    | with_reducible assumption | with_reducible apply kept_foldl | with_reducible apply kept_foldl2
    | with_reducible apply kept_foldl1 | (intro _) | (with_reducible split)
    | (dsimp only [Kept]; (first | with_reducible assumption | change Kept _ _)))

theorem kept_logWrite {cq : List Instr} (o : Origin) (a : Nat) (aux : BitVec 32) (old : BitVec 32) (new : BitVec 32) (s : State)
    (h_s : Kept cq s) : Kept cq (logWrite o a aux old new s) := by
  unfold logWrite
  try dsimp only
  repeat' (first | with_reducible assumption | with_reducible apply kept_logEntry)

theorem kept_logHwBy {cq : List Instr} (o : Origin) (kind : Byte) (target : Nat) (old : BitVec 64) (new : BitVec 64) (s : State)
    (h_s : Kept cq s) : Kept cq (logHwBy o kind target old new s) := by
  unfold logHwBy
  try dsimp only
  repeat' (first
    | with_reducible assumption | with_reducible apply kept_logEntry | with_reducible apply kept_report
    | with_reducible apply kept_foldl | with_reducible apply kept_foldl2 | with_reducible apply kept_foldl1 | (intro _)
    | (with_reducible split) | (dsimp only [Kept]; (first | with_reducible assumption | change Kept _ _)))

theorem kept_logHw {cq : List Instr} (kind : Byte) (target : Nat) (old : BitVec 64) (new : BitVec 64) (s : State) (h_s : Kept cq
    s) : Kept cq (logHw kind target old new s) := by
  unfold logHw
  try dsimp only
  repeat' (first | with_reducible assumption | with_reducible apply kept_logHwBy)

theorem kept_refuseRights {cq : List Instr} (o : Origin) (key : BitVec 32) (s : State) (h_s : Kept cq s) : Kept cq (refuseRights
    o key s) := by
  unfold refuseRights
  try dsimp only
  repeat' (first | with_reducible assumption | with_reducible apply kept_report)

/-! ### Palette -/

theorem kept_setInact {cq : List Instr} (k : Nat) (v : BitVec 32) (s : State) (h_s : Kept cq s) : Kept cq (setInact k v s) := by
  unfold setInact
  try dsimp only
  repeat' (first
    | with_reducible assumption | with_reducible apply kept_foldl | with_reducible apply kept_foldl2
    | with_reducible apply kept_foldl1 | (intro _) | (with_reducible split)
    | (dsimp only [Kept]; (first | with_reducible assumption | change Kept _ _)))

theorem kept_setAct {cq : List Instr} (k : Nat) (v : BitVec 32) (s : State) (h_s : Kept cq s) : Kept cq (setAct k v s) := by
  unfold setAct
  try dsimp only
  repeat' (first
    | with_reducible assumption | with_reducible apply kept_foldl | with_reducible apply kept_foldl2
    | with_reducible apply kept_foldl1 | (intro _) | (with_reducible split)
    | (dsimp only [Kept]; (first | with_reducible assumption | change Kept _ _)))

theorem kept_palSwap {cq : List Instr} (s : State) (h_s : Kept cq s) : Kept cq (palSwap s) := by
  unfold palSwap
  try dsimp only
  repeat' (first
    | with_reducible assumption | with_reducible apply kept_foldl | with_reducible apply kept_foldl2
    | with_reducible apply kept_foldl1 | (intro _) | (with_reducible split)
    | (dsimp only [Kept]; (first | with_reducible assumption | change Kept _ _)))

theorem kept_palCopy {cq : List Instr} (keep : List Nat) (s : State) (h_s : Kept cq s) : Kept cq (palCopy keep s) := by
  unfold palCopy
  try dsimp only
  repeat' (first
    | with_reducible assumption | with_reducible apply kept_forAll | with_reducible apply kept_setInact
    | with_reducible apply kept_foldl | with_reducible apply kept_foldl2 | with_reducible apply kept_foldl1 | (intro _)
    | (with_reducible split) | (dsimp only [Kept]; (first | with_reducible assumption | change Kept _ _)))

theorem kept_palRole {cq : List Instr} (s : State) (h_s : Kept cq s) : Kept cq (palRole s) := by
  unfold palRole
  try dsimp only
  repeat' (first
    | with_reducible assumption | with_reducible apply kept_setInact | with_reducible apply kept_setAct
    | with_reducible apply kept_foldl | with_reducible apply kept_foldl2 | with_reducible apply kept_foldl1 | (intro _)
    | (with_reducible split) | (dsimp only [Kept]; (first | with_reducible assumption | change Kept _ _)))

/-! ### Hash -/

theorem kept_flashWrite {cq : List Instr} (a : Nat) (bs : List Byte) (s : State) (h : Kept cq s) :
    Kept cq (flashWrite a bs s) := by
  induction bs generalizing a s with
  | nil => exact h
  | cons b r ih => exact ih _ _ ⟨h.pend, h.sc, h.va, mapWf_mapSet 0xFF _ _ _ h.fl, h.ev, h.ri, h.led, h.ids⟩

theorem kept_flashSector {cq : List Instr} (a : Nat) (bs : List Byte) (s : State) (h_s : Kept cq s) : Kept cq
    (flashSector a bs s) := by
  exact kept_flashWrite _ _ _ ⟨h_s.pend, h_s.sc, h_s.va, mapWf_mapClear 0xFF _ _ _ h_s.fl, h_s.ev, h_s.ri, h_s.led, h_s.ids⟩

/-! ### Recorder -/

theorem kept_commitReport {cq : List Instr} (x : Report) (s : State) (h_s : Kept cq s) : Kept cq (commitReport x s) := by
  unfold commitReport
  try dsimp only
  repeat' (first
    | with_reducible assumption | with_reducible apply kept_evPostAt | with_reducible apply kept_foldl
    | with_reducible apply kept_foldl2 | with_reducible apply kept_foldl1 | (intro _) | (with_reducible split)
    | (dsimp only [Kept]; (first | with_reducible assumption | change Kept _ _)))

theorem kept_execRecordCommit {cq : List Instr} (s : State) (h_s : Kept cq s) : KeptO cq (execRecordCommit s) := by
  unfold execRecordCommit
  dsimp only
  split
  · exact keptO_next _ h_s
  · next x rest h =>
    refine keptO_next _ (kept_commitReport _ _ ⟨h_s.pend, h_s.sc, h_s.va, h_s.fl, h_s.ev, ?_, h_s.led, h_s.ids⟩)
    have := h_s.ri
    rw [h] at this
    dsimp only
    split <;> simp at this ⊢ <;> omega

theorem kept_recClear {cq : List Instr} (o : Origin) (mode : Bool) (s : State) (h_s : Kept cq s) : Kept cq (recClear o mode s)
    := by
  unfold recClear
  try dsimp only
  repeat' (first
    | with_reducible assumption | with_reducible apply kept_regBit | with_reducible apply kept_commitReport
    | with_reducible apply kept_foldl | with_reducible apply kept_foldl2 | with_reducible apply kept_foldl1 | (intro _)
    | (with_reducible split) | (dsimp only [Kept]; (first | with_reducible assumption | change Kept _ _)))

theorem kept_logEvent {cq : List Instr} (i : Nat) (up : Bool) (s : State) (h_s : Kept cq s) : Kept cq (logEvent i up s) := by
  unfold logEvent
  try dsimp only
  repeat' (first | with_reducible assumption | with_reducible apply kept_statusReport)

theorem kept_commitChange {cq : List Instr} (c : Change) (s : State) (h_s : Kept cq s) : Kept cq (commitChange c s) := by
  unfold commitChange
  try dsimp only
  repeat' (first
    | with_reducible assumption | with_reducible apply kept_evPostAt | with_reducible apply kept_logEvent
    | with_reducible apply kept_foldl | with_reducible apply kept_foldl2 | with_reducible apply kept_foldl1 | (intro _)
    | (with_reducible split) | (dsimp only [Kept]; (first | with_reducible assumption | change Kept _ _)))

theorem kept_execChangeLogCommit {cq : List Instr} (s : State) (h_s : Kept cq s) : KeptO cq (execChangeLogCommit s) := by
  unfold execChangeLogCommit
  try dsimp only
  repeat' (first
    | with_reducible assumption | with_reducible apply keptO_next | with_reducible apply kept_commitChange
    | with_reducible apply kept_foldl | with_reducible apply kept_foldl2 | with_reducible apply kept_foldl1 | (intro _)
    | (with_reducible split) | (dsimp only [Kept]; (first | with_reducible assumption | change Kept _ _)))

theorem kept_logClear {cq : List Instr} (o : Origin) (s : State) (h_s : Kept cq s) : Kept cq (logClear o s) := by
  unfold logClear
  try dsimp only
  repeat' (first
    | with_reducible assumption | with_reducible apply kept_onlyIf | with_reducible apply kept_logEvent
    | with_reducible apply kept_commitChange | with_reducible apply kept_foldl | with_reducible apply kept_foldl2
    | with_reducible apply kept_foldl1 | (intro _) | (with_reducible split)
    | (dsimp only [Kept]; (first | with_reducible assumption | change Kept _ _)))

/-! ### Energy -/

theorem kept_charge {cq : List Instr} (acct : Nat) (k : Nat) (n : Nat) (s : State) (h_s : Kept cq s) : Kept cq (charge acct k n
    s) := by
  unfold charge
  try dsimp only
  repeat' (first
    | with_reducible assumption | with_reducible apply kept_foldl | with_reducible apply kept_foldl2
    | with_reducible apply kept_foldl1 | (intro _) | (with_reducible split)
    | (dsimp only [Kept]; (first | with_reducible assumption | change Kept _ _)))

/-! ### Attribution -/

theorem kept_updAttr {cq : List Instr} (f : Attr → Attr) (s : State)
    (h_f : ∀ a : Attr, Ledger a.acct a.cleared a.metered a.clear → Ledger (f a).acct (f a).cleared (f a).metered (f a).clear)
    (h_s : Kept cq s) : Kept cq (updAttr f s) := kept_of_ledger _ _ h_s (h_f _ h_s.led)

theorem kept_attrBeat {cq : List Instr} (s : State) (h_s : Kept cq s) : Kept cq (attrBeat s) := by
  unfold attrBeat
  try dsimp only
  repeat' (first
    | with_reducible assumption | with_reducible apply kept_forAll | with_reducible apply kept_charge
    | with_reducible apply kept_updAttr | exact fun _ h => h | with_reducible apply kept_foldl
    | with_reducible apply kept_foldl2 | with_reducible apply kept_foldl1 | (intro _) | (with_reducible split))

theorem kept_credit {cq : List Instr} (e : Nat) (s : State) (h_s : Kept cq s) : Kept cq (credit e s) := by
  unfold credit
  dsimp only
  exact kept_of_ledger _ _ h_s (ledger_credit _ _ _ _ _ _ (by rw [List.map_map]; exact List.map_id _) h_s.led)

theorem kept_reconcile {cq : List Instr} (f : List Byte) (s : State) (h_s : Kept cq s) : Kept cq (reconcile f s) := by
  unfold reconcile
  try dsimp only
  repeat' (first
    | with_reducible assumption | with_reducible apply kept_updAttr | with_reducible apply kept_attrBit
    | with_reducible apply kept_countReg | with_reducible apply kept_credit | exact fun _ h => h
    | with_reducible apply kept_foldl | with_reducible apply kept_foldl2 | with_reducible apply kept_foldl1 | (intro _)
    | (with_reducible split))

theorem kept_applyClear {cq : List Instr} (s : State) (h_s : Kept cq s) : Kept cq (applyClear s) := by
  unfold applyClear
  split
  · exact h_s
  · next i h => exact kept_of_ledger _ _ h_s (ledger_clear _ _ _ i (h ▸ h_s.led))

theorem kept_mirrorRec {cq : List Instr} (f : List Byte) (s : State) (h_s : Kept cq s) : Kept cq (mirrorRec f s) := by
  unfold mirrorRec
  try dsimp only
  repeat' (first
    | with_reducible assumption | with_reducible apply kept_updAttr | with_reducible apply kept_evPost
    | with_reducible apply kept_regBit | exact fun _ h => h | with_reducible apply kept_foldl
    | with_reducible apply kept_foldl2 | with_reducible apply kept_foldl1 | (intro _) | (with_reducible split))

theorem kept_execFeedFrame {cq : List Instr} (data : List Byte) (s : State) (h_s : Kept cq s) : KeptO cq (execFeedFrame data s)
    := by
  unfold execFeedFrame
  try dsimp only
  repeat' (first
    | with_reducible assumption | with_reducible apply keptO_next | with_reducible apply kept_updAttr | exact fun _ h => h)

theorem kept_execFeedAccept {cq : List Instr} (s : State) (h_s : Kept cq s) : KeptO cq (execFeedAccept s) := by
  unfold execFeedAccept
  try dsimp only
  repeat' (first
    | with_reducible assumption | with_reducible apply keptO_next | with_reducible apply kept_updAttr
    | with_reducible apply kept_applyClear | with_reducible apply kept_reconcile | with_reducible apply kept_mirrorRec
    | with_reducible apply kept_attrBit | with_reducible apply kept_countReg | exact fun _ h => h
    | with_reducible apply kept_foldl | with_reducible apply kept_foldl2 | with_reducible apply kept_foldl1 | (intro _)
    | (with_reducible split))

theorem kept_execFeedStale {cq : List Instr} (s : State) (h_s : Kept cq s) : KeptO cq (execFeedStale s) := by
  unfold execFeedStale
  try dsimp only
  repeat' (first
    | with_reducible assumption | with_reducible apply keptO_next | with_reducible apply kept_attrBit
    | with_reducible apply kept_foldl | with_reducible apply kept_foldl2 | with_reducible apply kept_foldl1 | (intro _)
    | (with_reducible split))

theorem kept_attrClear {cq : List Instr} (v : BitVec 32) (s : State) (h_s : Kept cq s) : Kept cq (attrClear v s).2 := by
  unfold attrClear
  split
  · exact h_s
  · split
    · exact h_s
    · next h =>
      refine kept_of_ledger _ _ h_s ⟨h_s.led.sum, fun i hi => ?_⟩
      simp only [Bool.or_eq_true, decide_eq_true_eq, not_or] at h
      cases hi
      omega

theorem kept_freezeSet {cq : List Instr} (on : Bool) (s : State) (h_s : Kept cq s) : Kept cq (freezeSet on s) := by
  unfold freezeSet
  try dsimp only
  repeat' (first
    | with_reducible assumption | with_reducible apply kept_regBit | with_reducible apply kept_updAttr | exact fun _ h => h
    | with_reducible apply kept_foldl | with_reducible apply kept_foldl2 | with_reducible apply kept_foldl1 | (intro _)
    | (with_reducible split))

theorem kept_execFreezeTimeout {cq : List Instr} (s : State) (h_s : Kept cq s) : KeptO cq (execFreezeTimeout s) := by
  unfold execFreezeTimeout
  try dsimp only
  repeat' (first
    | with_reducible assumption | with_reducible apply keptO_next | with_reducible apply kept_freezeSet
    | with_reducible apply kept_report | with_reducible apply kept_foldl | with_reducible apply kept_foldl2
    | with_reducible apply kept_foldl1 | (intro _) | (with_reducible split))

/-! ### Routes -/

theorem kept_updLink {cq : List Instr} (n : Nat) (f : Link → Link) (s : State) (h_s : Kept cq s) : Kept cq (updLink n f s) := by
  unfold updLink
  try dsimp only
  repeat' (first
    | with_reducible assumption | with_reducible apply kept_foldl | with_reducible apply kept_foldl2
    | with_reducible apply kept_foldl1 | (intro _) | (with_reducible split)
    | (dsimp only [Kept]; (first | with_reducible assumption | change Kept _ _)))

theorem kept_assemble {cq : List Instr} (src : PkgId) (i : Nat) (n : Nat) (m : NetMsg) (s : State) (h_s : Kept cq s) : Kept cq
    (assemble src i n m s).2 := by
  unfold assemble
  try dsimp only
  repeat' (first
    | with_reducible assumption | with_reducible apply kept_foldl | with_reducible apply kept_foldl2
    | with_reducible apply kept_foldl1 | (intro _) | (with_reducible split)
    | (dsimp only [Kept]; (first | with_reducible assumption | change Kept _ _)))

theorem kept_leftNow {cq : List Instr} (src : PkgId) (m : NetMsg) (s : State) (h_s : Kept cq s) : Kept cq (leftNow src m s) := by
  unfold leftNow
  repeat' (first | with_reducible assumption | exact kept_mapOps s _ _ (fun _ => rfl) h_s | split)

theorem kept_transmitOne {cq : List Instr} (n : Nat) (s : State) (h_s : Kept cq s) : Kept cq (transmitOne n s) := by
  unfold transmitOne
  try dsimp only
  repeat' (first
    | with_reducible assumption | with_reducible apply kept_updLink | with_reducible apply kept_leftNow
    | with_reducible apply kept_emit | with_reducible apply kept_foldl | with_reducible apply kept_foldl2
    | with_reducible apply kept_foldl1 | (intro _) | (with_reducible split))

theorem kept_transmit {cq : List Instr} (n : Nat) (s : State) (h_s : Kept cq s) : Kept cq (transmit n s) := by
  unfold transmit
  try dsimp only
  repeat' (first
    | with_reducible assumption | with_reducible apply kept_transmitOne | with_reducible apply kept_foldl
    | with_reducible apply kept_foldl2 | with_reducible apply kept_foldl1 | (intro _))

theorem kept_linkSend {cq : List Instr} (n : Nat) (acct : Nat) (p : LinkFrame) (s : State) (h_s : Kept cq s) : Kept cq (linkSend
    n acct p s) := by
  unfold linkSend
  try dsimp only
  repeat' (first
    | with_reducible assumption | with_reducible apply kept_updLink | with_reducible apply kept_transmit
    | with_reducible apply kept_charge)

theorem kept_cl0Send {cq : List Instr} (n : Nat) (src : Cl0Source) (acct : Nat) (p : LinkFrame) (s : State) (h_s : Kept cq s) :
    Kept cq (cl0Send n src acct p s) := by
  unfold cl0Send
  try dsimp only
  repeat' (first
    | with_reducible assumption | with_reducible apply kept_linkSend | with_reducible apply kept_updLink
    | with_reducible apply kept_countReg | with_reducible apply kept_report | with_reducible apply kept_foldl
    | with_reducible apply kept_foldl2 | with_reducible apply kept_foldl1 | (intro _) | (with_reducible split))

theorem kept_refillLink {cq : List Instr} (n : Nat) (s : State) (h_s : Kept cq s) : Kept cq (refillLink n s) := by
  unfold refillLink
  try dsimp only
  repeat' (first | with_reducible assumption | with_reducible apply kept_updLink)

/-! ### Transport -/

theorem kept_updSes {cq : List Instr} (n : Nat) (f : Session → Session) (s : State) (h_s : Kept cq s) : Kept cq (updSes n f s)
    := by
  unfold updSes
  try dsimp only
  repeat' (first
    | with_reducible assumption | with_reducible apply kept_foldl | with_reducible apply kept_foldl2
    | with_reducible apply kept_foldl1 | (intro _) | (with_reducible split)
    | (dsimp only [Kept]; (first | with_reducible assumption | change Kept _ _)))

theorem kept_setChan {cq : List Instr} (sp : Space) (c : Chan) (s : State) (h_s : Kept cq s) : Kept cq (setChan sp c s) := by
  unfold setChan
  try dsimp only
  repeat' (first
    | with_reducible assumption | with_reducible apply kept_updSes | with_reducible apply kept_foldl
    | with_reducible apply kept_foldl2 | with_reducible apply kept_foldl1 | (intro _) | (with_reducible split)
    | (dsimp only [Kept]; (first | with_reducible assumption | change Kept _ _)))

theorem kept_ethEmit {cq : List Instr} (e : BitVec 2 × EthOut) (s : State) (h_s : Kept cq s) : Kept cq (ethEmit e s) := by
  unfold ethEmit
  try dsimp only
  repeat' (first
    | with_reducible assumption | with_reducible apply kept_emit | with_reducible apply kept_leftNow
    | with_reducible apply kept_foldl | with_reducible apply kept_foldl2 | with_reducible apply kept_foldl1 | (intro _)
    | (with_reducible split))

theorem kept_ethOne {cq : List Instr} (s : State) (h_s : Kept cq s) : Kept cq (ethOne s) := by
  unfold ethOne
  try dsimp only
  repeat' (first
    | with_reducible assumption | with_reducible apply kept_ethEmit | with_reducible apply kept_foldl
    | with_reducible apply kept_foldl2 | with_reducible apply kept_foldl1 | (intro _) | (with_reducible split)
    | (dsimp only [Kept]; (first | with_reducible assumption | change Kept _ _)))

theorem kept_ethPump {cq : List Instr} (s : State) (h_s : Kept cq s) : Kept cq (ethPump s) := by
  unfold ethPump
  try dsimp only
  repeat' (first
    | with_reducible assumption | with_reducible apply kept_ethOne | with_reducible apply kept_foldl
    | with_reducible apply kept_foldl2 | with_reducible apply kept_foldl1 | (intro _))

theorem kept_ethPut {cq : List Instr} (cls : BitVec 2) (x : EthOut) (s : State) (h_s : Kept cq s) : Kept cq (ethPut cls x s) :=
    by
  unfold ethPut
  try dsimp only
  repeat' (first
    | with_reducible assumption | with_reducible apply kept_ethPump | with_reducible apply kept_foldl
    | with_reducible apply kept_foldl2 | with_reducible apply kept_foldl1 | (intro _) | (with_reducible split)
    | (dsimp only [Kept]; (first | with_reducible assumption | change Kept _ _)))

theorem kept_wire {cq : List Instr} (sp : Space) (m : HostMsg) (s : State) (h_s : Kept cq s) : Kept cq (wire sp m s) := by
  unfold wire
  try dsimp only
  repeat' (first
    | with_reducible assumption | with_reducible apply kept_ethPut | with_reducible apply kept_foldl
    | with_reducible apply kept_foldl2 | with_reducible apply kept_foldl1 | (intro _) | (with_reducible split))

theorem kept_chanPump {cq : List Instr} (k : Nat) (sp : Space) (s : State) (h_s : Kept cq s) : Kept cq (chanPump k sp s) := by
  induction k generalizing s with
  | zero => exact h_s
  | succ k ih =>
    unfold chanPump
    dsimp only
    repeat' (first
        | with_reducible assumption | with_reducible apply ih | with_reducible apply kept_wire
        | with_reducible apply kept_setChan | (with_reducible split))

theorem kept_chanSend {cq : List Instr} (sp : Space) (m : HostMsg) (s : State) (h_s : Kept cq s) : Kept cq (chanSend sp m s) :=
    by
  unfold chanSend
  try dsimp only
  repeat' (first | with_reducible assumption | with_reducible apply kept_chanPump | with_reducible apply kept_setChan)

theorem kept_chanAck {cq : List Instr} (sp : Space) (ackno : BitVec 32) (ecn : Bool) (s : State) (h_s : Kept cq s) : Kept cq
    (chanAck sp ackno ecn s) := by
  unfold chanAck
  try dsimp only
  repeat' (first | with_reducible assumption | with_reducible apply kept_chanPump | with_reducible apply kept_setChan)

theorem kept_hostSend {cq : List Instr} (n : Nat) (m : HostMsg) (s : State) (h_s : Kept cq s) : Kept cq (hostSend n m s) := by
  unfold hostSend
  try dsimp only
  repeat' (first
    | with_reducible assumption | with_reducible apply kept_chanSend | with_reducible apply kept_foldl
    | with_reducible apply kept_foldl2 | with_reducible apply kept_foldl1 | (intro _) | (with_reducible split))

theorem kept_respond {cq : List Instr} (n : Nat) (tag : BitVec 16) (status : BitVec 8) (index : Nat) (data : List Byte) (s :
    State) (h_s : Kept cq s) : Kept cq (respond n tag status index data s) := by
  unfold respond
  try dsimp only
  repeat' (first
    | with_reducible assumption | with_reducible apply kept_hostSend | with_reducible apply kept_updSes
    | with_reducible apply kept_foldl | with_reducible apply kept_foldl2 | with_reducible apply kept_foldl1 | (intro _)
    | (with_reducible split))

theorem kept_closeSession {cq : List Instr} (n : Nat) (s : State) (h_s : Kept cq s) : Kept cq (closeSession n s) := by
  refine kept_countReg _ _ _ ⟨h_s.pend, h_s.sc, h_s.va, h_s.fl, h_s.ev, h_s.ri, h_s.led, fun o ho => ?_⟩
  obtain ⟨p, hp, rfl⟩ := List.mem_map.mp ho
  dsimp only
  split <;> exact h_s.ids p hp

theorem kept_netSend {cq : List Instr} (cls : BitVec 2) (src : Option Cl0Source) (acct : Nat) (dst : PkgId) (m : NetMsg) (s :
    State) (h_s : Kept cq s) : Kept cq (netSend cls src acct dst m s).2 := by
  unfold netSend
  try dsimp only
  repeat' (first
    | with_reducible assumption | with_reducible apply kept_emit | with_reducible apply kept_forAll
    | with_reducible apply kept_charge | with_reducible apply kept_chanSend | with_reducible apply kept_cl0Send
    | with_reducible apply kept_linkSend | with_reducible apply kept_foldl | with_reducible apply kept_foldl2
    | with_reducible apply kept_foldl1 | (intro _) | (with_reducible split))

theorem kept_cl0To {cq : List Instr} (src : Cl0Source) (dst : PkgId) (m : NetMsg) (s : State) (h_s : Kept cq s) : Kept cq (cl0To
    src dst m s) := by
  unfold cl0To
  try dsimp only
  repeat' (first | with_reducible assumption | with_reducible apply kept_netSend)

/-! ### Jobs -/

theorem kept_abandonUnit {cq : List Instr} (t : Nat) (d : Dma) (va : Nat) (sa : Nat) (s : State) (h_s : Kept cq s) : Kept cq
    (abandonUnit t d va sa s) := by
  unfold abandonUnit
  try dsimp only
  repeat' (first
    | with_reducible assumption | with_reducible apply kept_useFree | with_reducible apply kept_writeScratch
    | with_reducible apply kept_writeVault | with_reducible apply kept_foldl | with_reducible apply kept_foldl2
    | with_reducible apply kept_foldl1 | (intro _) | (with_reducible split)
    | (dsimp only [Kept]; (first | with_reducible assumption | change Kept _ _)))

theorem kept_abandonDma {cq : List Instr} (t : Nat) (d : Dma) (s : State) (h_s : Kept cq s) : Kept cq (abandonDma t d s) := by
  unfold abandonDma
  try dsimp only
  repeat' (first
    | with_reducible assumption | with_reducible apply kept_forAll | with_reducible apply kept_abandonUnit
    | with_reducible apply kept_foldl | with_reducible apply kept_foldl2 | with_reducible apply kept_foldl1 | (intro _))

theorem kept_stopTile {cq : List Instr} (t : Nat) (s : State) (h_s : Kept cq s) : Kept cq (stopTile t s) := by
  unfold stopTile
  try dsimp only
  repeat' (first
    | with_reducible assumption | with_reducible apply kept_forAll | with_reducible apply kept_abandonDma
    | with_reducible apply kept_setTile | with_reducible apply kept_foldl | with_reducible apply kept_foldl2
    | with_reducible apply kept_foldl1 | (intro _) | (with_reducible split)
    | (dsimp only [Kept]; (first | with_reducible assumption | change Kept _ _)))

theorem kept_dropPackets {cq : List Instr} (ids : List Nat) (s : State) (h_s : Kept cq s) : Kept cq (dropPackets ids s) := by
  unfold dropPackets
  try dsimp only
  repeat' (first
    | with_reducible assumption | with_reducible apply kept_foldl | with_reducible apply kept_foldl2
    | with_reducible apply kept_foldl1 | (intro _) | (with_reducible split)
    | (dsimp only [Kept]; (first | with_reducible assumption | change Kept _ _)))

theorem kept_dropOps {cq : List Instr} (all : Bool) (t : Nat) (s : State) (h_s : Kept cq s) : Kept cq (dropOps all t s) := by
  exact kept_dropPackets _ _
    ⟨h_s.pend, h_s.sc, h_s.va, h_s.fl, h_s.ev, h_s.ri, h_s.led, fun o ho => h_s.ids o (List.mem_filter.mp ho).1⟩

theorem kept_updQueue {cq : List Instr} (q : Nat) (f : Queue → Queue) (s : State) (h_s : Kept cq s) : Kept cq (updQueue q f s)
    := by
  unfold updQueue
  try dsimp only
  repeat' (first
    | with_reducible assumption | with_reducible apply kept_foldl | with_reducible apply kept_foldl2
    | with_reducible apply kept_foldl1 | (intro _) | (with_reducible split)
    | (dsimp only [Kept]; (first | with_reducible assumption | change Kept _ _)))

theorem kept_queueDrop {cq : List Instr} (q : Nat) (s : State) (h_s : Kept cq s) : Kept cq (queueDrop q s) := by
  unfold queueDrop
  try dsimp only
  repeat' (first | with_reducible assumption | with_reducible apply kept_updQueue)

theorem kept_queueFault {cq : List Instr} (q : Nat) (job : Option (BitVec 16)) (r : Option Report) (s : State) (h_s : Kept cq s)
    : Kept cq (queueFault q job r s) := by
  unfold queueFault
  try dsimp only
  repeat' (first
    | with_reducible assumption | with_reducible apply kept_queueDrop | with_reducible apply kept_hostSend
    | with_reducible apply kept_foldl | with_reducible apply kept_foldl2 | with_reducible apply kept_foldl1 | (intro _)
    | (with_reducible split))

theorem kept_jobStop {cq : List Instr} (j : BitVec 16) (r : Option Report) (s : State) (h_s : Kept cq s) : Kept cq (jobStop j r
    s) := by
  unfold jobStop
  try dsimp only
  repeat' (first
    | with_reducible assumption | with_reducible apply kept_updJob | with_reducible apply kept_forAll
    | with_reducible apply kept_stopTile | with_reducible apply kept_dropOps | with_reducible apply kept_hostSend
    | with_reducible apply kept_queueDrop | with_reducible apply kept_queueFault | with_reducible apply kept_foldl
    | with_reducible apply kept_foldl2 | with_reducible apply kept_foldl1 | (intro _) | (with_reducible split)
    | (dsimp only [Kept]; (first | with_reducible assumption | change Kept _ _)))

theorem kept_toMember {cq : List Instr} (m : NetMsg) (p : PkgId) (s : State) (h_s : Kept cq s) : Kept cq (toMember m p s) := by
  unfold toMember
  try dsimp only
  repeat' (first | with_reducible assumption | with_reducible apply kept_netSend)

theorem kept_jobFault {cq : List Instr} (cause : Byte) (r : Option Report) (j : BitVec 16) (s : State) (h_s : Kept cq s) : Kept
    cq (jobFault cause r j s) := by
  unfold jobFault
  try dsimp only
  repeat' (first
    | with_reducible assumption | with_reducible apply kept_jobStop | with_reducible apply kept_report
    | with_reducible apply kept_updJob | with_reducible apply kept_forAll | with_reducible apply kept_toMember
    | with_reducible apply kept_foldl | with_reducible apply kept_foldl2 | with_reducible apply kept_foldl1 | (intro _)
    | (with_reducible split))

theorem kept_jobStopFrom {cq : List Instr} (src : PkgId) (cause : Byte) (j : BitVec 16) (s : State) (h_s : Kept cq s) : Kept cq
    (jobStopFrom src cause j s) := by
  unfold jobStopFrom
  try dsimp only
  repeat' (first
    | with_reducible assumption | with_reducible apply kept_report | with_reducible apply kept_jobStop
    | with_reducible apply kept_foldl | with_reducible apply kept_foldl2 | with_reducible apply kept_foldl1 | (intro _)
    | (with_reducible split))

theorem kept_everyJobFault {cq : List Instr} (cause : Byte) (r : Option Report) (s : State) (h_s : Kept cq s) : Kept cq
    (everyJobFault cause r s) := by
  unfold everyJobFault
  try dsimp only
  repeat' (first
    | with_reducible assumption | with_reducible apply kept_forAll | with_reducible apply kept_jobFault
    | with_reducible apply kept_foldl | with_reducible apply kept_foldl2 | with_reducible apply kept_foldl1 | (intro _)
    | (with_reducible split))

theorem kept_kernelStop {cq : List Instr} (q : Nat) (r : Option Report) (s : State) (h_s : Kept cq s) : Kept cq (kernelStop q r
    s) := by
  unfold kernelStop
  try dsimp only
  repeat' (first
    | with_reducible assumption | with_reducible apply kept_queueFault | with_reducible apply kept_forAll
    | with_reducible apply kept_dropOps | with_reducible apply kept_stopTile | with_reducible apply kept_foldl
    | with_reducible apply kept_foldl2 | with_reducible apply kept_foldl1 | (intro _) | (with_reducible split))

theorem kept_kernelStopTile {cq : List Instr} (t : Nat) (r : Report) (s : State) (h_s : Kept cq s) : Kept cq (kernelStopTile t r
    s) := by
  unfold kernelStopTile
  try dsimp only
  repeat' (first | with_reducible assumption | with_reducible apply kept_kernelStop)

/-! ### Memory -/

theorem kept_faultRecord {cq : List Instr} (t : Nat) (code : Nat) (pc : Nat) (word : BitVec 64) (addr : Nat) (s : State) (h_s :
    Kept cq s) : Kept cq (faultRecord t code pc word addr s) := by
  unfold faultRecord
  try dsimp only
  repeat' (first | with_reducible assumption | with_reducible apply kept_updTile)

theorem kept_ueHit {cq : List Instr} (reader : Nat) (scratch : Bool) (t : Nat) (a : Nat) (own : Option (Nat × BitVec 64)) (s :
    State) (h_s : Kept cq s) : Kept cq (ueHit reader scratch t a own s) := by
  unfold ueHit
  try dsimp only
  repeat' (first
    | with_reducible assumption | with_reducible apply kept_useFree | with_reducible apply kept_setReg64
    | with_reducible apply kept_setReg | with_reducible apply kept_countReg | with_reducible apply kept_report
    | with_reducible apply kept_jobFault | with_reducible apply kept_kernelStopTile | with_reducible apply kept_faultRecord
    | with_reducible apply kept_foldl | with_reducible apply kept_foldl2 | with_reducible apply kept_foldl1 | (intro _)
    | (with_reducible split))

theorem kept_ceHit {cq : List Instr} (scratch : Bool) (t : Nat) (s : State) (h_s : Kept cq s) : Kept cq (ceHit scratch t s) :=
    by
  unfold ceHit
  try dsimp only
  repeat' (first
    | with_reducible assumption | with_reducible apply kept_setReg | with_reducible apply kept_setReg64
    | with_reducible apply kept_report | with_reducible apply kept_foldl | with_reducible apply kept_foldl2
    | with_reducible apply kept_foldl1 | (intro _) | (with_reducible split)
    | (dsimp only [Kept]; (first | with_reducible assumption | change Kept _ _)))

theorem kept_askFix {cq : List Instr} (scratch : Bool) (t : Nat) (g : Nat) (s : State) (h_s : Kept cq s) : Kept cq (askFix
    scratch t g s) := by
  unfold askFix
  try dsimp only
  repeat' (first
    | with_reducible assumption | with_reducible apply kept_foldl | with_reducible apply kept_foldl2
    | with_reducible apply kept_foldl1 | (intro _) | (with_reducible split)
    | (dsimp only [Kept]; (first | with_reducible assumption | change Kept _ _)))

theorem kept_openUnit {cq : List Instr} (t : Nat) (a : Nat) (s : State) (h_s : Kept cq s) : Kept cq (openUnit t a s) := by
  unfold openUnit
  try dsimp only
  repeat' (first
    | with_reducible assumption | with_reducible apply kept_foldl | with_reducible apply kept_foldl2
    | with_reducible apply kept_foldl1 | (intro _) | (with_reducible split)
    | (dsimp only [Kept]; (first | with_reducible assumption | change Kept _ _)))

theorem kept_openRows {cq : List Instr} (scratch : Bool) (t : Nat) (a : Nat) (n : Nat) (s : State) (h_s : Kept cq s) : Kept cq
    (openRows scratch t a n s) := by
  unfold openRows
  try dsimp only
  repeat' (first
    | with_reducible assumption | with_reducible apply kept_forAll | with_reducible apply kept_openUnit
    | with_reducible apply kept_foldl | with_reducible apply kept_foldl2 | with_reducible apply kept_foldl1 | (intro _)
    | (with_reducible split))

theorem kept_closeBank {cq : List Instr} (q : Nat) (s : State) (h_s : Kept cq s) : Kept cq (closeBank q s) := by
  unfold closeBank
  try dsimp only
  repeat' (first
    | with_reducible assumption | with_reducible apply kept_foldl | with_reducible apply kept_foldl2
    | with_reducible apply kept_foldl1 | (intro _) | (with_reducible split)
    | (dsimp only [Kept]; (first | with_reducible assumption | change Kept _ _)))

theorem kept_selfRefreshOn {cq : List Instr} (s : State) (h_s : Kept cq s) : Kept cq (selfRefreshOn s) := by
  unfold selfRefreshOn
  try dsimp only
  repeat' (first
    | with_reducible assumption | with_reducible apply kept_foldl | with_reducible apply kept_foldl2
    | with_reducible apply kept_foldl1 | (intro _) | (with_reducible split)
    | (dsimp only [Kept]; (first | with_reducible assumption | change Kept _ _)))

theorem kept_checkRead {cq : List Instr} (reader : Nat) (scratch : Bool) (t : Nat) (a : Nat) (n : Nat) (own : Option (Nat ×
    BitVec 64)) (s : State) (h_s : Kept cq s) : Kept cq (checkRead reader scratch t a n own s).2 := by
  unfold checkRead
  try dsimp only
  repeat' (first
    | with_reducible assumption | with_reducible apply kept_forAll | with_reducible apply kept_askFix
    | with_reducible apply kept_ceHit | with_reducible apply kept_openRows | with_reducible apply kept_ueHit
    | with_reducible apply kept_foldl | with_reducible apply kept_foldl2 | with_reducible apply kept_foldl1 | (intro _)
    | (with_reducible split))

theorem kept_clearErr {cq : List Instr} (scratch : Bool) (t : Nat) (g : Nat) (s : State) (h_s : Kept cq s) : Kept cq (clearErr
    scratch t g s) := by
  unfold clearErr
  try dsimp only
  repeat' (first
    | with_reducible assumption | with_reducible apply kept_foldl | with_reducible apply kept_foldl2
    | with_reducible apply kept_foldl1 | (intro _) | (with_reducible split)
    | (dsimp only [Kept]; (first | with_reducible assumption | change Kept _ _)))

theorem kept_rawWrite {cq : List Instr} (scratch : Bool) (t : Nat) (a : Nat) (bs : List Byte) (s : State) (h_s : Kept cq s) :
    Kept cq (rawWrite scratch t a bs s) := by
  unfold rawWrite
  try dsimp only
  repeat' (first
    | with_reducible assumption | with_reducible apply kept_writeScratch | with_reducible apply kept_writeVault
    | with_reducible apply kept_foldl | with_reducible apply kept_foldl2 | with_reducible apply kept_foldl1 | (intro _)
    | (with_reducible split))

theorem kept_memMerge {cq : List Instr} (count : Bool) (scratch : Bool) (t : Nat) (a : Nat) (bs : List Byte) (own : Option (Nat
    × BitVec 64)) (s : State) (h_s : Kept cq s) : Kept cq (memMerge count scratch t a bs own s).2 := by
  unfold memMerge
  try dsimp only
  repeat' (first
    | with_reducible assumption | with_reducible apply kept_openRows | with_reducible apply kept_forAll
    | with_reducible apply kept_ceHit | with_reducible apply kept_clearErr | with_reducible apply kept_rawWrite
    | with_reducible apply kept_ueHit | with_reducible apply kept_foldl | with_reducible apply kept_foldl2
    | with_reducible apply kept_foldl1 | (intro _) | (with_reducible split)
    | (dsimp only [Kept]; (first | with_reducible assumption | change Kept _ _)))

theorem kept_memStore {cq : List Instr} (scratch : Bool) (t : Nat) (a : Nat) (bs : List Byte) (own : Option (Nat × BitVec 64))
    (s : State) (h_s : Kept cq s) : Kept cq (memStore scratch t a bs own s).2 := by
  unfold memStore
  try dsimp only
  repeat' (first | with_reducible assumption | with_reducible apply kept_memMerge)

theorem kept_landStore {cq : List Instr} (count : Bool) (scratch : Bool) (t : Nat) (a : Nat) (bs : List Byte) (own : Option (Nat
    × BitVec 64)) (s : State) (h_s : Kept cq s) : Kept cq (landStore count scratch t a bs own s).2 := by
  unfold landStore
  try dsimp only
  repeat' (first
    | with_reducible assumption | with_reducible apply kept_updTile | with_reducible apply kept_memMerge
    | with_reducible apply kept_foldl | with_reducible apply kept_foldl2 | with_reducible apply kept_foldl1 | (intro _)
    | (with_reducible split))

theorem kept_vaultsLost {cq : List Instr} (s : State) (h_s : Kept cq s) : Kept cq (vaultsLost s) := by
  unfold vaultsLost
  exact kept_setReg _ _ _ ⟨h_s.pend, h_s.sc, rfl, h_s.fl, h_s.ev, h_s.ri, h_s.led, h_s.ids⟩

theorem kept_refreshSlot {cq : List Instr} (s : State) (h_s : Kept cq s) : Kept cq (refreshSlot s) := by
  unfold refreshSlot
  try dsimp only
  repeat' (first
    | with_reducible assumption | with_reducible apply kept_closeBank | with_reducible apply kept_foldl
    | with_reducible apply kept_foldl2 | with_reducible apply kept_foldl1 | (intro _) | (with_reducible split)
    | (dsimp only [Kept]; (first | with_reducible assumption | change Kept _ _)))

theorem kept_execVaultRefresh {cq : List Instr} (s : State) (h_s : Kept cq s) : KeptO cq (execVaultRefresh s) := by
  unfold execVaultRefresh
  try dsimp only
  repeat' (first
    | with_reducible assumption | with_reducible apply keptO_next | with_reducible apply kept_refreshSlot
    | with_reducible apply kept_foldl | with_reducible apply kept_foldl2 | with_reducible apply kept_foldl1 | (intro _)
    | (with_reducible split) | (dsimp only [Kept]; (first | with_reducible assumption | change Kept _ _)))

theorem kept_execCatchUpRefresh {cq : List Instr} (s : State) (h_s : Kept cq s) : KeptO cq (execCatchUpRefresh s) := by
  unfold execCatchUpRefresh
  try dsimp only
  repeat' (first
    | with_reducible assumption | with_reducible apply keptO_next | with_reducible apply kept_refreshSlot
    | with_reducible apply kept_foldl | with_reducible apply kept_foldl2 | with_reducible apply kept_foldl1 | (intro _)
    | (with_reducible split) | (dsimp only [Kept]; (first | with_reducible assumption | change Kept _ _)))

theorem kept_scrubbed {cq : List Instr} (k : Nat) (s : State) (h_s : Kept cq s) : Kept cq (scrubbed k s) := by
  unfold scrubbed
  try dsimp only
  repeat' (first
    | with_reducible assumption | with_reducible apply kept_foldl | with_reducible apply kept_foldl2
    | with_reducible apply kept_foldl1 | (intro _) | (with_reducible split)
    | (dsimp only [Kept]; (first | with_reducible assumption | change Kept _ _)))

theorem kept_execVaultScrub {cq : List Instr} (t : TileId) (s : State) (h_s : Kept cq s) : KeptO cq (execVaultScrub t s) := by
  unfold execVaultScrub
  try dsimp only
  repeat' (first
    | with_reducible assumption | with_reducible apply keptO_next | with_reducible apply kept_scrubbed
    | with_reducible apply kept_onlyIf | with_reducible apply kept_updReg | with_reducible apply kept_charge
    | with_reducible apply kept_checkRead | with_reducible apply kept_foldl | with_reducible apply kept_foldl2
    | with_reducible apply kept_foldl1 | (intro _) | (with_reducible split)
    | (dsimp only [Kept]; (first | with_reducible assumption | change Kept _ _)))

theorem kept_execScratchScrub {cq : List Instr} (t : TileId) (s : State) (h_s : Kept cq s) : KeptO cq (execScratchScrub t s) :=
    by
  unfold execScratchScrub
  try dsimp only
  repeat' (first
    | with_reducible assumption | with_reducible apply keptO_next | with_reducible apply kept_scrubbed
    | with_reducible apply kept_charge | with_reducible apply kept_checkRead | with_reducible apply kept_foldl
    | with_reducible apply kept_foldl2 | with_reducible apply kept_foldl1 | (intro _) | (with_reducible split)
    | (dsimp only [Kept]; (first | with_reducible assumption | change Kept _ _)))

theorem kept_writeBack {cq : List Instr} (scratch : Bool) (t : Nat) (g : Nat) (s : State) (h_s : Kept cq s) : Kept cq (writeBack
    scratch t g s) := by
  unfold writeBack
  try dsimp only
  repeat' (first
    | with_reducible assumption | with_reducible apply kept_clearErr | with_reducible apply kept_openRows
    | with_reducible apply kept_foldl | with_reducible apply kept_foldl2 | with_reducible apply kept_foldl1 | (intro _)
    | (with_reducible split))

theorem kept_execVaultWriteBack {cq : List Instr} (t : TileId) (u : Nat) (s : State) (h_s : Kept cq s) : KeptO cq
    (execVaultWriteBack t u s) := by
  unfold execVaultWriteBack
  try dsimp only
  repeat' (first
    | with_reducible assumption | with_reducible apply keptO_next | with_reducible apply keptO_fault
    | with_reducible apply kept_writeBack | with_reducible apply kept_foldl | with_reducible apply kept_foldl2
    | with_reducible apply kept_foldl1 | (intro _) | (with_reducible split))

theorem kept_execScratchWriteBack {cq : List Instr} (t : TileId) (w : Nat) (s : State) (h_s : Kept cq s) : KeptO cq
    (execScratchWriteBack t w s) := by
  unfold execScratchWriteBack
  try dsimp only
  repeat' (first
    | with_reducible assumption | with_reducible apply keptO_next | with_reducible apply keptO_fault
    | with_reducible apply kept_writeBack | with_reducible apply kept_foldl | with_reducible apply kept_foldl2
    | with_reducible apply kept_foldl1 | (intro _) | (with_reducible split))

theorem kept_zeroScratch {cq : List Instr} (t : Nat) (s : State) (h_s : Kept cq s) : Kept cq (zeroScratch t s) := by
  unfold zeroScratch
  exact kept_updTile _ _ _ ⟨h_s.pend, mapWf_mapClear 0 _ _ _ h_s.sc, h_s.va, h_s.fl, h_s.ev, h_s.ri, h_s.led, h_s.ids⟩

theorem kept_zeroVault {cq : List Instr} (t : Nat) (s : State) (h_s : Kept cq s) : Kept cq (zeroVault t s) := by
  exact kept_forAll _ _ _ (fun _ _ h => kept_openUnit _ _ _ h)
    ⟨h_s.pend, h_s.sc, mapWf_mapClear 0 _ _ _ h_s.va, h_s.fl, h_s.ev, h_s.ri, h_s.led, h_s.ids⟩

theorem kept_execClearingComplete {cq : List Instr} (t : TileId) (s : State) (h_s : Kept cq s) : KeptO cq (execClearingComplete
    t s) := by
  unfold execClearingComplete
  try dsimp only
  repeat' (first
    | with_reducible assumption | with_reducible apply keptO_next | with_reducible apply kept_regBit
    | with_reducible apply kept_zeroVault | with_reducible apply kept_zeroScratch | with_reducible apply kept_charge
    | with_reducible apply kept_foldl | with_reducible apply kept_foldl2 | with_reducible apply kept_foldl1 | (intro _)
    | (with_reducible split))

theorem kept_ceClear {cq : List Instr} (v : BitVec 32) (s : State) (h_s : Kept cq s) : Kept cq (ceClear v s) := by
  unfold ceClear
  try dsimp only
  repeat' (first
    | with_reducible assumption | with_reducible apply kept_setReg | with_reducible apply kept_foldl
    | with_reducible apply kept_foldl2 | with_reducible apply kept_foldl1 | (intro _) | (with_reducible split)
    | (dsimp only [Kept]; (first | with_reducible assumption | change Kept _ _)))

end Sys2Proof.Machine
end

