-- ==== Sys2Proof/Laws/KeepsUnits.lean ====
section
/-! SUPPORT. One lemma for each operation of the model, by module: it keeps the command queue, the canonical form of the
memories, and the bounds of the event stream and of the recorder's intake, the numbers of the remote operations, and the energy
ledger. Here: the rails, mailboxes, Varnish, the Governor, the loop engine and the pack controller. -/

namespace Sys2Proof.Machine

/-! ### Rails -/

theorem kept_updRail {cq : List Instr} (r : Nat) (f : Rail → Rail) (s : State) (h_s : Kept cq s) : Kept cq (updRail r f s) := by
  unfold updRail
  try dsimp only
  repeat' (first
    | with_reducible assumption | with_reducible apply kept_foldl | with_reducible apply kept_foldl2
    | with_reducible apply kept_foldl1 | (intro _) | (with_reducible split)
    | (dsimp only [Kept]; (first | with_reducible assumption | change Kept _ _)))

theorem kept_setActive {cq : List Instr} (r : Nat) (l : List Nat) (s : State) (h_s : Kept cq s) : Kept cq (setActive r l s) :=
    by
  unfold setActive
  try dsimp only
  repeat' (first
    | with_reducible assumption | with_reducible apply kept_foldl | with_reducible apply kept_foldl2
    | with_reducible apply kept_foldl1 | (intro _) | (with_reducible split)
    | (dsimp only [Kept]; (first | with_reducible assumption | change Kept _ _)))

theorem kept_railDown {cq : List Instr} (r : Nat) (st : BitVec 3) (s : State) (h_s : Kept cq s) : Kept cq (railDown r st s) :=
    by
  unfold railDown
  try dsimp only
  repeat' (first
    | with_reducible assumption | with_reducible apply kept_setActive | with_reducible apply kept_updRail
    | with_reducible apply kept_vaultsLost | with_reducible apply kept_foldl | with_reducible apply kept_foldl2
    | with_reducible apply kept_foldl1 | (intro _) | (with_reducible split))

theorem kept_switchOff {cq : List Instr} (n : Nat) (s : State) (h_s : Kept cq s) : Kept cq (switchOff n s) := by
  unfold switchOff
  try dsimp only
  repeat' (first
    | with_reducible assumption | with_reducible apply kept_foldl | with_reducible apply kept_foldl2
    | with_reducible apply kept_foldl1 | (intro _) | (with_reducible split)
    | (dsimp only [Kept]; (first | with_reducible assumption | change Kept _ _)))

theorem kept_startRails {cq : List Instr} (s : State) (h_s : Kept cq s) : Kept cq (startRails s) := by
  unfold startRails
  try dsimp only
  repeat' (first
    | with_reducible assumption | with_reducible apply kept_foldl | with_reducible apply kept_foldl2
    | with_reducible apply kept_foldl1 | (intro _) | (with_reducible split)
    | (dsimp only [Kept]; (first | with_reducible assumption | change Kept _ _)))

theorem kept_retention {cq : List Instr} (s : State) (h_s : Kept cq s) : Kept cq (retention s) := by
  unfold retention
  try dsimp only
  repeat' (first
    | with_reducible assumption | with_reducible apply kept_selfRefreshOn | with_reducible apply kept_forAll
    | with_reducible apply kept_railDown | with_reducible apply kept_updRail | with_reducible apply kept_foldl
    | with_reducible apply kept_foldl2 | with_reducible apply kept_foldl1 | (intro _) | (with_reducible split)
    | (dsimp only [Kept]; (first | with_reducible assumption | change Kept _ _)))

theorem kept_selfRefreshOff {cq : List Instr} (s : State) (h_s : Kept cq s) : Kept cq (selfRefreshOff s) := by
  unfold selfRefreshOff
  try dsimp only
  repeat' (first
    | with_reducible assumption | with_reducible apply kept_foldl | with_reducible apply kept_foldl2
    | with_reducible apply kept_foldl1 | (intro _) | (with_reducible split)
    | (dsimp only [Kept]; (first | with_reducible assumption | change Kept _ _)))

theorem kept_leaveRetention {cq : List Instr} (s : State) (h_s : Kept cq s) : Kept cq (leaveRetention s) := by
  unfold leaveRetention
  try dsimp only
  repeat' (first
    | with_reducible assumption | with_reducible apply kept_startRails | with_reducible apply kept_selfRefreshOff
    | with_reducible apply kept_foldl | with_reducible apply kept_foldl2 | with_reducible apply kept_foldl1 | (intro _)
    | (with_reducible split) | (dsimp only [Kept]; (first | with_reducible assumption | change Kept _ _)))

theorem kept_startFrec {cq : List Instr} (bs : List Byte) (s : State) (h_s : Kept cq s) : Kept cq (startFrec bs s) := by
  unfold startFrec
  try dsimp only
  repeat' (first
    | with_reducible assumption | with_reducible apply kept_foldl | with_reducible apply kept_foldl2
    | with_reducible apply kept_foldl1 | (intro _) | (with_reducible split)
    | (dsimp only [Kept]; (first | with_reducible assumption | change Kept _ _)))

theorem kept_flashNext {cq : List Instr} (s : State) (h_s : Kept cq s) : Kept cq (flashNext s) := by
  unfold flashNext
  try dsimp only
  repeat' (first
    | with_reducible assumption | with_reducible apply kept_startFrec | with_reducible apply kept_foldl
    | with_reducible apply kept_foldl2 | with_reducible apply kept_foldl1 | (intro _) | (with_reducible split)
    | (dsimp only [Kept]; (first | with_reducible assumption | change Kept _ _)))

theorem kept_capture {cq : List Instr} (bs : List Byte) (s : State) (h_s : Kept cq s) : Kept cq (capture bs s) := by
  unfold capture
  try dsimp only
  repeat' (first
    | with_reducible assumption | with_reducible apply kept_flashNext | with_reducible apply kept_foldl
    | with_reducible apply kept_foldl2 | with_reducible apply kept_foldl1 | (intro _) | (with_reducible split)
    | (dsimp only [Kept]; (first | with_reducible assumption | change Kept _ _)))

theorem kept_execFrecWriteDone {cq : List Instr} (s : State) (h_s : Kept cq s) : KeptO cq (execFrecWriteDone s) := by
  unfold execFrecWriteDone
  try dsimp only
  repeat' (first
    | with_reducible assumption | with_reducible apply keptO_next | with_reducible apply kept_flashSector
    | with_reducible apply kept_flashNext | with_reducible apply kept_foldl | with_reducible apply kept_foldl2
    | with_reducible apply kept_foldl1 | (intro _) | (with_reducible split)
    | (dsimp only [Kept]; (first | with_reducible assumption | change Kept _ _)))

theorem kept_tearFrec {cq : List Instr} (s : State) (h_s : Kept cq s) : Kept cq (tearFrec s) := by
  unfold tearFrec
  try dsimp only
  repeat' (first
    | with_reducible assumption | with_reducible apply kept_flashSector | with_reducible apply kept_foldl
    | with_reducible apply kept_foldl2 | with_reducible apply kept_foldl1 | (intro _) | (with_reducible split))

theorem kept_railFaults {cq : List Instr} (l : List (Nat × Nat)) (phase : Nat) (s : State) (h_s : Kept cq s) : Kept cq
    (railFaults l phase s) := by
  unfold railFaults
  try dsimp only
  repeat' (first
    | with_reducible assumption | with_reducible apply kept_report | with_reducible apply kept_capture
    | with_reducible apply kept_forAll | with_reducible apply kept_railDown | with_reducible apply kept_countReg
    | with_reducible apply kept_updRail | with_reducible apply kept_everyJobFault | with_reducible apply kept_switchOff
    | with_reducible apply kept_foldl | with_reducible apply kept_foldl2 | with_reducible apply kept_foldl1 | (intro _)
    | (with_reducible split) | (dsimp only [Kept]; (first | with_reducible assumption | change Kept _ _)))

theorem kept_addTo {cq : List Instr} (r : Nat) (n : Nat) (s : State) (h_s : Kept cq s) : Kept cq (addTo r n s) := by
  unfold addTo
  try dsimp only
  repeat' (first | with_reducible assumption | with_reducible apply kept_setActive)

theorem kept_addPhases {cq : List Instr} (r : Nat) (s : State) (h_s : Kept cq s) : Kept cq (addPhases r s) := by
  unfold addPhases
  try dsimp only
  repeat' (first
    | with_reducible assumption | with_reducible apply kept_addTo | with_reducible apply kept_foldl
    | with_reducible apply kept_foldl2 | with_reducible apply kept_foldl1 | (intro _) | (with_reducible split))

theorem kept_drivePhases {cq : List Instr} (r : Nat) (ph : List Int) (s : State) (h_s : Kept cq s) : Kept cq (drivePhases r ph
    s) := by
  unfold drivePhases
  try dsimp only
  repeat' (first
    | with_reducible assumption | with_reducible apply kept_foldl | with_reducible apply kept_foldl2
    | with_reducible apply kept_foldl1 | (intro _) | (with_reducible split)
    | (dsimp only [Kept]; (first | with_reducible assumption | change Kept _ _)))

theorem kept_railStroke {cq : List Instr} (k : Nat) (r : Nat) (v : Int) (ph : List Int) (s : State) (h_s : Kept cq s) : Kept cq
    (railStroke k r v ph s).1 := by
  unfold railStroke
  try dsimp only
  repeat' (first
    | with_reducible assumption | with_reducible apply kept_updRail | with_reducible apply kept_addPhases
    | with_reducible apply kept_drivePhases | with_reducible apply kept_foldl | with_reducible apply kept_foldl2
    | with_reducible apply kept_foldl1 | (intro _) | (with_reducible split))

theorem kept_traced {cq : List Instr} (r : Nat) (s : State) (h_s : Kept cq s) : Kept cq (traced r s) := by
  unfold traced
  try dsimp only
  repeat' (first | with_reducible assumption | with_reducible apply kept_updRail)

theorem kept_strokeRails {cq : List Instr} (k : Nat) (inp : StrokeInputs) (s : State) (h_s : Kept cq s) : Kept cq (strokeRails k
    inp s) := by
  unfold strokeRails
  try dsimp only
  repeat' (first
    | with_reducible assumption | with_reducible apply kept_railStroke | with_reducible apply kept_forAll
    | with_reducible apply kept_traced | with_reducible apply kept_railFaults | with_reducible apply kept_foldl
    | with_reducible apply kept_foldl2 | with_reducible apply kept_foldl1 | (intro _) | (with_reducible split)
    | (dsimp only [Kept]; (first | with_reducible assumption | change Kept _ _)))

theorem kept_execRailSoftStart {cq : List Instr} (r : RailId) (v : Nat) (s : State) (h_s : Kept cq s) : KeptO cq
    (execRailSoftStart r v s) := by
  unfold execRailSoftStart
  try dsimp only
  repeat' (first
    | with_reducible assumption | with_reducible apply keptO_next | with_reducible apply kept_setActive
    | with_reducible apply kept_updRail | with_reducible apply kept_foldl | with_reducible apply kept_foldl2
    | with_reducible apply kept_foldl1 | (intro _) | (with_reducible split))

theorem kept_execShortCheck {cq : List Instr} (r : RailId) (s : State) (h_s : Kept cq s) : KeptO cq (execShortCheck r s) := by
  unfold execShortCheck
  try dsimp only
  repeat' (first
    | with_reducible assumption | with_reducible apply keptO_next | with_reducible apply kept_railFaults
    | with_reducible apply kept_foldl | with_reducible apply kept_foldl2 | with_reducible apply kept_foldl1 | (intro _)
    | (with_reducible split))

theorem kept_enterReg {cq : List Instr} (r : Nat) (s : State) (h_s : Kept cq s) : Kept cq (enterReg r s) := by
  unfold enterReg
  try dsimp only
  repeat' (first | with_reducible assumption | with_reducible apply kept_updRail)

theorem kept_execSoftStartEnd {cq : List Instr} (r : RailId) (s : State) (h_s : Kept cq s) : KeptO cq (execSoftStartEnd r s) :=
    by
  unfold execSoftStartEnd
  try dsimp only
  repeat' (first
    | with_reducible assumption | with_reducible apply keptO_next | with_reducible apply kept_enterReg
    | with_reducible apply kept_foldl | with_reducible apply kept_foldl2 | with_reducible apply kept_foldl1 | (intro _)
    | (with_reducible split))

theorem kept_execSoftStartTimeout {cq : List Instr} (r : RailId) (s : State) (h_s : Kept cq s) : KeptO cq (execSoftStartTimeout
    r s) := by
  unfold execSoftStartTimeout
  try dsimp only
  repeat' (first
    | with_reducible assumption | with_reducible apply keptO_next | with_reducible apply kept_enterReg
    | with_reducible apply kept_railFaults | with_reducible apply kept_foldl | with_reducible apply kept_foldl2
    | with_reducible apply kept_foldl1 | (intro _) | (with_reducible split))

theorem kept_execRailRetry {cq : List Instr} (r : RailId) (s : State) (h_s : Kept cq s) : KeptO cq (execRailRetry r s) := by
  unfold execRailRetry
  try dsimp only
  repeat' (first
    | with_reducible assumption | with_reducible apply keptO_next | with_reducible apply kept_startRails
    | with_reducible apply kept_updRail | with_reducible apply kept_foldl | with_reducible apply kept_foldl2
    | with_reducible apply kept_foldl1 | (intro _) | (with_reducible split))

theorem kept_execCountLeftReload {cq : List Instr} (r : RailId) (s : State) (h_s : Kept cq s) : KeptO cq (execCountLeftReload r
    s) := by
  unfold execCountLeftReload
  try dsimp only
  repeat' (first
    | with_reducible assumption | with_reducible apply keptO_next | with_reducible apply kept_updRail
    | with_reducible apply kept_foldl | with_reducible apply kept_foldl2 | with_reducible apply kept_foldl1 | (intro _)
    | (with_reducible split))

theorem kept_execRailSwitchOff {cq : List Instr} (s : State) (h_s : Kept cq s) : KeptO cq (execRailSwitchOff s) := by
  unfold execRailSwitchOff
  try dsimp only
  repeat' (first
    | with_reducible assumption | with_reducible apply keptO_next | with_reducible apply kept_railDown
    | with_reducible apply kept_foldl | with_reducible apply kept_foldl2 | with_reducible apply kept_foldl1 | (intro _)
    | (with_reducible split) | (dsimp only [Kept]; (first | with_reducible assumption | change Kept _ _)))

theorem kept_railClear {cq : List Instr} (r : Nat) (s : State) (h_s : Kept cq s) : Kept cq (railClear r s) := by
  unfold railClear
  try dsimp only
  repeat' (first
    | with_reducible assumption | with_reducible apply kept_startRails | with_reducible apply kept_updRail
    | with_reducible apply kept_foldl | with_reducible apply kept_foldl2 | with_reducible apply kept_foldl1 | (intro _)
    | (with_reducible split))

theorem kept_railEnSet {cq : List Instr} (r : Nat) (en : Bool) (s : State) (h_s : Kept cq s) : Kept cq (railEnSet r en s) := by
  unfold railEnSet
  try dsimp only
  repeat' (first
    | with_reducible assumption | with_reducible apply kept_regBit | with_reducible apply kept_railDown
    | with_reducible apply kept_foldl | with_reducible apply kept_foldl2 | with_reducible apply kept_foldl1 | (intro _)
    | (with_reducible split) | (dsimp only [Kept]; (first | with_reducible assumption | change Kept _ _)))

theorem kept_execPhaseFault {cq : List Instr} (ph : BitVec 6) (mA : Nat) (s : State) (h_s : Kept cq s) : KeptO cq
    (execPhaseFault ph mA s) := by
  unfold execPhaseFault
  try dsimp only
  repeat' (first
    | with_reducible assumption | with_reducible apply keptO_next | with_reducible apply kept_railFaults
    | with_reducible apply kept_report | with_reducible apply kept_capture | with_reducible apply kept_setActive
    | with_reducible apply kept_foldl | with_reducible apply kept_foldl2 | with_reducible apply kept_foldl1 | (intro _)
    | (with_reducible split) | (dsimp only [Kept]; (first | with_reducible assumption | change Kept _ _)))

theorem kept_phFaultClear {cq : List Instr} (hi : Bool) (v : BitVec 32) (s : State) (h_s : Kept cq s) : Kept cq (phFaultClear hi
    v s) := by
  unfold phFaultClear
  try dsimp only
  repeat' (first
    | with_reducible assumption | with_reducible apply kept_forAll | with_reducible apply kept_setActive
    | with_reducible apply kept_foldl | with_reducible apply kept_foldl2 | with_reducible apply kept_foldl1 | (intro _)
    | (with_reducible split) | (dsimp only [Kept]; (first | with_reducible assumption | change Kept _ _)))

theorem kept_leaveRet {cq : List Instr} (r : Nat) (s : State) (h_s : Kept cq s) : Kept cq (leaveRet r s) := by
  unfold leaveRet
  try dsimp only
  repeat' (first
    | with_reducible assumption | with_reducible apply kept_updRail | with_reducible apply kept_enterReg
    | with_reducible apply kept_foldl | with_reducible apply kept_foldl2 | with_reducible apply kept_foldl1 | (intro _)
    | (with_reducible split))

theorem kept_shedPhases {cq : List Instr} (r : Nat) (s : State) (h_s : Kept cq s) : Kept cq (shedPhases r s) := by
  unfold shedPhases
  try dsimp only
  repeat' (first
    | with_reducible assumption | with_reducible apply kept_addTo | with_reducible apply kept_setActive
    | with_reducible apply kept_foldl | with_reducible apply kept_foldl2 | with_reducible apply kept_foldl1 | (intro _)
    | (with_reducible split))

theorem kept_railBeat {cq : List Instr} (r : Nat) (iAvg : Int) (s : State) (h_s : Kept cq s) : Kept cq (railBeat r iAvg s) := by
  unfold railBeat
  try dsimp only
  repeat' (first
    | with_reducible assumption | with_reducible apply kept_leaveRet | with_reducible apply kept_updRail
    | with_reducible apply kept_shedPhases | with_reducible apply kept_foldl | with_reducible apply kept_foldl2
    | with_reducible apply kept_foldl1 | (intro _) | (with_reducible split))

/-! ### Mailbox -/

theorem kept_updMbx {cq : List Instr} (c : Nat) (f : Mbox → Mbox) (s : State) (h_s : Kept cq s) : Kept cq (updMbx c f s) := by
  unfold updMbx
  try dsimp only
  repeat' (first
    | with_reducible assumption | with_reducible apply kept_foldl | with_reducible apply kept_foldl2
    | with_reducible apply kept_foldl1 | (intro _) | (with_reducible split)
    | (dsimp only [Kept]; (first | with_reducible assumption | change Kept _ _)))

theorem kept_updStaged {cq : List Instr} (o : Origin) (c : Nat) (f : Staged → Staged) (s : State) (h_s : Kept cq s) : Kept cq
    (updStaged o c f s) := by
  unfold updStaged
  try dsimp only
  repeat' (first
    | with_reducible assumption | with_reducible apply kept_foldl | with_reducible apply kept_foldl2
    | with_reducible apply kept_foldl1 | (intro _) | (with_reducible split)
    | (dsimp only [Kept]; (first | with_reducible assumption | change Kept _ _)))

theorem kept_mbxErr {cq : List Instr} (o : Origin) (c : Nat) (cause : Nat) (s : State) (h_s : Kept cq s) : Kept cq (mbxErr o c
    cause s) := by
  unfold mbxErr
  try dsimp only
  repeat' (first | with_reducible assumption | with_reducible apply kept_setReg)

theorem kept_mbxRights {cq : List Instr} (o : Origin) (c : Nat) (a : Nat) (s : State) (h_s : Kept cq s) : Kept cq (mbxRights o c
    a s).2 := by
  unfold mbxRights
  try dsimp only
  repeat' (first | with_reducible assumption | with_reducible apply kept_refuseRights | with_reducible apply kept_mbxErr)

theorem kept_notify {cq : List Instr} (r : Nat) (s : State) (h_s : Kept cq s) : Kept cq (notify r s) := by
  unfold notify
  try dsimp only
  repeat' (first
    | with_reducible assumption | with_reducible apply kept_emit | with_reducible apply kept_hostSend
    | with_reducible apply kept_foldl | with_reducible apply kept_foldl2 | with_reducible apply kept_foldl1 | (intro _)
    | (with_reducible split) | (dsimp only [Kept]; (first | with_reducible assumption | change Kept _ _)))

theorem kept_bellsLatch {cq : List Instr} (s : State) (h_s : Kept cq s) : Kept cq (bellsLatch s) := by
  unfold bellsLatch
  try dsimp only
  repeat' (first
    | with_reducible assumption | with_reducible apply kept_forAll | with_reducible apply kept_emit
    | with_reducible apply kept_foldl | with_reducible apply kept_foldl2 | with_reducible apply kept_foldl1 | (intro _)
    | (with_reducible split) | (dsimp only [Kept]; (first | with_reducible assumption | change Kept _ _)))

theorem kept_ringBell {cq : List Instr} (r : Nat) (c : Nat) (always : Bool) (s : State) (h_s : Kept cq s) : Kept cq (ringBell r
    c always s) := by
  unfold ringBell
  try dsimp only
  repeat' (first
    | with_reducible assumption | with_reducible apply kept_regBit | with_reducible apply kept_notify
    | with_reducible apply kept_foldl | with_reducible apply kept_foldl2 | with_reducible apply kept_foldl1 | (intro _)
    | (with_reducible split))

theorem kept_maskWrite {cq : List Instr} (r : Nat) (v : BitVec 32) (s : State) (h_s : Kept cq s) : Kept cq (maskWrite r v s) :=
    by
  unfold maskWrite
  try dsimp only
  repeat' (first
    | with_reducible assumption | with_reducible apply kept_setReg | with_reducible apply kept_notify
    | with_reducible apply kept_foldl | with_reducible apply kept_foldl2 | with_reducible apply kept_foldl1 | (intro _)
    | (with_reducible split))

theorem kept_mbxTake {cq : List Instr} (c : Nat) (o : Origin) (msg : List (BitVec 32)) (s : State) (h_s : Kept cq s) : Kept cq
    (mbxTake c o msg s) := by
  unfold mbxTake
  try dsimp only
  repeat' (first | with_reducible assumption | with_reducible apply kept_updMbx | with_reducible apply kept_ringBell)

theorem kept_stewardPost {cq : List Instr} (c : Nat) (s : State) (h_s : Kept cq s) : Kept cq (stewardPost c s) := by
  unfold stewardPost
  try dsimp only
  repeat' (first
    | with_reducible assumption | with_reducible apply kept_mbxErr | with_reducible apply kept_mbxTake
    | with_reducible apply kept_foldl | with_reducible apply kept_foldl2 | with_reducible apply kept_foldl1 | (intro _)
    | (with_reducible split) | (dsimp only [Kept]; (first | with_reducible assumption | change Kept _ _)))

theorem kept_postLocal {cq : List Instr} (o : Origin) (c : Nat) (n : Nat) (s : State) (h_s : Kept cq s) : Kept cq (postLocal o c
    n s).2 := by
  unfold postLocal
  try dsimp only
  repeat' (first
    | with_reducible assumption | with_reducible apply kept_mbxErr | with_reducible apply kept_mbxTake
    | with_reducible apply kept_updStaged | with_reducible apply kept_foldl | with_reducible apply kept_foldl2
    | with_reducible apply kept_foldl1 | (intro _) | (with_reducible split))

theorem kept_postRemote {cq : List Instr} (o : Origin) (c : Nat) (n : Nat) (s : State) (h_s : Kept cq s) : Kept cq (postRemote o
    c n s).2 := by
  unfold postRemote
  try dsimp only
  repeat' (first
    | with_reducible assumption | with_reducible apply kept_postLocal | with_reducible apply kept_mbxErr
    | with_reducible apply kept_netSend | with_reducible apply kept_foldl | with_reducible apply kept_foldl2
    | with_reducible apply kept_foldl1 | (intro _) | (with_reducible split)
    | (dsimp only [Kept]; (first | with_reducible assumption | change Kept _ _)))

theorem kept_mboxReplyIn {cq : List Instr} (src : PkgId) (ch : BitVec 5) (cause : Nat) (s : State) (h_s : Kept cq s) : Kept cq
    (mboxReplyIn src ch cause s) := by
  unfold mboxReplyIn
  try dsimp only
  repeat' (first
    | with_reducible assumption | with_reducible apply kept_updStaged | with_reducible apply kept_mbxErr
    | with_reducible apply kept_emit | with_reducible apply kept_foldl | with_reducible apply kept_foldl2
    | with_reducible apply kept_foldl1 | (intro _) | (with_reducible split)
    | (dsimp only [Kept]; (first | with_reducible assumption | change Kept _ _)))

theorem kept_postStaged {cq : List Instr} (o : Origin) (c : Nat) (s : State) (h_s : Kept cq s) : Kept cq (postStaged o c s).2 :=
    by
  unfold postStaged
  try dsimp only
  repeat' (first
    | with_reducible assumption | with_reducible apply kept_postRemote | with_reducible apply kept_postLocal
    | with_reducible apply kept_foldl | with_reducible apply kept_foldl2 | with_reducible apply kept_foldl1 | (intro _)
    | (with_reducible split))

theorem kept_msgWrite {cq : List Instr} (late : Bool) (o : Origin) (c : Nat) (k : Nat) (v : BitVec 32) (s : State) (h_s : Kept
    cq s) : Kept cq (msgWrite late o c k v s).2 := by
  unfold msgWrite
  try dsimp only
  repeat' (first
    | with_reducible assumption | with_reducible apply kept_mbxRights | with_reducible apply kept_mbxErr
    | with_reducible apply kept_updStaged | with_reducible apply kept_postStaged | with_reducible apply kept_logWrite
    | with_reducible apply kept_foldl | with_reducible apply kept_foldl2 | with_reducible apply kept_foldl1 | (intro _)
    | (with_reducible split) | (dsimp only [Kept]; (first | with_reducible assumption | change Kept _ _)))

theorem kept_mbxRelease {cq : List Instr} (c : Nat) (s : State) (h_s : Kept cq s) : Kept cq (mbxRelease c s) := by
  unfold mbxRelease
  try dsimp only
  repeat' (first | with_reducible assumption | with_reducible apply kept_updMbx)

theorem kept_ctrlRest {cq : List Instr} (late : Bool) (o : Origin) (c : Nat) (v : BitVec 32) (s : State) (h_s : Kept cq s) :
    Kept cq (ctrlRest late o c v s).2 := by
  unfold ctrlRest
  try dsimp only
  repeat' (first
    | with_reducible assumption | with_reducible apply kept_mbxRights | with_reducible apply kept_mbxErr
    | with_reducible apply kept_mbxRelease | with_reducible apply kept_updStaged | with_reducible apply kept_postStaged
    | with_reducible apply kept_foldl | with_reducible apply kept_foldl2 | with_reducible apply kept_foldl1 | (intro _)
    | (with_reducible split) | (dsimp only [Kept]; (first | with_reducible assumption | change Kept _ _)))

theorem kept_ctrlWrite {cq : List Instr} (late : Bool) (o : Origin) (c : Nat) (v : BitVec 32) (s : State) (h_s : Kept cq s) :
    Kept cq (ctrlWrite late o c v s).2 := by
  unfold ctrlWrite
  try dsimp only
  repeat' (first
    | with_reducible assumption | with_reducible apply kept_mbxRights | with_reducible apply kept_mbxErr
    | with_reducible apply kept_logWrite | with_reducible apply kept_updMbx | with_reducible apply kept_ctrlRest
    | with_reducible apply kept_foldl | with_reducible apply kept_foldl2 | with_reducible apply kept_foldl1 | (intro _)
    | (with_reducible split) | (dsimp only [Kept]; (first | with_reducible assumption | change Kept _ _)))

theorem kept_ringGo {cq : List Instr} (o : Origin) (b : Nat) (d : Nat) (s : State) (h_s : Kept cq s) : Kept cq (ringGo o b d
    s).2 := by
  unfold ringGo
  try dsimp only
  repeat' (first
    | with_reducible assumption | with_reducible apply kept_ringBell | with_reducible apply kept_netSend
    | with_reducible apply kept_mbxErr | with_reducible apply kept_foldl | with_reducible apply kept_foldl2
    | with_reducible apply kept_foldl1 | (intro _) | (with_reducible split))

theorem kept_ringWrite {cq : List Instr} (o : Origin) (v : BitVec 32) (s : State) (h_s : Kept cq s) : Kept cq (ringWrite o v
    s).2 := by
  unfold ringWrite
  try dsimp only
  repeat' (first
    | with_reducible assumption | with_reducible apply kept_mbxRights | with_reducible apply kept_ringGo
    | with_reducible apply kept_foldl | with_reducible apply kept_foldl2 | with_reducible apply kept_foldl1 | (intro _)
    | (with_reducible split))

theorem kept_ringIn {cq : List Instr} (o : Origin) (b : Nat) (s : State) (h_s : Kept cq s) : Kept cq (ringIn o b s) := by
  unfold ringIn
  try dsimp only
  repeat' (first
    | with_reducible assumption | with_reducible apply kept_ringBell | with_reducible apply kept_mbxRights
    | with_reducible apply kept_foldl | with_reducible apply kept_foldl2 | with_reducible apply kept_foldl1 | (intro _)
    | (with_reducible split))

theorem kept_mbxRemote {cq : List Instr} (o : Origin) (c : Nat) (msg : List (BitVec 32)) (s : State) (h_s : Kept cq s) : Kept cq
    (mbxRemote o c msg s).2 := by
  unfold mbxRemote
  try dsimp only
  repeat' (first
    | with_reducible assumption | with_reducible apply kept_mbxRights | with_reducible apply kept_mbxErr
    | with_reducible apply kept_mbxTake | with_reducible apply kept_foldl | with_reducible apply kept_foldl2
    | with_reducible apply kept_foldl1 | (intro _) | (with_reducible split))

theorem kept_mboxIn {cq : List Instr} (src : PkgId) (o : Origin) (ch : BitVec 5) (msg : List (BitVec 32)) (s : State) (h_s :
    Kept cq s) : Kept cq (mboxIn src o ch msg s) := by
  unfold mboxIn
  try dsimp only
  repeat' (first | with_reducible assumption | with_reducible apply kept_mbxRemote | with_reducible apply kept_netSend)

theorem kept_mbxRead {cq : List Instr} (o : Origin) (c : Nat) (off : Nat) (s : State) (h_s : Kept cq s) : Kept cq (mbxRead o c
    off s).2 := by
  unfold mbxRead
  try dsimp only
  repeat' (first
    | with_reducible assumption | with_reducible apply kept_mbxRights | with_reducible apply kept_mbxErr
    | with_reducible apply kept_foldl | with_reducible apply kept_foldl2 | with_reducible apply kept_foldl1 | (intro _)
    | (with_reducible split))

theorem kept_compatLate {cq : List Instr} (h : HeldWrite) (s : State) (h_s : Kept cq s) : Kept cq (compatLate h s) := by
  unfold compatLate
  try dsimp only
  repeat' (first
    | with_reducible assumption | with_reducible apply kept_msgWrite | with_reducible apply kept_ctrlWrite
    | with_reducible apply kept_emit | with_reducible apply kept_foldl | with_reducible apply kept_foldl2
    | with_reducible apply kept_foldl1 | (intro _) | (with_reducible split)
    | (dsimp only [Kept]; (first | with_reducible assumption | change Kept _ _)))

theorem kept_compatRelease {cq : List Instr} (s : State) (h_s : Kept cq s) : Kept cq (compatRelease s) := by
  unfold compatRelease
  try dsimp only
  repeat' (first
    | with_reducible assumption | with_reducible apply kept_forAll | with_reducible apply kept_compatLate
    | with_reducible apply kept_foldl | with_reducible apply kept_foldl2 | with_reducible apply kept_foldl1 | (intro _)
    | (with_reducible split) | (dsimp only [Kept]; (first | with_reducible assumption | change Kept _ _)))

theorem kept_execMbxRemotePost {cq : List Instr} (o : Origin) (ch : BitVec 5) (msg : List (BitVec 32)) (s : State) (h_s : Kept
    cq s) : KeptO cq (execMbxRemotePost o ch msg s) := by
  unfold execMbxRemotePost
  try dsimp only
  repeat' (first | with_reducible assumption | with_reducible apply keptO_next | with_reducible apply kept_mboxIn)

theorem kept_execRingReceive {cq : List Instr} (o : Origin) (bit : BitVec 5) (s : State) (h_s : Kept cq s) : KeptO cq
    (execRingReceive o bit s) := by
  unfold execRingReceive
  try dsimp only
  repeat' (first | with_reducible assumption | with_reducible apply keptO_next | with_reducible apply kept_ringIn)

/-! ### Varnish -/

theorem kept_updVrn {cq : List Instr} (f : Varnish → Varnish) (s : State) (h_s : Kept cq s) : Kept cq (updVrn f s) := by
  unfold updVrn
  try dsimp only
  repeat' (first
    | with_reducible assumption | with_reducible apply kept_foldl | with_reducible apply kept_foldl2
    | with_reducible apply kept_foldl1 | (intro _) | (with_reducible split)
    | (dsimp only [Kept]; (first | with_reducible assumption | change Kept _ _)))

theorem kept_vFlag {cq : List Instr} (i : Nat) (b : Bool) (s : State) (h_s : Kept cq s) : Kept cq (vFlag i b s) := by
  unfold vFlag
  try dsimp only
  repeat' (first | with_reducible assumption | with_reducible apply kept_updVrn)

theorem kept_legal {cq : List Instr} (type : Byte) (payload : List Byte) (s : State) (h_s : Kept cq s) : Kept cq (legal type
    payload s) := by
  unfold legal
  try dsimp only
  repeat' (first
    | with_reducible assumption | with_reducible apply kept_updVrn | with_reducible apply kept_vFlag
    | with_reducible apply kept_foldl | with_reducible apply kept_foldl2 | with_reducible apply kept_foldl1 | (intro _)
    | (with_reducible split))

theorem kept_execVarnishSample {cq : List Instr} (mV : Int) (mA : Int) (s : State) (h_s : Kept cq s) : KeptO cq
    (execVarnishSample mV mA s) := by
  unfold execVarnishSample
  try dsimp only
  repeat' (first
    | with_reducible assumption | with_reducible apply keptO_next | with_reducible apply kept_updVrn
    | with_reducible apply kept_vFlag | with_reducible apply kept_foldl | with_reducible apply kept_foldl2
    | with_reducible apply kept_foldl1 | (intro _) | (with_reducible split))

theorem kept_saveNow {cq : List Instr} (s : State) (h_s : Kept cq s) : Kept cq (saveNow s) := by
  unfold saveNow
  try dsimp only
  repeat' (first | with_reducible assumption | with_reducible apply kept_vFlag | with_reducible apply kept_updVrn)

theorem kept_execVarnishSave {cq : List Instr} (s : State) (h_s : Kept cq s) : KeptO cq (execVarnishSave s) := by
  unfold execVarnishSave
  try dsimp only
  repeat' (first
    | with_reducible assumption | with_reducible apply keptO_next | with_reducible apply kept_saveNow
    | with_reducible apply kept_foldl | with_reducible apply kept_foldl2 | with_reducible apply kept_foldl1 | (intro _)
    | (with_reducible split))

theorem kept_execVarnishSupplyWarn {cq : List Instr} (s : State) (h_s : Kept cq s) : KeptO cq (execVarnishSupplyWarn s) := by
  unfold execVarnishSupplyWarn
  try dsimp only
  repeat' (first
    | with_reducible assumption | with_reducible apply keptO_next | with_reducible apply kept_saveNow
    | with_reducible apply kept_legal | with_reducible apply kept_foldl | with_reducible apply kept_foldl2
    | with_reducible apply kept_foldl1 | (intro _) | (with_reducible split))

theorem kept_execSectorErase {cq : List Instr} (s : State) (h_s : Kept cq s) : KeptO cq (execSectorErase s) := by
  unfold execSectorErase
  try dsimp only
  repeat' (first
    | with_reducible assumption | with_reducible apply keptO_next | with_reducible apply kept_updVrn
    | with_reducible apply kept_foldl | with_reducible apply kept_foldl2 | with_reducible apply kept_foldl1 | (intro _)
    | (with_reducible split))

theorem kept_execVarnishStart {cq : List Instr} (cause : Byte) (s : State) (h_s : Kept cq s) : KeptO cq (execVarnishStart cause
    s) := by
  unfold execVarnishStart
  try dsimp only
  repeat' (first
    | with_reducible assumption | with_reducible apply keptO_next | with_reducible apply kept_updVrn
    | with_reducible apply kept_legal)

theorem kept_meanOf {cq : List Instr} (sum : Int) (n : Nat) (s : State) (h_s : Kept cq s) : Kept cq (meanOf sum n s).2 := by
  unfold meanOf
  try dsimp only
  repeat' (first
    | with_reducible assumption | with_reducible apply kept_useFree | with_reducible apply kept_foldl
    | with_reducible apply kept_foldl2 | with_reducible apply kept_foldl1 | (intro _) | (with_reducible split))

theorem kept_carried {cq : List Instr} (s : State) (h_s : Kept cq s) : Kept cq (carried s).2 := by
  unfold carried
  try dsimp only
  repeat' (first
    | with_reducible assumption | with_reducible apply kept_updVrn | with_reducible apply kept_foldl
    | with_reducible apply kept_foldl2 | with_reducible apply kept_foldl1 | (intro _) | (with_reducible split))

theorem kept_cutFeed {cq : List Instr} (s : State) (h_s : Kept cq s) : Kept cq (cutFeed s) := by
  unfold cutFeed
  try dsimp only
  repeat' (first
    | with_reducible assumption | with_reducible apply kept_meanOf | with_reducible apply kept_carried
    | with_reducible apply kept_emit | with_reducible apply kept_updVrn)

theorem kept_vmarkEdge {cq : List Instr} (s : State) (h_s : Kept cq s) : Kept cq (vmarkEdge s) := by
  unfold vmarkEdge
  try dsimp only
  repeat' (first
    | with_reducible assumption | with_reducible apply kept_emit | with_reducible apply kept_updVrn
    | with_reducible apply kept_foldl | with_reducible apply kept_foldl2 | with_reducible apply kept_foldl1 | (intro _)
    | (with_reducible split))

theorem kept_execVmarkCut {cq : List Instr} (s : State) (h_s : Kept cq s) : KeptO cq (execVmarkCut s) := by
  unfold execVmarkCut
  try dsimp only
  repeat' (first
    | with_reducible assumption | with_reducible apply keptO_next | with_reducible apply kept_cutFeed
    | with_reducible apply kept_vFlag | with_reducible apply kept_updVrn | with_reducible apply kept_foldl
    | with_reducible apply kept_foldl2 | with_reducible apply kept_foldl1 | (intro _) | (with_reducible split))

theorem kept_execFreeCut {cq : List Instr} (s : State) (h_s : Kept cq s) : KeptO cq (execFreeCut s) := by
  unfold execFreeCut
  try dsimp only
  repeat' (first
    | with_reducible assumption | with_reducible apply keptO_next | with_reducible apply kept_cutFeed
    | with_reducible apply kept_vFlag | with_reducible apply kept_foldl | with_reducible apply kept_foldl2
    | with_reducible apply kept_foldl1 | (intro _) | (with_reducible split))

theorem kept_execSealTest {cq : List Instr} (ok : Bool) (s : State) (h_s : Kept cq s) : KeptO cq (execSealTest ok s) := by
  unfold execSealTest
  try dsimp only
  repeat' (first
    | with_reducible assumption | with_reducible apply keptO_next | with_reducible apply kept_updVrn
    | with_reducible apply kept_legal | with_reducible apply kept_vFlag | with_reducible apply kept_foldl
    | with_reducible apply kept_foldl2 | with_reducible apply kept_foldl1 | (intro _) | (with_reducible split))

theorem kept_refuseFrame {cq : List Instr} (s : State) (h_s : Kept cq s) : Kept cq (refuseFrame s) := by
  unfold refuseFrame
  try dsimp only
  repeat' (first | with_reducible assumption | with_reducible apply kept_emit)

theorem kept_changeDone {cq : List Instr} (s : State) (h_s : Kept cq s) : Kept cq (changeDone s) := by
  unfold changeDone
  try dsimp only
  repeat' (first | with_reducible assumption | with_reducible apply kept_updVrn)

theorem kept_execSetParam {cq : List Instr} (id : Byte) (val : BitVec 32) (tool : BitVec 64) (s : State) (h_s : Kept cq s) :
    KeptO cq (execSetParam id val tool s) := by
  unfold execSetParam
  try dsimp only
  repeat' (first
    | with_reducible assumption | with_reducible apply keptO_next | with_reducible apply kept_refuseFrame
    | with_reducible apply kept_legal | with_reducible apply kept_changeDone | with_reducible apply kept_updVrn
    | with_reducible apply kept_foldl | with_reducible apply kept_foldl2 | with_reducible apply kept_foldl1 | (intro _)
    | (with_reducible split))

theorem kept_execSwBlock {cq : List Instr} (idx : BitVec 16) (data : List Byte) (s : State) (h_s : Kept cq s) : KeptO cq
    (execSwBlock idx data s) := by
  unfold execSwBlock
  try dsimp only
  repeat' (first
    | with_reducible assumption | with_reducible apply keptO_next | with_reducible apply kept_updVrn
    | with_reducible apply kept_foldl | with_reducible apply kept_foldl2 | with_reducible apply kept_foldl1 | (intro _)
    | (with_reducible split))

theorem kept_execSwCommit {cq : List Instr} (len : BitVec 32) (hash : BitVec 256) (ver : BitVec 16) (_tool : BitVec 64) (s :
    State) (h_s : Kept cq s) : KeptO cq (execSwCommit len hash ver _tool s) := by
  unfold execSwCommit
  try dsimp only
  repeat' (first
    | with_reducible assumption | with_reducible apply keptO_next | with_reducible apply kept_refuseFrame
    | with_reducible apply kept_legal | with_reducible apply kept_changeDone | with_reducible apply kept_updVrn
    | with_reducible apply kept_foldl | with_reducible apply kept_foldl2 | with_reducible apply kept_foldl1 | (intro _)
    | (with_reducible split))

theorem kept_execSelfCheck {cq : List Instr} (ok : Bool) (code : BitVec 16) (s : State) (h_s : Kept cq s) : KeptO cq
    (execSelfCheck ok code s) := by
  unfold execSelfCheck
  try dsimp only
  repeat' (first
    | with_reducible assumption | with_reducible apply keptO_next | with_reducible apply kept_updVrn
    | with_reducible apply kept_vFlag | with_reducible apply kept_legal | with_reducible apply kept_foldl
    | with_reducible apply kept_foldl2 | with_reducible apply kept_foldl1 | (intro _) | (with_reducible split))

theorem kept_sendReply {cq : List Instr} (r : List (BitVec 32)) (s : State) (h_s : Kept cq s) : Kept cq (sendReply r s) := by
  unfold sendReply
  try dsimp only
  repeat' (first
    | with_reducible assumption | with_reducible apply kept_updVrn | with_reducible apply kept_mbxTake
    | with_reducible apply kept_mbxRelease | with_reducible apply kept_foldl | with_reducible apply kept_foldl2
    | with_reducible apply kept_foldl1 | (intro _) | (with_reducible split))

theorem kept_answer {cq : List Instr} (code : Nat) (f : List (BitVec 32) → State → Nat × List (BitVec 32) × State) (s : State)
    (h_f : ∀ x0 x1, Kept cq x1 → Kept cq (f x0 x1).2.2) (h_s : Kept cq s) : Kept cq (answer code f s) := by
  unfold answer
  try dsimp only
  repeat' (first
    | with_reducible assumption | with_reducible apply kept_sendReply | with_reducible apply h_f
    | with_reducible apply kept_foldl | with_reducible apply kept_foldl2 | with_reducible apply kept_foldl1 | (intro _)
    | (with_reducible split))

theorem kept_execQueryStatus {cq : List Instr} (dieTemp : BitVec 32) (s : State) (h_s : Kept cq s) : KeptO cq (execQueryStatus
    dieTemp s) := by
  unfold execQueryStatus
  try dsimp only
  repeat' (first
    | with_reducible assumption | with_reducible apply keptO_next | with_reducible apply kept_answer
    | with_reducible apply kept_foldl | with_reducible apply kept_foldl2 | with_reducible apply kept_foldl1 | (intro _))

theorem kept_execQueryRecord {cq : List Instr} (s : State) (h_s : Kept cq s) : KeptO cq (execQueryRecord s) := by
  unfold execQueryRecord
  try dsimp only
  repeat' (first
    | with_reducible assumption | with_reducible apply keptO_next | with_reducible apply kept_answer
    | with_reducible apply kept_foldl | with_reducible apply kept_foldl2 | with_reducible apply kept_foldl1 | (intro _)
    | (with_reducible split))

theorem kept_execQueryIdent {cq : List Instr} (s : State) (h_s : Kept cq s) : KeptO cq (execQueryIdent s) := by
  unfold execQueryIdent
  try dsimp only
  repeat' (first
    | with_reducible assumption | with_reducible apply keptO_next | with_reducible apply kept_answer
    | with_reducible apply kept_foldl | with_reducible apply kept_foldl2 | with_reducible apply kept_foldl1 | (intro _))

theorem kept_execQueryParams {cq : List Instr} (s : State) (h_s : Kept cq s) : KeptO cq (execQueryParams s) := by
  unfold execQueryParams
  try dsimp only
  repeat' (first
    | with_reducible assumption | with_reducible apply keptO_next | with_reducible apply kept_answer
    | with_reducible apply kept_foldl | with_reducible apply kept_foldl2 | with_reducible apply kept_foldl1 | (intro _))

theorem kept_signPart {cq : List Instr} (nonce : List Byte) (s : State) (h_s : Kept cq s) : Kept cq (signPart nonce s).2 := by
  unfold signPart
  try dsimp only
  repeat' (first | with_reducible assumption | with_reducible apply kept_useFree)

theorem kept_execQueryAttest {cq : List Instr} (s : State) (h_s : Kept cq s) : KeptO cq (execQueryAttest s) := by
  unfold execQueryAttest
  try dsimp only
  repeat' (first
    | with_reducible assumption | with_reducible apply keptO_next | with_reducible apply kept_answer
    | with_reducible apply kept_signPart | with_reducible apply kept_updVrn | with_reducible apply kept_foldl
    | with_reducible apply kept_foldl2 | with_reducible apply kept_foldl1 | (intro _) | (with_reducible split))

theorem kept_execReplyRetry {cq : List Instr} (s : State) (h_s : Kept cq s) : KeptO cq (execReplyRetry s) := by
  unfold execReplyRetry
  try dsimp only
  repeat' (first
    | with_reducible assumption | with_reducible apply keptO_next | with_reducible apply kept_sendReply
    | with_reducible apply kept_foldl | with_reducible apply kept_foldl2 | with_reducible apply kept_foldl1 | (intro _)
    | (with_reducible split))

theorem kept_execReplyDrop {cq : List Instr} (s : State) (h_s : Kept cq s) : KeptO cq (execReplyDrop s) := by
  unfold execReplyDrop
  try dsimp only
  repeat' (first
    | with_reducible assumption | with_reducible apply keptO_next | with_reducible apply kept_mbxRelease
    | with_reducible apply kept_updVrn | with_reducible apply kept_foldl | with_reducible apply kept_foldl2
    | with_reducible apply kept_foldl1 | (intro _) | (with_reducible split))

/-! ### Operands -/

theorem kept_raiseFault {cq : List Instr} (t : Nat) (code : Nat) (pc : Nat) (word : BitVec 64) (addr : Nat) (s : State) (h_s :
    Kept cq s) : Kept cq (raiseFault t code pc word addr s) := by
  unfold raiseFault
  try dsimp only
  repeat' (first
    | with_reducible assumption | with_reducible apply kept_updTile | with_reducible apply kept_faultRecord
    | with_reducible apply kept_report | with_reducible apply kept_jobFault | with_reducible apply kept_kernelStopTile
    | with_reducible apply kept_foldl | with_reducible apply kept_foldl2 | with_reducible apply kept_foldl1 | (intro _)
    | (with_reducible split))

theorem kept_pastEnd {cq : List Instr} (t : Nat) (word : BitVec 64) (s : State) (h_s : Kept cq s) : Kept cq (pastEnd t word s)
    := by
  unfold pastEnd
  try dsimp only
  repeat' (first | with_reducible assumption | with_reducible apply kept_raiseFault)

theorem kept_advance {cq : List Instr} (t : Nat) (word : BitVec 64) (s : State) (h_s : Kept cq s) : Kept cq (advance t word s)
    := by
  unfold advance
  try dsimp only
  repeat' (first
    | with_reducible assumption | with_reducible apply kept_pastEnd | with_reducible apply kept_updTile
    | with_reducible apply kept_foldl | with_reducible apply kept_foldl2 | with_reducible apply kept_foldl1 | (intro _)
    | (with_reducible split))

theorem kept_waitFor {cq : List Instr} (t : Nat) (st : BitVec 5) (w : Wait) (s : State) (h_s : Kept cq s) : Kept cq (waitFor t
    st w s) := by
  unfold waitFor
  try dsimp only
  repeat' (first | with_reducible assumption | with_reducible apply kept_updTile)

theorem kept_resume {cq : List Instr} (t : Nat) (s : State) (h_s : Kept cq s) : Kept cq (resume t s) := by
  unfold resume
  try dsimp only
  repeat' (first
    | with_reducible assumption | with_reducible apply kept_updTile | with_reducible apply kept_pastEnd
    | with_reducible apply kept_foldl | with_reducible apply kept_foldl2 | with_reducible apply kept_foldl1 | (intro _)
    | (with_reducible split))

theorem kept_fetched {cq : List Instr} (t : Nat) (s : State) (h_s : Kept cq s) : Kept cq (fetched t s) := by
  unfold fetched
  try dsimp only
  repeat' (first
    | with_reducible assumption | with_reducible apply kept_ceHit | with_reducible apply kept_charge
    | with_reducible apply kept_updTile | with_reducible apply kept_foldl | with_reducible apply kept_foldl2
    | with_reducible apply kept_foldl1 | (intro _) | (with_reducible split)
    | (dsimp only [Kept]; (first | with_reducible assumption | change Kept _ _)))

theorem kept_issueWord {cq : List Instr} (t : Nat) (p : Nat) (w : BitVec 64) (enc : Option Nat) (run : Nat → BitVec 64 → State →
    State) (s : State) (h_run : ∀ x0 x1 x2, Kept cq x2 → Kept cq (run x0 x1 x2)) (h_s : Kept cq s) : Kept cq (issueWord t p w
    enc run s) := by
  unfold issueWord
  try dsimp only
  repeat' (first
    | with_reducible assumption | with_reducible apply kept_ueHit | with_reducible apply kept_raiseFault
    | with_reducible apply kept_fetched | with_reducible apply kept_advance | with_reducible apply h_run
    | with_reducible apply kept_foldl | with_reducible apply kept_foldl2 | with_reducible apply kept_foldl1 | (intro _)
    | (with_reducible split))

theorem kept_issue {cq : List Instr} (t : TileId) (cls : Nat) (op : Nat) (f : Ins) (enc : Option Nat) (run : Nat → BitVec 64 →
    State → State) (s : State) (h_run : ∀ x0 x1 x2, Kept cq x2 → Kept cq (run x0 x1 x2)) (h_s : Kept cq s) : Kept cq (issue t
    cls op f enc run s) := by
  unfold issue
  try dsimp only
  repeat' (first
    | with_reducible assumption | with_reducible apply kept_issueWord | with_reducible apply h_run
    | with_reducible apply kept_foldl | with_reducible apply kept_foldl2 | with_reducible apply kept_foldl1 | (intro _)
    | (with_reducible split))

theorem kept_faultHere {cq : List Instr} (t : Nat) (code : Nat) (word : BitVec 64) (addr : Nat) (s : State) (h_s : Kept cq s) :
    Kept cq (faultHere t code word addr s) := by
  unfold faultHere
  try dsimp only
  repeat' (first | with_reducible assumption | with_reducible apply kept_raiseFault)

theorem kept_onTile {cq : List Instr} (g : Tile → Tile) (t : Nat) (w : BitVec 64) (s : State) (h_s : Kept cq s) : Kept cq
    (onTile g t w s) := by
  unfold onTile
  try dsimp only
  repeat' (first | with_reducible assumption | with_reducible apply kept_advance | with_reducible apply kept_updTile)

/-! ### Governor -/

theorem kept_feather {cq : List Instr} (r : Nat) (cs : BitVec 64) (g : Option Nat) (s : State) (h_s : Kept cq s) : Kept cq
    (feather r cs g s) := by
  unfold feather
  try dsimp only
  repeat' (first
    | with_reducible assumption | with_reducible apply kept_foldl | with_reducible apply kept_foldl2
    | with_reducible apply kept_foldl1 | (intro _) | (with_reducible split)
    | (dsimp only [Kept]; (first | with_reducible assumption | change Kept _ _)))

theorem kept_haltFor {cq : List Instr} (cause : Nat) (s : State) (h_s : Kept cq s) : Kept cq (haltFor cause s) := by
  unfold haltFor
  try dsimp only
  repeat' (first
    | with_reducible assumption | with_reducible apply kept_regBit | with_reducible apply kept_foldl
    | with_reducible apply kept_foldl2 | with_reducible apply kept_foldl1 | (intro _) | (with_reducible split)
    | (dsimp only [Kept]; (first | with_reducible assumption | change Kept _ _)))

theorem kept_endHalt {cq : List Instr} (cause : Nat) (r : Nat) (s : State) (h_s : Kept cq s) : Kept cq (endHalt cause r s) := by
  unfold endHalt
  try dsimp only
  repeat' (first
    | with_reducible assumption | with_reducible apply kept_feather | with_reducible apply kept_foldl
    | with_reducible apply kept_foldl2 | with_reducible apply kept_foldl1 | (intro _) | (with_reducible split)
    | (dsimp only [Kept]; (first | with_reducible assumption | change Kept _ _)))

theorem kept_releaseGroup {cq : List Instr} (k : Nat) (r : Nat) (s : State) (h_s : Kept cq s) : Kept cq (releaseGroup k r s) :=
    by
  unfold releaseGroup
  try dsimp only
  repeat' (first
    | with_reducible assumption | with_reducible apply kept_feather | with_reducible apply kept_forAll
    | with_reducible apply kept_updTile | with_reducible apply kept_foldl | with_reducible apply kept_foldl2
    | with_reducible apply kept_foldl1 | (intro _) | (with_reducible split)
    | (dsimp only [Kept]; (first | with_reducible assumption | change Kept _ _)))

theorem kept_resumeMembers {cq : List Instr} (k : Nat) (c : Nat) (s : State) (h_s : Kept cq s) : Kept cq (resumeMembers k c s)
    := by
  unfold resumeMembers
  try dsimp only
  repeat' (first | with_reducible assumption | with_reducible apply kept_forAll | with_reducible apply kept_resume)

theorem kept_latchTags {cq : List Instr} (s : State) (h_s : Kept cq s) : Kept cq (latchTags s) := by
  unfold latchTags
  try dsimp only
  repeat' (first
    | with_reducible assumption | with_reducible apply kept_foldl | with_reducible apply kept_foldl2
    | with_reducible apply kept_foldl1 | (intro _) | (with_reducible split)
    | (dsimp only [Kept]; (first | with_reducible assumption | change Kept _ _)))

theorem kept_burstStart {cq : List Instr} (n : Nat) (s : State) (h_s : Kept cq s) : Kept cq (burstStart n s) := by
  unfold burstStart
  try dsimp only
  repeat' (first
    | with_reducible assumption | with_reducible apply kept_haltFor | with_reducible apply kept_endHalt
    | with_reducible apply kept_foldl | with_reducible apply kept_foldl2 | with_reducible apply kept_foldl1 | (intro _)
    | (with_reducible split) | (dsimp only [Kept]; (first | with_reducible assumption | change Kept _ _)))

theorem kept_burstBeat {cq : List Instr} (n : Nat) (s : State) (h_s : Kept cq s) : Kept cq (burstBeat n s) := by
  unfold burstBeat
  try dsimp only
  repeat' (first
    | with_reducible assumption | with_reducible apply kept_endHalt | with_reducible apply kept_burstStart
    | with_reducible apply kept_haltFor | with_reducible apply kept_foldl | with_reducible apply kept_foldl2
    | with_reducible apply kept_foldl1 | (intro _) | (with_reducible split)
    | (dsimp only [Kept]; (first | with_reducible assumption | change Kept _ _)))

theorem kept_clockUp {cq : List Instr} (s : State) (h_s : Kept cq s) : Kept cq (clockUp s) := by
  unfold clockUp
  try dsimp only
  repeat' (first
    | with_reducible assumption | with_reducible apply kept_foldl | with_reducible apply kept_foldl2
    | with_reducible apply kept_foldl1 | (intro _) | (with_reducible split)
    | (dsimp only [Kept]; (first | with_reducible assumption | change Kept _ _)))

theorem kept_setOpTgt {cq : List Instr} (op : Nat) (s : State) (h_s : Kept cq s) : Kept cq (setOpTgt op s) := by
  unfold setOpTgt
  try dsimp only
  repeat' (first
    | with_reducible assumption | with_reducible apply kept_foldl | with_reducible apply kept_foldl2
    | with_reducible apply kept_foldl1 | (intro _) | (with_reducible split)
    | (dsimp only [Kept]; (first | with_reducible assumption | change Kept _ _)))

theorem kept_foldlP {cq : List Instr} {β : Type} (l : List β) (f : Plan → β → Plan) (p : Plan)
    (hf : ∀ p b, Kept cq p.s → Kept cq (f p b).s) (h : Kept cq p.s) : Kept cq (l.foldl f p).s := by
  induction l generalizing p with
  | nil => exact h
  | cons a r ih => exact ih _ (hf _ _ h)
theorem kept_tryAdmit {cq : List Instr} (c : Nat) (wash : Bool) (p : Plan) (h : Kept cq p.s) : Kept cq
    (tryAdmit c wash p).s := by
  unfold tryAdmit
  try dsimp only
  repeat' (first
      | with_reducible assumption | with_reducible apply kept_foldlP | (intro _) | (with_reducible split)
      | (dsimp only [Kept]; (first | with_reducible assumption | (change Kept _ _))) | dsimp only)
theorem kept_admitDue {cq : List Instr} (n : Nat) (p : Plan) (h : Kept cq p.s) : Kept cq (admitDue n p).s := by
  unfold admitDue
  try dsimp only
  repeat' (first
      | with_reducible assumption | with_reducible apply kept_tryAdmit | with_reducible apply kept_resumeMembers
      | with_reducible apply kept_foldlP | (intro _) | (with_reducible split)
      | (dsimp only [Kept]; (first | with_reducible assumption | (change Kept _ _))) | dsimp only)
theorem kept_admitLaunched {cq : List Instr}  (p : Plan) (h : Kept cq p.s) : Kept cq (admitLaunched  p).s := by
  unfold admitLaunched
  try dsimp only
  repeat' (first
      | with_reducible assumption | with_reducible apply kept_tryAdmit | with_reducible apply kept_foldlP | (intro _)
      | (with_reducible split) | (dsimp only [Kept]; (first | with_reducible assumption | (change Kept _ _))) | dsimp only)
theorem kept_raiseLimits {cq : List Instr}  (p : Plan) (h : Kept cq p.s) : Kept cq (raiseLimits  p).s := by
  unfold raiseLimits
  try dsimp only
  repeat' (first
      | with_reducible assumption | with_reducible apply kept_foldlP | (intro _) | (with_reducible split)
      | (dsimp only [Kept]; (first | with_reducible assumption | (change Kept _ _))) | dsimp only)
theorem kept_admitWash {cq : List Instr} (want : BitVec 64) (p : Plan) (h : Kept cq p.s) : Kept cq (admitWash want p).s := by
  unfold admitWash
  try dsimp only
  repeat' (first
      | with_reducible assumption | with_reducible apply kept_tryAdmit | with_reducible apply kept_foldlP | (intro _)
      | (with_reducible split) | (dsimp only [Kept]; (first | with_reducible assumption | (change Kept _ _))) | dsimp only)
theorem kept_admitClusters {cq : List Instr} (n : Nat) (s : State) (h_s : Kept cq s) : Kept cq (admitClusters n s) := by
  unfold admitClusters
  dsimp only
  repeat' (first
      | with_reducible assumption | with_reducible apply kept_raiseLimits | with_reducible apply kept_admitLaunched
      | with_reducible apply kept_admitDue | with_reducible apply kept_admitWash | (with_reducible split)
      | (dsimp only [Kept]; (first | with_reducible assumption | (change Kept _ _))) | dsimp only)

theorem kept_opBeat {cq : List Instr} (lam : Nat) (s : State) (h_s : Kept cq s) : Kept cq (opBeat lam s) := by
  unfold opBeat
  try dsimp only
  repeat' (first
    | with_reducible assumption | with_reducible apply kept_setOpTgt | with_reducible apply kept_clockUp
    | with_reducible apply kept_foldl | with_reducible apply kept_foldl2 | with_reducible apply kept_foldl1 | (intro _)
    | (with_reducible split) | (dsimp only [Kept]; (first | with_reducible assumption | change Kept _ _)))

theorem kept_govApply {cq : List Instr} (n : Nat) (lamSel : Nat) (winner : Nat) (s : State) (h_s : Kept cq s) : Kept cq
    (govApply n lamSel winner s) := by
  unfold govApply
  try dsimp only
  repeat' (first
    | with_reducible assumption | with_reducible apply kept_countReg | with_reducible apply kept_admitClusters
    | with_reducible apply kept_burstBeat | with_reducible apply kept_opBeat | with_reducible apply kept_regBit
    | with_reducible apply kept_foldl | with_reducible apply kept_foldl2 | with_reducible apply kept_foldl1 | (intro _)
    | (with_reducible split) | (dsimp only [Kept]; (first | with_reducible assumption | change Kept _ _)))

theorem kept_peakGuard {cq : List Instr} (s : State) (h_s : Kept cq s) : Kept cq (peakGuard s) := by
  unfold peakGuard
  try dsimp only
  repeat' (first
    | with_reducible assumption | with_reducible apply kept_regBit | with_reducible apply kept_foldl
    | with_reducible apply kept_foldl2 | with_reducible apply kept_foldl1 | (intro _) | (with_reducible split)
    | (dsimp only [Kept]; (first | with_reducible assumption | change Kept _ _)))

theorem kept_shareBeat {cq : List Instr} (s : State) (h_s : Kept cq s) : Kept cq (shareBeat s) := by
  unfold shareBeat
  try dsimp only
  repeat' (first
    | with_reducible assumption | with_reducible apply kept_foldl | with_reducible apply kept_foldl2
    | with_reducible apply kept_foldl1 | (intro _) | (with_reducible split)
    | (dsimp only [Kept]; (first | with_reducible assumption | change Kept _ _)))

theorem kept_packLatch {cq : List Instr} (s : State) (h_s : Kept cq s) : Kept cq (packLatch s) := by
  unfold packLatch
  try dsimp only
  repeat' (first
    | with_reducible assumption | with_reducible apply kept_govBit | with_reducible apply kept_foldl
    | with_reducible apply kept_foldl2 | with_reducible apply kept_foldl1 | (intro _) | (with_reducible split)
    | (dsimp only [Kept]; (first | with_reducible assumption | change Kept _ _)))

theorem kept_busLatch {cq : List Instr} (s : State) (h_s : Kept cq s) : Kept cq (busLatch s) := by
  unfold busLatch
  try dsimp only
  repeat' (first
    | with_reducible assumption | with_reducible apply kept_foldl | with_reducible apply kept_foldl2
    | with_reducible apply kept_foldl1 | (intro _) | (with_reducible split)
    | (dsimp only [Kept]; (first | with_reducible assumption | change Kept _ _)))

theorem kept_govLatch {cq : List Instr} (inp : BeatInputs) (s : State) (h_s : Kept cq s) : Kept cq (govLatch inp s) := by
  unfold govLatch
  try dsimp only
  repeat' (first
    | with_reducible assumption | with_reducible apply kept_peakGuard | with_reducible apply kept_onlyIf
    | with_reducible apply kept_govBit | with_reducible apply kept_busLatch | with_reducible apply kept_packLatch
    | with_reducible apply kept_shareBeat | with_reducible apply kept_latchTags | with_reducible apply kept_foldl
    | with_reducible apply kept_foldl2 | with_reducible apply kept_foldl1 | (intro _) | (with_reducible split)
    | (dsimp only [Kept]; (first | with_reducible assumption | change Kept _ _)))

theorem kept_execBurstPeriod {cq : List Instr} (s : State) (h_s : Kept cq s) : KeptO cq (execBurstPeriod s) := by
  unfold execBurstPeriod
  try dsimp only
  repeat' (first
    | with_reducible assumption | with_reducible apply keptO_next | with_reducible apply kept_burstStart
    | with_reducible apply kept_foldl | with_reducible apply kept_foldl2 | with_reducible apply kept_foldl1 | (intro _)
    | (with_reducible split))

theorem kept_execCapUnatt {cq : List Instr} (s : State) (h_s : Kept cq s) : KeptO cq (execCapUnatt s) := by
  unfold execCapUnatt
  try dsimp only
  repeat' (first
    | with_reducible assumption | with_reducible apply keptO_next | with_reducible apply kept_govBit
    | with_reducible apply kept_foldl | with_reducible apply kept_foldl2 | with_reducible apply kept_foldl1 | (intro _)
    | (with_reducible split))

theorem kept_execThermalTrip {cq : List Instr} (temp : Int) (s : State) (h_s : Kept cq s) : KeptO cq (execThermalTrip temp s) :=
    by
  unfold execThermalTrip
  try dsimp only
  repeat' (first
    | with_reducible assumption | with_reducible apply keptO_next | with_reducible apply kept_onlyIf
    | with_reducible apply kept_govBit | with_reducible apply kept_everyJobFault | with_reducible apply kept_haltFor
    | with_reducible apply kept_retention | with_reducible apply kept_foldl | with_reducible apply kept_foldl2
    | with_reducible apply kept_foldl1 | (intro _) | (with_reducible split)
    | (dsimp only [Kept]; (first | with_reducible assumption | change Kept _ _)))

theorem kept_execTripSwitchOff {cq : List Instr} (temp : Int) (s : State) (h_s : Kept cq s) : KeptO cq (execTripSwitchOff temp
    s) := by
  unfold execTripSwitchOff
  try dsimp only
  repeat' (first
    | with_reducible assumption | with_reducible apply keptO_next | with_reducible apply kept_switchOff
    | with_reducible apply kept_foldl | with_reducible apply kept_foldl2 | with_reducible apply kept_foldl1 | (intro _)
    | (with_reducible split) | (dsimp only [Kept]; (first | with_reducible assumption | change Kept _ _)))

theorem kept_tripEnd {cq : List Instr} (s : State) (h_s : Kept cq s) : Kept cq (tripEnd s) := by
  unfold tripEnd
  try dsimp only
  repeat' (first
    | with_reducible assumption | with_reducible apply kept_endHalt | with_reducible apply kept_govBit
    | with_reducible apply kept_foldl | with_reducible apply kept_foldl2 | with_reducible apply kept_foldl1 | (intro _)
    | (with_reducible split) | (dsimp only [Kept]; (first | with_reducible assumption | change Kept _ _)))

theorem kept_tripW1c {cq : List Instr} (s : State) (h_s : Kept cq s) : Kept cq (tripW1c s) := by
  unfold tripW1c
  try dsimp only
  repeat' (first
    | with_reducible assumption | with_reducible apply kept_tripEnd | with_reducible apply kept_leaveRetention
    | with_reducible apply kept_foldl | with_reducible apply kept_foldl2 | with_reducible apply kept_foldl1 | (intro _)
    | (with_reducible split))

theorem kept_execClockSwitchUp {cq : List Instr} (s : State) (h_s : Kept cq s) : KeptO cq (execClockSwitchUp s) := by
  unfold execClockSwitchUp
  try dsimp only
  repeat' (first | with_reducible assumption | with_reducible apply keptO_next | with_reducible apply kept_clockUp)

theorem kept_execHbLost {cq : List Instr} (s : State) (h_s : Kept cq s) : KeptO cq (execHbLost s) := by
  unfold execHbLost
  try dsimp only
  repeat' (first
    | with_reducible assumption | with_reducible apply keptO_next | with_reducible apply kept_govBit
    | with_reducible apply kept_foldl | with_reducible apply kept_foldl2 | with_reducible apply kept_foldl1 | (intro _)
    | (with_reducible split))

theorem kept_execOrphan {cq : List Instr} (s : State) (h_s : Kept cq s) : KeptO cq (execOrphan s) := by
  unfold execOrphan
  try dsimp only
  repeat' (first
    | with_reducible assumption | with_reducible apply keptO_next | with_reducible apply kept_govBit
    | with_reducible apply kept_logHw | with_reducible apply kept_foldl | with_reducible apply kept_foldl2
    | with_reducible apply kept_foldl1 | (intro _) | (with_reducible split))

theorem kept_heartbeatIn {cq : List Instr} (v : BitVec 32) (s : State) (h_s : Kept cq s) : Kept cq (heartbeatIn v s) := by
  unfold heartbeatIn
  try dsimp only
  repeat' (first
    | with_reducible assumption | with_reducible apply kept_setReg | with_reducible apply kept_govBit
    | with_reducible apply kept_logHw | with_reducible apply kept_foldl | with_reducible apply kept_foldl2
    | with_reducible apply kept_foldl1 | (intro _) | (with_reducible split)
    | (dsimp only [Kept]; (first | with_reducible assumption | change Kept _ _)))

theorem kept_packAnswerIn {cq : List Instr} (a : PackAns) (s : State) (h_s : Kept cq s) : Kept cq (packAnswerIn a s) := by
  unfold packAnswerIn
  try dsimp only
  repeat' (first
    | with_reducible assumption | with_reducible apply kept_foldl | with_reducible apply kept_foldl2
    | with_reducible apply kept_foldl1 | (intro _) | (with_reducible split)
    | (dsimp only [Kept]; (first | with_reducible assumption | change Kept _ _)))

theorem kept_execPackAnswer {cq : List Instr} (a : PackAns) (s : State) (h_s : Kept cq s) : KeptO cq (execPackAnswer a s) := by
  unfold execPackAnswer
  try dsimp only
  repeat' (first | with_reducible assumption | with_reducible apply keptO_next | with_reducible apply kept_packAnswerIn)

theorem kept_execNoPack {cq : List Instr} (s : State) (h_s : Kept cq s) : KeptO cq (execNoPack s) := by
  unfold execNoPack
  try dsimp only
  repeat' (first
    | with_reducible assumption | with_reducible apply keptO_next | with_reducible apply kept_govBit
    | with_reducible apply kept_foldl | with_reducible apply kept_foldl2 | with_reducible apply kept_foldl1 | (intro _)
    | (with_reducible split))

theorem kept_execNoPackBusLow {cq : List Instr} (s : State) (h_s : Kept cq s) : KeptO cq (execNoPackBusLow s) := by
  unfold execNoPackBusLow
  try dsimp only
  repeat' (first
    | with_reducible assumption | with_reducible apply keptO_next | with_reducible apply kept_foldl
    | with_reducible apply kept_foldl2 | with_reducible apply kept_foldl1 | (intro _) | (with_reducible split)
    | (dsimp only [Kept]; (first | with_reducible assumption | change Kept _ _)))

theorem kept_execNoPackBusRestored {cq : List Instr} (s : State) (h_s : Kept cq s) : KeptO cq (execNoPackBusRestored s) := by
  unfold execNoPackBusRestored
  try dsimp only
  repeat' (first
    | with_reducible assumption | with_reducible apply keptO_next | with_reducible apply kept_foldl
    | with_reducible apply kept_foldl2 | with_reducible apply kept_foldl1 | (intro _) | (with_reducible split)
    | (dsimp only [Kept]; (first | with_reducible assumption | change Kept _ _)))

theorem kept_execFlowLost {cq : List Instr} (s : State) (h_s : Kept cq s) : KeptO cq (execFlowLost s) := by
  unfold execFlowLost
  try dsimp only
  repeat' (first
    | with_reducible assumption | with_reducible apply keptO_next | with_reducible apply kept_everyJobFault
    | with_reducible apply kept_haltFor | with_reducible apply kept_retention | with_reducible apply kept_govBit
    | with_reducible apply kept_foldl | with_reducible apply kept_foldl2 | with_reducible apply kept_foldl1 | (intro _)
    | (with_reducible split) | (dsimp only [Kept]; (first | with_reducible assumption | change Kept _ _)))

theorem kept_execFlowSwitchOff {cq : List Instr} (s : State) (h_s : Kept cq s) : KeptO cq (execFlowSwitchOff s) := by
  unfold execFlowSwitchOff
  try dsimp only
  repeat' (first
    | with_reducible assumption | with_reducible apply keptO_next | with_reducible apply kept_switchOff
    | with_reducible apply kept_foldl | with_reducible apply kept_foldl2 | with_reducible apply kept_foldl1 | (intro _)
    | (with_reducible split) | (dsimp only [Kept]; (first | with_reducible assumption | change Kept _ _)))

theorem kept_execFlowReturn {cq : List Instr} (s : State) (h_s : Kept cq s) : KeptO cq (execFlowReturn s) := by
  unfold execFlowReturn
  try dsimp only
  repeat' (first
    | with_reducible assumption | with_reducible apply keptO_next | with_reducible apply kept_govBit
    | with_reducible apply kept_endHalt | with_reducible apply kept_startRails | with_reducible apply kept_selfRefreshOff
    | with_reducible apply kept_leaveRetention | with_reducible apply kept_foldl | with_reducible apply kept_foldl2
    | with_reducible apply kept_foldl1 | (intro _) | (with_reducible split)
    | (dsimp only [Kept]; (first | with_reducible assumption | change Kept _ _)))

theorem kept_levelIn {cq : List Instr} (m : LevelMsg) (s : State) (h_s : Kept cq s) : Kept cq (levelIn m s) := by
  unfold levelIn
  try dsimp only
  repeat' (first
    | with_reducible assumption | with_reducible apply kept_everyJobFault | with_reducible apply kept_foldl
    | with_reducible apply kept_foldl2 | with_reducible apply kept_foldl1 | (intro _) | (with_reducible split)
    | (dsimp only [Kept]; (first | with_reducible assumption | change Kept _ _)))

theorem kept_execLevelMessage {cq : List Instr} (m : LevelMsg) (s : State) (h_s : Kept cq s) : KeptO cq (execLevelMessage m s)
    := by
  unfold execLevelMessage
  try dsimp only
  repeat' (first | with_reducible assumption | with_reducible apply keptO_next | with_reducible apply kept_levelIn)

theorem kept_execLevelMessageMissing {cq : List Instr} (s : State) (h_s : Kept cq s) : KeptO cq (execLevelMessageMissing s) :=
    by
  unfold execLevelMessageMissing
  try dsimp only
  repeat' (first
    | with_reducible assumption | with_reducible apply keptO_next | with_reducible apply kept_foldl
    | with_reducible apply kept_foldl2 | with_reducible apply kept_foldl1 | (intro _) | (with_reducible split)
    | (dsimp only [Kept]; (first | with_reducible assumption | change Kept _ _)))

/-! ### Loop -/

theorem kept_ctlEvent {cq : List Instr} (i : Nat) (up : Bool) (s : State) (h_s : Kept cq s) : Kept cq (ctlEvent i up s) := by
  unfold ctlEvent
  try dsimp only
  repeat' (first | with_reducible assumption | with_reducible apply kept_statusReport)

theorem kept_skPush {cq : List Instr} (n : Nat) (s : State) (h_s : Kept cq s) : Kept cq (skPush n s) := by
  unfold skPush
  try dsimp only
  repeat' (first
    | with_reducible assumption | with_reducible apply kept_foldl | with_reducible apply kept_foldl2
    | with_reducible apply kept_foldl1 | (intro _) | (with_reducible split)
    | (dsimp only [Kept]; (first | with_reducible assumption | change Kept _ _)))

theorem kept_skEnd {cq : List Instr} (s : State) (h_s : Kept cq s) : Kept cq (skEnd s) := by
  unfold skEnd
  try dsimp only
  repeat' (first
    | with_reducible assumption | with_reducible apply kept_foldl | with_reducible apply kept_foldl2
    | with_reducible apply kept_foldl1 | (intro _) | (with_reducible split)
    | (dsimp only [Kept]; (first | with_reducible assumption | change Kept _ _)))

theorem kept_skFire {cq : List Instr} (s : State) (h_s : Kept cq s) : Kept cq (skFire s) := by
  unfold skFire
  try dsimp only
  repeat' (first
    | with_reducible assumption | with_reducible apply kept_skEnd | with_reducible apply kept_foldl
    | with_reducible apply kept_foldl2 | with_reducible apply kept_foldl1 | (intro _) | (with_reducible split)
    | (dsimp only [Kept]; (first | with_reducible assumption | change Kept _ _)))

theorem kept_skSample {cq : List Instr} (kinds : List Nat) (miss : Bool) (s : State) (h_s : Kept cq s) : Kept cq (skSample kinds
    miss s) := by
  unfold skSample
  try dsimp only
  repeat' (first
    | with_reducible assumption | with_reducible apply kept_forAll | with_reducible apply kept_skPush
    | with_reducible apply kept_skFire | with_reducible apply kept_skEnd | with_reducible apply kept_foldl
    | with_reducible apply kept_foldl2 | with_reducible apply kept_foldl1 | (intro _) | (with_reducible split)
    | (dsimp only [Kept]; (first | with_reducible assumption | change Kept _ _)))

theorem kept_skArm {cq : List Instr} (s : State) (h_s : Kept cq s) : Kept cq (skArm s) := by
  unfold skArm
  try dsimp only
  repeat' (first
    | with_reducible assumption | with_reducible apply kept_foldl | with_reducible apply kept_foldl2
    | with_reducible apply kept_foldl1 | (intro _) | (with_reducible split)
    | (dsimp only [Kept]; (first | with_reducible assumption | change Kept _ _)))

theorem kept_skForce {cq : List Instr} (s : State) (h_s : Kept cq s) : Kept cq (skForce s) := by
  unfold skForce
  try dsimp only
  repeat' (first
    | with_reducible assumption | with_reducible apply kept_skFire | with_reducible apply kept_foldl
    | with_reducible apply kept_foldl2 | with_reducible apply kept_foldl1 | (intro _) | (with_reducible split))

theorem kept_skStop {cq : List Instr} (s : State) (h_s : Kept cq s) : Kept cq (skStop s) := by
  unfold skStop
  try dsimp only
  repeat' (first
    | with_reducible assumption | with_reducible apply kept_foldl | with_reducible apply kept_foldl2
    | with_reducible apply kept_foldl1 | (intro _) | (with_reducible split)
    | (dsimp only [Kept]; (first | with_reducible assumption | change Kept _ _)))

theorem kept_execPostComplete {cq : List Instr} (s : State) (h_s : Kept cq s) : KeptO cq (execPostComplete s) := by
  unfold execPostComplete
  try dsimp only
  repeat' (first | with_reducible assumption | with_reducible apply keptO_next | with_reducible apply kept_skEnd)

theorem kept_stagePort {cq : List Instr} (code : Nat) (v : BitVec 32) (s : State) (h_s : Kept cq s) : Kept cq (stagePort code v
    s) := by
  unfold stagePort
  try dsimp only
  repeat' (first
    | with_reducible assumption | with_reducible apply kept_regBit | with_reducible apply kept_foldl
    | with_reducible apply kept_foldl2 | with_reducible apply kept_foldl1 | (intro _) | (with_reducible split)
    | (dsimp only [Kept]; (first | with_reducible assumption | change Kept _ _)))

theorem kept_loopSet {cq : List Instr} (code : Nat) (v : BitVec 32) (s : State) (h_s : Kept cq s) : Kept cq (loopSet code v s)
    := by
  unfold loopSet
  try dsimp only
  repeat' (first
    | with_reducible assumption | with_reducible apply kept_stagePort | with_reducible apply kept_foldl
    | with_reducible apply kept_foldl2 | with_reducible apply kept_foldl1 | (intro _) | (with_reducible split)
    | (dsimp only [Kept]; (first | with_reducible assumption | change Kept _ _)))

theorem kept_setCycles {cq : List Instr} (n : Nat) (s : State) (h_s : Kept cq s) : Kept cq (setCycles n s) := by
  unfold setCycles
  try dsimp only
  repeat' (first | with_reducible assumption | with_reducible apply kept_updReg)

theorem kept_finishRun {cq : List Instr} (s : State) (h_s : Kept cq s) : Kept cq (finishRun s) := by
  unfold finishRun
  try dsimp only
  repeat' (first
    | with_reducible assumption | with_reducible apply kept_skSample | with_reducible apply kept_setCycles
    | with_reducible apply kept_foldl | with_reducible apply kept_foldl2 | with_reducible apply kept_foldl1 | (intro _)
    | (with_reducible split) | (dsimp only [Kept]; (first | with_reducible assumption | change Kept _ _)))

theorem kept_missRun {cq : List Instr} (s : State) (h_s : Kept cq s) : Kept cq (missRun s) := by
  unfold missRun
  try dsimp only
  repeat' (first
    | with_reducible assumption | with_reducible apply kept_countReg | with_reducible apply kept_setCycles
    | with_reducible apply kept_regBit | with_reducible apply kept_ctlEvent | with_reducible apply kept_skSample
    | with_reducible apply kept_foldl | with_reducible apply kept_foldl2 | with_reducible apply kept_foldl1 | (intro _)
    | (with_reducible split) | (dsimp only [Kept]; (first | with_reducible assumption | change Kept _ _)))

theorem kept_execLoopDeadlineMiss {cq : List Instr} (s : State) (h_s : Kept cq s) : KeptO cq (execLoopDeadlineMiss s) := by
  unfold execLoopDeadlineMiss
  try dsimp only
  repeat' (first
    | with_reducible assumption | with_reducible apply keptO_next | with_reducible apply kept_missRun
    | with_reducible apply kept_foldl | with_reducible apply kept_foldl2 | with_reducible apply kept_foldl1 | (intro _)
    | (with_reducible split))

theorem kept_memMiss {cq : List Instr} (s : State) (h_s : Kept cq s) : Kept cq (memMiss s) := by
  unfold memMiss
  try dsimp only
  repeat' (first | with_reducible assumption | with_reducible apply kept_regBit | with_reducible apply kept_missRun)

theorem kept_loopAt {cq : List Instr} (op : Nat) (i : LoopIns) (reads : Nat) (cycles : Nat) (f : State → State) (s : State) (h_f
    : ∀ x0, Kept cq x0 → Kept cq (f x0)) (h_s : Kept cq s) : Kept cq (loopAt op i reads cycles f s) := by
  unfold loopAt
  try dsimp only
  repeat' (first
    | with_reducible assumption | with_reducible apply kept_memMiss | with_reducible apply h_f
    | with_reducible apply kept_foldl | with_reducible apply kept_foldl2 | with_reducible apply kept_foldl1 | (intro _)
    | (with_reducible split) | (dsimp only [Kept]; (first | with_reducible assumption | change Kept _ _)))

theorem kept_loopStepOp {cq : List Instr} (op : Nat) (i : LoopIns) (reads : Nat) (cycles : Nat) (jump : Option Nat) (f : State →
    State) (s : State) (h_f : ∀ x0, Kept cq x0 → Kept cq (f x0)) (h_s : Kept cq s) : Kept cq (loopStepOp op i reads cycles jump
    f s) := by
  unfold loopStepOp
  try dsimp only
  repeat' (first
    | with_reducible assumption | with_reducible apply kept_loopAt | with_reducible apply kept_finishRun
    | with_reducible apply h_f | with_reducible apply kept_foldl | with_reducible apply kept_foldl2
    | with_reducible apply kept_foldl1 | (intro _) | (with_reducible split)
    | (dsimp only [Kept]; (first | with_reducible assumption | change Kept _ _)))

theorem kept_loopOp {cq : List Instr} (op : Nat) (reads : Nat) (cycles : Nat) (i : LoopIns) (f : State → BitVec 32) (s : State)
    (h_s : Kept cq s) : KeptO cq (loopOp op reads cycles i f s) := by
  unfold loopOp
  try dsimp only
  repeat' (first
    | with_reducible assumption | with_reducible apply keptO_next | with_reducible apply kept_loopStepOp
    | with_reducible apply kept_loopSet | with_reducible apply kept_foldl | with_reducible apply kept_foldl2
    | with_reducible apply kept_foldl1 | (intro _))

theorem kept_execLoopNop {cq : List Instr} (i : LoopIns) (s : State) (h_s : Kept cq s) : KeptO cq (execLoopNop i s) := by
  exact keptO_next _ (kept_loopStepOp _ _ _ _ _ _ _ (fun _ h => h) h_s)

theorem kept_execLoopEnd {cq : List Instr} (i : LoopIns) (s : State) (h_s : Kept cq s) : KeptO cq (execLoopEnd i s) := by
  unfold execLoopEnd
  try dsimp only
  repeat' (first
    | with_reducible assumption | with_reducible apply keptO_next | with_reducible apply kept_loopAt
    | with_reducible apply kept_finishRun)

theorem kept_execLoopMov {cq : List Instr} (i : LoopIns) (s : State) (h_s : Kept cq s) : KeptO cq (execLoopMov i s) := by
  unfold execLoopMov
  try dsimp only
  repeat' (first | with_reducible assumption | with_reducible apply keptO_next | with_reducible apply kept_loopOp)

theorem kept_execLoopLdk {cq : List Instr} (i : LoopIns) (s : State) (h_s : Kept cq s) : KeptO cq (execLoopLdk i s) := by
  unfold execLoopLdk
  try dsimp only
  repeat' (first | with_reducible assumption | with_reducible apply keptO_next | with_reducible apply kept_loopOp)

theorem kept_execLoopAdd {cq : List Instr} (i : LoopIns) (s : State) (h_s : Kept cq s) : KeptO cq (execLoopAdd i s) := by
  unfold execLoopAdd
  try dsimp only
  repeat' (first | with_reducible assumption | with_reducible apply keptO_next | with_reducible apply kept_loopOp)

theorem kept_execLoopSub {cq : List Instr} (i : LoopIns) (s : State) (h_s : Kept cq s) : KeptO cq (execLoopSub i s) := by
  unfold execLoopSub
  try dsimp only
  repeat' (first | with_reducible assumption | with_reducible apply keptO_next | with_reducible apply kept_loopOp)

theorem kept_execLoopMul {cq : List Instr} (i : LoopIns) (s : State) (h_s : Kept cq s) : KeptO cq (execLoopMul i s) := by
  unfold execLoopMul
  try dsimp only
  repeat' (first | with_reducible assumption | with_reducible apply keptO_next | with_reducible apply kept_loopOp)

theorem kept_execLoopFma {cq : List Instr} (i : LoopIns) (s : State) (h_s : Kept cq s) : KeptO cq (execLoopFma i s) := by
  unfold execLoopFma
  try dsimp only
  repeat' (first | with_reducible assumption | with_reducible apply keptO_next | with_reducible apply kept_loopOp)

theorem kept_execLoopDiv {cq : List Instr} (i : LoopIns) (s : State) (h_s : Kept cq s) : KeptO cq (execLoopDiv i s) := by
  unfold execLoopDiv
  try dsimp only
  repeat' (first | with_reducible assumption | with_reducible apply keptO_next | with_reducible apply kept_loopOp)

theorem kept_execLoopMin {cq : List Instr} (i : LoopIns) (s : State) (h_s : Kept cq s) : KeptO cq (execLoopMin i s) := by
  unfold execLoopMin
  try dsimp only
  repeat' (first | with_reducible assumption | with_reducible apply keptO_next | with_reducible apply kept_loopOp)

theorem kept_execLoopMax {cq : List Instr} (i : LoopIns) (s : State) (h_s : Kept cq s) : KeptO cq (execLoopMax i s) := by
  unfold execLoopMax
  try dsimp only
  repeat' (first | with_reducible assumption | with_reducible apply keptO_next | with_reducible apply kept_loopOp)

theorem kept_execLoopClamp {cq : List Instr} (i : LoopIns) (s : State) (h_s : Kept cq s) : KeptO cq (execLoopClamp i s) := by
  unfold execLoopClamp
  try dsimp only
  repeat' (first | with_reducible assumption | with_reducible apply keptO_next | with_reducible apply kept_loopOp)

theorem kept_execLoopAbs {cq : List Instr} (i : LoopIns) (s : State) (h_s : Kept cq s) : KeptO cq (execLoopAbs i s) := by
  unfold execLoopAbs
  try dsimp only
  repeat' (first | with_reducible assumption | with_reducible apply keptO_next | with_reducible apply kept_loopOp)

theorem kept_execLoopSel {cq : List Instr} (i : LoopIns) (s : State) (h_s : Kept cq s) : KeptO cq (execLoopSel i s) := by
  unfold execLoopSel
  try dsimp only
  repeat' (first | with_reducible assumption | with_reducible apply keptO_next | with_reducible apply kept_loopOp)

theorem kept_execLoopCgt {cq : List Instr} (i : LoopIns) (s : State) (h_s : Kept cq s) : KeptO cq (execLoopCgt i s) := by
  unfold execLoopCgt
  try dsimp only
  repeat' (first | with_reducible assumption | with_reducible apply keptO_next | with_reducible apply kept_loopOp)

theorem kept_execLoopCge {cq : List Instr} (i : LoopIns) (s : State) (h_s : Kept cq s) : KeptO cq (execLoopCge i s) := by
  unfold execLoopCge
  try dsimp only
  repeat' (first | with_reducible assumption | with_reducible apply keptO_next | with_reducible apply kept_loopOp)

theorem kept_execLoopCeq {cq : List Instr} (i : LoopIns) (s : State) (h_s : Kept cq s) : KeptO cq (execLoopCeq i s) := by
  unfold execLoopCeq
  try dsimp only
  repeat' (first | with_reducible assumption | with_reducible apply keptO_next | with_reducible apply kept_loopOp)

theorem kept_execLoopBr {cq : List Instr} (i : LoopIns) (s : State) (h_s : Kept cq s) : KeptO cq (execLoopBr i s) := by
  exact keptO_next _ (kept_loopStepOp _ _ _ _ _ _ _ (fun _ h => h) h_s)

theorem kept_execLoopBrp {cq : List Instr} (i : LoopIns) (s : State) (h_s : Kept cq s) : KeptO cq (execLoopBrp i s) := by
  exact keptO_next _ (kept_loopStepOp _ _ _ _ _ _ _ (fun _ h => h) h_s)

theorem kept_execLoopBrn {cq : List Instr} (i : LoopIns) (s : State) (h_s : Kept cq s) : KeptO cq (execLoopBrn i s) := by
  exact keptO_next _ (kept_loopStepOp _ _ _ _ _ _ _ (fun _ h => h) h_s)

theorem kept_execFlt {cq : List Instr} (i : LoopIns) (s : State) (h_s : Kept cq s) : KeptO cq (execFlt i s) := by
  unfold execFlt
  try dsimp only
  repeat' (first | with_reducible assumption | with_reducible apply keptO_next | with_reducible apply kept_loopOp)

theorem kept_execSlew {cq : List Instr} (i : LoopIns) (s : State) (h_s : Kept cq s) : KeptO cq (execSlew i s) := by
  unfold execSlew
  try dsimp only
  repeat' (first | with_reducible assumption | with_reducible apply keptO_next | with_reducible apply kept_loopOp)

theorem kept_execHyst {cq : List Instr} (i : LoopIns) (s : State) (h_s : Kept cq s) : KeptO cq (execHyst i s) := by
  unfold execHyst
  try dsimp only
  repeat' (first | with_reducible assumption | with_reducible apply keptO_next | with_reducible apply kept_loopOp)

theorem kept_execPi {cq : List Instr} (i : LoopIns) (s : State) (h_s : Kept cq s) : KeptO cq (execPi i s) := by
  unfold execPi
  try dsimp only
  repeat' (first | with_reducible assumption | with_reducible apply keptO_next | with_reducible apply kept_loopOp)

theorem kept_execPiu {cq : List Instr} (i : LoopIns) (s : State) (h_s : Kept cq s) : KeptO cq (execPiu i s) := by
  unfold execPiu
  try dsimp only
  repeat' (first | with_reducible assumption | with_reducible apply keptO_next | with_reducible apply kept_loopOp)

theorem kept_execTrk {cq : List Instr} (i : LoopIns) (s : State) (h_s : Kept cq s) : KeptO cq (execTrk i s) := by
  unfold execTrk
  try dsimp only
  repeat' (first | with_reducible assumption | with_reducible apply keptO_next | with_reducible apply kept_loopOp)

theorem kept_flwFlag {cq : List Instr} (j : Nat) (d : BitVec 32) (lim : BitVec 32) (s : State) (h_s : Kept cq s) : Kept cq
    (flwFlag j d lim s) := by
  unfold flwFlag
  try dsimp only
  repeat' (first
    | with_reducible assumption | with_reducible apply kept_regBit | with_reducible apply kept_report
    | with_reducible apply kept_foldl | with_reducible apply kept_foldl2 | with_reducible apply kept_foldl1 | (intro _)
    | (with_reducible split) | (dsimp only [Kept]; (first | with_reducible assumption | change Kept _ _)))

theorem kept_execFlw {cq : List Instr} (i : LoopIns) (s : State) (h_s : Kept cq s) : KeptO cq (execFlw i s) := by
  unfold execFlw
  try dsimp only
  repeat' (first
    | with_reducible assumption | with_reducible apply keptO_next | with_reducible apply kept_loopStepOp
    | with_reducible apply kept_flwFlag | with_reducible apply kept_loopSet | with_reducible apply kept_foldl
    | with_reducible apply kept_foldl2 | with_reducible apply kept_foldl1 | (intro _))

theorem kept_execVerifyDone {cq : List Instr} (s : State) (h_s : Kept cq s) : KeptO cq (execVerifyDone s) := by
  unfold execVerifyDone
  try dsimp only
  repeat' (first
    | with_reducible assumption | with_reducible apply keptO_next | with_reducible apply kept_setReg
    | with_reducible apply kept_foldl | with_reducible apply kept_foldl2 | with_reducible apply kept_foldl1 | (intro _)
    | (with_reducible split) | (dsimp only [Kept]; (first | with_reducible assumption | change Kept _ _)))

theorem kept_bankTouched {cq : List Instr} (s : State) (h_s : Kept cq s) : Kept cq (bankTouched s) := by
  unfold bankTouched
  try dsimp only
  repeat' (first
    | with_reducible assumption | with_reducible apply kept_regBit | with_reducible apply kept_foldl
    | with_reducible apply kept_foldl2 | with_reducible apply kept_foldl1 | (intro _) | (with_reducible split)
    | (dsimp only [Kept]; (first | with_reducible assumption | change Kept _ _)))

theorem kept_storeWord {cq : List Instr} (lo : BitVec 32) (hi : BitVec 32) (s : State) (h_s : Kept cq s) : Kept cq (storeWord lo
    hi s) := by
  unfold storeWord
  try dsimp only
  repeat' (first
    | with_reducible assumption | with_reducible apply kept_bankTouched | with_reducible apply kept_setReg
    | with_reducible apply kept_foldl | with_reducible apply kept_foldl2 | with_reducible apply kept_foldl1 | (intro _)
    | (with_reducible split) | (dsimp only [Kept]; (first | with_reducible assumption | change Kept _ _)))

theorem kept_extendMs {cq : List Instr} (k : Nat) (d : BitVec 256) (s : State) (h_s : Kept cq s) : Kept cq (extendMs k d s) :=
    by
  unfold extendMs
  try dsimp only
  repeat' (first
    | with_reducible assumption | with_reducible apply kept_foldl | with_reducible apply kept_foldl2
    | with_reducible apply kept_foldl1 | (intro _) | (with_reducible split)
    | (dsimp only [Kept]; (first | with_reducible assumption | change Kept _ _)))

theorem kept_toRom {cq : List Instr} (s : State) (h_s : Kept cq s) : Kept cq (toRom s) := by
  unfold toRom
  try dsimp only
  repeat' (first
    | with_reducible assumption | with_reducible apply kept_ctlEvent | with_reducible apply kept_regBit
    | with_reducible apply kept_extendMs | with_reducible apply kept_foldl | with_reducible apply kept_foldl2
    | with_reducible apply kept_foldl1 | (intro _) | (with_reducible split)
    | (dsimp only [Kept]; (first | with_reducible assumption | change Kept _ _)))

theorem kept_toBank {cq : List Instr} (clr : Bool) (s : State) (h_s : Kept cq s) : Kept cq (toBank clr s) := by
  unfold toBank
  try dsimp only
  repeat' (first
    | with_reducible assumption | with_reducible apply kept_extendMs | with_reducible apply kept_regBit
    | with_reducible apply kept_foldl | with_reducible apply kept_foldl2 | with_reducible apply kept_foldl1 | (intro _)
    | (with_reducible split) | (dsimp only [Kept]; (first | with_reducible assumption | change Kept _ _)))

theorem kept_entriesApply {cq : List Instr} (s : State) (h_s : Kept cq s) : Kept cq (entriesApply s) := by
  unfold entriesApply
  try dsimp only
  repeat' (first
    | with_reducible assumption | with_reducible apply kept_forAll | with_reducible apply kept_logHwBy
    | with_reducible apply kept_setAct | with_reducible apply kept_foldl | with_reducible apply kept_foldl2
    | with_reducible apply kept_foldl1 | (intro _) | (with_reducible split)
    | (dsimp only [Kept]; (first | with_reducible assumption | change Kept _ _)))

theorem kept_commitApply {cq : List Instr} (s : State) (h_s : Kept cq s) : Kept cq (commitApply s) := by
  unfold commitApply
  try dsimp only
  repeat' (first
    | with_reducible assumption | with_reducible apply kept_ctlEvent | with_reducible apply kept_regBit
    | with_reducible apply kept_palSwap | with_reducible apply kept_logHwBy | with_reducible apply kept_palCopy
    | with_reducible apply kept_toBank | with_reducible apply kept_foldl | with_reducible apply kept_foldl2
    | with_reducible apply kept_foldl1 | (intro _) | (with_reducible split)
    | (dsimp only [Kept]; (first | with_reducible assumption | change Kept _ _)))

theorem kept_loopBoundary {cq : List Instr} (s : State) (h_s : Kept cq s) : Kept cq (loopBoundary s) := by
  unfold loopBoundary
  try dsimp only
  repeat' (first
    | with_reducible assumption | with_reducible apply kept_commitApply | with_reducible apply kept_entriesApply
    | with_reducible apply kept_toRom | with_reducible apply kept_foldl | with_reducible apply kept_foldl2
    | with_reducible apply kept_foldl1 | (intro _) | (with_reducible split)
    | (dsimp only [Kept]; (first | with_reducible assumption | change Kept _ _)))

theorem kept_execLoopFallback {cq : List Instr} (s : State) (h_s : Kept cq s) : KeptO cq (execLoopFallback s) := by
  unfold execLoopFallback
  try dsimp only
  repeat' (first
    | with_reducible assumption | with_reducible apply keptO_next | with_reducible apply kept_toRom
    | with_reducible apply kept_foldl | with_reducible apply kept_foldl2 | with_reducible apply kept_foldl1 | (intro _)
    | (with_reducible split))

theorem kept_execCommitApply {cq : List Instr} (s : State) (h_s : Kept cq s) : KeptO cq (execCommitApply s) := by
  unfold execCommitApply
  try dsimp only
  repeat' (first | with_reducible assumption | with_reducible apply keptO_next | with_reducible apply kept_commitApply)

theorem kept_execEntryCommitApply {cq : List Instr} (s : State) (h_s : Kept cq s) : KeptO cq (execEntryCommitApply s) := by
  unfold execEntryCommitApply
  try dsimp only
  repeat' (first | with_reducible assumption | with_reducible apply keptO_next | with_reducible apply kept_entriesApply)

theorem kept_execPaletteCopyEnd {cq : List Instr} (s : State) (h_s : Kept cq s) : KeptO cq (execPaletteCopyEnd s) := by
  unfold execPaletteCopyEnd
  try dsimp only
  repeat' (first
    | with_reducible assumption | with_reducible apply keptO_next | with_reducible apply kept_foldl
    | with_reducible apply kept_foldl2 | with_reducible apply kept_foldl1 | (intro _) | (with_reducible split)
    | (dsimp only [Kept]; (first | with_reducible assumption | change Kept _ _)))

theorem kept_stageAbort {cq : List Instr} (s : State) (h_s : Kept cq s) : Kept cq (stageAbort s) := by
  unfold stageAbort
  try dsimp only
  repeat' (first
    | with_reducible assumption | with_reducible apply kept_palCopy | with_reducible apply kept_foldl
    | with_reducible apply kept_foldl2 | with_reducible apply kept_foldl1 | (intro _) | (with_reducible split)
    | (dsimp only [Kept]; (first | with_reducible assumption | change Kept _ _)))

theorem kept_execStageTimeout {cq : List Instr} (s : State) (h_s : Kept cq s) : KeptO cq (execStageTimeout s) := by
  unfold execStageTimeout
  try dsimp only
  repeat' (first
    | with_reducible assumption | with_reducible apply keptO_next | with_reducible apply kept_stageAbort
    | with_reducible apply kept_ctlEvent | with_reducible apply kept_foldl | with_reducible apply kept_foldl2
    | with_reducible apply kept_foldl1 | (intro _) | (with_reducible split))

theorem kept_dropEntry {cq : List Instr} (k : Nat) (s : State) (h_s : Kept cq s) : Kept cq (dropEntry k s) := by
  unfold dropEntry
  try dsimp only
  repeat' (first
    | with_reducible assumption | with_reducible apply kept_foldl | with_reducible apply kept_foldl2
    | with_reducible apply kept_foldl1 | (intro _) | (with_reducible split)
    | (dsimp only [Kept]; (first | with_reducible assumption | change Kept _ _)))

theorem kept_entryCommit {cq : List Instr} (o : Origin) (k : Nat) (v : BitVec 32) (s : State) (h_s : Kept cq s) : Kept cq
    (entryCommit o k v s) := by
  unfold entryCommit
  try dsimp only
  repeat' (first
    | with_reducible assumption | with_reducible apply kept_setInact | with_reducible apply kept_foldl
    | with_reducible apply kept_foldl2 | with_reducible apply kept_foldl1 | (intro _) | (with_reducible split)
    | (dsimp only [Kept]; (first | with_reducible assumption | change Kept _ _)))

/-! ### Pack -/

theorem kept_updPack {cq : List Instr} (f : Pack → Pack) (s : State) (h_s : Kept cq s) : Kept cq (updPack f s) := by
  unfold updPack
  try dsimp only
  repeat' (first
    | with_reducible assumption | with_reducible apply kept_foldl | with_reducible apply kept_foldl2
    | with_reducible apply kept_foldl1 | (intro _) | (with_reducible split)
    | (dsimp only [Kept]; (first | with_reducible assumption | change Kept _ _)))

theorem kept_packEvent {cq : List Instr} (sub : Nat) (s : State) (h_s : Kept cq s) : Kept cq (packEvent sub s) := by
  unfold packEvent
  try dsimp only
  repeat' (first | with_reducible assumption | with_reducible apply kept_report)

theorem kept_packFlag {cq : List Instr} (i : Nat) (s : State) (h_s : Kept cq s) : Kept cq (packFlag i s) := by
  unfold packFlag
  try dsimp only
  repeat' (first
    | with_reducible assumption | with_reducible apply kept_packEvent | with_reducible apply kept_regBit
    | with_reducible apply kept_foldl | with_reducible apply kept_foldl2 | with_reducible apply kept_foldl1 | (intro _)
    | (with_reducible split))

theorem kept_stageSend {cq : List Instr} (type : Byte) (epoch : BitVec 32) (value : Int) (s : State) (h_s : Kept cq s) : Kept cq
    (stageSend type epoch value s) := by
  unfold stageSend
  try dsimp only
  repeat' (first | with_reducible assumption | with_reducible apply kept_emit | with_reducible apply kept_updPack)

theorem kept_sendSetpoint {cq : List Instr} (i : Int) (s : State) (h_s : Kept cq s) : Kept cq (sendSetpoint i s) := by
  unfold sendSetpoint
  try dsimp only
  repeat' (first
    | with_reducible assumption | with_reducible apply kept_stageSend | with_reducible apply kept_updPack
    | with_reducible apply kept_foldl | with_reducible apply kept_foldl2 | with_reducible apply kept_foldl1 | (intro _)
    | (with_reducible split))

theorem kept_countCharge {cq : List Instr} (q : Rat) (e : Rat) (s : State) (h_s : Kept cq s) : Kept cq (countCharge q e s) := by
  unfold countCharge
  try dsimp only
  repeat' (first | with_reducible assumption | with_reducible apply kept_updPack)

theorem kept_crAbort {cq : List Instr} (s : State) (h_s : Kept cq s) : Kept cq (crAbort s) := by
  unfold crAbort
  try dsimp only
  repeat' (first
    | with_reducible assumption | with_reducible apply kept_packEvent | with_reducible apply kept_updPack
    | with_reducible apply kept_foldl | with_reducible apply kept_foldl2 | with_reducible apply kept_foldl1 | (intro _)
    | (with_reducible split))

theorem kept_reportIn {cq : List Instr} (x : PackRep) (s : State) (h_s : Kept cq s) : Kept cq (reportIn x s) := by
  unfold reportIn
  try dsimp only
  repeat' (first
    | with_reducible assumption | with_reducible apply kept_updPack | with_reducible apply kept_crAbort
    | with_reducible apply kept_foldl | with_reducible apply kept_foldl2 | with_reducible apply kept_foldl1 | (intro _)
    | (with_reducible split))

theorem kept_execPackReport {cq : List Instr} (x : PackRep) (s : State) (h_s : Kept cq s) : KeptO cq (execPackReport x s) := by
  unfold execPackReport
  try dsimp only
  repeat' (first | with_reducible assumption | with_reducible apply keptO_next | with_reducible apply kept_reportIn)

theorem kept_sendReport {cq : List Instr} (s : State) (h_s : Kept cq s) : Kept cq (sendReport s) := by
  unfold sendReport
  try dsimp only
  repeat' (first
    | with_reducible assumption | with_reducible apply kept_reportIn | with_reducible apply kept_forAll
    | with_reducible apply kept_cl0To | with_reducible apply kept_foldl | with_reducible apply kept_foldl2
    | with_reducible apply kept_foldl1 | (intro _) | (with_reducible split))

theorem kept_latchReports {cq : List Instr} (s : State) (h_s : Kept cq s) : Kept cq (latchReports s) := by
  unfold latchReports
  try dsimp only
  repeat' (first | with_reducible assumption | with_reducible apply kept_updPack)

theorem kept_execPackageExcluded {cq : List Instr} (slot : BitVec 2) (s : State) (h_s : Kept cq s) : KeptO cq
    (execPackageExcluded slot s) := by
  unfold execPackageExcluded
  try dsimp only
  repeat' (first
    | with_reducible assumption | with_reducible apply keptO_next | with_reducible apply kept_packEvent
    | with_reducible apply kept_updPack | with_reducible apply kept_foldl | with_reducible apply kept_foldl2
    | with_reducible apply kept_foldl1 | (intro _) | (with_reducible split))

theorem kept_sendNotice {cq : List Instr} (m : NetMsg) (s : State) (h_s : Kept cq s) : Kept cq (sendNotice m s) := by
  unfold sendNotice
  try dsimp only
  repeat' (first
    | with_reducible assumption | with_reducible apply kept_forAll | with_reducible apply kept_cl0To
    | with_reducible apply kept_foldl | with_reducible apply kept_foldl2 | with_reducible apply kept_foldl1 | (intro _))

theorem kept_loseBrush {cq : List Instr} (s : State) (h_s : Kept cq s) : Kept cq (loseBrush s) := by
  unfold loseBrush
  try dsimp only
  repeat' (first | with_reducible assumption | with_reducible apply kept_updPack | with_reducible apply kept_crAbort)

theorem kept_sendClaim {cq : List Instr} (s : State) (h_s : Kept cq s) : Kept cq (sendClaim s) := by
  unfold sendClaim
  try dsimp only
  repeat' (first | with_reducible assumption | with_reducible apply kept_stageSend | with_reducible apply kept_updPack)

theorem kept_takeBrush {cq : List Instr} (x : StageStatus) (s : State) (h_s : Kept cq s) : Kept cq (takeBrush x s) := by
  unfold takeBrush
  try dsimp only
  repeat' (first
    | with_reducible assumption | with_reducible apply kept_countReg | with_reducible apply kept_updPack
    | with_reducible apply kept_sendNotice | with_reducible apply kept_countCharge | with_reducible apply kept_foldl
    | with_reducible apply kept_foldl2 | with_reducible apply kept_foldl1 | (intro _) | (with_reducible split)
    | (dsimp only [Kept]; (first | with_reducible assumption | change Kept _ _)))

theorem kept_execStatusFrame {cq : List Instr} (x : StageStatus) (s : State) (h_s : Kept cq s) : KeptO cq (execStatusFrame x s)
    := by
  unfold execStatusFrame
  try dsimp only
  repeat' (first
    | with_reducible assumption | with_reducible apply keptO_next | with_reducible apply kept_setReg
    | with_reducible apply kept_updPack | with_reducible apply kept_loseBrush | with_reducible apply kept_sendNotice
    | with_reducible apply kept_takeBrush | with_reducible apply kept_countReg | with_reducible apply kept_sendClaim
    | with_reducible apply kept_foldl | with_reducible apply kept_foldl2 | with_reducible apply kept_foldl1 | (intro _)
    | (with_reducible split))

theorem kept_execRenew {cq : List Instr} (s : State) (h_s : Kept cq s) : KeptO cq (execRenew s) := by
  unfold execRenew
  try dsimp only
  repeat' (first
    | with_reducible assumption | with_reducible apply keptO_next | with_reducible apply kept_stageSend
    | with_reducible apply kept_updPack | with_reducible apply kept_foldl | with_reducible apply kept_foldl2
    | with_reducible apply kept_foldl1 | (intro _) | (with_reducible split))

theorem kept_execBrushLost {cq : List Instr} (s : State) (h_s : Kept cq s) : KeptO cq (execBrushLost s) := by
  unfold execBrushLost
  try dsimp only
  repeat' (first
    | with_reducible assumption | with_reducible apply keptO_next | with_reducible apply kept_loseBrush
    | with_reducible apply kept_foldl | with_reducible apply kept_foldl2 | with_reducible apply kept_foldl1 | (intro _)
    | (with_reducible split))

theorem kept_noticeIn {cq : List Instr} (hand : Bool) (src : PkgId) (x : BrushInfo) (s : State) (h_s : Kept cq s) : Kept cq
    (noticeIn hand src x s) := by
  unfold noticeIn
  try dsimp only
  repeat' (first
    | with_reducible assumption | with_reducible apply kept_updReg | with_reducible apply kept_updPack
    | with_reducible apply kept_foldl | with_reducible apply kept_foldl2 | with_reducible apply kept_foldl1 | (intro _)
    | (with_reducible split) | (dsimp only [Kept]; (first | with_reducible assumption | change Kept _ _)))

theorem kept_execBrushNotice {cq : List Instr} (src : PkgId) (x : BrushInfo) (s : State) (h_s : Kept cq s) : KeptO cq
    (execBrushNotice src x s) := by
  unfold execBrushNotice
  try dsimp only
  repeat' (first | with_reducible assumption | with_reducible apply keptO_next | with_reducible apply kept_noticeIn)

theorem kept_execHandoverNotice {cq : List Instr} (src : PkgId) (x : BrushInfo) (s : State) (h_s : Kept cq s) : KeptO cq
    (execHandoverNotice src x s) := by
  unfold execHandoverNotice
  try dsimp only
  repeat' (first | with_reducible assumption | with_reducible apply keptO_next | with_reducible apply kept_noticeIn)

theorem kept_execStandbyQuery {cq : List Instr} (s : State) (h_s : Kept cq s) : KeptO cq (execStandbyQuery s) := by
  unfold execStandbyQuery
  try dsimp only
  repeat' (first
    | with_reducible assumption | with_reducible apply keptO_next | with_reducible apply kept_stageSend
    | with_reducible apply kept_updPack | with_reducible apply kept_foldl | with_reducible apply kept_foldl2
    | with_reducible apply kept_foldl1 | (intro _) | (with_reducible split))

theorem kept_execEndBClaim {cq : List Instr} (s : State) (h_s : Kept cq s) : KeptO cq (execEndBClaim s) := by
  unfold execEndBClaim
  try dsimp only
  repeat' (first
    | with_reducible assumption | with_reducible apply keptO_next | with_reducible apply kept_sendClaim
    | with_reducible apply kept_foldl | with_reducible apply kept_foldl2 | with_reducible apply kept_foldl1 | (intro _)
    | (with_reducible split))

theorem kept_handoverStart {cq : List Instr} (s : State) (h_s : Kept cq s) : Kept cq (handoverStart s).2 := by
  unfold handoverStart
  try dsimp only
  repeat' (first
    | with_reducible assumption | with_reducible apply kept_useFree | with_reducible apply kept_updPack
    | with_reducible apply kept_sendNotice | with_reducible apply kept_foldl | with_reducible apply kept_foldl2
    | with_reducible apply kept_foldl1 | (intro _) | (with_reducible split))

theorem kept_execSelfDiagnosis {cq : List Instr} (stageOk : Bool) (eccOk : Bool) (slotsReadable : Bool) (s : State) (h_s : Kept
    cq s) : KeptO cq (execSelfDiagnosis stageOk eccOk slotsReadable s) := by
  unfold execSelfDiagnosis
  try dsimp only
  repeat' (first
    | with_reducible assumption | with_reducible apply keptO_next | with_reducible apply kept_updReg
    | with_reducible apply kept_updPack | with_reducible apply kept_packEvent | with_reducible apply kept_foldl
    | with_reducible apply kept_foldl2 | with_reducible apply kept_foldl1 | (intro _) | (with_reducible split))

theorem kept_rearm {cq : List Instr} (s : State) (h_s : Kept cq s) : Kept cq (rearm s) := by
  unfold rearm
  try dsimp only
  repeat' (first
    | with_reducible assumption | with_reducible apply kept_updPack | with_reducible apply kept_stageSend
    | with_reducible apply kept_regBit | with_reducible apply kept_foldl | with_reducible apply kept_foldl2
    | with_reducible apply kept_foldl1 | (intro _) | (with_reducible split))

theorem kept_packEnSet {cq : List Instr} (en : Bool) (s : State) (h_s : Kept cq s) : Kept cq (packEnSet en s) := by
  unfold packEnSet
  try dsimp only
  repeat' (first
    | with_reducible assumption | with_reducible apply kept_regBit | with_reducible apply kept_updPack
    | with_reducible apply kept_loseBrush | with_reducible apply kept_foldl | with_reducible apply kept_foldl2
    | with_reducible apply kept_foldl1 | (intro _) | (with_reducible split))

theorem kept_sendBalance {cq : List Instr} (ms : List Nat) (mask : BitVec 24) (s : State) (h_s : Kept cq s) : Kept cq
    (sendBalance ms mask s) := by
  unfold sendBalance
  try dsimp only
  repeat' (first
    | with_reducible assumption | with_reducible apply kept_forAll | with_reducible apply kept_emit
    | with_reducible apply kept_foldl | with_reducible apply kept_foldl2 | with_reducible apply kept_foldl1 | (intro _))

theorem kept_execBalancePause {cq : List Instr} (s : State) (h_s : Kept cq s) : KeptO cq (execBalancePause s) := by
  unfold execBalancePause
  try dsimp only
  repeat' (first
    | with_reducible assumption | with_reducible apply keptO_next | with_reducible apply kept_sendBalance
    | with_reducible apply kept_updPack | with_reducible apply kept_foldl | with_reducible apply kept_foldl2
    | with_reducible apply kept_foldl1 | (intro _) | (with_reducible split))

theorem kept_readNext {cq : List Instr} (rest : List Nat) (s : State) (h_s : Kept cq s) : Kept cq (readNext rest s) := by
  unfold readNext
  try dsimp only
  repeat' (first
    | with_reducible assumption | with_reducible apply kept_emit | with_reducible apply kept_foldl
    | with_reducible apply kept_foldl2 | with_reducible apply kept_foldl1 | (intro _) | (with_reducible split))

theorem kept_execSweepLatch {cq : List Instr} (s : State) (h_s : Kept cq s) : KeptO cq (execSweepLatch s) := by
  unfold execSweepLatch
  try dsimp only
  repeat' (first
    | with_reducible assumption | with_reducible apply keptO_next | with_reducible apply kept_updPack
    | with_reducible apply kept_readNext | with_reducible apply kept_emit | with_reducible apply kept_foldl
    | with_reducible apply kept_foldl2 | with_reducible apply kept_foldl1 | (intro _) | (with_reducible split))

theorem kept_readFailed {cq : List Instr} (mon : BitVec 2) (s : State) (h_s : Kept cq s) : Kept cq (readFailed mon s) := by
  unfold readFailed
  try dsimp only
  repeat' (first
    | with_reducible assumption | with_reducible apply kept_updPack | with_reducible apply kept_emit
    | with_reducible apply kept_foldl | with_reducible apply kept_foldl2 | with_reducible apply kept_foldl1 | (intro _)
    | (with_reducible split))

theorem kept_keepReply {cq : List Instr} (m : MonReply) (s : State) (h_s : Kept cq s) : Kept cq (keepReply m s) := by
  unfold keepReply
  try dsimp only
  repeat' (first | with_reducible assumption | with_reducible apply kept_updPack)

theorem kept_replyOwn {cq : List Instr} (m : MonReply) (s : State) (h_s : Kept cq s) : Kept cq (replyOwn m s) := by
  unfold replyOwn
  try dsimp only
  repeat' (first
    | with_reducible assumption | with_reducible apply kept_keepReply | with_reducible apply kept_updPack
    | with_reducible apply kept_readNext)

theorem kept_execMonitorReply {cq : List Instr} (m : MonReply) (s : State) (h_s : Kept cq s) : KeptO cq (execMonitorReply m s)
    := by
  unfold execMonitorReply
  try dsimp only
  repeat' (first
    | with_reducible assumption | with_reducible apply keptO_next | with_reducible apply kept_readFailed
    | with_reducible apply kept_replyOwn | with_reducible apply kept_sendNotice | with_reducible apply kept_foldl
    | with_reducible apply kept_foldl2 | with_reducible apply kept_foldl1 | (intro _) | (with_reducible split))

theorem kept_execMonitorTimeout {cq : List Instr} (mon : BitVec 2) (s : State) (h_s : Kept cq s) : KeptO cq (execMonitorTimeout
    mon s) := by
  unfold execMonitorTimeout
  try dsimp only
  repeat' (first
    | with_reducible assumption | with_reducible apply keptO_next | with_reducible apply kept_readFailed
    | with_reducible apply kept_foldl | with_reducible apply kept_foldl2 | with_reducible apply kept_foldl1 | (intro _)
    | (with_reducible split))

theorem kept_farRequestIn {cq : List Instr} (brk : BitVec 2) (mask : BitVec 24) (s : State) (h_s : Kept cq s) : Kept cq
    (farRequestIn brk mask s) := by
  unfold farRequestIn
  try dsimp only
  repeat' (first
    | with_reducible assumption | with_reducible apply kept_sendBalance | with_reducible apply kept_updPack
    | with_reducible apply kept_foldl | with_reducible apply kept_foldl2 | with_reducible apply kept_foldl1 | (intro _)
    | (with_reducible split))

theorem kept_execFarSegmentRequest {cq : List Instr} (q : FarRequest) (s : State) (h_s : Kept cq s) : KeptO cq
    (execFarSegmentRequest q s) := by
  unfold execFarSegmentRequest
  try dsimp only
  repeat' (first | with_reducible assumption | with_reducible apply keptO_next | with_reducible apply kept_farRequestIn)

theorem kept_farValuesIn {cq : List Instr} (ms : List MonReply) (s : State) (h_s : Kept cq s) : Kept cq (farValuesIn ms s) := by
  unfold farValuesIn
  try dsimp only
  repeat' (first
    | with_reducible assumption | with_reducible apply kept_forAll | with_reducible apply kept_keepReply
    | with_reducible apply kept_foldl | with_reducible apply kept_foldl2 | with_reducible apply kept_foldl1 | (intro _)
    | (with_reducible split))

theorem kept_execFarSegmentValues {cq : List Instr} (ms : List MonReply) (s : State) (h_s : Kept cq s) : KeptO cq
    (execFarSegmentValues ms s) := by
  unfold execFarSegmentValues
  try dsimp only
  repeat' (first | with_reducible assumption | with_reducible apply keptO_next | with_reducible apply kept_farValuesIn)

theorem kept_ocvInverse {cq : List Instr} (v : Rat) (s : State) (h_s : Kept cq s) : Kept cq (ocvInverse v s).2 := by
  unfold ocvInverse
  try dsimp only
  repeat' (first
    | with_reducible assumption | with_reducible apply kept_useFree | with_reducible apply kept_foldl
    | with_reducible apply kept_foldl2 | with_reducible apply kept_foldl1 | (intro _) | (with_reducible split))

theorem kept_estSweep {cq : List Instr} (s : State) (h_s : Kept cq s) : Kept cq (estSweep s) := by
  unfold estSweep
  try dsimp only
  repeat' (first
    | with_reducible assumption | with_reducible apply kept_ocvInverse | with_reducible apply kept_updPack
    | with_reducible apply kept_regBit | with_reducible apply kept_foldl | with_reducible apply kept_foldl2
    | with_reducible apply kept_foldl1 | (intro _) | (with_reducible split))

theorem kept_sweepValues {cq : List Instr} (s : State) (h_s : Kept cq s) : Kept cq (sweepValues s) := by
  unfold sweepValues
  try dsimp only
  repeat' (first
    | with_reducible assumption | with_reducible apply kept_forAll | with_reducible apply kept_updPack
    | with_reducible apply kept_foldl | with_reducible apply kept_foldl2 | with_reducible apply kept_foldl1 | (intro _))

theorem kept_sweepAged {cq : List Instr} (ok : Bool) (s : State) (h_s : Kept cq s) : Kept cq (sweepAged ok s) := by
  unfold sweepAged
  try dsimp only
  repeat' (first
    | with_reducible assumption | with_reducible apply kept_updPack | with_reducible apply kept_countReg
    | with_reducible apply kept_foldl | with_reducible apply kept_foldl2 | with_reducible apply kept_foldl1 | (intro _)
    | (with_reducible split))

theorem kept_sweepFlag {cq : List Instr} (s : State) (h_s : Kept cq s) : Kept cq (sweepFlag s) := by
  unfold sweepFlag
  try dsimp only
  repeat' (first
    | with_reducible assumption | with_reducible apply kept_packFlag | with_reducible apply kept_regBit
    | with_reducible apply kept_foldl | with_reducible apply kept_foldl2 | with_reducible apply kept_foldl1 | (intro _)
    | (with_reducible split))

theorem kept_sweepLimits {cq : List Instr} (ok : Bool) (s : State) (h_s : Kept cq s) : Kept cq (sweepLimits ok s) := by
  unfold sweepLimits
  try dsimp only
  repeat' (first
    | with_reducible assumption | with_reducible apply kept_onlyIf | with_reducible apply kept_crAbort
    | with_reducible apply kept_estSweep | with_reducible apply kept_packFlag | with_reducible apply kept_updPack
    | with_reducible apply kept_sendSetpoint | with_reducible apply kept_foldl | with_reducible apply kept_foldl2
    | with_reducible apply kept_foldl1 | (intro _) | (with_reducible split))

theorem kept_sweepBalance {cq : List Instr} (s : State) (h_s : Kept cq s) : Kept cq (sweepBalance s) := by
  unfold sweepBalance
  try dsimp only
  repeat' (first
    | with_reducible assumption | with_reducible apply kept_sendBalance | with_reducible apply kept_updPack
    | with_reducible apply kept_sendNotice | with_reducible apply kept_foldl | with_reducible apply kept_foldl2
    | with_reducible apply kept_foldl1 | (intro _) | (with_reducible split))

theorem kept_execSweepClose {cq : List Instr} (s : State) (h_s : Kept cq s) : KeptO cq (execSweepClose s) := by
  unfold execSweepClose
  try dsimp only
  repeat' (first
    | with_reducible assumption | with_reducible apply keptO_next | with_reducible apply kept_sweepBalance
    | with_reducible apply kept_sweepLimits | with_reducible apply kept_sweepFlag | with_reducible apply kept_sweepAged
    | with_reducible apply kept_sweepValues | with_reducible apply kept_updPack | with_reducible apply kept_foldl
    | with_reducible apply kept_foldl2 | with_reducible apply kept_foldl1 | (intro _) | (with_reducible split))

theorem kept_execRefOverdue {cq : List Instr} (s : State) (h_s : Kept cq s) : KeptO cq (execRefOverdue s) := by
  unfold execRefOverdue
  try dsimp only
  repeat' (first
    | with_reducible assumption | with_reducible apply keptO_next | with_reducible apply kept_stewardPost
    | with_reducible apply kept_packFlag | with_reducible apply kept_foldl | with_reducible apply kept_foldl2
    | with_reducible apply kept_foldl1 | (intro _) | (with_reducible split))

theorem kept_capRunStart {cq : List Instr} (s : State) (h_s : Kept cq s) : Kept cq (capRunStart s).2 := by
  unfold capRunStart
  try dsimp only
  repeat' (first
    | with_reducible assumption | with_reducible apply kept_updPack | with_reducible apply kept_foldl
    | with_reducible apply kept_foldl2 | with_reducible apply kept_foldl1 | (intro _) | (with_reducible split))

theorem kept_capPend {cq : List Instr} (body : List Byte) (s : State) (h_s : Kept cq s) : Kept cq (capPend body s) := by
  unfold capPend
  try dsimp only
  repeat' (first | with_reducible assumption | with_reducible apply kept_flashNext | with_reducible apply kept_updPack)

theorem kept_flashResume {cq : List Instr} (s : State) (h_s : Kept cq s) : Kept cq (flashResume s) := by
  unfold flashResume
  try dsimp only
  repeat' (first
    | with_reducible assumption | with_reducible apply kept_flashNext | with_reducible apply kept_foldl
    | with_reducible apply kept_foldl2 | with_reducible apply kept_foldl1 | (intro _) | (with_reducible split)
    | (dsimp only [Kept]; (first | with_reducible assumption | change Kept _ _)))

theorem kept_capAccept {cq : List Instr} (s : State) (h_s : Kept cq s) : Kept cq (capAccept s) := by
  unfold capAccept
  try dsimp only
  repeat' (first
    | with_reducible assumption | with_reducible apply kept_regBit | with_reducible apply kept_updPack
    | with_reducible apply kept_sendNotice | with_reducible apply kept_capPend | with_reducible apply kept_packEvent
    | with_reducible apply kept_foldl | with_reducible apply kept_foldl2 | with_reducible apply kept_foldl1 | (intro _)
    | (with_reducible split))

theorem kept_execCaprunPhaseEnd {cq : List Instr} (s : State) (h_s : Kept cq s) : KeptO cq (execCaprunPhaseEnd s) := by
  unfold execCaprunPhaseEnd
  try dsimp only
  repeat' (first
    | with_reducible assumption | with_reducible apply keptO_next | with_reducible apply kept_updPack
    | with_reducible apply kept_capAccept | with_reducible apply kept_foldl | with_reducible apply kept_foldl2
    | with_reducible apply kept_foldl1 | (intro _) | (with_reducible split))

theorem kept_capRecordIn {cq : List Instr} (bs : List Byte) (s : State) (h_s : Kept cq s) : Kept cq (capRecordIn bs s) := by
  unfold capRecordIn
  try dsimp only
  repeat' (first
    | with_reducible assumption | with_reducible apply kept_capPend | with_reducible apply kept_foldl
    | with_reducible apply kept_foldl2 | with_reducible apply kept_foldl1 | (intro _) | (with_reducible split))

theorem kept_execCapRecordWriteDone {cq : List Instr} (s : State) (h_s : Kept cq s) : KeptO cq (execCapRecordWriteDone s) := by
  unfold execCapRecordWriteDone
  try dsimp only
  repeat' (first
    | with_reducible assumption | with_reducible apply keptO_next | with_reducible apply kept_flashSector
    | with_reducible apply kept_flashNext | with_reducible apply kept_updPack | with_reducible apply kept_foldl
    | with_reducible apply kept_foldl2 | with_reducible apply kept_foldl1 | (intro _) | (with_reducible split))

theorem kept_leaveAll {cq : List Instr} (s : State) (h_s : Kept cq s) : Kept cq (leaveAll s) := by
  unfold leaveAll
  try dsimp only
  repeat' (first
    | with_reducible assumption | with_reducible apply kept_forAll | with_reducible apply kept_jobStop
    | with_reducible apply kept_toMember | with_reducible apply kept_foldl | with_reducible apply kept_foldl2
    | with_reducible apply kept_foldl1 | (intro _) | (with_reducible split))

theorem kept_execEject {cq : List Instr} (s : State) (h_s : Kept cq s) : KeptO cq (execEject s) := by
  unfold execEject
  try dsimp only
  repeat' (first
    | with_reducible assumption | with_reducible apply keptO_next | with_reducible apply kept_leaveAll
    | with_reducible apply kept_haltFor | with_reducible apply kept_stewardPost | with_reducible apply kept_retention
    | with_reducible apply kept_updPack | with_reducible apply kept_sendSetpoint | with_reducible apply kept_crAbort
    | with_reducible apply kept_foldl | with_reducible apply kept_foldl2 | with_reducible apply kept_foldl1 | (intro _)
    | (with_reducible split) | (dsimp only [Kept]; (first | with_reducible assumption | change Kept _ _)))

theorem kept_execEjectSwitchOff {cq : List Instr} (s : State) (h_s : Kept cq s) : KeptO cq (execEjectSwitchOff s) := by
  unfold execEjectSwitchOff
  try dsimp only
  repeat' (first
    | with_reducible assumption | with_reducible apply keptO_next | with_reducible apply kept_switchOff
    | with_reducible apply kept_foldl | with_reducible apply kept_foldl2 | with_reducible apply kept_foldl1 | (intro _)
    | (with_reducible split))

theorem kept_execEjectRelease {cq : List Instr} (s : State) (h_s : Kept cq s) : KeptO cq (execEjectRelease s) := by
  unfold execEjectRelease
  try dsimp only
  repeat' (first
    | with_reducible assumption | with_reducible apply keptO_next | with_reducible apply kept_endHalt
    | with_reducible apply kept_flashResume | with_reducible apply kept_leaveRetention | with_reducible apply kept_foldl
    | with_reducible apply kept_foldl2 | with_reducible apply kept_foldl1 | (intro _) | (with_reducible split)
    | (dsimp only [Kept]; (first | with_reducible assumption | change Kept _ _)))

theorem kept_execHibernate {cq : List Instr} (s : State) (h_s : Kept cq s) : KeptO cq (execHibernate s) := by
  unfold execHibernate
  try dsimp only
  repeat' (first
    | with_reducible assumption | with_reducible apply keptO_next | with_reducible apply kept_sendBalance
    | with_reducible apply kept_regBit | with_reducible apply kept_updPack | with_reducible apply kept_foldl
    | with_reducible apply kept_foldl2 | with_reducible apply kept_foldl1 | (intro _) | (with_reducible split))

theorem kept_wakeUp {cq : List Instr} (s : State) (h_s : Kept cq s) : Kept cq (wakeUp s) := by
  unfold wakeUp
  try dsimp only
  repeat' (first
    | with_reducible assumption | with_reducible apply kept_updPack | with_reducible apply kept_countCharge
    | with_reducible apply kept_regBit | with_reducible apply kept_foldl | with_reducible apply kept_foldl2
    | with_reducible apply kept_foldl1 | (intro _) | (with_reducible split))

theorem kept_packCommand {cq : List Instr} (s : State) (h_s : Kept cq s) : Kept cq (packCommand s).2 := by
  unfold packCommand
  try dsimp only
  repeat' (first
    | with_reducible assumption | with_reducible apply kept_useFree | with_reducible apply kept_foldl
    | with_reducible apply kept_foldl2 | with_reducible apply kept_foldl1 | (intro _) | (with_reducible split))

theorem kept_packSend {cq : List Instr} (s : State) (h_s : Kept cq s) : Kept cq (packSend s) := by
  unfold packSend
  try dsimp only
  repeat' (first
    | with_reducible assumption | with_reducible apply kept_packCommand | with_reducible apply kept_updPack
    | with_reducible apply kept_sendSetpoint | with_reducible apply kept_forAll | with_reducible apply kept_packAnswerIn
    | with_reducible apply kept_cl0To | with_reducible apply kept_foldl | with_reducible apply kept_foldl2
    | with_reducible apply kept_foldl1 | (intro _) | (with_reducible split)
    | (dsimp only [Kept]; (first | with_reducible assumption | change Kept _ _)))

theorem kept_packFrames {cq : List Instr} (s : State) (h_s : Kept cq s) : Kept cq (packFrames s) := by
  unfold packFrames
  try dsimp only
  repeat' (first
    | with_reducible assumption | with_reducible apply kept_loseBrush | with_reducible apply kept_stageSend
    | with_reducible apply kept_updPack | with_reducible apply kept_emit | with_reducible apply kept_foldl
    | with_reducible apply kept_foldl2 | with_reducible apply kept_foldl1 | (intro _) | (with_reducible split))

theorem kept_packCount {cq : List Instr} (s : State) (h_s : Kept cq s) : Kept cq (packCount s) := by
  unfold packCount
  try dsimp only
  repeat' (first
    | with_reducible assumption | with_reducible apply kept_updPack | with_reducible apply kept_countCharge
    | with_reducible apply kept_foldl | with_reducible apply kept_foldl2 | with_reducible apply kept_foldl1 | (intro _)
    | (with_reducible split))

theorem kept_packWakes {cq : List Instr} (s : State) (h_s : Kept cq s) : Kept cq (packWakes s) := by
  unfold packWakes
  try dsimp only
  repeat' (first
    | with_reducible assumption | with_reducible apply kept_wakeUp | with_reducible apply kept_foldl
    | with_reducible apply kept_foldl2 | with_reducible apply kept_foldl1 | (intro _) | (with_reducible split))

theorem kept_packLatchBeat {cq : List Instr} (s : State) (h_s : Kept cq s) : Kept cq (packLatchBeat s) := by
  unfold packLatchBeat
  try dsimp only
  repeat' (first
    | with_reducible assumption | with_reducible apply kept_latchReports | with_reducible apply kept_updPack
    | with_reducible apply kept_packFrames | with_reducible apply kept_packCount | with_reducible apply kept_packWakes
    | with_reducible apply kept_crAbort | with_reducible apply kept_foldl | with_reducible apply kept_foldl2
    | with_reducible apply kept_foldl1 | (intro _) | (with_reducible split))

/-! ### Rom -/

theorem kept_setRv {cq : List Instr} (k : Nat) (v : BitVec 32) (s : State) (h_s : Kept cq s) : Kept cq (setRv k v s) := by
  unfold setRv
  try dsimp only
  repeat' (first
    | with_reducible assumption | with_reducible apply kept_foldl | with_reducible apply kept_foldl2
    | with_reducible apply kept_foldl1 | (intro _) | (with_reducible split)
    | (dsimp only [Kept]; (first | with_reducible assumption | change Kept _ _)))

theorem kept_demBeat {cq : List Instr} (s : State) (h_s : Kept cq s) : Kept cq (demBeat s) := by
  unfold demBeat
  try dsimp only
  repeat' (first
    | with_reducible assumption | with_reducible apply kept_foldl | with_reducible apply kept_foldl2
    | with_reducible apply kept_foldl1 | (intro _) | (with_reducible split)
    | (dsimp only [Kept]; (first | with_reducible assumption | change Kept _ _)))

theorem kept_romFilters {cq : List Instr} (s : State) (h_s : Kept cq s) : Kept cq (romFilters s) := by
  unfold romFilters
  try dsimp only
  repeat' (first
    | with_reducible assumption | with_reducible apply kept_setRv | with_reducible apply kept_foldl
    | with_reducible apply kept_foldl2 | with_reducible apply kept_foldl1 | (intro _) | (with_reducible split)
    | (dsimp only [Kept]; (first | with_reducible assumption | change Kept _ _)))

theorem kept_romIntegrate {cq : List Instr} (k : Nat) (e : Option (BitVec 32)) (s : State) (h_s : Kept cq s) : Kept cq
    (romIntegrate k e s) := by
  unfold romIntegrate
  try dsimp only
  repeat' (first
    | with_reducible assumption | with_reducible apply kept_setRv | with_reducible apply kept_foldl
    | with_reducible apply kept_foldl2 | with_reducible apply kept_foldl1 | (intro _) | (with_reducible split))

theorem kept_romGovernor {cq : List Instr} (s : State) (h_s : Kept cq s) : Kept cq (romGovernor s) := by
  unfold romGovernor
  try dsimp only
  repeat' (first
    | with_reducible assumption | with_reducible apply kept_romFilters | with_reducible apply kept_setRv
    | with_reducible apply kept_forAll | with_reducible apply kept_stagePort | with_reducible apply kept_foldl
    | with_reducible apply kept_foldl2 | with_reducible apply kept_foldl1 | (intro _) | (with_reducible split)
    | (dsimp only [Kept]; (first | with_reducible assumption | change Kept _ _)))

theorem kept_romRail {cq : List Instr} (r : Nat) (s : State) (h_s : Kept cq s) : Kept cq (romRail r s) := by
  unfold romRail
  try dsimp only
  repeat' (first
    | with_reducible assumption | with_reducible apply kept_setRv | with_reducible apply kept_flwFlag
    | with_reducible apply kept_stagePort)

theorem kept_romPack {cq : List Instr} (s : State) (h_s : Kept cq s) : Kept cq (romPack s) := by
  unfold romPack
  try dsimp only
  repeat' (first
    | with_reducible assumption | with_reducible apply kept_regBit | with_reducible apply kept_flwFlag
    | with_reducible apply kept_setRv | with_reducible apply kept_stagePort | with_reducible apply kept_foldl
    | with_reducible apply kept_foldl2 | with_reducible apply kept_foldl1 | (intro _) | (with_reducible split))

theorem kept_romBegin {cq : List Instr} (s : State) (h_s : Kept cq s) : Kept cq (romBegin s) := by
  unfold romBegin
  try dsimp only
  repeat' (first
    | with_reducible assumption | with_reducible apply kept_foldl | with_reducible apply kept_foldl2
    | with_reducible apply kept_foldl1 | (intro _) | (with_reducible split)
    | (dsimp only [Kept]; (first | with_reducible assumption | change Kept _ _)))

theorem kept_romSelect {cq : List Instr} (s : State) (h_s : Kept cq s) : Kept cq (romSelect s) := by
  unfold romSelect
  try dsimp only
  repeat' (first
    | with_reducible assumption | with_reducible apply kept_memMiss | with_reducible apply kept_romGovernor
    | with_reducible apply kept_foldl | with_reducible apply kept_foldl2 | with_reducible apply kept_foldl1 | (intro _)
    | (with_reducible split) | (dsimp only [Kept]; (first | with_reducible assumption | change Kept _ _)))

theorem kept_romSettle {cq : List Instr} (s : State) (h_s : Kept cq s) : Kept cq (romSettle s) := by
  unfold romSettle
  try dsimp only
  repeat' (first
    | with_reducible assumption | with_reducible apply kept_forAll | with_reducible apply kept_romIntegrate
    | with_reducible apply kept_romPack | with_reducible apply kept_romRail | with_reducible apply kept_foldl
    | with_reducible apply kept_foldl2 | with_reducible apply kept_foldl1 | (intro _) | (with_reducible split)
    | (dsimp only [Kept]; (first | with_reducible assumption | change Kept _ _)))

theorem kept_romFinish {cq : List Instr} (s : State) (h_s : Kept cq s) : Kept cq (romFinish s) := by
  unfold romFinish
  try dsimp only
  repeat' (first
    | with_reducible assumption | with_reducible apply kept_skSample | with_reducible apply kept_setCycles
    | with_reducible apply kept_foldl | with_reducible apply kept_foldl2 | with_reducible apply kept_foldl1 | (intro _)
    | (with_reducible split) | (dsimp only [Kept]; (first | with_reducible assumption | change Kept _ _)))

theorem kept_romUpTo {cq : List Instr} (k : Nat) (s : State) (h_s : Kept cq s) : Kept cq (romUpTo k s) := by
  unfold romUpTo
  try dsimp only
  repeat' (first
    | with_reducible assumption | with_reducible apply kept_onlyIf | with_reducible apply kept_romSelect
    | with_reducible apply kept_romSettle | with_reducible apply kept_romFinish)

end Sys2Proof.Machine
end

