-- ==== Sys2Proof/Laws/KeepsTiles.lean ====
section
/-! SUPPORT. One lemma for each operation of the model, by module: it keeps the command queue, the canonical form of the
memories, and the bounds of the event stream and of the recorder's intake, the numbers of the remote operations, and the energy
ledger. Here: the tile instructions, releases, kernels, remote operations and beats. -/

namespace Sys2Proof.Machine

/-! ### Scalar -/

theorem kept_aluReg {cq : List Instr} (op : Nat) (g : BitVec 64 → BitVec 64 → BitVec 64) (t : TileId) (f : Ins) (s : State) (h_s
    : Kept cq s) : KeptO cq (aluReg op g t f s) := by
  unfold aluReg
  try dsimp only
  repeat' (first
    | with_reducible assumption | with_reducible apply keptO_next | with_reducible apply kept_issue
    | with_reducible apply kept_onTile)

theorem kept_aluUn {cq : List Instr} (op : Nat) (g : BitVec 64 → BitVec 64) (t : TileId) (f : Ins) (s : State) (h_s : Kept cq s)
    : KeptO cq (aluUn op g t f s) := by
  unfold aluUn
  try dsimp only
  repeat' (first
    | with_reducible assumption | with_reducible apply keptO_next | with_reducible apply kept_issue
    | with_reducible apply kept_onTile)

theorem kept_aluImm {cq : List Instr} (op : Nat) (imm : BitVec 64) (g : BitVec 64 → BitVec 64 → BitVec 64) (t : TileId) (f :
    Ins) (s : State) (h_s : Kept cq s) : KeptO cq (aluImm op imm g t f s) := by
  unfold aluImm
  try dsimp only
  repeat' (first
    | with_reducible assumption | with_reducible apply keptO_next | with_reducible apply kept_issue
    | with_reducible apply kept_onTile)

theorem kept_cmpReg {cq : List Instr} (op : Nat) (g : BitVec 64 → BitVec 64 → Bool) (t : TileId) (f : Ins) (s : State) (h_s :
    Kept cq s) : KeptO cq (cmpReg op g t f s) := by
  unfold cmpReg
  try dsimp only
  repeat' (first
    | with_reducible assumption | with_reducible apply keptO_next | with_reducible apply kept_issue
    | with_reducible apply kept_onTile)

theorem kept_cmpImm {cq : List Instr} (op : Nat) (g : BitVec 64 → BitVec 64 → Bool) (t : TileId) (f : Ins) (s : State) (h_s :
    Kept cq s) : KeptO cq (cmpImm op g t f s) := by
  unfold cmpImm
  try dsimp only
  repeat' (first
    | with_reducible assumption | with_reducible apply keptO_next | with_reducible apply kept_issue
    | with_reducible apply kept_onTile)

theorem kept_predReg {cq : List Instr} (op : Nat) (b : Bool) (g : Bool → Bool → Bool) (t : TileId) (f : Ins) (s : State) (h_s :
    Kept cq s) : KeptO cq (predReg op b g t f s) := by
  unfold predReg
  try dsimp only
  repeat' (first
    | with_reducible assumption | with_reducible apply keptO_next | with_reducible apply kept_issue
    | with_reducible apply kept_onTile)

theorem kept_execAdd {cq : List Instr} (t : TileId) (f : Ins) (s : State) (h_s : Kept cq s) : KeptO cq (execAdd t f s) := by
  unfold execAdd
  try dsimp only
  repeat' (first | with_reducible assumption | with_reducible apply keptO_next | with_reducible apply kept_aluReg)

theorem kept_execSub {cq : List Instr} (t : TileId) (f : Ins) (s : State) (h_s : Kept cq s) : KeptO cq (execSub t f s) := by
  unfold execSub
  try dsimp only
  repeat' (first | with_reducible assumption | with_reducible apply keptO_next | with_reducible apply kept_aluReg)

theorem kept_execMul {cq : List Instr} (t : TileId) (f : Ins) (s : State) (h_s : Kept cq s) : KeptO cq (execMul t f s) := by
  unfold execMul
  try dsimp only
  repeat' (first | with_reducible assumption | with_reducible apply keptO_next | with_reducible apply kept_aluReg)

theorem kept_execMulhu {cq : List Instr} (t : TileId) (f : Ins) (s : State) (h_s : Kept cq s) : KeptO cq (execMulhu t f s) := by
  unfold execMulhu
  try dsimp only
  repeat' (first | with_reducible assumption | with_reducible apply keptO_next | with_reducible apply kept_aluReg)

theorem kept_execMulhs {cq : List Instr} (t : TileId) (f : Ins) (s : State) (h_s : Kept cq s) : KeptO cq (execMulhs t f s) := by
  unfold execMulhs
  try dsimp only
  repeat' (first | with_reducible assumption | with_reducible apply keptO_next | with_reducible apply kept_aluReg)

theorem kept_execDivu {cq : List Instr} (t : TileId) (f : Ins) (s : State) (h_s : Kept cq s) : KeptO cq (execDivu t f s) := by
  unfold execDivu
  try dsimp only
  repeat' (first | with_reducible assumption | with_reducible apply keptO_next | with_reducible apply kept_aluReg)

theorem kept_execRemu {cq : List Instr} (t : TileId) (f : Ins) (s : State) (h_s : Kept cq s) : KeptO cq (execRemu t f s) := by
  unfold execRemu
  try dsimp only
  repeat' (first | with_reducible assumption | with_reducible apply keptO_next | with_reducible apply kept_aluReg)

theorem kept_execAnd {cq : List Instr} (t : TileId) (f : Ins) (s : State) (h_s : Kept cq s) : KeptO cq (execAnd t f s) := by
  unfold execAnd
  try dsimp only
  repeat' (first | with_reducible assumption | with_reducible apply keptO_next | with_reducible apply kept_aluReg)

theorem kept_execOr {cq : List Instr} (t : TileId) (f : Ins) (s : State) (h_s : Kept cq s) : KeptO cq (execOr t f s) := by
  unfold execOr
  try dsimp only
  repeat' (first | with_reducible assumption | with_reducible apply keptO_next | with_reducible apply kept_aluReg)

theorem kept_execXor {cq : List Instr} (t : TileId) (f : Ins) (s : State) (h_s : Kept cq s) : KeptO cq (execXor t f s) := by
  unfold execXor
  try dsimp only
  repeat' (first | with_reducible assumption | with_reducible apply keptO_next | with_reducible apply kept_aluReg)

theorem kept_execAndn {cq : List Instr} (t : TileId) (f : Ins) (s : State) (h_s : Kept cq s) : KeptO cq (execAndn t f s) := by
  unfold execAndn
  try dsimp only
  repeat' (first | with_reducible assumption | with_reducible apply keptO_next | with_reducible apply kept_aluReg)

theorem kept_execShl {cq : List Instr} (t : TileId) (f : Ins) (s : State) (h_s : Kept cq s) : KeptO cq (execShl t f s) := by
  unfold execShl
  try dsimp only
  repeat' (first | with_reducible assumption | with_reducible apply keptO_next | with_reducible apply kept_aluReg)

theorem kept_execShr {cq : List Instr} (t : TileId) (f : Ins) (s : State) (h_s : Kept cq s) : KeptO cq (execShr t f s) := by
  unfold execShr
  try dsimp only
  repeat' (first | with_reducible assumption | with_reducible apply keptO_next | with_reducible apply kept_aluReg)

theorem kept_execSra {cq : List Instr} (t : TileId) (f : Ins) (s : State) (h_s : Kept cq s) : KeptO cq (execSra t f s) := by
  unfold execSra
  try dsimp only
  repeat' (first | with_reducible assumption | with_reducible apply keptO_next | with_reducible apply kept_aluReg)

theorem kept_execMin {cq : List Instr} (t : TileId) (f : Ins) (s : State) (h_s : Kept cq s) : KeptO cq (execMin t f s) := by
  unfold execMin
  try dsimp only
  repeat' (first | with_reducible assumption | with_reducible apply keptO_next | with_reducible apply kept_aluReg)

theorem kept_execMax {cq : List Instr} (t : TileId) (f : Ins) (s : State) (h_s : Kept cq s) : KeptO cq (execMax t f s) := by
  unfold execMax
  try dsimp only
  repeat' (first | with_reducible assumption | with_reducible apply keptO_next | with_reducible apply kept_aluReg)

theorem kept_execMinu {cq : List Instr} (t : TileId) (f : Ins) (s : State) (h_s : Kept cq s) : KeptO cq (execMinu t f s) := by
  unfold execMinu
  try dsimp only
  repeat' (first | with_reducible assumption | with_reducible apply keptO_next | with_reducible apply kept_aluReg)

theorem kept_execMaxu {cq : List Instr} (t : TileId) (f : Ins) (s : State) (h_s : Kept cq s) : KeptO cq (execMaxu t f s) := by
  unfold execMaxu
  try dsimp only
  repeat' (first | with_reducible assumption | with_reducible apply keptO_next | with_reducible apply kept_aluReg)

theorem kept_execClz {cq : List Instr} (t : TileId) (f : Ins) (s : State) (h_s : Kept cq s) : KeptO cq (execClz t f s) := by
  unfold execClz
  try dsimp only
  repeat' (first | with_reducible assumption | with_reducible apply keptO_next | with_reducible apply kept_aluUn)

theorem kept_execPopc {cq : List Instr} (t : TileId) (f : Ins) (s : State) (h_s : Kept cq s) : KeptO cq (execPopc t f s) := by
  unfold execPopc
  try dsimp only
  repeat' (first | with_reducible assumption | with_reducible apply keptO_next | with_reducible apply kept_aluUn)

theorem kept_execCmpEq {cq : List Instr} (t : TileId) (f : Ins) (s : State) (h_s : Kept cq s) : KeptO cq (execCmpEq t f s) := by
  unfold execCmpEq
  try dsimp only
  repeat' (first | with_reducible assumption | with_reducible apply keptO_next | with_reducible apply kept_cmpReg)

theorem kept_execCmpNe {cq : List Instr} (t : TileId) (f : Ins) (s : State) (h_s : Kept cq s) : KeptO cq (execCmpNe t f s) := by
  unfold execCmpNe
  try dsimp only
  repeat' (first | with_reducible assumption | with_reducible apply keptO_next | with_reducible apply kept_cmpReg)

theorem kept_execCmpLt {cq : List Instr} (t : TileId) (f : Ins) (s : State) (h_s : Kept cq s) : KeptO cq (execCmpLt t f s) := by
  unfold execCmpLt
  try dsimp only
  repeat' (first | with_reducible assumption | with_reducible apply keptO_next | with_reducible apply kept_cmpReg)

theorem kept_execCmpLe {cq : List Instr} (t : TileId) (f : Ins) (s : State) (h_s : Kept cq s) : KeptO cq (execCmpLe t f s) := by
  unfold execCmpLe
  try dsimp only
  repeat' (first | with_reducible assumption | with_reducible apply keptO_next | with_reducible apply kept_cmpReg)

theorem kept_execCmpLtu {cq : List Instr} (t : TileId) (f : Ins) (s : State) (h_s : Kept cq s) : KeptO cq (execCmpLtu t f s) :=
    by
  unfold execCmpLtu
  try dsimp only
  repeat' (first | with_reducible assumption | with_reducible apply keptO_next | with_reducible apply kept_cmpReg)

theorem kept_execCmpLeu {cq : List Instr} (t : TileId) (f : Ins) (s : State) (h_s : Kept cq s) : KeptO cq (execCmpLeu t f s) :=
    by
  unfold execCmpLeu
  try dsimp only
  repeat' (first | with_reducible assumption | with_reducible apply keptO_next | with_reducible apply kept_cmpReg)

theorem kept_execPand {cq : List Instr} (t : TileId) (f : Ins) (s : State) (h_s : Kept cq s) : KeptO cq (execPand t f s) := by
  unfold execPand
  try dsimp only
  repeat' (first | with_reducible assumption | with_reducible apply keptO_next | with_reducible apply kept_predReg)

theorem kept_execPor {cq : List Instr} (t : TileId) (f : Ins) (s : State) (h_s : Kept cq s) : KeptO cq (execPor t f s) := by
  unfold execPor
  try dsimp only
  repeat' (first | with_reducible assumption | with_reducible apply keptO_next | with_reducible apply kept_predReg)

theorem kept_execPxor {cq : List Instr} (t : TileId) (f : Ins) (s : State) (h_s : Kept cq s) : KeptO cq (execPxor t f s) := by
  unfold execPxor
  try dsimp only
  repeat' (first | with_reducible assumption | with_reducible apply keptO_next | with_reducible apply kept_predReg)

theorem kept_execPnot {cq : List Instr} (t : TileId) (f : Ins) (s : State) (h_s : Kept cq s) : KeptO cq (execPnot t f s) := by
  unfold execPnot
  try dsimp only
  repeat' (first | with_reducible assumption | with_reducible apply keptO_next | with_reducible apply kept_predReg)

theorem kept_execAddi {cq : List Instr} (t : TileId) (f : Ins) (s : State) (h_s : Kept cq s) : KeptO cq (execAddi t f s) := by
  unfold execAddi
  try dsimp only
  repeat' (first | with_reducible assumption | with_reducible apply keptO_next | with_reducible apply kept_aluImm)

theorem kept_execMuli {cq : List Instr} (t : TileId) (f : Ins) (s : State) (h_s : Kept cq s) : KeptO cq (execMuli t f s) := by
  unfold execMuli
  try dsimp only
  repeat' (first | with_reducible assumption | with_reducible apply keptO_next | with_reducible apply kept_aluImm)

theorem kept_execAndi {cq : List Instr} (t : TileId) (f : Ins) (s : State) (h_s : Kept cq s) : KeptO cq (execAndi t f s) := by
  unfold execAndi
  try dsimp only
  repeat' (first | with_reducible assumption | with_reducible apply keptO_next | with_reducible apply kept_aluImm)

theorem kept_execOri {cq : List Instr} (t : TileId) (f : Ins) (s : State) (h_s : Kept cq s) : KeptO cq (execOri t f s) := by
  unfold execOri
  try dsimp only
  repeat' (first | with_reducible assumption | with_reducible apply keptO_next | with_reducible apply kept_aluImm)

theorem kept_execXori {cq : List Instr} (t : TileId) (f : Ins) (s : State) (h_s : Kept cq s) : KeptO cq (execXori t f s) := by
  unfold execXori
  try dsimp only
  repeat' (first | with_reducible assumption | with_reducible apply keptO_next | with_reducible apply kept_aluImm)

theorem kept_execShli {cq : List Instr} (t : TileId) (f : Ins) (s : State) (h_s : Kept cq s) : KeptO cq (execShli t f s) := by
  unfold execShli
  try dsimp only
  repeat' (first | with_reducible assumption | with_reducible apply keptO_next | with_reducible apply kept_aluImm)

theorem kept_execShri {cq : List Instr} (t : TileId) (f : Ins) (s : State) (h_s : Kept cq s) : KeptO cq (execShri t f s) := by
  unfold execShri
  try dsimp only
  repeat' (first | with_reducible assumption | with_reducible apply keptO_next | with_reducible apply kept_aluImm)

theorem kept_execSrai {cq : List Instr} (t : TileId) (f : Ins) (s : State) (h_s : Kept cq s) : KeptO cq (execSrai t f s) := by
  unfold execSrai
  try dsimp only
  repeat' (first | with_reducible assumption | with_reducible apply keptO_next | with_reducible apply kept_aluImm)

theorem kept_execCmpiEq {cq : List Instr} (t : TileId) (f : Ins) (s : State) (h_s : Kept cq s) : KeptO cq (execCmpiEq t f s) :=
    by
  unfold execCmpiEq
  try dsimp only
  repeat' (first | with_reducible assumption | with_reducible apply keptO_next | with_reducible apply kept_cmpImm)

theorem kept_execCmpiNe {cq : List Instr} (t : TileId) (f : Ins) (s : State) (h_s : Kept cq s) : KeptO cq (execCmpiNe t f s) :=
    by
  unfold execCmpiNe
  try dsimp only
  repeat' (first | with_reducible assumption | with_reducible apply keptO_next | with_reducible apply kept_cmpImm)

theorem kept_execCmpiLt {cq : List Instr} (t : TileId) (f : Ins) (s : State) (h_s : Kept cq s) : KeptO cq (execCmpiLt t f s) :=
    by
  unfold execCmpiLt
  try dsimp only
  repeat' (first | with_reducible assumption | with_reducible apply keptO_next | with_reducible apply kept_cmpImm)

theorem kept_execCmpiLe {cq : List Instr} (t : TileId) (f : Ins) (s : State) (h_s : Kept cq s) : KeptO cq (execCmpiLe t f s) :=
    by
  unfold execCmpiLe
  try dsimp only
  repeat' (first | with_reducible assumption | with_reducible apply keptO_next | with_reducible apply kept_cmpImm)

theorem kept_execCmpiLtu {cq : List Instr} (t : TileId) (f : Ins) (s : State) (h_s : Kept cq s) : KeptO cq (execCmpiLtu t f s)
    := by
  unfold execCmpiLtu
  try dsimp only
  repeat' (first | with_reducible assumption | with_reducible apply keptO_next | with_reducible apply kept_cmpImm)

theorem kept_execCmpiLeu {cq : List Instr} (t : TileId) (f : Ins) (s : State) (h_s : Kept cq s) : KeptO cq (execCmpiLeu t f s)
    := by
  unfold execCmpiLeu
  try dsimp only
  repeat' (first | with_reducible assumption | with_reducible apply keptO_next | with_reducible apply kept_cmpImm)

theorem kept_execSel {cq : List Instr} (t : TileId) (f : Ins) (s : State) (h_s : Kept cq s) : KeptO cq (execSel t f s) := by
  unfold execSel
  try dsimp only
  repeat' (first
    | with_reducible assumption | with_reducible apply keptO_next | with_reducible apply kept_issue
    | with_reducible apply kept_onTile)

theorem kept_execMovi {cq : List Instr} (t : TileId) (f : Ins) (s : State) (h_s : Kept cq s) : KeptO cq (execMovi t f s) := by
  unfold execMovi
  try dsimp only
  repeat' (first
    | with_reducible assumption | with_reducible apply keptO_next | with_reducible apply kept_issue
    | with_reducible apply kept_onTile)

theorem kept_execMovk {cq : List Instr} (t : TileId) (f : Ins) (s : State) (h_s : Kept cq s) : KeptO cq (execMovk t f s) := by
  unfold execMovk
  try dsimp only
  repeat' (first
    | with_reducible assumption | with_reducible apply keptO_next | with_reducible apply kept_issue
    | with_reducible apply kept_onTile)

/-! ### Control -/

theorem kept_jumpTo {cq : List Instr} (link : Option Nat) (target : Int) (t : Nat) (w : BitVec 64) (s : State) (h_s : Kept cq s)
    : Kept cq (jumpTo link target t w s) := by
  unfold jumpTo
  try dsimp only
  repeat' (first
    | with_reducible assumption | with_reducible apply kept_updTile | with_reducible apply kept_faultHere
    | with_reducible apply kept_foldl | with_reducible apply kept_foldl2 | with_reducible apply kept_foldl1 | (intro _)
    | (with_reducible split))

theorem kept_execBr {cq : List Instr} (t : TileId) (f : Ins) (s : State) (h_s : Kept cq s) : KeptO cq (execBr t f s) := by
  unfold execBr
  try dsimp only
  repeat' (first
    | with_reducible assumption | with_reducible apply keptO_next | with_reducible apply kept_issue
    | with_reducible apply kept_jumpTo | with_reducible apply kept_foldl | with_reducible apply kept_foldl2
    | with_reducible apply kept_foldl1 | (intro _))

theorem kept_execJr {cq : List Instr} (t : TileId) (f : Ins) (s : State) (h_s : Kept cq s) : KeptO cq (execJr t f s) := by
  unfold execJr
  try dsimp only
  repeat' (first
    | with_reducible assumption | with_reducible apply keptO_next | with_reducible apply kept_issue
    | with_reducible apply kept_jumpTo | with_reducible apply kept_foldl | with_reducible apply kept_foldl2
    | with_reducible apply kept_foldl1 | (intro _))

theorem kept_execCall {cq : List Instr} (t : TileId) (f : Ins) (s : State) (h_s : Kept cq s) : KeptO cq (execCall t f s) := by
  unfold execCall
  try dsimp only
  repeat' (first
    | with_reducible assumption | with_reducible apply keptO_next | with_reducible apply kept_issue
    | with_reducible apply kept_jumpTo | with_reducible apply kept_foldl | with_reducible apply kept_foldl2
    | with_reducible apply kept_foldl1 | (intro _))

theorem kept_execCallr {cq : List Instr} (t : TileId) (f : Ins) (s : State) (h_s : Kept cq s) : KeptO cq (execCallr t f s) := by
  unfold execCallr
  try dsimp only
  repeat' (first
    | with_reducible assumption | with_reducible apply keptO_next | with_reducible apply kept_issue
    | with_reducible apply kept_jumpTo | with_reducible apply kept_foldl | with_reducible apply kept_foldl2
    | with_reducible apply kept_foldl1 | (intro _))

theorem kept_ownRead {cq : List Instr} (reader : Nat) (t : Nat) (a : Nat) (n : Nat) (w : BitVec 64) (k : List Byte → State →
    State) (s : State) (h_k : ∀ x0 x1, Kept cq x1 → Kept cq (k x0 x1)) (h_s : Kept cq s) : Kept cq (ownRead reader t a n w k s)
    := by
  unfold ownRead
  try dsimp only
  repeat' (first
    | with_reducible assumption | with_reducible apply kept_checkRead | with_reducible apply kept_charge
    | with_reducible apply h_k | with_reducible apply kept_foldl | with_reducible apply kept_foldl2
    | with_reducible apply kept_foldl1 | (intro _) | (with_reducible split))

theorem kept_ownWrite {cq : List Instr} (t : Nat) (a : Nat) (bs : List Byte) (w : BitVec 64) (k : State → State) (s : State)
    (h_k : ∀ x0, Kept cq x0 → Kept cq (k x0)) (h_s : Kept cq s) : Kept cq (ownWrite t a bs w k s) := by
  unfold ownWrite
  try dsimp only
  repeat' (first
    | with_reducible assumption | with_reducible apply kept_memStore | with_reducible apply kept_charge
    | with_reducible apply h_k | with_reducible apply kept_foldl | with_reducible apply kept_foldl2
    | with_reducible apply kept_foldl1 | (intro _) | (with_reducible split))

theorem kept_loadS {cq : List Instr} (op : Nat) (width : Nat) (signed : Bool) (t : TileId) (f : Ins) (s : State) (h_s : Kept cq
    s) : KeptO cq (loadS op width signed t f s) := by
  unfold loadS
  try dsimp only
  repeat' (first
    | with_reducible assumption | with_reducible apply keptO_next | with_reducible apply kept_issue
    | with_reducible apply kept_faultHere | with_reducible apply kept_ownRead | with_reducible apply kept_onTile
    | with_reducible apply kept_foldl | with_reducible apply kept_foldl2 | with_reducible apply kept_foldl1 | (intro _)
    | (with_reducible split))

theorem kept_storeS {cq : List Instr} (op : Nat) (width : Nat) (t : TileId) (f : Ins) (s : State) (h_s : Kept cq s) : KeptO cq
    (storeS op width t f s) := by
  unfold storeS
  try dsimp only
  repeat' (first
    | with_reducible assumption | with_reducible apply keptO_next | with_reducible apply kept_issue
    | with_reducible apply kept_faultHere | with_reducible apply kept_ownWrite | with_reducible apply kept_advance
    | with_reducible apply kept_foldl | with_reducible apply kept_foldl2 | with_reducible apply kept_foldl1 | (intro _)
    | (with_reducible split))

theorem kept_execLdU8 {cq : List Instr} (t : TileId) (f : Ins) (s : State) (h_s : Kept cq s) : KeptO cq (execLdU8 t f s) := by
  unfold execLdU8
  try dsimp only
  repeat' (first | with_reducible assumption | with_reducible apply keptO_next | with_reducible apply kept_loadS)

theorem kept_execLdU16 {cq : List Instr} (t : TileId) (f : Ins) (s : State) (h_s : Kept cq s) : KeptO cq (execLdU16 t f s) := by
  unfold execLdU16
  try dsimp only
  repeat' (first | with_reducible assumption | with_reducible apply keptO_next | with_reducible apply kept_loadS)

theorem kept_execLdU32 {cq : List Instr} (t : TileId) (f : Ins) (s : State) (h_s : Kept cq s) : KeptO cq (execLdU32 t f s) := by
  unfold execLdU32
  try dsimp only
  repeat' (first | with_reducible assumption | with_reducible apply keptO_next | with_reducible apply kept_loadS)

theorem kept_execLd64 {cq : List Instr} (t : TileId) (f : Ins) (s : State) (h_s : Kept cq s) : KeptO cq (execLd64 t f s) := by
  unfold execLd64
  try dsimp only
  repeat' (first | with_reducible assumption | with_reducible apply keptO_next | with_reducible apply kept_loadS)

theorem kept_execLdS8 {cq : List Instr} (t : TileId) (f : Ins) (s : State) (h_s : Kept cq s) : KeptO cq (execLdS8 t f s) := by
  unfold execLdS8
  try dsimp only
  repeat' (first | with_reducible assumption | with_reducible apply keptO_next | with_reducible apply kept_loadS)

theorem kept_execLdS16 {cq : List Instr} (t : TileId) (f : Ins) (s : State) (h_s : Kept cq s) : KeptO cq (execLdS16 t f s) := by
  unfold execLdS16
  try dsimp only
  repeat' (first | with_reducible assumption | with_reducible apply keptO_next | with_reducible apply kept_loadS)

theorem kept_execLdS32 {cq : List Instr} (t : TileId) (f : Ins) (s : State) (h_s : Kept cq s) : KeptO cq (execLdS32 t f s) := by
  unfold execLdS32
  try dsimp only
  repeat' (first | with_reducible assumption | with_reducible apply keptO_next | with_reducible apply kept_loadS)

theorem kept_execSt8 {cq : List Instr} (t : TileId) (f : Ins) (s : State) (h_s : Kept cq s) : KeptO cq (execSt8 t f s) := by
  unfold execSt8
  try dsimp only
  repeat' (first | with_reducible assumption | with_reducible apply keptO_next | with_reducible apply kept_storeS)

theorem kept_execSt16 {cq : List Instr} (t : TileId) (f : Ins) (s : State) (h_s : Kept cq s) : KeptO cq (execSt16 t f s) := by
  unfold execSt16
  try dsimp only
  repeat' (first | with_reducible assumption | with_reducible apply keptO_next | with_reducible apply kept_storeS)

theorem kept_execSt32 {cq : List Instr} (t : TileId) (f : Ins) (s : State) (h_s : Kept cq s) : KeptO cq (execSt32 t f s) := by
  unfold execSt32
  try dsimp only
  repeat' (first | with_reducible assumption | with_reducible apply keptO_next | with_reducible apply kept_storeS)

theorem kept_execSt64 {cq : List Instr} (t : TileId) (f : Ins) (s : State) (h_s : Kept cq s) : KeptO cq (execSt64 t f s) := by
  unfold execSt64
  try dsimp only
  repeat' (first | with_reducible assumption | with_reducible apply keptO_next | with_reducible apply kept_storeS)

theorem kept_execVld {cq : List Instr} (t : TileId) (f : Ins) (s : State) (h_s : Kept cq s) : KeptO cq (execVld t f s) := by
  unfold execVld
  try dsimp only
  repeat' (first
    | with_reducible assumption | with_reducible apply keptO_next | with_reducible apply kept_issue
    | with_reducible apply kept_faultHere | with_reducible apply kept_ownRead | with_reducible apply kept_onTile
    | with_reducible apply kept_foldl | with_reducible apply kept_foldl2 | with_reducible apply kept_foldl1 | (intro _)
    | (with_reducible split))

theorem kept_execVst {cq : List Instr} (t : TileId) (f : Ins) (s : State) (h_s : Kept cq s) : KeptO cq (execVst t f s) := by
  unfold execVst
  try dsimp only
  repeat' (first
    | with_reducible assumption | with_reducible apply keptO_next | with_reducible apply kept_issue
    | with_reducible apply kept_faultHere | with_reducible apply kept_ownWrite | with_reducible apply kept_advance
    | with_reducible apply kept_foldl | with_reducible apply kept_foldl2 | with_reducible apply kept_foldl1 | (intro _)
    | (with_reducible split))

theorem kept_dmaIns {cq : List Instr} (op : Nat) (v2s : Bool) (t : TileId) (f : Ins) (s : State) (h_s : Kept cq s) : KeptO cq
    (dmaIns op v2s t f s) := by
  unfold dmaIns
  try dsimp only
  repeat' (first
    | with_reducible assumption | with_reducible apply keptO_next | with_reducible apply kept_issue
    | with_reducible apply kept_faultHere | with_reducible apply kept_onTile | with_reducible apply kept_foldl
    | with_reducible apply kept_foldl2 | with_reducible apply kept_foldl1 | (intro _) | (with_reducible split))

theorem kept_execDmaV2s {cq : List Instr} (t : TileId) (f : Ins) (s : State) (h_s : Kept cq s) : KeptO cq (execDmaV2s t f s) :=
    by
  unfold execDmaV2s
  try dsimp only
  repeat' (first | with_reducible assumption | with_reducible apply keptO_next | with_reducible apply kept_dmaIns)

theorem kept_execDmaS2v {cq : List Instr} (t : TileId) (f : Ins) (s : State) (h_s : Kept cq s) : KeptO cq (execDmaS2v t f s) :=
    by
  unfold execDmaS2v
  try dsimp only
  repeat' (first | with_reducible assumption | with_reducible apply keptO_next | with_reducible apply kept_dmaIns)

theorem kept_dmaUnit {cq : List Instr} (t : Nat) (d : Dma) (va : Nat) (sa : Nat) (r : Bool × State) (h_r : Kept cq r.2) : Kept
    cq (dmaUnit t d va sa r).2 := by
  unfold dmaUnit
  try dsimp only
  repeat' (first
    | with_reducible assumption | with_reducible apply kept_checkRead | with_reducible apply kept_landStore
    | with_reducible apply kept_foldl | with_reducible apply kept_foldl2 | with_reducible apply kept_foldl1 | (intro _)
    | (with_reducible split))

theorem kept_dmaMove {cq : List Instr} (t : Nat) (d : Dma) (s : State) (h_s : Kept cq s) : Kept cq (dmaMove t d s).2 := by
  unfold dmaMove
  try dsimp only
  repeat' (first
    | with_reducible assumption | with_reducible apply kept_dmaUnit | with_reducible apply kept_useFree
    | with_reducible apply kept_foldl | with_reducible apply kept_foldl2 | with_reducible apply kept_foldl1 | (intro _)
    | (with_reducible split))

theorem kept_execDmaComplete {cq : List Instr} (t : TileId) (id : Nat) (s : State) (h_s : Kept cq s) : KeptO cq (execDmaComplete
    t id s) := by
  unfold execDmaComplete
  try dsimp only
  repeat' (first
    | with_reducible assumption | with_reducible apply keptO_next | with_reducible apply kept_charge
    | with_reducible apply kept_dmaMove | with_reducible apply kept_updTile | with_reducible apply kept_foldl
    | with_reducible apply kept_foldl2 | with_reducible apply kept_foldl1 | (intro _) | (with_reducible split))

theorem kept_execCrd {cq : List Instr} (t : TileId) (f : Ins) (s : State) (h_s : Kept cq s) : KeptO cq (execCrd t f s) := by
  unfold execCrd
  try dsimp only
  repeat' (first
    | with_reducible assumption | with_reducible apply keptO_next | with_reducible apply kept_issue
    | with_reducible apply kept_onTile)

theorem kept_execCset {cq : List Instr} (t : TileId) (f : Ins) (s : State) (h_s : Kept cq s) : KeptO cq (execCset t f s) := by
  unfold execCset
  try dsimp only
  repeat' (first
    | with_reducible assumption | with_reducible apply keptO_next | with_reducible apply kept_issue
    | with_reducible apply kept_onTile)

theorem kept_execCadd {cq : List Instr} (t : TileId) (f : Ins) (s : State) (h_s : Kept cq s) : KeptO cq (execCadd t f s) := by
  unfold execCadd
  try dsimp only
  repeat' (first
    | with_reducible assumption | with_reducible apply keptO_next | with_reducible apply kept_issue
    | with_reducible apply kept_onTile)

theorem kept_execCaddi {cq : List Instr} (t : TileId) (f : Ins) (s : State) (h_s : Kept cq s) : KeptO cq (execCaddi t f s) := by
  unfold execCaddi
  try dsimp only
  repeat' (first
    | with_reducible assumption | with_reducible apply keptO_next | with_reducible apply kept_issue
    | with_reducible apply kept_onTile)

theorem kept_waitCounter {cq : List Instr} (c : BitVec 6) (target : BitVec 32) (t : Nat) (w : BitVec 64) (s : State) (h_s : Kept
    cq s) : Kept cq (waitCounter c target t w s) := by
  unfold waitCounter
  try dsimp only
  repeat' (first
    | with_reducible assumption | with_reducible apply kept_advance | with_reducible apply kept_waitFor
    | with_reducible apply kept_foldl | with_reducible apply kept_foldl2 | with_reducible apply kept_foldl1 | (intro _)
    | (with_reducible split))

theorem kept_execCwait {cq : List Instr} (t : TileId) (f : Ins) (s : State) (h_s : Kept cq s) : KeptO cq (execCwait t f s) := by
  unfold execCwait
  try dsimp only
  repeat' (first
    | with_reducible assumption | with_reducible apply keptO_next | with_reducible apply kept_issue
    | with_reducible apply kept_waitCounter | with_reducible apply kept_foldl | with_reducible apply kept_foldl2
    | with_reducible apply kept_foldl1 | (intro _))

theorem kept_execCwaiti {cq : List Instr} (t : TileId) (f : Ins) (s : State) (h_s : Kept cq s) : KeptO cq (execCwaiti t f s) :=
    by
  unfold execCwaiti
  try dsimp only
  repeat' (first
    | with_reducible assumption | with_reducible apply keptO_next | with_reducible apply kept_issue
    | with_reducible apply kept_waitCounter)

theorem kept_execCwaitT {cq : List Instr} (t : TileId) (f : Ins) (s : State) (h_s : Kept cq s) : KeptO cq (execCwaitT t f s) :=
    by
  unfold execCwaitT
  try dsimp only
  repeat' (first
    | with_reducible assumption | with_reducible apply keptO_next | with_reducible apply kept_issue
    | with_reducible apply kept_onTile | with_reducible apply kept_waitFor | with_reducible apply kept_foldl
    | with_reducible apply kept_foldl2 | with_reducible apply kept_foldl1 | (intro _) | (with_reducible split))

theorem kept_execSleep {cq : List Instr} (t : TileId) (f : Ins) (s : State) (h_s : Kept cq s) : KeptO cq (execSleep t f s) := by
  unfold execSleep
  try dsimp only
  repeat' (first
    | with_reducible assumption | with_reducible apply keptO_next | with_reducible apply kept_issue
    | with_reducible apply kept_advance | with_reducible apply kept_waitFor | with_reducible apply kept_foldl
    | with_reducible apply kept_foldl2 | with_reducible apply kept_foldl1 | (intro _) | (with_reducible split))

theorem kept_execCounterReached {cq : List Instr} (t : TileId) (s : State) (h_s : Kept cq s) : KeptO cq (execCounterReached t s)
    := by
  unfold execCounterReached
  try dsimp only
  repeat' (first
    | with_reducible assumption | with_reducible apply keptO_next | with_reducible apply kept_resume
    | with_reducible apply kept_updTile | with_reducible apply kept_foldl | with_reducible apply kept_foldl2
    | with_reducible apply kept_foldl1 | (intro _) | (with_reducible split))

theorem kept_execWaitTimeout {cq : List Instr} (t : TileId) (s : State) (h_s : Kept cq s) : KeptO cq (execWaitTimeout t s) := by
  unfold execWaitTimeout
  try dsimp only
  repeat' (first
    | with_reducible assumption | with_reducible apply keptO_next | with_reducible apply kept_resume
    | with_reducible apply kept_updTile | with_reducible apply kept_foldl | with_reducible apply kept_foldl2
    | with_reducible apply kept_foldl1 | (intro _) | (with_reducible split))

theorem kept_execSleepEnd {cq : List Instr} (t : TileId) (s : State) (h_s : Kept cq s) : KeptO cq (execSleepEnd t s) := by
  unfold execSleepEnd
  try dsimp only
  repeat' (first
    | with_reducible assumption | with_reducible apply keptO_next | with_reducible apply kept_resume
    | with_reducible apply kept_foldl | with_reducible apply kept_foldl2 | with_reducible apply kept_foldl1 | (intro _)
    | (with_reducible split))

theorem kept_execNop {cq : List Instr} (t : TileId) (f : Ins) (s : State) (h_s : Kept cq s) : KeptO cq (execNop t f s) := by
  unfold execNop
  try dsimp only
  repeat' (first
    | with_reducible assumption | with_reducible apply keptO_next | with_reducible apply kept_issue
    | with_reducible apply kept_advance)

theorem kept_execEndK {cq : List Instr} (t : TileId) (f : Ins) (s : State) (h_s : Kept cq s) : KeptO cq (execEndK t f s) := by
  unfold execEndK
  try dsimp only
  repeat' (first
    | with_reducible assumption | with_reducible apply keptO_next | with_reducible apply kept_issue
    | with_reducible apply kept_waitFor | with_reducible apply kept_foldl | with_reducible apply kept_foldl2
    | with_reducible apply kept_foldl1 | (intro _))

theorem kept_execPhase {cq : List Instr} (t : TileId) (f : Ins) (s : State) (h_s : Kept cq s) : KeptO cq (execPhase t f s) := by
  unfold execPhase
  try dsimp only
  repeat' (first
    | with_reducible assumption | with_reducible apply keptO_next | with_reducible apply kept_issue
    | with_reducible apply kept_advance | with_reducible apply kept_updPart | with_reducible apply kept_foldl
    | with_reducible apply kept_foldl2 | with_reducible apply kept_foldl1 | (intro _) | (with_reducible split))

theorem kept_execBarrier {cq : List Instr} (t : TileId) (f : Ins) (s : State) (h_s : Kept cq s) : KeptO cq (execBarrier t f s)
    := by
  unfold execBarrier
  try dsimp only
  repeat' (first
    | with_reducible assumption | with_reducible apply keptO_next | with_reducible apply kept_issue
    | with_reducible apply kept_waitFor | with_reducible apply kept_faultHere | with_reducible apply kept_foldl
    | with_reducible apply kept_foldl2 | with_reducible apply kept_foldl1 | (intro _) | (with_reducible split))

theorem kept_execRdts {cq : List Instr} (t : TileId) (f : Ins) (s : State) (h_s : Kept cq s) : KeptO cq (execRdts t f s) := by
  unfold execRdts
  try dsimp only
  repeat' (first
    | with_reducible assumption | with_reducible apply keptO_next | with_reducible apply kept_issue
    | with_reducible apply kept_onTile | with_reducible apply kept_foldl | with_reducible apply kept_foldl2
    | with_reducible apply kept_foldl1 | (intro _))

theorem kept_execRdid {cq : List Instr} (t : TileId) (f : Ins) (s : State) (h_s : Kept cq s) : KeptO cq (execRdid t f s) := by
  unfold execRdid
  try dsimp only
  repeat' (first
    | with_reducible assumption | with_reducible apply keptO_next | with_reducible apply kept_issue
    | with_reducible apply kept_onTile | with_reducible apply kept_foldl | with_reducible apply kept_foldl2
    | with_reducible apply kept_foldl1 | (intro _))

theorem kept_execRdcyc {cq : List Instr} (t : TileId) (f : Ins) (s : State) (h_s : Kept cq s) : KeptO cq (execRdcyc t f s) := by
  unfold execRdcyc
  try dsimp only
  repeat' (first
    | with_reducible assumption | with_reducible apply keptO_next | with_reducible apply kept_issue
    | with_reducible apply kept_onTile | with_reducible apply kept_foldl | with_reducible apply kept_foldl2
    | with_reducible apply kept_foldl1 | (intro _))

theorem kept_execTrap {cq : List Instr} (t : TileId) (f : Ins) (s : State) (h_s : Kept cq s) : KeptO cq (execTrap t f s) := by
  unfold execTrap
  try dsimp only
  repeat' (first
    | with_reducible assumption | with_reducible apply keptO_next | with_reducible apply kept_issue
    | with_reducible apply kept_faultHere | with_reducible apply kept_foldl | with_reducible apply kept_foldl2
    | with_reducible apply kept_foldl1 | (intro _))

theorem kept_execIllegalInstruction {cq : List Instr} (t : TileId) (w : BitVec 64) (s : State) (h_s : Kept cq s) : KeptO cq
    (execIllegalInstruction t w s) := by
  unfold execIllegalInstruction
  try dsimp only
  repeat' (first
    | with_reducible assumption | with_reducible apply keptO_next | with_reducible apply kept_issueWord
    | with_reducible apply kept_advance | with_reducible apply kept_foldl | with_reducible apply kept_foldl2
    | with_reducible apply kept_foldl1 | (intro _) | (with_reducible split))

/-! ### Matrix -/

theorem kept_readRanges {cq : List Instr} (t : Nat) (rs : List (Nat × Nat)) (w : BitVec 64) (s : State) (h_s : Kept cq s) : Kept
    cq (readRanges t rs w s).2 := by
  unfold readRanges
  try dsimp only
  repeat' (first
    | with_reducible assumption | with_reducible apply kept_checkRead | with_reducible apply kept_charge
    | with_reducible apply kept_foldl | with_reducible apply kept_foldl2 | with_reducible apply kept_foldl1 | (intro _))

theorem kept_matFlight {cq : List Instr} (acc : Option (BitVec 2)) (drain : Nat) (t : Nat) (s : State) (h_s : Kept cq s) : Kept
    cq (matFlight acc drain t s) := by
  unfold matFlight
  try dsimp only
  repeat' (first | with_reducible assumption | with_reducible apply kept_updTile)

theorem kept_execMma {cq : List Instr} (t : TileId) (f : Ins) (s : State) (h_s : Kept cq s) : KeptO cq (execMma t f s) := by
  unfold execMma
  try dsimp only
  repeat' (first
    | with_reducible assumption | with_reducible apply keptO_next | with_reducible apply kept_issue
    | with_reducible apply kept_faultHere | with_reducible apply kept_advance | with_reducible apply kept_readRanges
    | with_reducible apply kept_onTile | with_reducible apply kept_foldl | with_reducible apply kept_foldl2
    | with_reducible apply kept_foldl1 | (intro _) | (with_reducible split))

theorem kept_execMzero {cq : List Instr} (t : TileId) (f : Ins) (s : State) (h_s : Kept cq s) : KeptO cq (execMzero t f s) := by
  unfold execMzero
  try dsimp only
  repeat' (first
    | with_reducible assumption | with_reducible apply keptO_next | with_reducible apply kept_issue
    | with_reducible apply kept_onTile | with_reducible apply kept_matFlight | with_reducible apply kept_foldl
    | with_reducible apply kept_foldl2 | with_reducible apply kept_foldl1 | (intro _))

theorem kept_writeRows {cq : List Instr} (t : Nat) (a : Nat) (st : Nat) (rows : List (List Byte)) (w : BitVec 64) (s : State)
    (h_s : Kept cq s) : Kept cq (writeRows t a st rows w s) := by
  unfold writeRows
  try dsimp only
  repeat' (first
    | with_reducible assumption | with_reducible apply kept_memStore | with_reducible apply kept_charge
    | with_reducible apply kept_foldl | with_reducible apply kept_foldl2 | with_reducible apply kept_foldl1 | (intro _))

theorem kept_execMst {cq : List Instr} (t : TileId) (f : Ins) (s : State) (h_s : Kept cq s) : KeptO cq (execMst t f s) := by
  unfold execMst
  try dsimp only
  repeat' (first
    | with_reducible assumption | with_reducible apply keptO_next | with_reducible apply kept_issue
    | with_reducible apply kept_faultHere | with_reducible apply kept_writeRows | with_reducible apply kept_matFlight
    | with_reducible apply kept_onTile | with_reducible apply kept_foldl | with_reducible apply kept_foldl2
    | with_reducible apply kept_foldl1 | (intro _) | (with_reducible split))

theorem kept_execMvr {cq : List Instr} (t : TileId) (f : Ins) (s : State) (h_s : Kept cq s) : KeptO cq (execMvr t f s) := by
  unfold execMvr
  try dsimp only
  repeat' (first
    | with_reducible assumption | with_reducible apply keptO_next | with_reducible apply kept_issue
    | with_reducible apply kept_onTile | with_reducible apply kept_matFlight | with_reducible apply kept_foldl
    | with_reducible apply kept_foldl2 | with_reducible apply kept_foldl1 | (intro _))

theorem kept_execMstx {cq : List Instr} (t : TileId) (f : Ins) (s : State) (h_s : Kept cq s) : KeptO cq (execMstx t f s) := by
  unfold execMstx
  try dsimp only
  repeat' (first
    | with_reducible assumption | with_reducible apply keptO_next | with_reducible apply kept_issue
    | with_reducible apply kept_faultHere | with_reducible apply kept_advance | with_reducible apply kept_writeRows
    | with_reducible apply kept_matFlight | with_reducible apply kept_foldl | with_reducible apply kept_foldl2
    | with_reducible apply kept_foldl1 | (intro _) | (with_reducible split))

theorem kept_execMldx {cq : List Instr} (t : TileId) (f : Ins) (s : State) (h_s : Kept cq s) : KeptO cq (execMldx t f s) := by
  unfold execMldx
  try dsimp only
  repeat' (first
    | with_reducible assumption | with_reducible apply keptO_next | with_reducible apply kept_issue
    | with_reducible apply kept_faultHere | with_reducible apply kept_readRanges | with_reducible apply kept_onTile
    | with_reducible apply kept_matFlight | with_reducible apply kept_foldl | with_reducible apply kept_foldl2
    | with_reducible apply kept_foldl1 | (intro _) | (with_reducible split))

theorem kept_execMflg {cq : List Instr} (t : TileId) (f : Ins) (s : State) (h_s : Kept cq s) : KeptO cq (execMflg t f s) := by
  unfold execMflg
  try dsimp only
  repeat' (first
    | with_reducible assumption | with_reducible apply keptO_next | with_reducible apply kept_issue
    | with_reducible apply kept_onTile | with_reducible apply kept_matFlight | with_reducible apply kept_foldl
    | with_reducible apply kept_foldl2 | with_reducible apply kept_foldl1 | (intro _))

/-! ### Vector -/

theorem kept_issueV {cq : List Instr} (t : TileId) (op : Nat) (f : Ins) (enc : Option Nat) (run : Nat → BitVec 64 → State →
    State) (s : State) (h_run : ∀ x0 x1 x2, Kept cq x2 → Kept cq (run x0 x1 x2)) (h_s : Kept cq s) : KeptO cq (issueV t op f enc
    run s) := by
  unfold issueV
  try dsimp only
  repeat' (first
    | with_reducible assumption | with_reducible apply keptO_next | with_reducible apply kept_issue
    | with_reducible apply kept_charge | with_reducible apply h_run | with_reducible apply kept_foldl
    | with_reducible apply kept_foldl2 | with_reducible apply kept_foldl1 | (intro _))

theorem kept_lane2 {cq : List Instr} (op : Nat) (g : BitVec 32 → BitVec 32 → BitVec 32) (t : TileId) (f : Ins) (s : State) (h_s
    : Kept cq s) : KeptO cq (lane2 op g t f s) := by
  unfold lane2
  try dsimp only
  repeat' (first
    | with_reducible assumption | with_reducible apply keptO_next | with_reducible apply kept_issueV
    | with_reducible apply kept_onTile)

theorem kept_lane1 {cq : List Instr} (op : Nat) (g : BitVec 32 → BitVec 32) (t : TileId) (f : Ins) (s : State) (h_s : Kept cq s)
    : KeptO cq (lane1 op g t f s) := by
  unfold lane1
  try dsimp only
  repeat' (first
    | with_reducible assumption | with_reducible apply keptO_next | with_reducible apply kept_issueV
    | with_reducible apply kept_onTile)

theorem kept_reduce {cq : List Instr} (op : Nat) (g : BitVec 32 → BitVec 32 → BitVec 32) (unit : BitVec 32) (t : TileId) (f :
    Ins) (s : State) (h_s : Kept cq s) : KeptO cq (reduce op g unit t f s) := by
  unfold reduce
  try dsimp only
  repeat' (first
    | with_reducible assumption | with_reducible apply keptO_next | with_reducible apply kept_issueV
    | with_reducible apply kept_onTile)

theorem kept_vcmp {cq : List Instr} (op : Nat) (conds : Nat) (g : Nat → BitVec 32 → BitVec 32 → Bool) (t : TileId) (f : Ins) (s
    : State) (h_s : Kept cq s) : KeptO cq (vcmp op conds g t f s) := by
  unfold vcmp
  try dsimp only
  repeat' (first
    | with_reducible assumption | with_reducible apply keptO_next | with_reducible apply kept_issueV
    | with_reducible apply kept_onTile)

theorem kept_execVaddF32 {cq : List Instr} (t : TileId) (f : Ins) (s : State) (h_s : Kept cq s) : KeptO cq (execVaddF32 t f s)
    := by
  unfold execVaddF32
  try dsimp only
  repeat' (first | with_reducible assumption | with_reducible apply keptO_next | with_reducible apply kept_lane2)

theorem kept_execVsubF32 {cq : List Instr} (t : TileId) (f : Ins) (s : State) (h_s : Kept cq s) : KeptO cq (execVsubF32 t f s)
    := by
  unfold execVsubF32
  try dsimp only
  repeat' (first | with_reducible assumption | with_reducible apply keptO_next | with_reducible apply kept_lane2)

theorem kept_execVmulF32 {cq : List Instr} (t : TileId) (f : Ins) (s : State) (h_s : Kept cq s) : KeptO cq (execVmulF32 t f s)
    := by
  unfold execVmulF32
  try dsimp only
  repeat' (first | with_reducible assumption | with_reducible apply keptO_next | with_reducible apply kept_lane2)

theorem kept_execVminF32 {cq : List Instr} (t : TileId) (f : Ins) (s : State) (h_s : Kept cq s) : KeptO cq (execVminF32 t f s)
    := by
  unfold execVminF32
  try dsimp only
  repeat' (first | with_reducible assumption | with_reducible apply keptO_next | with_reducible apply kept_lane2)

theorem kept_execVmaxF32 {cq : List Instr} (t : TileId) (f : Ins) (s : State) (h_s : Kept cq s) : KeptO cq (execVmaxF32 t f s)
    := by
  unfold execVmaxF32
  try dsimp only
  repeat' (first | with_reducible assumption | with_reducible apply keptO_next | with_reducible apply kept_lane2)

theorem kept_execVdivF32 {cq : List Instr} (t : TileId) (f : Ins) (s : State) (h_s : Kept cq s) : KeptO cq (execVdivF32 t f s)
    := by
  unfold execVdivF32
  try dsimp only
  repeat' (first | with_reducible assumption | with_reducible apply keptO_next | with_reducible apply kept_lane2)

theorem kept_execVaddI32 {cq : List Instr} (t : TileId) (f : Ins) (s : State) (h_s : Kept cq s) : KeptO cq (execVaddI32 t f s)
    := by
  unfold execVaddI32
  try dsimp only
  repeat' (first | with_reducible assumption | with_reducible apply keptO_next | with_reducible apply kept_lane2)

theorem kept_execVsubI32 {cq : List Instr} (t : TileId) (f : Ins) (s : State) (h_s : Kept cq s) : KeptO cq (execVsubI32 t f s)
    := by
  unfold execVsubI32
  try dsimp only
  repeat' (first | with_reducible assumption | with_reducible apply keptO_next | with_reducible apply kept_lane2)

theorem kept_execVmulI32 {cq : List Instr} (t : TileId) (f : Ins) (s : State) (h_s : Kept cq s) : KeptO cq (execVmulI32 t f s)
    := by
  unfold execVmulI32
  try dsimp only
  repeat' (first | with_reducible assumption | with_reducible apply keptO_next | with_reducible apply kept_lane2)

theorem kept_execVand {cq : List Instr} (t : TileId) (f : Ins) (s : State) (h_s : Kept cq s) : KeptO cq (execVand t f s) := by
  unfold execVand
  try dsimp only
  repeat' (first | with_reducible assumption | with_reducible apply keptO_next | with_reducible apply kept_lane2)

theorem kept_execVor {cq : List Instr} (t : TileId) (f : Ins) (s : State) (h_s : Kept cq s) : KeptO cq (execVor t f s) := by
  unfold execVor
  try dsimp only
  repeat' (first | with_reducible assumption | with_reducible apply keptO_next | with_reducible apply kept_lane2)

theorem kept_execVxor {cq : List Instr} (t : TileId) (f : Ins) (s : State) (h_s : Kept cq s) : KeptO cq (execVxor t f s) := by
  unfold execVxor
  try dsimp only
  repeat' (first | with_reducible assumption | with_reducible apply keptO_next | with_reducible apply kept_lane2)

theorem kept_execVshl {cq : List Instr} (t : TileId) (f : Ins) (s : State) (h_s : Kept cq s) : KeptO cq (execVshl t f s) := by
  unfold execVshl
  try dsimp only
  repeat' (first | with_reducible assumption | with_reducible apply keptO_next | with_reducible apply kept_lane2)

theorem kept_execVshr {cq : List Instr} (t : TileId) (f : Ins) (s : State) (h_s : Kept cq s) : KeptO cq (execVshr t f s) := by
  unfold execVshr
  try dsimp only
  repeat' (first | with_reducible assumption | with_reducible apply keptO_next | with_reducible apply kept_lane2)

theorem kept_execVsra {cq : List Instr} (t : TileId) (f : Ins) (s : State) (h_s : Kept cq s) : KeptO cq (execVsra t f s) := by
  unfold execVsra
  try dsimp only
  repeat' (first | with_reducible assumption | with_reducible apply keptO_next | with_reducible apply kept_lane2)

theorem kept_execVminS32 {cq : List Instr} (t : TileId) (f : Ins) (s : State) (h_s : Kept cq s) : KeptO cq (execVminS32 t f s)
    := by
  unfold execVminS32
  try dsimp only
  repeat' (first | with_reducible assumption | with_reducible apply keptO_next | with_reducible apply kept_lane2)

theorem kept_execVmaxS32 {cq : List Instr} (t : TileId) (f : Ins) (s : State) (h_s : Kept cq s) : KeptO cq (execVmaxS32 t f s)
    := by
  unfold execVmaxS32
  try dsimp only
  repeat' (first | with_reducible assumption | with_reducible apply keptO_next | with_reducible apply kept_lane2)

theorem kept_execVabsF32 {cq : List Instr} (t : TileId) (f : Ins) (s : State) (h_s : Kept cq s) : KeptO cq (execVabsF32 t f s)
    := by
  unfold execVabsF32
  try dsimp only
  repeat' (first | with_reducible assumption | with_reducible apply keptO_next | with_reducible apply kept_lane1)

theorem kept_execVnegF32 {cq : List Instr} (t : TileId) (f : Ins) (s : State) (h_s : Kept cq s) : KeptO cq (execVnegF32 t f s)
    := by
  unfold execVnegF32
  try dsimp only
  repeat' (first | with_reducible assumption | with_reducible apply keptO_next | with_reducible apply kept_lane1)

theorem kept_execVsqrtF32 {cq : List Instr} (t : TileId) (f : Ins) (s : State) (h_s : Kept cq s) : KeptO cq (execVsqrtF32 t f s)
    := by
  unfold execVsqrtF32
  try dsimp only
  repeat' (first | with_reducible assumption | with_reducible apply keptO_next | with_reducible apply kept_lane1)

theorem kept_execVrcpF32 {cq : List Instr} (t : TileId) (f : Ins) (s : State) (h_s : Kept cq s) : KeptO cq (execVrcpF32 t f s)
    := by
  unfold execVrcpF32
  try dsimp only
  repeat' (first | with_reducible assumption | with_reducible apply keptO_next | with_reducible apply kept_lane1)

theorem kept_execVrsqrtF32 {cq : List Instr} (t : TileId) (f : Ins) (s : State) (h_s : Kept cq s) : KeptO cq (execVrsqrtF32 t f
    s) := by
  unfold execVrsqrtF32
  try dsimp only
  repeat' (first | with_reducible assumption | with_reducible apply keptO_next | with_reducible apply kept_lane1)

theorem kept_execVexp {cq : List Instr} (t : TileId) (f : Ins) (s : State) (h_s : Kept cq s) : KeptO cq (execVexp t f s) := by
  unfold execVexp
  try dsimp only
  repeat' (first | with_reducible assumption | with_reducible apply keptO_next | with_reducible apply kept_lane1)

theorem kept_execVexp2 {cq : List Instr} (t : TileId) (f : Ins) (s : State) (h_s : Kept cq s) : KeptO cq (execVexp2 t f s) := by
  unfold execVexp2
  try dsimp only
  repeat' (first | with_reducible assumption | with_reducible apply keptO_next | with_reducible apply kept_lane1)

theorem kept_execVlog {cq : List Instr} (t : TileId) (f : Ins) (s : State) (h_s : Kept cq s) : KeptO cq (execVlog t f s) := by
  unfold execVlog
  try dsimp only
  repeat' (first | with_reducible assumption | with_reducible apply keptO_next | with_reducible apply kept_lane1)

theorem kept_execVlog2 {cq : List Instr} (t : TileId) (f : Ins) (s : State) (h_s : Kept cq s) : KeptO cq (execVlog2 t f s) := by
  unfold execVlog2
  try dsimp only
  repeat' (first | with_reducible assumption | with_reducible apply keptO_next | with_reducible apply kept_lane1)

theorem kept_execVtanh {cq : List Instr} (t : TileId) (f : Ins) (s : State) (h_s : Kept cq s) : KeptO cq (execVtanh t f s) := by
  unfold execVtanh
  try dsimp only
  repeat' (first | with_reducible assumption | with_reducible apply keptO_next | with_reducible apply kept_lane1)

theorem kept_execVsigm {cq : List Instr} (t : TileId) (f : Ins) (s : State) (h_s : Kept cq s) : KeptO cq (execVsigm t f s) := by
  unfold execVsigm
  try dsimp only
  repeat' (first | with_reducible assumption | with_reducible apply keptO_next | with_reducible apply kept_lane1)

theorem kept_execVrsumF32 {cq : List Instr} (t : TileId) (f : Ins) (s : State) (h_s : Kept cq s) : KeptO cq (execVrsumF32 t f s)
    := by
  unfold execVrsumF32
  try dsimp only
  repeat' (first | with_reducible assumption | with_reducible apply keptO_next | with_reducible apply kept_reduce)

theorem kept_execVrmaxF32 {cq : List Instr} (t : TileId) (f : Ins) (s : State) (h_s : Kept cq s) : KeptO cq (execVrmaxF32 t f s)
    := by
  unfold execVrmaxF32
  try dsimp only
  repeat' (first | with_reducible assumption | with_reducible apply keptO_next | with_reducible apply kept_reduce)

theorem kept_execVrminF32 {cq : List Instr} (t : TileId) (f : Ins) (s : State) (h_s : Kept cq s) : KeptO cq (execVrminF32 t f s)
    := by
  unfold execVrminF32
  try dsimp only
  repeat' (first | with_reducible assumption | with_reducible apply keptO_next | with_reducible apply kept_reduce)

theorem kept_execVrsumI32 {cq : List Instr} (t : TileId) (f : Ins) (s : State) (h_s : Kept cq s) : KeptO cq (execVrsumI32 t f s)
    := by
  unfold execVrsumI32
  try dsimp only
  repeat' (first | with_reducible assumption | with_reducible apply keptO_next | with_reducible apply kept_reduce)

theorem kept_execVrmaxS32 {cq : List Instr} (t : TileId) (f : Ins) (s : State) (h_s : Kept cq s) : KeptO cq (execVrmaxS32 t f s)
    := by
  unfold execVrmaxS32
  try dsimp only
  repeat' (first | with_reducible assumption | with_reducible apply keptO_next | with_reducible apply kept_reduce)

theorem kept_execVrminS32 {cq : List Instr} (t : TileId) (f : Ins) (s : State) (h_s : Kept cq s) : KeptO cq (execVrminS32 t f s)
    := by
  unfold execVrminS32
  try dsimp only
  repeat' (first | with_reducible assumption | with_reducible apply keptO_next | with_reducible apply kept_reduce)

theorem kept_execVfmaF32 {cq : List Instr} (t : TileId) (f : Ins) (s : State) (h_s : Kept cq s) : KeptO cq (execVfmaF32 t f s)
    := by
  unfold execVfmaF32
  try dsimp only
  repeat' (first
    | with_reducible assumption | with_reducible apply keptO_next | with_reducible apply kept_issueV
    | with_reducible apply kept_onTile)

theorem kept_execVcmpF32 {cq : List Instr} (t : TileId) (f : Ins) (s : State) (h_s : Kept cq s) : KeptO cq (execVcmpF32 t f s)
    := by
  unfold execVcmpF32
  try dsimp only
  repeat' (first | with_reducible assumption | with_reducible apply keptO_next | with_reducible apply kept_vcmp)

theorem kept_execVcmpI32 {cq : List Instr} (t : TileId) (f : Ins) (s : State) (h_s : Kept cq s) : KeptO cq (execVcmpI32 t f s)
    := by
  unfold execVcmpI32
  try dsimp only
  repeat' (first | with_reducible assumption | with_reducible apply keptO_next | with_reducible apply kept_vcmp)

theorem kept_execVbcast {cq : List Instr} (t : TileId) (f : Ins) (s : State) (h_s : Kept cq s) : KeptO cq (execVbcast t f s) :=
    by
  unfold execVbcast
  try dsimp only
  repeat' (first
    | with_reducible assumption | with_reducible apply keptO_next | with_reducible apply kept_issueV
    | with_reducible apply kept_onTile)

theorem kept_execVext {cq : List Instr} (t : TileId) (f : Ins) (s : State) (h_s : Kept cq s) : KeptO cq (execVext t f s) := by
  unfold execVext
  try dsimp only
  repeat' (first
    | with_reducible assumption | with_reducible apply keptO_next | with_reducible apply kept_issueV
    | with_reducible apply kept_onTile)

theorem kept_execVins {cq : List Instr} (t : TileId) (f : Ins) (s : State) (h_s : Kept cq s) : KeptO cq (execVins t f s) := by
  unfold execVins
  try dsimp only
  repeat' (first
    | with_reducible assumption | with_reducible apply keptO_next | with_reducible apply kept_issueV
    | with_reducible apply kept_onTile)

theorem kept_execVperm {cq : List Instr} (t : TileId) (f : Ins) (s : State) (h_s : Kept cq s) : KeptO cq (execVperm t f s) := by
  unfold execVperm
  try dsimp only
  repeat' (first
    | with_reducible assumption | with_reducible apply keptO_next | with_reducible apply kept_issueV
    | with_reducible apply kept_onTile)

theorem kept_execViota {cq : List Instr} (t : TileId) (f : Ins) (s : State) (h_s : Kept cq s) : KeptO cq (execViota t f s) := by
  unfold execViota
  try dsimp only
  repeat' (first
    | with_reducible assumption | with_reducible apply keptO_next | with_reducible apply kept_issueV
    | with_reducible apply kept_onTile)

theorem kept_execVcvtW {cq : List Instr} (t : TileId) (f : Ins) (s : State) (h_s : Kept cq s) : KeptO cq (execVcvtW t f s) := by
  unfold execVcvtW
  try dsimp only
  repeat' (first
    | with_reducible assumption | with_reducible apply keptO_next | with_reducible apply kept_issueV
    | with_reducible apply kept_faultHere | with_reducible apply kept_onTile | with_reducible apply kept_foldl
    | with_reducible apply kept_foldl2 | with_reducible apply kept_foldl1 | (intro _) | (with_reducible split))

theorem kept_execVcvtN {cq : List Instr} (t : TileId) (f : Ins) (s : State) (h_s : Kept cq s) : KeptO cq (execVcvtN t f s) := by
  unfold execVcvtN
  try dsimp only
  repeat' (first
    | with_reducible assumption | with_reducible apply keptO_next | with_reducible apply kept_issueV
    | with_reducible apply kept_faultHere | with_reducible apply kept_onTile | with_reducible apply kept_foldl
    | with_reducible apply kept_foldl2 | with_reducible apply kept_foldl1 | (intro _) | (with_reducible split))

theorem kept_execVcvtF2i {cq : List Instr} (t : TileId) (f : Ins) (s : State) (h_s : Kept cq s) : KeptO cq (execVcvtF2i t f s)
    := by
  unfold execVcvtF2i
  try dsimp only
  repeat' (first
    | with_reducible assumption | with_reducible apply keptO_next | with_reducible apply kept_issueV
    | with_reducible apply kept_onTile)

theorem kept_execVcvtI2f {cq : List Instr} (t : TileId) (f : Ins) (s : State) (h_s : Kept cq s) : KeptO cq (execVcvtI2f t f s)
    := by
  unfold execVcvtI2f
  try dsimp only
  repeat' (first
    | with_reducible assumption | with_reducible apply keptO_next | with_reducible apply kept_issueV
    | with_reducible apply kept_onTile)

theorem kept_execVqx {cq : List Instr} (t : TileId) (f : Ins) (s : State) (h_s : Kept cq s) : KeptO cq (execVqx t f s) := by
  unfold execVqx
  try dsimp only
  repeat' (first
    | with_reducible assumption | with_reducible apply keptO_next | with_reducible apply kept_issueV
    | with_reducible apply kept_faultHere | with_reducible apply kept_onTile | with_reducible apply kept_foldl
    | with_reducible apply kept_foldl2 | with_reducible apply kept_foldl1 | (intro _) | (with_reducible split))

theorem kept_execVstm {cq : List Instr} (t : TileId) (f : Ins) (s : State) (h_s : Kept cq s) : KeptO cq (execVstm t f s) := by
  unfold execVstm
  try dsimp only
  repeat' (first
    | with_reducible assumption | with_reducible apply keptO_next | with_reducible apply kept_issueV
    | with_reducible apply kept_advance | with_reducible apply kept_faultHere | with_reducible apply kept_forAll
    | with_reducible apply kept_memStore | with_reducible apply kept_charge | with_reducible apply kept_foldl
    | with_reducible apply kept_foldl2 | with_reducible apply kept_foldl1 | (intro _) | (with_reducible split))

theorem kept_execVgather {cq : List Instr} (t : TileId) (f : Ins) (s : State) (h_s : Kept cq s) : KeptO cq (execVgather t f s)
    := by
  unfold execVgather
  try dsimp only
  repeat' (first
    | with_reducible assumption | with_reducible apply keptO_next | with_reducible apply kept_issueV
    | with_reducible apply kept_faultHere | with_reducible apply kept_checkRead | with_reducible apply kept_charge
    | with_reducible apply kept_onTile | with_reducible apply kept_foldl | with_reducible apply kept_foldl2
    | with_reducible apply kept_foldl1 | (intro _) | (with_reducible split))

theorem kept_execVscatter {cq : List Instr} (t : TileId) (f : Ins) (s : State) (h_s : Kept cq s) : KeptO cq (execVscatter t f s)
    := by
  unfold execVscatter
  try dsimp only
  repeat' (first
    | with_reducible assumption | with_reducible apply keptO_next | with_reducible apply kept_issueV
    | with_reducible apply kept_faultHere | with_reducible apply kept_advance | with_reducible apply kept_forAll
    | with_reducible apply kept_memStore | with_reducible apply kept_charge | with_reducible apply kept_foldl
    | with_reducible apply kept_foldl2 | with_reducible apply kept_foldl1 | (intro _) | (with_reducible split))

theorem kept_execVphaseP {cq : List Instr} (t : TileId) (f : Ins) (s : State) (h_s : Kept cq s) : KeptO cq (execVphaseP t f s)
    := by
  unfold execVphaseP
  try dsimp only
  repeat' (first
    | with_reducible assumption | with_reducible apply keptO_next | with_reducible apply kept_issueV
    | with_reducible apply kept_faultHere | with_reducible apply kept_onTile | with_reducible apply kept_foldl
    | with_reducible apply kept_foldl2 | with_reducible apply kept_foldl1 | (intro _) | (with_reducible split))

theorem kept_execVphaseF {cq : List Instr} (t : TileId) (f : Ins) (s : State) (h_s : Kept cq s) : KeptO cq (execVphaseF t f s)
    := by
  unfold execVphaseF
  try dsimp only
  repeat' (first
    | with_reducible assumption | with_reducible apply keptO_next | with_reducible apply keptO_fault
    | with_reducible apply kept_issueV | with_reducible apply kept_faultHere | with_reducible apply kept_onTile
    | with_reducible apply kept_foldl | with_reducible apply kept_foldl2 | with_reducible apply kept_foldl1 | (intro _)
    | (with_reducible split))

theorem kept_execVosm {cq : List Instr} (t : TileId) (f : Ins) (s : State) (h_s : Kept cq s) : KeptO cq (execVosm t f s) := by
  unfold execVosm
  try dsimp only
  repeat' (first
    | with_reducible assumption | with_reducible apply keptO_next | with_reducible apply kept_issueV
    | with_reducible apply kept_onTile)

theorem kept_execVosmj {cq : List Instr} (t : TileId) (f : Ins) (s : State) (h_s : Kept cq s) : KeptO cq (execVosmj t f s) := by
  unfold execVosmj
  try dsimp only
  repeat' (first
    | with_reducible assumption | with_reducible apply keptO_next | with_reducible apply kept_issueV
    | with_reducible apply kept_onTile)

theorem kept_execVattn {cq : List Instr} (t : TileId) (f : Ins) (s : State) (h_s : Kept cq s) : KeptO cq (execVattn t f s) := by
  unfold execVattn
  try dsimp only
  repeat' (first
    | with_reducible assumption | with_reducible apply keptO_next | with_reducible apply kept_issue
    | with_reducible apply kept_faultHere | with_reducible apply kept_ownRead | with_reducible apply kept_advance
    | with_reducible apply kept_onTile | with_reducible apply kept_foldl | with_reducible apply kept_foldl2
    | with_reducible apply kept_foldl1 | (intro _) | (with_reducible split))

theorem kept_execVattnChunkDone {cq : List Instr} (t : TileId) (s : State) (h_s : Kept cq s) : KeptO cq (execVattnChunkDone t s)
    := by
  unfold execVattnChunkDone
  try dsimp only
  repeat' (first
    | with_reducible assumption | with_reducible apply keptO_next | with_reducible apply kept_checkRead
    | with_reducible apply kept_charge | with_reducible apply kept_setTile | with_reducible apply kept_useFree
    | with_reducible apply kept_foldl | with_reducible apply kept_foldl2 | with_reducible apply kept_foldl1 | (intro _)
    | (with_reducible split))

/-! ### Release -/

theorem kept_updRst {cq : List Instr} (f : Rst → Rst) (s : State) (h_s : Kept cq s) : Kept cq (updRst f s) := by
  unfold updRst
  try dsimp only
  repeat' (first
    | with_reducible assumption | with_reducible apply kept_foldl | with_reducible apply kept_foldl2
    | with_reducible apply kept_foldl1 | (intro _) | (with_reducible split)
    | (dsimp only [Kept]; (first | with_reducible assumption | change Kept _ _)))

theorem kept_enterSt {cq : List Instr} (n : Nat) (st : Nat) (s : State) (h_s : Kept cq s) : Kept cq (enterSt n st s) := by
  unfold enterSt
  try dsimp only
  repeat' (first | with_reducible assumption | with_reducible apply kept_updReg | with_reducible apply kept_updLink)

theorem kept_reportCause {cq : List Instr} (s : State) (h_s : Kept cq s) : Kept cq (reportCause s) := by
  unfold reportCause
  try dsimp only
  repeat' (first | with_reducible assumption | with_reducible apply kept_report)

theorem kept_reportReset {cq : List Instr} (s : State) (h_s : Kept cq s) : Kept cq (reportReset s) := by
  unfold reportReset
  try dsimp only
  repeat' (first
    | with_reducible assumption | with_reducible apply kept_onlyIf | with_reducible apply kept_report
    | with_reducible apply kept_updRst | with_reducible apply kept_reportCause)

theorem kept_loadFault {cq : List Instr} (slot : Option Nat) (s : State) (h_s : Kept cq s) : Kept cq (loadFault slot s) := by
  unfold loadFault
  try dsimp only
  repeat' (first
    | with_reducible assumption | with_reducible apply kept_foldl | with_reducible apply kept_foldl2
    | with_reducible apply kept_foldl1 | (intro _) | (with_reducible split)
    | (dsimp only [Kept]; (first | with_reducible assumption | change Kept _ _)))

theorem kept_loadCap {cq : List Instr} (slot : Option Nat) (s : State) (h_s : Kept cq s) : Kept cq (loadCap slot s) := by
  unfold loadCap
  try dsimp only
  repeat' (first
    | with_reducible assumption | with_reducible apply kept_updPack | with_reducible apply kept_regBit
    | with_reducible apply kept_foldl | with_reducible apply kept_foldl2 | with_reducible apply kept_foldl1 | (intro _)
    | (with_reducible split))

theorem kept_loadRecords {cq : List Instr} (s : State) (h_s : Kept cq s) : Kept cq (loadRecords s) := by
  unfold loadRecords
  try dsimp only
  repeat' (first
    | with_reducible assumption | with_reducible apply kept_loadFault | with_reducible apply kept_loadCap
    | with_reducible apply kept_foldl | with_reducible apply kept_foldl2 | with_reducible apply kept_foldl1 | (intro _)
    | (with_reducible split))

theorem kept_bootStart {cq : List Instr} (s : State) (h_s : Kept cq s) : Kept cq (bootStart s) := by
  unfold bootStart
  try dsimp only
  repeat' (first
    | with_reducible assumption | with_reducible apply kept_updRst | with_reducible apply kept_extendMs
    | with_reducible apply kept_foldl | with_reducible apply kept_foldl2 | with_reducible apply kept_foldl1 | (intro _)
    | (with_reducible split))

theorem kept_clearBusyAll {cq : List Instr} (v : BitVec 32) (s : State) (h_s : Kept cq s) : Kept cq (clearBusyAll v s) := by
  unfold clearBusyAll
  try dsimp only
  repeat' (first
    | with_reducible assumption | with_reducible apply kept_forAll | with_reducible apply kept_setReg
    | with_reducible apply kept_foldl | with_reducible apply kept_foldl2 | with_reducible apply kept_foldl1 | (intro _))

theorem kept_release {cq : List Instr} (k : Nat) (s : State) (h_s : Kept cq s) : Kept cq (release k s) := by
  unfold release
  try dsimp only
  repeat' (first
    | with_reducible assumption | with_reducible apply kept_updRst | with_reducible apply kept_loadRecords
    | with_reducible apply kept_reportReset | with_reducible apply kept_bootStart | with_reducible apply kept_clearBusyAll
    | with_reducible apply kept_endHalt | with_reducible apply kept_forAll | with_reducible apply kept_enterSt
    | with_reducible apply kept_foldl | with_reducible apply kept_foldl2 | with_reducible apply kept_foldl1 | (intro _)
    | (with_reducible split))

theorem kept_unrelease {cq : List Instr} (k : Nat) (s : State) (h_s : Kept cq s) : Kept cq (unrelease k s) := by
  unfold unrelease
  try dsimp only
  repeat' (first
    | with_reducible assumption | with_reducible apply kept_updRst | with_reducible apply kept_haltFor
    | with_reducible apply kept_forAll | with_reducible apply kept_enterSt | with_reducible apply kept_setReg
    | with_reducible apply kept_foldl | with_reducible apply kept_foldl2 | with_reducible apply kept_foldl1 | (intro _)
    | (with_reducible split))

theorem kept_clockEnable {cq : List Instr} (k : Nat) (s : State) (h_s : Kept cq s) : Kept cq (clockEnable k s) := by
  unfold clockEnable
  try dsimp only
  repeat' (first
    | with_reducible assumption | with_reducible apply kept_updRst | with_reducible apply kept_foldl
    | with_reducible apply kept_foldl2 | with_reducible apply kept_foldl1 | (intro _) | (with_reducible split))

theorem kept_releaseBlocks {cq : List Instr} (s : State) (h_s : Kept cq s) : Kept cq (releaseBlocks s) := by
  unfold releaseBlocks
  try dsimp only
  repeat' (first
    | with_reducible assumption | with_reducible apply kept_forAll | with_reducible apply kept_clockEnable
    | with_reducible apply kept_unrelease | with_reducible apply kept_release | with_reducible apply kept_foldl
    | with_reducible apply kept_foldl2 | with_reducible apply kept_foldl1 | (intro _) | (with_reducible split))

theorem kept_execMemInitDone {cq : List Instr} (s : State) (h_s : Kept cq s) : KeptO cq (execMemInitDone s) := by
  unfold execMemInitDone
  split
  · exact keptO_next _ (kept_releaseBlocks _ (kept_setReg _ _ _ (kept_clearBusyAll _ _ (kept_charge _ _ _ _ (kept_charge _ _ _ _
      (kept_updAllTiles _ _ ⟨h_s.pend, rfl, rfl, h_s.fl, h_s.ev, h_s.ri, h_s.led, h_s.ids⟩))))))
  · exact keptO_next _ h_s

theorem kept_execClockGood {cq : List Instr} (k : BitVec 3) (s : State) (h_s : Kept cq s) : KeptO cq (execClockGood k s) := by
  unfold execClockGood
  try dsimp only
  repeat' (first
    | with_reducible assumption | with_reducible apply keptO_next | with_reducible apply kept_releaseBlocks
    | with_reducible apply kept_updRst | with_reducible apply kept_foldl | with_reducible apply kept_foldl2
    | with_reducible apply kept_foldl1 | (intro _) | (with_reducible split))

theorem kept_execClockFail {cq : List Instr} (k : BitVec 3) (s : State) (h_s : Kept cq s) : KeptO cq (execClockFail k s) := by
  unfold execClockFail
  try dsimp only
  repeat' (first
    | with_reducible assumption | with_reducible apply keptO_next | with_reducible apply keptO_fault
    | with_reducible apply kept_report | with_reducible apply kept_useFree | with_reducible apply kept_updRst
    | with_reducible apply kept_foldl | with_reducible apply kept_foldl2 | with_reducible apply kept_foldl1 | (intro _)
    | (with_reducible split))

/-! ### Kernel -/

theorem kept_loadImage {cq : List Instr} (k : Kernel) (t : Nat) (s : State) (h_s : Kept cq s) : Kept cq (loadImage k t s).2 :=
    by
  unfold loadImage
  try dsimp only
  repeat' (first | with_reducible assumption | with_reducible apply kept_checkRead | with_reducible apply kept_charge)

theorem kept_loadImages {cq : List Instr} (k : Kernel) (ts : List Nat) (s : State) (h_s : Kept cq s) : Kept cq (loadImages k ts
    s).2 := by
  unfold loadImages
  try dsimp only
  repeat' (first
    | with_reducible assumption | with_reducible apply kept_loadImage | with_reducible apply kept_foldl
    | with_reducible apply kept_foldl2 | with_reducible apply kept_foldl1 | (intro _) | (with_reducible split))

theorem kept_startTile {cq : List Instr} (k : Kernel) (t : Nat) (i : Nat) (n : Nat) (s : State) (h_s : Kept cq s) : Kept cq
    (startTile k t i n s) := by
  unfold startTile
  try dsimp only
  repeat' (first
    | with_reducible assumption | with_reducible apply kept_updTile | with_reducible apply kept_foldl
    | with_reducible apply kept_foldl2 | with_reducible apply kept_foldl1 | (intro _) | (with_reducible split)
    | (dsimp only [Kept]; (first | with_reducible assumption | change Kept _ _)))

theorem kept_execKernelStart {cq : List Instr} (q : BitVec 8) (s : State) (h_s : Kept cq s) : KeptO cq (execKernelStart q s) :=
    by
  unfold execKernelStart
  try dsimp only
  repeat' (first
    | with_reducible assumption | with_reducible apply keptO_next | with_reducible apply kept_updQueue
    | with_reducible apply kept_forAll | with_reducible apply kept_updTile | with_reducible apply kept_loadImages
    | with_reducible apply kept_updPart | with_reducible apply kept_startTile | with_reducible apply kept_foldl
    | with_reducible apply kept_foldl2 | with_reducible apply kept_foldl1 | (intro _) | (with_reducible split)
    | (dsimp only [Kept]; (first | with_reducible assumption | change Kept _ _)))

theorem kept_execEndCompletion {cq : List Instr} (t : TileId) (s : State) (h_s : Kept cq s) : KeptO cq (execEndCompletion t s)
    := by
  unfold execEndCompletion
  try dsimp only
  repeat' (first
    | with_reducible assumption | with_reducible apply keptO_next | with_reducible apply kept_updQueue
    | with_reducible apply kept_updTile | with_reducible apply kept_hostSend | with_reducible apply kept_foldl
    | with_reducible apply kept_foldl2 | with_reducible apply kept_foldl1 | (intro _) | (with_reducible split))

theorem kept_updGroup {cq : List Instr} (k : Nat) (f : Group → Group) (s : State) (h_s : Kept cq s) : Kept cq (updGroup k f s)
    := by
  unfold updGroup
  try dsimp only
  repeat' (first
    | with_reducible assumption | with_reducible apply kept_foldl | with_reducible apply kept_foldl2
    | with_reducible apply kept_foldl1 | (intro _) | (with_reducible split)
    | (dsimp only [Kept]; (first | with_reducible assumption | change Kept _ _)))

theorem kept_tryRelease {cq : List Instr} (k : Nat) (j : BitVec 16) (s : State) (h_s : Kept cq s) : Kept cq (tryRelease k j s)
    := by
  unfold tryRelease
  try dsimp only
  repeat' (first
    | with_reducible assumption | with_reducible apply kept_updGroup | with_reducible apply kept_forAll
    | with_reducible apply kept_cl0To | with_reducible apply kept_foldl | with_reducible apply kept_foldl2
    | with_reducible apply kept_foldl1 | (intro _) | (with_reducible split))

theorem kept_execBarrierArrive {cq : List Instr} (t : TileId) (s : State) (h_s : Kept cq s) : KeptO cq (execBarrierArrive t s)
    := by
  unfold execBarrierArrive
  try dsimp only
  repeat' (first
    | with_reducible assumption | with_reducible apply keptO_next | with_reducible apply kept_updTile
    | with_reducible apply kept_updGroup | with_reducible apply kept_tryRelease | with_reducible apply kept_cl0To
    | with_reducible apply kept_foldl | with_reducible apply kept_foldl2 | with_reducible apply kept_foldl1 | (intro _)
    | (with_reducible split))

theorem kept_arrivalIn {cq : List Instr} (j : BitVec 16) (g : BitVec 4) (src : PkgId) (s : State) (h_s : Kept cq s) : Kept cq
    (arrivalIn j g src s) := by
  unfold arrivalIn
  try dsimp only
  repeat' (first
    | with_reducible assumption | with_reducible apply kept_forAll | with_reducible apply kept_tryRelease
    | with_reducible apply kept_updGroup | with_reducible apply kept_foldl | with_reducible apply kept_foldl2
    | with_reducible apply kept_foldl1 | (intro _) | (with_reducible split))

theorem kept_releaseIn {cq : List Instr} (j : BitVec 16) (g : BitVec 4) (s : State) (h_s : Kept cq s) : Kept cq (releaseIn j g
    s) := by
  unfold releaseIn
  try dsimp only
  repeat' (first
    | with_reducible assumption | with_reducible apply kept_forAll | with_reducible apply kept_updGroup
    | with_reducible apply kept_foldl | with_reducible apply kept_foldl2 | with_reducible apply kept_foldl1 | (intro _)
    | (with_reducible split))

theorem kept_execBarrierArrival {cq : List Instr} (job : BitVec 16) (g : BitVec 4) (src : PkgId) (s : State) (h_s : Kept cq s) :
    KeptO cq (execBarrierArrival job g src s) := by
  unfold execBarrierArrival
  try dsimp only
  repeat' (first | with_reducible assumption | with_reducible apply keptO_next | with_reducible apply kept_arrivalIn)

theorem kept_execBarrierReleaseMessage {cq : List Instr} (job : BitVec 16) (g : BitVec 4) (s : State) (h_s : Kept cq s) : KeptO
    cq (execBarrierReleaseMessage job g s) := by
  unfold execBarrierReleaseMessage
  try dsimp only
  repeat' (first | with_reducible assumption | with_reducible apply keptO_next | with_reducible apply kept_releaseIn)

theorem kept_execBarrierRelease {cq : List Instr} (part : BitVec 4) (g : BitVec 4) (s : State) (h_s : Kept cq s) : KeptO cq
    (execBarrierRelease part g s) := by
  unfold execBarrierRelease
  try dsimp only
  repeat' (first | with_reducible assumption | with_reducible apply keptO_next | with_reducible apply kept_releaseGroup)

theorem kept_mmaFinish {cq : List Instr} (t : Nat) (s : State) (h_s : Kept cq s) : Kept cq (mmaFinish t s) := by
  unfold mmaFinish
  try dsimp only
  repeat' (first
    | with_reducible assumption | with_reducible apply kept_setTile | with_reducible apply kept_useFree
    | with_reducible apply kept_foldl | with_reducible apply kept_foldl2 | with_reducible apply kept_foldl1 | (intro _)
    | (with_reducible split))

theorem kept_tileCycle {cq : List Instr} (t : Nat) (s : State) (h_s : Kept cq s) : Kept cq (tileCycle t s) := by
  unfold tileCycle
  try dsimp only
  repeat' (first
    | with_reducible assumption | with_reducible apply kept_mmaFinish | with_reducible apply kept_setTile
    | with_reducible apply kept_charge | with_reducible apply kept_foldl | with_reducible apply kept_foldl2
    | with_reducible apply kept_foldl1 | (intro _) | (with_reducible split))

theorem kept_execTileCycle {cq : List Instr} (s : State) (h_s : Kept cq s) : KeptO cq (execTileCycle s) := by
  unfold execTileCycle
  try dsimp only
  repeat' (first
    | with_reducible assumption | with_reducible apply keptO_next | with_reducible apply kept_forAll
    | with_reducible apply kept_tileCycle | with_reducible apply kept_foldl | with_reducible apply kept_foldl2
    | with_reducible apply kept_foldl1 | (intro _) | (with_reducible split)
    | (dsimp only [Kept]; (first | with_reducible assumption | change Kept _ _)))

theorem kept_faultClear {cq : List Instr} (t : Nat) (s : State) (h_s : Kept cq s) : Kept cq (faultClear t s) := by
  unfold faultClear
  try dsimp only
  repeat' (first | with_reducible assumption | with_reducible apply kept_updTile)

/-! ### Remote -/

theorem kept_winWrite {cq : List Instr} (o : Origin) (w : Nat) (e : BitVec 64) (s : State) (h_s : Kept cq s) : Kept cq (winWrite
    o w e s) := by
  unfold winWrite
  try dsimp only
  repeat' (first
    | with_reducible assumption | with_reducible apply kept_report | with_reducible apply kept_regBit
    | with_reducible apply kept_logEntry | with_reducible apply kept_onlyIf | with_reducible apply kept_foldl
    | with_reducible apply kept_foldl2 | with_reducible apply kept_foldl1 | (intro _) | (with_reducible split)
    | (dsimp only [Kept]; (first | with_reducible assumption | change Kept _ _)))

theorem kept_forgetOp {cq : List Instr} (id : Nat) (s : State) (h_s : Kept cq s) : Kept cq (forgetOp id s) := by
  refine ⟨h_s.pend, h_s.sc, h_s.va, h_s.fl, h_s.ev, h_s.ri, h_s.led, fun o ho => ?_⟩
  obtain ⟨p, hp, rfl⟩ := List.mem_map.mp ho
  exact h_s.ids p (List.mem_filter.mp hp).1

theorem kept_tileError {cq : List Instr} (t : Nat) (err : BitVec 4) (o : RemoteOp) (s : State) (h_s : Kept cq s) : Kept cq
    (tileError t err o s) := by
  unfold tileError
  try dsimp only
  repeat' (first
    | with_reducible assumption | with_reducible apply kept_updTile | with_reducible apply kept_report
    | with_reducible apply kept_foldl | with_reducible apply kept_foldl2 | with_reducible apply kept_foldl1 | (intro _)
    | (with_reducible split))

theorem kept_tileResult {cq : List Instr} (t : Nat) (o : RemoteOp) (data : List Byte) (s : State) (h_s : Kept cq s) : Kept cq
    (tileResult t o data s) := by
  unfold tileResult
  try dsimp only
  repeat' (first
    | with_reducible assumption | with_reducible apply kept_landStore | with_reducible apply kept_charge
    | with_reducible apply kept_updTile | with_reducible apply kept_foldl | with_reducible apply kept_foldl2
    | with_reducible apply kept_foldl1 | (intro _) | (with_reducible split))

theorem kept_completeOp {cq : List Instr} (o : RemoteOp) (err : BitVec 4) (data : List Byte) (s : State) (h_s : Kept cq s) :
    Kept cq (completeOp o err data s) := by
  unfold completeOp
  try dsimp only
  repeat' (first
    | with_reducible assumption | with_reducible apply kept_forgetOp | with_reducible apply kept_tileResult
    | with_reducible apply kept_tileError | with_reducible apply kept_updTile | with_reducible apply kept_respond
    | with_reducible apply kept_foldl | with_reducible apply kept_foldl2 | with_reducible apply kept_foldl1 | (intro _)
    | (with_reducible split))

/-- An operation with the next number is added to those outstanding. -/
theorem kept_addOp {cq : List Instr} (s : State) (op : RemoteOp) (h : Kept cq s) (e : op.id = s.nextOp) :
    Kept cq { s with rops := s.rops ++ [op], nextOp := s.nextOp + 1 } :=
  ⟨h.pend, h.sc, h.va, h.fl, h.ev, h.ri, h.led, fun o ho => by
    rcases List.mem_append.mp ho with k | k
    · exact Nat.lt_succ_of_lt (h.ids o k)
    · rw [List.mem_singleton] at k
      subst k
      exact e ▸ Nat.lt_succ_self _⟩

theorem kept_departOp {cq : List Instr} (id : Nat) (s : State) (h_s : Kept cq s) : Kept cq (departOp id s) := by
  unfold departOp
  split
  · exact h_s
  · next o _ =>
    dsimp only
    generalize { o.pkt with origin := originOf o.src s } = p
    have h1 := kept_mapOps s (fun x => decide (x.id = id)) (fun x => { x with departed := true, since := s.tick, pkt := p }) (fun _ => rfl) h_s
    have h2 := kept_netSend (msgClass (.remote p)) none (acctOfSrc o.src s) o.dest (.remote p) _ h1
    split
    · exact h2
    · exact kept_completeOp _ _ _ _ h2

theorem kept_execNotifyDepart {cq : List Instr} (id : Nat) (s : State) (h_s : Kept cq s) : KeptO cq (execNotifyDepart id s) :=
    by
  unfold execNotifyDepart
  try dsimp only
  repeat' (first
    | with_reducible assumption | with_reducible apply keptO_next | with_reducible apply kept_departOp
    | with_reducible apply kept_foldl | with_reducible apply kept_foldl2 | with_reducible apply kept_foldl1 | (intro _)
    | (with_reducible split))

theorem kept_issueRm {cq : List Instr} (t : TileId) (op : Nat) (f : Ins) (enc : Option Nat) (run : Nat → BitVec 64 → State →
    State) (s : State) (h_run : ∀ x0 x1 x2, Kept cq x2 → Kept cq (run x0 x1 x2)) (h_s : Kept cq s) : Kept cq (issueRm t op f enc
    run s) := by
  unfold issueRm
  try dsimp only
  repeat' (first
    | with_reducible assumption | with_reducible apply kept_issue | with_reducible apply h_run
    | with_reducible apply kept_foldl | with_reducible apply kept_foldl2 | with_reducible apply kept_foldl1 | (intro _)
    | (with_reducible split))

theorem kept_rmRun {cq : List Instr} (k : RKind) (f : Ins) (t : Nat) (w : BitVec 64) (s : State) (h_s : Kept cq s) :
    Kept cq (rmRun k f t w s) := by
  unfold rmRun
  dsimp only
  repeat' (first
    | with_reducible assumption | with_reducible apply kept_faultHere | with_reducible apply kept_onTile
    | with_reducible apply kept_advance | with_reducible apply kept_updTile | with_reducible apply kept_departOp
    | with_reducible apply kept_checkRead | with_reducible apply kept_charge | (with_reducible refine kept_addOp _ _ ?_ rfl)
    | (with_reducible split) | dsimp only)

theorem kept_remoteIns {cq : List Instr} (k : RKind) (t : TileId) (f : Ins) (s : State) (h_s : Kept cq s) : KeptO cq (remoteIns
    k t f s) := by
  unfold remoteIns
  try dsimp only
  repeat' (first
    | with_reducible assumption | with_reducible apply keptO_next | with_reducible apply kept_issueRm
    | with_reducible apply kept_rmRun)

theorem kept_execPut {cq : List Instr} (t : TileId) (f : Ins) (s : State) (h_s : Kept cq s) : KeptO cq (execPut t f s) := by
  unfold execPut
  try dsimp only
  repeat' (first | with_reducible assumption | with_reducible apply keptO_next | with_reducible apply kept_remoteIns)

theorem kept_execGet {cq : List Instr} (t : TileId) (f : Ins) (s : State) (h_s : Kept cq s) : KeptO cq (execGet t f s) := by
  unfold execGet
  try dsimp only
  repeat' (first | with_reducible assumption | with_reducible apply keptO_next | with_reducible apply kept_remoteIns)

theorem kept_execPuts {cq : List Instr} (t : TileId) (f : Ins) (s : State) (h_s : Kept cq s) : KeptO cq (execPuts t f s) := by
  unfold execPuts
  try dsimp only
  repeat' (first | with_reducible assumption | with_reducible apply keptO_next | with_reducible apply kept_remoteIns)

theorem kept_execAadd {cq : List Instr} (t : TileId) (f : Ins) (s : State) (h_s : Kept cq s) : KeptO cq (execAadd t f s) := by
  unfold execAadd
  try dsimp only
  repeat' (first | with_reducible assumption | with_reducible apply keptO_next | with_reducible apply kept_remoteIns)

theorem kept_execCas {cq : List Instr} (t : TileId) (f : Ins) (s : State) (h_s : Kept cq s) : KeptO cq (execCas t f s) := by
  unfold execCas
  try dsimp only
  repeat' (first | with_reducible assumption | with_reducible apply keptO_next | with_reducible apply kept_remoteIns)

theorem kept_execSwap {cq : List Instr} (t : TileId) (f : Ins) (s : State) (h_s : Kept cq s) : KeptO cq (execSwap t f s) := by
  unfold execSwap
  try dsimp only
  repeat' (first | with_reducible assumption | with_reducible apply keptO_next | with_reducible apply kept_remoteIns)

theorem kept_execXacc {cq : List Instr} (t : TileId) (f : Ins) (s : State) (h_s : Kept cq s) : KeptO cq (execXacc t f s) := by
  unfold execXacc
  try dsimp only
  repeat' (first | with_reducible assumption | with_reducible apply keptO_next | with_reducible apply kept_remoteIns)

theorem kept_execNotify {cq : List Instr} (t : TileId) (f : Ins) (s : State) (h_s : Kept cq s) : KeptO cq (execNotify t f s) :=
    by
  unfold execNotify
  try dsimp only
  repeat' (first | with_reducible assumption | with_reducible apply keptO_next | with_reducible apply kept_remoteIns)

theorem kept_fenceRun {cq : List Instr} (f : Ins) (t : Nat) (w : BitVec 64) (s : State) (h_s : Kept cq s) : Kept cq
    (fenceRun f t w s) := by
  unfold fenceRun
  dsimp only
  split
  · exact kept_faultHere _ _ _ _ _ h_s
  · split
    · exact kept_onTile _ _ _ _ h_s
    · exact kept_advance _ _ _
        ⟨h_s.pend, h_s.sc, h_s.va, h_s.fl, h_s.ev, h_s.ri, h_s.led, fun o ho => Nat.lt_succ_of_lt (h_s.ids o ho)⟩

theorem kept_execFence {cq : List Instr} (t : TileId) (f : Ins) (s : State) (h_s : Kept cq s) : KeptO cq (execFence t f s) := by
  unfold execFence
  try dsimp only
  repeat' (first
    | with_reducible assumption | with_reducible apply keptO_next | with_reducible apply kept_issueRm
    | with_reducible apply kept_fenceRun)

theorem kept_execFenceSatisfied {cq : List Instr} (id : Nat) (s : State) (h_s : Kept cq s) : KeptO cq (execFenceSatisfied id s)
    := by
  unfold execFenceSatisfied
  try dsimp only
  repeat' (first
    | with_reducible assumption | with_reducible apply keptO_next | with_reducible apply kept_updTile
    | with_reducible apply kept_foldl | with_reducible apply kept_foldl2 | with_reducible apply kept_foldl1 | (intro _)
    | (with_reducible split) | (dsimp only [Kept]; (first | with_reducible assumption | change Kept _ _)))

theorem kept_execRstat {cq : List Instr} (t : TileId) (f : Ins) (s : State) (h_s : Kept cq s) : KeptO cq (execRstat t f s) := by
  unfold execRstat
  try dsimp only
  repeat' (first
    | with_reducible assumption | with_reducible apply keptO_next | with_reducible apply kept_issueRm
    | with_reducible apply kept_onTile)

theorem kept_applyOp {cq : List Instr} (p : RemotePkt) (e : BitVec 64) (s : State) (h_s : Kept cq s) : Kept cq (applyOp p e
    s).2.2 := by
  unfold applyOp
  try dsimp only
  repeat' (first
    | with_reducible assumption | with_reducible apply kept_updTile | with_reducible apply kept_charge
    | with_reducible apply kept_ueHit | with_reducible apply kept_landStore | with_reducible apply kept_checkRead
    | with_reducible apply kept_foldl | with_reducible apply kept_foldl2 | with_reducible apply kept_foldl1 | (intro _)
    | (with_reducible split))

theorem kept_refuseOp {cq : List Instr} (p : RemotePkt) (err : BitVec 4) (s : State) (h_s : Kept cq s) : Kept cq (refuseOp p err
    s) := by
  unfold refuseOp
  try dsimp only
  repeat' (first
    | with_reducible assumption | with_reducible apply kept_setReg64 | with_reducible apply kept_setReg
    | with_reducible apply kept_countReg)

theorem kept_answerOp {cq : List Instr} (p : RemotePkt) (q : BitVec 4 × List Byte × State) (h_q : Kept cq q.2.2) : Kept cq
    (answerOp p q) := by
  unfold answerOp
  try dsimp only
  repeat' (first
    | with_reducible assumption | with_reducible apply kept_refuseOp | with_reducible apply kept_netSend
    | with_reducible apply kept_foldl | with_reducible apply kept_foldl2 | with_reducible apply kept_foldl1 | (intro _)
    | (with_reducible split))

theorem kept_remoteIn {cq : List Instr} (p : RemotePkt) (s : State) (h_s : Kept cq s) : Kept cq (remoteIn p s) := by
  unfold remoteIn
  try dsimp only
  repeat' (first
    | with_reducible assumption | with_reducible apply kept_answerOp | with_reducible apply kept_applyOp
    | with_reducible apply kept_foldl | with_reducible apply kept_foldl2 | with_reducible apply kept_foldl1 | (intro _)
    | (with_reducible split) | (dsimp only [Kept]; (first | with_reducible assumption | change Kept _ _)))

theorem kept_applyPassed {cq : List Instr} (s : State) (h_s : Kept cq s) : Kept cq (applyPassed s) := by
  unfold applyPassed
  try dsimp only
  repeat' (first
    | with_reducible assumption | with_reducible apply kept_forAll | with_reducible apply kept_answerOp
    | with_reducible apply kept_applyOp | with_reducible apply kept_foldl | with_reducible apply kept_foldl2
    | with_reducible apply kept_foldl1 | (intro _) | (with_reducible split)
    | (dsimp only [Kept]; (first | with_reducible assumption | change Kept _ _)))

theorem kept_execRemoteOpArrive {cq : List Instr} (op : RemotePkt) (s : State) (h_s : Kept cq s) : KeptO cq (execRemoteOpArrive
    op s) := by
  unfold execRemoteOpArrive
  try dsimp only
  repeat' (first | with_reducible assumption | with_reducible apply keptO_next | with_reducible apply kept_remoteIn)

theorem kept_responseIn {cq : List Instr} (id : Nat) (err : BitVec 4) (data : List Byte) (s : State) (h_s : Kept cq s) : Kept cq
    (responseIn id err data s) := by
  unfold responseIn
  try dsimp only
  repeat' (first
    | with_reducible assumption | with_reducible apply kept_completeOp | with_reducible apply kept_foldl
    | with_reducible apply kept_foldl2 | with_reducible apply kept_foldl1 | (intro _) | (with_reducible split))

theorem kept_execRemoteOpComplete {cq : List Instr} (id : Nat) (err : BitVec 4) (data : List Byte) (s : State) (h_s : Kept cq s)
    : KeptO cq (execRemoteOpComplete id err data s) := by
  unfold execRemoteOpComplete
  try dsimp only
  repeat' (first | with_reducible assumption | with_reducible apply keptO_next | with_reducible apply kept_responseIn)

theorem kept_timeoutOp {cq : List Instr} (o : RemoteOp) (s : State) (h_s : Kept cq s) : Kept cq (timeoutOp o s) := by
  unfold timeoutOp
  try dsimp only
  repeat' (first
    | with_reducible assumption | with_reducible apply kept_jobFault | with_reducible apply kept_completeOp
    | with_reducible apply kept_forgetOp | with_reducible apply kept_foldl | with_reducible apply kept_foldl2
    | with_reducible apply kept_foldl1 | (intro _) | (with_reducible split))

theorem kept_execRemoteOpTimeout {cq : List Instr} (id : Nat) (s : State) (h_s : Kept cq s) : KeptO cq (execRemoteOpTimeout id
    s) := by
  unfold execRemoteOpTimeout
  try dsimp only
  repeat' (first
    | with_reducible assumption | with_reducible apply keptO_next | with_reducible apply kept_timeoutOp
    | with_reducible apply kept_foldl | with_reducible apply kept_foldl2 | with_reducible apply kept_foldl1 | (intro _)
    | (with_reducible split))

theorem kept_sessionOp {cq : List Instr} (k : RKind) (n : Nat) (tag : BitVec 16) (ga : Nat) (len : Nat) (data : List Byte)
    (s : State) (h_s : Kept cq s) : Kept cq (sessionOp k n tag ga len data s) := by
  exact kept_departOp _ _ (kept_addOp _ _ h_s rfl)

/-! ### Beat -/

theorem kept_railOutputs {cq : List Instr} (s : State) (h_s : Kept cq s) : Kept cq (railOutputs s) := by
  unfold railOutputs
  try dsimp only
  repeat' (first
    | with_reducible assumption | with_reducible apply kept_forAll | with_reducible apply kept_updRail
    | with_reducible apply kept_foldl | with_reducible apply kept_foldl2 | with_reducible apply kept_foldl1 | (intro _))

theorem kept_startRun {cq : List Instr} (s : State) (h_s : Kept cq s) : Kept cq (startRun s) := by
  unfold startRun
  try dsimp only
  repeat' (first
    | with_reducible assumption | with_reducible apply kept_romBegin | with_reducible apply kept_foldl
    | with_reducible apply kept_foldl2 | with_reducible apply kept_foldl1 | (intro _) | (with_reducible split)
    | (dsimp only [Kept]; (first | with_reducible assumption | change Kept _ _)))

theorem kept_releaseHeld {cq : List Instr} (n : Nat) (s : State) (h_s : Kept cq s) : Kept cq (releaseHeld n s) := by
  unfold releaseHeld
  try dsimp only
  repeat' (first
    | with_reducible assumption | with_reducible apply kept_forAll | with_reducible apply kept_releaseGroup
    | with_reducible apply kept_foldl | with_reducible apply kept_foldl2 | with_reducible apply kept_foldl1 | (intro _))

theorem kept_sendLevel {cq : List Instr} (s : State) (h_s : Kept cq s) : Kept cq (sendLevel s) := by
  unfold sendLevel
  try dsimp only
  repeat' (first
    | with_reducible assumption | with_reducible apply kept_cl0To | with_reducible apply kept_foldl
    | with_reducible apply kept_foldl2 | with_reducible apply kept_foldl1 | (intro _) | (with_reducible split)
    | (dsimp only [Kept]; (first | with_reducible assumption | change Kept _ _)))

theorem kept_addPartner {cq : List Instr} (s : State) (h_s : Kept cq s) : Kept cq (addPartner s) := by
  unfold addPartner
  try dsimp only
  repeat' (first
    | with_reducible assumption | with_reducible apply kept_foldl | with_reducible apply kept_foldl2
    | with_reducible apply kept_foldl1 | (intro _) | (with_reducible split)
    | (dsimp only [Kept]; (first | with_reducible assumption | change Kept _ _)))

theorem kept_outputsIn {cq : List Instr} (s : State) (h_s : Kept cq s) : Kept cq (outputsIn s) := by
  unfold outputsIn
  try dsimp only
  repeat' (first
    | with_reducible assumption | with_reducible apply kept_foldl | with_reducible apply kept_foldl2
    | with_reducible apply kept_foldl1 | (intro _) | (with_reducible split)
    | (dsimp only [Kept]; (first | with_reducible assumption | change Kept _ _)))

theorem kept_slot1Supply {cq : List Instr} (inp : BeatInputs) (s : State) (h_s : Kept cq s) : Kept cq (slot1Supply inp s) := by
  unfold slot1Supply
  try dsimp only
  repeat' (first | with_reducible assumption | with_reducible apply kept_onlyIf | with_reducible apply kept_vaultsLost)

theorem kept_beatStart {cq : List Instr} (inp : BeatInputs) (s : State) (h_s : Kept cq s) : Kept cq (beatStart inp s) := by
  unfold beatStart
  try dsimp only
  repeat' (first
    | with_reducible assumption | with_reducible apply kept_romUpTo | with_reducible apply kept_missRun
    | with_reducible apply kept_packSend | with_reducible apply kept_outputsIn | with_reducible apply kept_loopBoundary
    | with_reducible apply kept_bellsLatch | with_reducible apply kept_updRst | with_reducible apply kept_govApply
    | with_reducible apply kept_releaseHeld | with_reducible apply kept_addPartner | with_reducible apply kept_govLatch
    | with_reducible apply kept_slot1Supply | with_reducible apply kept_forAll | with_reducible apply kept_railBeat
    | with_reducible apply kept_railOutputs | with_reducible apply kept_packLatchBeat | with_reducible apply kept_skSample
    | with_reducible apply kept_startRun | with_reducible apply kept_demBeat | with_reducible apply kept_releaseBlocks
    | with_reducible apply kept_attrBeat | with_reducible apply kept_updAllTiles | with_reducible apply kept_ethPump
    | with_reducible apply kept_refillLink | with_reducible apply kept_applyPassed | with_reducible apply kept_onlyIf
    | with_reducible apply kept_vmarkEdge | with_reducible apply kept_sendLevel | with_reducible apply kept_sendReport
    | with_reducible apply kept_foldl | with_reducible apply kept_foldl2 | with_reducible apply kept_foldl1 | (intro _)
    | (with_reducible split) | (dsimp only [Kept]; (first | with_reducible assumption | change Kept _ _)))

theorem kept_execBeatStart {cq : List Instr} (inp : BeatInputs) (s : State) (h_s : Kept cq s) : KeptO cq (execBeatStart inp s)
    := by
  unfold execBeatStart
  try dsimp only
  repeat' (first | with_reducible assumption | with_reducible apply keptO_next | with_reducible apply kept_beatStart)

theorem kept_execStroke {cq : List Instr} (k : BitVec 3) (inp : StrokeInputs) (s : State) (h_s : Kept cq s) : KeptO cq
    (execStroke k inp s) := by
  unfold execStroke
  try dsimp only
  repeat' (first
    | with_reducible assumption | with_reducible apply keptO_next | with_reducible apply kept_romUpTo
    | with_reducible apply kept_skSample | with_reducible apply kept_strokeRails | with_reducible apply kept_foldl
    | with_reducible apply kept_foldl2 | with_reducible apply kept_foldl1 | (intro _) | (with_reducible split)
    | (dsimp only [Kept]; (first | with_reducible assumption | change Kept _ _)))

end Sys2Proof.Machine
end

