-- ==== Sys2Proof/Laws/KeepsPackage.lean ====
section
/-! SUPPORT. One lemma for each operation of the model, by module: it keeps the command queue, the canonical form of the
memories, and the bounds of the event stream and of the recorder's intake, the numbers of the remote operations, and the energy
ledger. Here: links, synchronisation, resets, registers, the host transport, boot and the network. -/

namespace Sys2Proof.Machine

/-! ### Links -/

theorem kept_linkReport {cq : List Instr} (type : Byte) (n : Nat) (more : List Byte) (s : State) (h_s : Kept cq s) : Kept cq
    (linkReport type n more s) := by
  unfold linkReport
  try dsimp only
  repeat' (first | with_reducible assumption | with_reducible apply kept_report)

theorem kept_cableWrite {cq : List Instr} (n : Nat) (page : Nat) (a : Nat) (s : State) (h_s : Kept cq s) : Kept cq (cableWrite n
    page a s) := by
  unfold cableWrite
  try dsimp only
  repeat' (first | with_reducible assumption | with_reducible apply kept_useFree | with_reducible apply kept_emit)

theorem kept_cableRead {cq : List Instr} (n : Nat) (page : Nat) (lo : Nat) (hi : Nat) (s : State) (h_s : Kept cq s) : Kept cq
    (cableRead n page lo hi s) := by
  unfold cableRead
  try dsimp only
  repeat' (first | with_reducible assumption | with_reducible apply kept_emit)

theorem kept_writePresets {cq : List Instr} (n : Nat) (s : State) (h_s : Kept cq s) : Kept cq (writePresets n s) := by
  unfold writePresets
  try dsimp only
  repeat' (first
    | with_reducible assumption | with_reducible apply kept_forAll | with_reducible apply kept_cableWrite
    | with_reducible apply kept_foldl | with_reducible apply kept_foldl2 | with_reducible apply kept_foldl1 | (intro _))

theorem kept_readLock {cq : List Instr} (n : Nat) (s : State) (h_s : Kept cq s) : Kept cq (readLock n s) := by
  unfold readLock
  try dsimp only
  repeat' (first | with_reducible assumption | with_reducible apply kept_cableRead)

theorem kept_trainFail {cq : List Instr} (n : Nat) (code : Nat) (s : State) (h_s : Kept cq s) : Kept cq (trainFail n code s) :=
    by
  unfold trainFail
  try dsimp only
  repeat' (first | with_reducible assumption | with_reducible apply kept_updReg)

theorem kept_sendLinkState {cq : List Instr} (s : State) (h_s : Kept cq s) : Kept cq (sendLinkState s) := by
  unfold sendLinkState
  try dsimp only
  repeat' (first
    | with_reducible assumption | with_reducible apply kept_forAll | with_reducible apply kept_cl0To
    | with_reducible apply kept_foldl | with_reducible apply kept_foldl2 | with_reducible apply kept_foldl1 | (intro _)
    | (with_reducible split))

theorem kept_linkStateIn {cq : List Instr} (src : Nat) (up : BitVec 64) (s : State) (h_s : Kept cq s) : Kept cq (linkStateIn src
    up s) := by
  unfold linkStateIn
  try dsimp only
  repeat' (first
    | with_reducible assumption | with_reducible apply kept_foldl | with_reducible apply kept_foldl2
    | with_reducible apply kept_foldl1 | (intro _) | (with_reducible split)
    | (dsimp only [Kept]; (first | with_reducible assumption | change Kept _ _)))

theorem kept_setLinkSt {cq : List Instr} (n : Nat) (st : Nat) (s : State) (h_s : Kept cq s) : Kept cq (setLinkSt n st s) := by
  unfold setLinkSt
  try dsimp only
  repeat' (first
    | with_reducible assumption | with_reducible apply kept_enterSt | with_reducible apply kept_sendLinkState
    | with_reducible apply kept_foldl | with_reducible apply kept_foldl2 | with_reducible apply kept_foldl1 | (intro _)
    | (with_reducible split))

theorem kept_resend {cq : List Instr} (n : Nat) (s : State) (h_s : Kept cq s) : Kept cq (resend n s) := by
  unfold resend
  try dsimp only
  repeat' (first
    | with_reducible assumption | with_reducible apply kept_forAll | with_reducible apply kept_emit
    | with_reducible apply kept_foldl | with_reducible apply kept_foldl2 | with_reducible apply kept_foldl1 | (intro _)
    | (with_reducible split))

theorem kept_linkUp {cq : List Instr} (n : Nat) (lanes : BitVec 2) (s : State) (h_s : Kept cq s) : Kept cq (linkUp n lanes s) :=
    by
  unfold linkUp
  try dsimp only
  repeat' (first
    | with_reducible assumption | with_reducible apply kept_updLink | with_reducible apply kept_transmit
    | with_reducible apply kept_resend | with_reducible apply kept_setLinkSt)

theorem kept_linkFail {cq : List Instr} (n : Nat) (code : Nat) (s : State) (h_s : Kept cq s) : Kept cq (linkFail n code s) := by
  unfold linkFail
  try dsimp only
  repeat' (first
    | with_reducible assumption | with_reducible apply kept_updLink | with_reducible apply kept_trainFail
    | with_reducible apply kept_setLinkSt)

theorem kept_linkRecover {cq : List Instr} (n : Nat) (lanes : BitVec 2) (s : State) (h_s : Kept cq s) : Kept cq (linkRecover n
    lanes s) := by
  unfold linkRecover
  try dsimp only
  repeat' (first
    | with_reducible assumption | with_reducible apply kept_setLinkSt | with_reducible apply kept_readLock
    | with_reducible apply kept_cableWrite | with_reducible apply kept_updLink)

theorem kept_execCablePresent {cq : List Instr} (n : LinkId) (s : State) (h_s : Kept cq s) : KeptO cq (execCablePresent n s) :=
    by
  unfold execCablePresent
  try dsimp only
  repeat' (first
    | with_reducible assumption | with_reducible apply keptO_next | with_reducible apply kept_updLink
    | with_reducible apply kept_cableWrite | with_reducible apply kept_cableRead | with_reducible apply kept_setLinkSt
    | with_reducible apply kept_foldl | with_reducible apply kept_foldl2 | with_reducible apply kept_foldl1 | (intro _)
    | (with_reducible split))

theorem kept_execCablePresenceLost {cq : List Instr} (n : LinkId) (s : State) (h_s : Kept cq s) : KeptO cq
    (execCablePresenceLost n s) := by
  unfold execCablePresenceLost
  try dsimp only
  repeat' (first
    | with_reducible assumption | with_reducible apply keptO_next | with_reducible apply kept_updLink
    | with_reducible apply kept_setLinkSt | with_reducible apply kept_trainFail | with_reducible apply kept_foldl
    | with_reducible apply kept_foldl2 | with_reducible apply kept_foldl1 | (intro _) | (with_reducible split))

theorem kept_execCableReady {cq : List Instr} (n : LinkId) (x : CableShows) (ident : List Byte) (s : State) (h_s : Kept cq s) :
    KeptO cq (execCableReady n x ident s) := by
  unfold execCableReady
  try dsimp only
  repeat' (first
    | with_reducible assumption | with_reducible apply keptO_next | with_reducible apply kept_linkReport
    | with_reducible apply kept_readLock | with_reducible apply kept_setLinkSt | with_reducible apply kept_trainFail
    | with_reducible apply kept_foldl | with_reducible apply kept_foldl2 | with_reducible apply kept_foldl1 | (intro _)
    | (with_reducible split))

theorem kept_execTrainDone {cq : List Instr} (n : LinkId) (x : Trained) (s : State) (h_s : Kept cq s) : KeptO cq (execTrainDone
    n x s) := by
  unfold execTrainDone
  try dsimp only
  repeat' (first
    | with_reducible assumption | with_reducible apply keptO_next | with_reducible apply kept_setLinkSt
    | with_reducible apply kept_updLink | with_reducible apply kept_writePresets | with_reducible apply kept_foldl
    | with_reducible apply kept_foldl2 | with_reducible apply kept_foldl1 | (intro _) | (with_reducible split))

theorem kept_execFecLock {cq : List Instr} (n : LinkId) (s : State) (h_s : Kept cq s) : KeptO cq (execFecLock n s) := by
  unfold execFecLock
  try dsimp only
  repeat' (first
    | with_reducible assumption | with_reducible apply keptO_next | with_reducible apply kept_emit
    | with_reducible apply kept_setLinkSt | with_reducible apply kept_foldl | with_reducible apply kept_foldl2
    | with_reducible apply kept_foldl1 | (intro _) | (with_reducible split))

theorem kept_execIdent {cq : List Instr} (n : LinkId) (pkg : PkgId) (far : LinkId) (_role : BitVec 2) (s : State) (h_s : Kept cq
    s) : KeptO cq (execIdent n pkg far _role s) := by
  unfold execIdent
  try dsimp only
  repeat' (first
    | with_reducible assumption | with_reducible apply keptO_next | with_reducible apply kept_setReg
    | with_reducible apply kept_linkUp | with_reducible apply kept_linkReport | with_reducible apply kept_setLinkSt
    | with_reducible apply kept_trainFail | with_reducible apply kept_foldl | with_reducible apply kept_foldl2
    | with_reducible apply kept_foldl1 | (intro _) | (with_reducible split))

theorem kept_execLinkStateTimeout {cq : List Instr} (n : LinkId) (s : State) (h_s : Kept cq s) : KeptO cq (execLinkStateTimeout
    n s) := by
  unfold execLinkStateTimeout
  try dsimp only
  repeat' (first
    | with_reducible assumption | with_reducible apply keptO_next | with_reducible apply kept_linkFail
    | with_reducible apply kept_foldl | with_reducible apply kept_foldl2 | with_reducible apply kept_foldl1 | (intro _)
    | (with_reducible split))

theorem kept_execLaneLockLost {cq : List Instr} (n : LinkId) (lane : BitVec 1) (s : State) (h_s : Kept cq s) : KeptO cq
    (execLaneLockLost n lane s) := by
  unfold execLaneLockLost
  try dsimp only
  repeat' (first
    | with_reducible assumption | with_reducible apply keptO_next | with_reducible apply kept_linkRecover
    | with_reducible apply kept_foldl | with_reducible apply kept_foldl2 | with_reducible apply kept_foldl1 | (intro _)
    | (with_reducible split))

theorem kept_execRecoverDone {cq : List Instr} (n : LinkId) (lanes : BitVec 2) (s : State) (h_s : Kept cq s) : KeptO cq
    (execRecoverDone n lanes s) := by
  unfold execRecoverDone
  try dsimp only
  repeat' (first
    | with_reducible assumption | with_reducible apply keptO_next | with_reducible apply kept_linkUp
    | with_reducible apply kept_writePresets | with_reducible apply kept_foldl | with_reducible apply kept_foldl2
    | with_reducible apply kept_foldl1 | (intro _) | (with_reducible split))

theorem kept_execLaneDegrade {cq : List Instr} (n : LinkId) (lane : BitVec 1) (s : State) (h_s : Kept cq s) : KeptO cq
    (execLaneDegrade n lane s) := by
  unfold execLaneDegrade
  try dsimp only
  repeat' (first
    | with_reducible assumption | with_reducible apply keptO_next | with_reducible apply kept_linkRecover
    | with_reducible apply kept_foldl | with_reducible apply kept_foldl2 | with_reducible apply kept_foldl1 | (intro _)
    | (with_reducible split))

theorem kept_execDownRetrain {cq : List Instr} (n : LinkId) (s : State) (h_s : Kept cq s) : KeptO cq (execDownRetrain n s) := by
  unfold execDownRetrain
  try dsimp only
  repeat' (first
    | with_reducible assumption | with_reducible apply keptO_next | with_reducible apply kept_setLinkSt
    | with_reducible apply kept_foldl | with_reducible apply kept_foldl2 | with_reducible apply kept_foldl1 | (intro _)
    | (with_reducible split))

theorem kept_noRouteMsg {cq : List Instr} (p : LinkFrame) (m : Option NetMsg) (s : State) (h_s : Kept cq s) : Kept cq
    (noRouteMsg p m s) := by
  unfold noRouteMsg
  try dsimp only
  repeat' (first
    | with_reducible assumption | with_reducible apply kept_report | with_reducible apply kept_netSend
    | with_reducible apply kept_foldl | with_reducible apply kept_foldl2 | with_reducible apply kept_foldl1 | (intro _)
    | (with_reducible split))

theorem kept_noRoute {cq : List Instr} (p : LinkFrame) (s : State) (h_s : Kept cq s) : Kept cq (noRoute p s) := by
  unfold noRoute
  try dsimp only
  repeat' (first | with_reducible assumption | with_reducible apply kept_noRouteMsg)

theorem kept_forward {cq : List Instr} (n : Nat) (p : LinkFrame) (s : State) (h_s : Kept cq s) : Kept cq (forward n p s) := by
  unfold forward
  try dsimp only
  repeat' (first
    | with_reducible assumption | with_reducible apply kept_linkSend | with_reducible apply kept_noRoute
    | with_reducible apply kept_foldl | with_reducible apply kept_foldl2 | with_reducible apply kept_foldl1 | (intro _)
    | (with_reducible split))

theorem kept_reroute {cq : List Instr} (n : Nat) (src : Option Cl0Source) (p : LinkFrame) (s : State) (h_s : Kept cq s) : Kept
    cq (reroute n src p s) := by
  unfold reroute
  try dsimp only
  repeat' (first
    | with_reducible assumption | with_reducible apply kept_forward | with_reducible apply kept_netSend
    | with_reducible apply kept_responseIn | with_reducible apply kept_foldl | with_reducible apply kept_foldl2
    | with_reducible apply kept_foldl1 | (intro _) | (with_reducible split))

theorem kept_settleOwn {cq : List Instr} (p : LinkFrame) (s : State) (h_s : Kept cq s) : Kept cq (settleOwn p s) := by
  unfold settleOwn
  try dsimp only
  repeat' (first
    | with_reducible assumption | with_reducible apply kept_timeoutOp | with_reducible apply kept_foldl
    | with_reducible apply kept_foldl2 | with_reducible apply kept_foldl1 | (intro _) | (with_reducible split))

theorem kept_declareDown {cq : List Instr} (n : Nat) (s : State) (h_s : Kept cq s) : Kept cq (declareDown n s) := by
  unfold declareDown
  try dsimp only
  repeat' (first
    | with_reducible assumption | with_reducible apply kept_updLink | with_reducible apply kept_setReg64
    | with_reducible apply kept_countReg | with_reducible apply kept_sendLinkState | with_reducible apply kept_linkReport
    | with_reducible apply kept_forAll | with_reducible apply kept_jobFault | with_reducible apply kept_settleOwn
    | with_reducible apply kept_reroute | with_reducible apply kept_foldl | with_reducible apply kept_foldl2
    | with_reducible apply kept_foldl1 | (intro _) | (with_reducible split))

theorem kept_execLinkDown {cq : List Instr} (n : LinkId) (s : State) (h_s : Kept cq s) : KeptO cq (execLinkDown n s) := by
  unfold execLinkDown
  try dsimp only
  repeat' (first
    | with_reducible assumption | with_reducible apply keptO_next | with_reducible apply kept_declareDown
    | with_reducible apply kept_foldl | with_reducible apply kept_foldl2 | with_reducible apply kept_foldl1 | (intro _)
    | (with_reducible split))

theorem kept_linkAcked {cq : List Instr} (n : Nat) (ack : BitVec 16) (s : State) (h_s : Kept cq s) : Kept cq (linkAcked n ack s)
    := by
  unfold linkAcked
  try dsimp only
  repeat' (first | with_reducible assumption | with_reducible apply kept_updLink)

theorem kept_linkRetry {cq : List Instr} (n : Nat) (from_ : BitVec 16) (s : State) (h_s : Kept cq s) : Kept cq (linkRetry n
    from_ s) := by
  unfold linkRetry
  try dsimp only
  repeat' (first
    | with_reducible assumption | with_reducible apply kept_linkAcked | with_reducible apply kept_linkRecover
    | with_reducible apply kept_updLink | with_reducible apply kept_countReg | with_reducible apply kept_transmit
    | with_reducible apply kept_resend | with_reducible apply kept_foldl | with_reducible apply kept_foldl2
    | with_reducible apply kept_foldl1 | (intro _) | (with_reducible split))

theorem kept_execLinkRetry {cq : List Instr} (n : LinkId) (from_ : BitVec 16) (s : State) (h_s : Kept cq s) : KeptO cq
    (execLinkRetry n from_ s) := by
  unfold execLinkRetry
  try dsimp only
  repeat' (first | with_reducible assumption | with_reducible apply keptO_next | with_reducible apply kept_linkRetry)

theorem kept_execCl0HeldRelease {cq : List Instr} (n : LinkId) (src : Cl0Source) (s : State) (h_s : Kept cq s) : KeptO cq
    (execCl0HeldRelease n src s) := by
  unfold execCl0HeldRelease
  try dsimp only
  repeat' (first
    | with_reducible assumption | with_reducible apply keptO_next | with_reducible apply kept_linkSend
    | with_reducible apply kept_updLink | with_reducible apply kept_foldl | with_reducible apply kept_foldl2
    | with_reducible apply kept_foldl1 | (intro _) | (with_reducible split))

theorem kept_execLinkStatePeriod {cq : List Instr} (s : State) (h_s : Kept cq s) : KeptO cq (execLinkStatePeriod s) := by
  unfold execLinkStatePeriod
  try dsimp only
  repeat' (first | with_reducible assumption | with_reducible apply keptO_next | with_reducible apply kept_sendLinkState)

theorem kept_execLinkStatePacket {cq : List Instr} (src : BitVec 7) (up : BitVec 64) (s : State) (h_s : Kept cq s) : KeptO cq
    (execLinkStatePacket src up s) := by
  unfold execLinkStatePacket
  try dsimp only
  repeat' (first | with_reducible assumption | with_reducible apply keptO_next | with_reducible apply kept_linkStateIn)

theorem kept_lnkCtrl {cq : List Instr} (n : Nat) (v : BitVec 32) (s : State) (h_s : Kept cq s) : Kept cq (lnkCtrl n v s).2 := by
  unfold lnkCtrl
  try dsimp only
  repeat' (first
    | with_reducible assumption | with_reducible apply kept_setReg | with_reducible apply kept_setLinkSt
    | with_reducible apply kept_linkRecover | with_reducible apply kept_foldl | with_reducible apply kept_foldl2
    | with_reducible apply kept_foldl1 | (intro _) | (with_reducible split))

theorem kept_cmgtStart {cq : List Instr} (o : Origin) (n : Nat) (page : Nat) (addr : Nat) (write : Bool) (data : Byte) (s :
    State) (h_s : Kept cq s) : Kept cq (cmgtStart o n page addr write data s) := by
  unfold cmgtStart
  try dsimp only
  repeat' (first
    | with_reducible assumption | with_reducible apply kept_emit | with_reducible apply kept_logEntry
    | with_reducible apply kept_useFree | with_reducible apply kept_foldl | with_reducible apply kept_foldl2
    | with_reducible apply kept_foldl1 | (intro _) | (with_reducible split))

theorem kept_lnkCmgt {cq : List Instr} (o : Origin) (n : Nat) (v : BitVec 32) (s : State) (h_s : Kept cq s) : Kept cq (lnkCmgt o
    n v s).2 := by
  unfold lnkCmgt
  try dsimp only
  repeat' (first
    | with_reducible assumption | with_reducible apply kept_updReg | with_reducible apply kept_setReg
    | with_reducible apply kept_cmgtStart | with_reducible apply kept_foldl | with_reducible apply kept_foldl2
    | with_reducible apply kept_foldl1 | (intro _) | (with_reducible split))

theorem kept_execCmgtDone {cq : List Instr} (n : LinkId) (acked : Bool) (data : Byte) (s : State) (h_s : Kept cq s) : KeptO cq
    (execCmgtDone n acked data s) := by
  unfold execCmgtDone
  try dsimp only
  repeat' (first
    | with_reducible assumption | with_reducible apply keptO_next | with_reducible apply kept_updReg
    | with_reducible apply kept_foldl | with_reducible apply kept_foldl2 | with_reducible apply kept_foldl1 | (intro _)
    | (with_reducible split))

theorem kept_execCablePoll {cq : List Instr} (n : LinkId) (low : List Byte) (x : CableState) (s : State) (h_s : Kept cq s) :
    KeptO cq (execCablePoll n low x s) := by
  unfold execCablePoll
  try dsimp only
  repeat' (first
    | with_reducible assumption | with_reducible apply keptO_next | with_reducible apply kept_cableRead
    | with_reducible apply kept_updLink | with_reducible apply kept_onlyIf | with_reducible apply kept_linkReport
    | with_reducible apply kept_countReg | with_reducible apply kept_foldl | with_reducible apply kept_foldl2
    | with_reducible apply kept_foldl1 | (intro _) | (with_reducible split))

theorem kept_portCtrl {cq : List Instr} (v : BitVec 32) (s : State) (h_s : Kept cq s) : Kept cq (portCtrl v s).2 := by
  unfold portCtrl
  try dsimp only
  repeat' (first
    | with_reducible assumption | with_reducible apply kept_setReg | with_reducible apply kept_ethPump
    | with_reducible apply kept_foldl | with_reducible apply kept_foldl2 | with_reducible apply kept_foldl1 | (intro _)
    | (with_reducible split) | (dsimp only [Kept]; (first | with_reducible assumption | change Kept _ _)))

theorem kept_execPortLinkChange {cq : List Instr} (lanes : BitVec 8) (fec : Bool) (s : State) (h_s : Kept cq s) : KeptO cq
    (execPortLinkChange lanes fec s) := by
  unfold execPortLinkChange
  try dsimp only
  repeat' (first
    | with_reducible assumption | with_reducible apply keptO_next | with_reducible apply kept_setReg
    | with_reducible apply kept_foldl | with_reducible apply kept_foldl2 | with_reducible apply kept_foldl1 | (intro _)
    | (with_reducible split))

/-! ### Sync -/

theorem kept_updSync {cq : List Instr} (f : Sync → Sync) (s : State) (h_s : Kept cq s) : Kept cq (updSync f s) := by
  unfold updSync
  try dsimp only
  repeat' (first
    | with_reducible assumption | with_reducible apply kept_foldl | with_reducible apply kept_foldl2
    | with_reducible apply kept_foldl1 | (intro _) | (with_reducible split)
    | (dsimp only [Kept]; (first | with_reducible assumption | change Kept _ _)))

theorem kept_setSyncSt {cq : List Instr} (st : Nat) (hall : Bool) (s : State) (h_s : Kept cq s) : Kept cq (setSyncSt st hall s)
    := by
  unfold setSyncSt
  try dsimp only
  repeat' (first
    | with_reducible assumption | with_reducible apply kept_updReg | with_reducible apply kept_updSync
    | with_reducible apply kept_evPost | with_reducible apply kept_foldl | with_reducible apply kept_foldl2
    | with_reducible apply kept_foldl1 | (intro _) | (with_reducible split))

theorem kept_changeSyncSt {cq : List Instr} (st : Nat) (s : State) (h_s : Kept cq s) : Kept cq (changeSyncSt st s) := by
  unfold changeSyncSt
  try dsimp only
  repeat' (first
    | with_reducible assumption | with_reducible apply kept_setSyncSt | with_reducible apply kept_foldl
    | with_reducible apply kept_foldl2 | with_reducible apply kept_foldl1 | (intro _) | (with_reducible split))

theorem kept_freeRun {cq : List Instr} (s : State) (h_s : Kept cq s) : Kept cq (freeRun s) := by
  unfold freeRun
  try dsimp only
  repeat' (first | with_reducible assumption | with_reducible apply kept_changeSyncSt | with_reducible apply kept_updReg)

theorem kept_loseSource {cq : List Instr} (s : State) (h_s : Kept cq s) : Kept cq (loseSource s) := by
  unfold loseSource
  try dsimp only
  repeat' (first
    | with_reducible assumption | with_reducible apply kept_updSync | with_reducible apply kept_freeRun
    | with_reducible apply kept_setSyncSt | with_reducible apply kept_foldl | with_reducible apply kept_foldl2
    | with_reducible apply kept_foldl1 | (intro _) | (with_reducible split))

theorem kept_follow {cq : List Instr} (s : State) (h_s : Kept cq s) : Kept cq (follow s) := by
  unfold follow
  try dsimp only
  repeat' (first
    | with_reducible assumption | with_reducible apply kept_setReg | with_reducible apply kept_updSync
    | with_reducible apply kept_freeRun | with_reducible apply kept_loseSource | with_reducible apply kept_foldl
    | with_reducible apply kept_foldl2 | with_reducible apply kept_foldl1 | (intro _) | (with_reducible split))

theorem kept_applyStep {cq : List Instr} (off : Int) (s : State) (h_s : Kept cq s) : Kept cq (applyStep off s) := by
  unfold applyStep
  try dsimp only
  repeat' (first
    | with_reducible assumption | with_reducible apply kept_regBit | with_reducible apply kept_updSync
    | with_reducible apply kept_logHw | with_reducible apply kept_evPost | with_reducible apply kept_foldl
    | with_reducible apply kept_foldl2 | with_reducible apply kept_foldl1 | (intro _) | (with_reducible split)
    | (dsimp only [Kept]; (first | with_reducible assumption | change Kept _ _)))

theorem kept_offsetIn {cq : List Instr} (source : Nat) (off : Int) (s : State) (h_s : Kept cq s) : Kept cq (offsetIn source off
    s) := by
  unfold offsetIn
  try dsimp only
  repeat' (first
    | with_reducible assumption | with_reducible apply kept_setReg | with_reducible apply kept_updReg
    | with_reducible apply kept_updSync | with_reducible apply kept_changeSyncSt | with_reducible apply kept_regBit
    | with_reducible apply kept_useFree | with_reducible apply kept_foldl | with_reducible apply kept_foldl2
    | with_reducible apply kept_foldl1 | (intro _) | (with_reducible split))

theorem kept_syncPeriod {cq : List Instr} (s : State) (h_s : Kept cq s) : Kept cq (syncPeriod s) := by
  unfold syncPeriod
  try dsimp only
  repeat' (first
    | with_reducible assumption | with_reducible apply kept_cl0To | with_reducible apply kept_forAll
    | with_reducible apply kept_foldl | with_reducible apply kept_foldl2 | with_reducible apply kept_foldl1 | (intro _)
    | (with_reducible split))

theorem kept_execSyncPeriod {cq : List Instr} (s : State) (h_s : Kept cq s) : KeptO cq (execSyncPeriod s) := by
  unfold execSyncPeriod
  try dsimp only
  repeat' (first | with_reducible assumption | with_reducible apply keptO_next | with_reducible apply kept_syncPeriod)

theorem kept_askDelay {cq : List Instr} (n : Nat) (p : PkgId) (s : State) (h_s : Kept cq s) : Kept cq (askDelay n p s) := by
  unfold askDelay
  try dsimp only
  repeat' (first
    | with_reducible assumption | with_reducible apply kept_cl0To | with_reducible apply kept_updSync
    | with_reducible apply kept_foldl | with_reducible apply kept_foldl2 | with_reducible apply kept_foldl1 | (intro _)
    | (with_reducible split))

theorem kept_delayRequestIn {cq : List Instr} (src : PkgId) (t1 : BitVec 64) (s : State) (h_s : Kept cq s) : Kept cq
    (delayRequestIn src t1 s) := by
  unfold delayRequestIn
  try dsimp only
  repeat' (first | with_reducible assumption | with_reducible apply kept_cl0To)

theorem kept_delayIn {cq : List Instr} (n : Nat) (t1 : BitVec 64) (t2 : BitVec 64) (t3 : BitVec 64) (t4 : BitVec 64) (s : State)
    (h_s : Kept cq s) : Kept cq (delayIn n t1 t2 t3 t4 s) := by
  unfold delayIn
  try dsimp only
  repeat' (first
    | with_reducible assumption | with_reducible apply kept_updSync | with_reducible apply kept_foldl
    | with_reducible apply kept_foldl2 | with_reducible apply kept_foldl1 | (intro _) | (with_reducible split))

theorem kept_heardAgain {cq : List Instr} (n : Nat) (src : PkgId) (s : State) (h_s : Kept cq s) : Kept cq (heardAgain n src s)
    := by
  unfold heardAgain
  try dsimp only
  repeat' (first
    | with_reducible assumption | with_reducible apply kept_follow | with_reducible apply kept_updSync
    | with_reducible apply kept_foldl | with_reducible apply kept_foldl2 | with_reducible apply kept_foldl1 | (intro _)
    | (with_reducible split))

theorem kept_syncIn {cq : List Instr} (n : Nat) (src : PkgId) (stamp : BitVec 64) (s : State) (h_s : Kept cq s) : Kept cq
    (syncIn n src stamp s) := by
  unfold syncIn
  try dsimp only
  repeat' (first
    | with_reducible assumption | with_reducible apply kept_heardAgain | with_reducible apply kept_askDelay
    | with_reducible apply kept_updSync | with_reducible apply kept_offsetIn | with_reducible apply kept_foldl
    | with_reducible apply kept_foldl2 | with_reducible apply kept_foldl1 | (intro _) | (with_reducible split))

theorem kept_execSyncPacket {cq : List Instr} (n : LinkId) (src : PkgId) (stamp : BitVec 64) (s : State) (h_s : Kept cq s) :
    KeptO cq (execSyncPacket n src stamp s) := by
  unfold execSyncPacket
  try dsimp only
  repeat' (first | with_reducible assumption | with_reducible apply keptO_next | with_reducible apply kept_syncIn)

theorem kept_execDelayExchange {cq : List Instr} (n : LinkId) (t1 : BitVec 64) (t2 : BitVec 64) (t3 : BitVec 64) (t4 : BitVec
    64) (s : State) (h_s : Kept cq s) : KeptO cq (execDelayExchange n t1 t2 t3 t4 s) := by
  unfold execDelayExchange
  try dsimp only
  repeat' (first | with_reducible assumption | with_reducible apply keptO_next | with_reducible apply kept_delayIn)

theorem kept_execAnnouncementPeriod {cq : List Instr} (s : State) (h_s : Kept cq s) : KeptO cq (execAnnouncementPeriod s) := by
  unfold execAnnouncementPeriod
  try dsimp only
  repeat' (first
    | with_reducible assumption | with_reducible apply keptO_next | with_reducible apply kept_forAll
    | with_reducible apply kept_cl0To | with_reducible apply kept_follow | with_reducible apply kept_updSync
    | with_reducible apply kept_foldl | with_reducible apply kept_foldl2 | with_reducible apply kept_foldl1 | (intro _)
    | (with_reducible split))

theorem kept_announceIn {cq : List Instr} (src : PkgId) (locked : Bool) (s : State) (h_s : Kept cq s) : Kept cq (announceIn src
    locked s) := by
  unfold announceIn
  try dsimp only
  repeat' (first
    | with_reducible assumption | with_reducible apply kept_follow | with_reducible apply kept_updSync
    | with_reducible apply kept_foldl | with_reducible apply kept_foldl2 | with_reducible apply kept_foldl1 | (intro _)
    | (with_reducible split))

theorem kept_execLeaderAnnouncement {cq : List Instr} (src : PkgId) (locked : Bool) (s : State) (h_s : Kept cq s) : KeptO cq
    (execLeaderAnnouncement src locked s) := by
  unfold execLeaderAnnouncement
  try dsimp only
  repeat' (first | with_reducible assumption | with_reducible apply keptO_next | with_reducible apply kept_announceIn)

theorem kept_execLeaderAnnouncementLapse {cq : List Instr} (src : PkgId) (s : State) (h_s : Kept cq s) : KeptO cq
    (execLeaderAnnouncementLapse src s) := by
  unfold execLeaderAnnouncementLapse
  try dsimp only
  repeat' (first
    | with_reducible assumption | with_reducible apply keptO_next | with_reducible apply kept_follow
    | with_reducible apply kept_updSync)

theorem kept_updPtp {cq : List Instr} (f : PtpSt → PtpSt) (s : State) (h_s : Kept cq s) : Kept cq (updPtp f s) := by
  unfold updPtp
  try dsimp only
  repeat' (first | with_reducible assumption | with_reducible apply kept_updSync)

theorem kept_setMasters {cq : List Instr} (ms : List PtpMaster) (s : State) (h_s : Kept cq s) : Kept cq (setMasters ms s) := by
  unfold setMasters
  try dsimp only
  repeat' (first
    | with_reducible assumption | with_reducible apply kept_updPtp | with_reducible apply kept_foldl
    | with_reducible apply kept_foldl2 | with_reducible apply kept_foldl1 | (intro _) | (with_reducible split))

theorem kept_execHoldover {cq : List Instr} (s : State) (h_s : Kept cq s) : KeptO cq (execHoldover s) := by
  unfold execHoldover
  try dsimp only
  repeat' (first
    | with_reducible assumption | with_reducible apply keptO_next | with_reducible apply kept_follow
    | with_reducible apply kept_loseSource | with_reducible apply kept_setMasters | with_reducible apply kept_updSync
    | with_reducible apply kept_foldl | with_reducible apply kept_foldl2 | with_reducible apply kept_foldl1 | (intro _)
    | (with_reducible split))

theorem kept_execHoldoverLimitExpiry {cq : List Instr} (s : State) (h_s : Kept cq s) : KeptO cq (execHoldoverLimitExpiry s) :=
    by
  unfold execHoldoverLimitExpiry
  try dsimp only
  repeat' (first
    | with_reducible assumption | with_reducible apply keptO_next | with_reducible apply kept_updSync
    | with_reducible apply kept_freeRun | with_reducible apply kept_foldl | with_reducible apply kept_foldl2
    | with_reducible apply kept_foldl1 | (intro _) | (with_reducible split))

theorem kept_execSyncLock {cq : List Instr} (s : State) (h_s : Kept cq s) : KeptO cq (execSyncLock s) := by
  unfold execSyncLock
  try dsimp only
  repeat' (first
    | with_reducible assumption | with_reducible apply keptO_next | with_reducible apply kept_applyStep
    | with_reducible apply kept_setSyncSt | with_reducible apply kept_updSync | with_reducible apply kept_foldl
    | with_reducible apply kept_foldl2 | with_reducible apply kept_foldl1 | (intro _) | (with_reducible split))

theorem kept_stepApply {cq : List Instr} (s : State) (h_s : Kept cq s) : Kept cq (stepApply s) := by
  unfold stepApply
  try dsimp only
  repeat' (first
    | with_reducible assumption | with_reducible apply kept_applyStep | with_reducible apply kept_foldl
    | with_reducible apply kept_foldl2 | with_reducible apply kept_foldl1 | (intro _) | (with_reducible split))

theorem kept_execStepApply {cq : List Instr} (s : State) (h_s : Kept cq s) : KeptO cq (execStepApply s) := by
  unfold execStepApply
  try dsimp only
  repeat' (first
    | with_reducible assumption | with_reducible apply keptO_next | with_reducible apply kept_stepApply
    | with_reducible apply kept_foldl | with_reducible apply kept_foldl2 | with_reducible apply kept_foldl1 | (intro _)
    | (with_reducible split))

theorem kept_beatCtrl {cq : List Instr} (v : BitVec 32) (s : State) (h_s : Kept cq s) : Kept cq (beatCtrl v s).2 := by
  unfold beatCtrl
  try dsimp only
  repeat' (first
    | with_reducible assumption | with_reducible apply kept_setReg | with_reducible apply kept_follow
    | with_reducible apply kept_freeRun | with_reducible apply kept_updSync | with_reducible apply kept_foldl
    | with_reducible apply kept_foldl2 | with_reducible apply kept_foldl1 | (intro _) | (with_reducible split))

theorem kept_evsFree {cq : List Instr} (n : Nat) (s : State) (h_s : Kept cq s) : Kept cq (evsFree n s) := by
  unfold evsFree
  have hd : Kept cq { s with evs := s.evs.drop n } :=
    ⟨h_s.pend, h_s.sc, h_s.va, h_s.fl,
      by simp only [List.length_drop]; exact Nat.le_trans (Nat.sub_le _ _) h_s.ev, h_s.ri, h_s.led, h_s.ids⟩
  generalize hs : ({ s with evs := s.evs.drop n } : State) = s1 at *
  dsimp only
  split
  · exact kept_evPost _ _ _ ⟨hd.pend, hd.sc, hd.va, hd.fl, hd.ev, hd.ri, hd.led, hd.ids⟩
  · exact hd

theorem kept_ptpSync {cq : List Instr} (origin : BitVec 64) (arrival : BitVec 64) (corr : Int) (s : State) (h_s : Kept cq s) :
    Kept cq (ptpSync origin arrival corr s) := by
  unfold ptpSync
  try dsimp only
  repeat' (first
    | with_reducible assumption | with_reducible apply kept_emit | with_reducible apply kept_updPtp
    | with_reducible apply kept_updSync | with_reducible apply kept_offsetIn | with_reducible apply kept_foldl
    | with_reducible apply kept_foldl2 | with_reducible apply kept_foldl1 | (intro _) | (with_reducible split))

theorem kept_ptpIn {cq : List Instr} (m : PtpMsg) (s : State) (h_s : Kept cq s) : Kept cq (ptpIn m s) := by
  unfold ptpIn
  try dsimp only
  repeat' (first
    | with_reducible assumption | with_reducible apply kept_setMasters | with_reducible apply kept_updPtp
    | with_reducible apply kept_ptpSync | with_reducible apply kept_foldl | with_reducible apply kept_foldl2
    | with_reducible apply kept_foldl1 | (intro _) | (with_reducible split))

theorem kept_execPtpMessage {cq : List Instr} (m : PtpMsg) (s : State) (h_s : Kept cq s) : KeptO cq (execPtpMessage m s) := by
  unfold execPtpMessage
  try dsimp only
  repeat' (first
    | with_reducible assumption | with_reducible apply keptO_next | with_reducible apply kept_ptpIn
    | with_reducible apply kept_foldl | with_reducible apply kept_foldl2 | with_reducible apply kept_foldl1 | (intro _)
    | (with_reducible split))

/-! ### Reset -/

theorem kept_fireSource {cq : List Instr} (src : Nat) (s : State) (h_s : Kept cq s) : Kept cq (fireSource src s) := by
  unfold fireSource
  try dsimp only
  repeat' (first
    | with_reducible assumption | with_reducible apply kept_updRst | with_reducible apply kept_foldl
    | with_reducible apply kept_foldl2 | with_reducible apply kept_foldl1 | (intro _) | (with_reducible split))

theorem kept_countReset {cq : List Instr} (src : Nat) (kind : Nat) (s : State) (h_s : Kept cq s) : Kept cq (countReset src kind
    s) := by
  unfold countReset
  try dsimp only
  repeat' (first | with_reducible assumption | with_reducible apply kept_fireSource | with_reducible apply kept_updRst)

theorem kept_tearFlash {cq : List Instr} (s : State) (h_s : Kept cq s) : Kept cq (tearFlash s) := by
  unfold tearFlash
  try dsimp only
  repeat' (first
    | with_reducible assumption | with_reducible apply kept_tearFrec | with_reducible apply kept_flashSector
    | with_reducible apply kept_foldl | with_reducible apply kept_foldl2 | with_reducible apply kept_foldl1 | (intro _)
    | (with_reducible split))

theorem kept_coldState {cq : List Instr} (r : Rst) (s : State) (h_s : Kept cq s) : Kept cq (coldState r s) := by
  have h := kept_tearFlash s h_s
  exact kept_palRole _ ⟨h.pend, rfl, rfl, h.fl, Nat.zero_le _, Nat.zero_le _, ledger_zero, fun _ h => nomatch h⟩

theorem kept_strapPins {cq : List Instr} (st : Straps) (s : State) (h_s : Kept cq s) : Kept cq (strapPins st s) := by
  unfold strapPins
  try dsimp only
  repeat' (first | with_reducible assumption | with_reducible apply kept_updRst)

theorem kept_coldReset {cq : List Instr} (src : Nat) (s : State) (h_s : Kept cq s) : Kept cq (coldReset src s) := by
  unfold coldReset
  try dsimp only
  repeat' (first | with_reducible assumption | with_reducible apply kept_countReset | with_reducible apply kept_coldState)

theorem kept_execVauxPowerOn {cq : List Instr} (st : Straps) (s : State) (h_s : Kept cq s) : KeptO cq (execVauxPowerOn st s) :=
    by
  unfold execVauxPowerOn
  try dsimp only
  repeat' (first | with_reducible assumption | with_reducible apply keptO_next | with_reducible apply kept_coldState)

theorem kept_execVauxReset {cq : List Instr} (st : Straps) (s : State) (h_s : Kept cq s) : KeptO cq (execVauxReset st s) := by
  unfold execVauxReset
  try dsimp only
  repeat' (first
    | with_reducible assumption | with_reducible apply keptO_next | with_reducible apply kept_coldReset
    | with_reducible apply kept_strapPins | with_reducible apply kept_updRst)

theorem kept_execVauxRelease {cq : List Instr} (s : State) (h_s : Kept cq s) : KeptO cq (execVauxRelease s) := by
  unfold execVauxRelease
  try dsimp only
  repeat' (first
    | with_reducible assumption | with_reducible apply keptO_next | with_reducible apply kept_updRst
    | with_reducible apply kept_foldl | with_reducible apply kept_foldl2 | with_reducible apply kept_foldl1 | (intro _)
    | (with_reducible split))

theorem kept_execResetN {cq : List Instr} (st : Straps) (s : State) (h_s : Kept cq s) : KeptO cq (execResetN st s) := by
  unfold execResetN
  try dsimp only
  repeat' (first
    | with_reducible assumption | with_reducible apply keptO_next | with_reducible apply kept_coldReset
    | with_reducible apply kept_strapPins)

theorem kept_execQuietClockLost {cq : List Instr} (st : Straps) (s : State) (h_s : Kept cq s) : KeptO cq (execQuietClockLost st
    s) := by
  unfold execQuietClockLost
  try dsimp only
  repeat' (first
    | with_reducible assumption | with_reducible apply keptO_next | with_reducible apply kept_coldReset
    | with_reducible apply kept_strapPins | with_reducible apply kept_foldl | with_reducible apply kept_foldl2
    | with_reducible apply kept_foldl1 | (intro _) | (with_reducible split))

theorem kept_clearMs {cq : List Instr} (l : List Nat) (s : State) (h_s : Kept cq s) : Kept cq (clearMs l s) := by
  unfold clearMs
  try dsimp only
  repeat' (first
    | with_reducible assumption | with_reducible apply kept_foldl | with_reducible apply kept_foldl2
    | with_reducible apply kept_foldl1 | (intro _) | (with_reducible split)
    | (dsimp only [Kept]; (first | with_reducible assumption | change Kept _ _)))

theorem kept_stewardAgain {cq : List Instr} (s : State) (h_s : Kept cq s) : Kept cq (stewardAgain s) := by
  unfold stewardAgain
  try dsimp only
  repeat' (first
    | with_reducible assumption | with_reducible apply kept_updRst | with_reducible apply kept_stepApply
    | with_reducible apply kept_clearMs | with_reducible apply kept_foldl | with_reducible apply kept_foldl2
    | with_reducible apply kept_foldl1 | (intro _) | (with_reducible split)
    | (dsimp only [Kept]; (first | with_reducible assumption | change Kept _ _)))

theorem kept_stewardReset {cq : List Instr} (src : Nat) (s : State) (h_s : Kept cq s) : Kept cq (stewardReset src s) := by
  unfold stewardReset
  try dsimp only
  repeat' (first
    | with_reducible assumption | with_reducible apply kept_stewardAgain | with_reducible apply kept_countReset
    | with_reducible apply kept_forAll | with_reducible apply kept_mbxRelease | with_reducible apply kept_reportCause)

theorem kept_mbxReset {cq : List Instr} (s : State) (h_s : Kept cq s) : Kept cq (mbxReset s) := by
  unfold mbxReset
  try dsimp only
  repeat' (first
    | with_reducible assumption | with_reducible apply kept_forAll | with_reducible apply kept_updMbx
    | with_reducible apply kept_setReg | with_reducible apply kept_foldl | with_reducible apply kept_foldl2
    | with_reducible apply kept_foldl1 | (intro _) | (with_reducible split)
    | (dsimp only [Kept]; (first | with_reducible assumption | change Kept _ _)))

theorem kept_wipeTiles {cq : List Instr} (s : State) (h_s : Kept cq s) : Kept cq (wipeTiles s) := by
  exact kept_updAllTiles _ _
    ⟨h_s.pend, rfl, h_s.va, h_s.fl, h_s.ev, h_s.ri, h_s.led, fun o ho => h_s.ids o (List.mem_filter.mp ho).1⟩

theorem kept_wipeQueues {cq : List Instr} (s : State) (h_s : Kept cq s) : Kept cq (wipeQueues s) := by
  unfold wipeQueues
  try dsimp only
  repeat' (first
    | with_reducible assumption | with_reducible apply kept_foldl | with_reducible apply kept_foldl2
    | with_reducible apply kept_foldl1 | (intro _) | (with_reducible split)
    | (dsimp only [Kept]; (first | with_reducible assumption | change Kept _ _)))

theorem kept_wipeCounts {cq : List Instr} (s : State) (h_s : Kept cq s) : Kept cq (wipeCounts s) := by
  unfold wipeCounts
  try dsimp only
  repeat' (first | with_reducible assumption | with_reducible apply kept_updAttr | exact fun _ h => h)

theorem kept_warmWipe {cq : List Instr} (src : Nat) (s : State) (h_s : Kept cq s) : Kept cq (warmWipe src s) := by
  unfold warmWipe
  try dsimp only
  repeat' (first
    | with_reducible assumption | with_reducible apply kept_stewardAgain | with_reducible apply kept_countReset
    | with_reducible apply kept_updRst | with_reducible apply kept_wipeQueues | with_reducible apply kept_wipeTiles
    | with_reducible apply kept_haltFor | with_reducible apply kept_reportReset | with_reducible apply kept_mbxReset
    | with_reducible apply kept_wipeCounts | with_reducible apply kept_forAll | with_reducible apply kept_closeSession)

theorem kept_warmReset {cq : List Instr} (src : Nat) (s : State) (h_s : Kept cq s) : Kept cq (warmReset src s) := by
  unfold warmReset
  try dsimp only
  repeat' (first
    | with_reducible assumption | with_reducible apply kept_leaveAll | with_reducible apply kept_coldReset
    | with_reducible apply kept_fireSource | with_reducible apply kept_warmWipe | with_reducible apply kept_foldl
    | with_reducible apply kept_foldl2 | with_reducible apply kept_foldl1 | (intro _) | (with_reducible split))

theorem kept_warmSource {cq : List Instr} (src : Nat) (s : State) (h_s : Kept cq s) : Kept cq (warmSource src s) := by
  unfold warmSource
  try dsimp only
  repeat' (first
    | with_reducible assumption | with_reducible apply kept_fireSource | with_reducible apply kept_warmReset
    | with_reducible apply kept_foldl | with_reducible apply kept_foldl2 | with_reducible apply kept_foldl1 | (intro _)
    | (with_reducible split))

theorem kept_stewardSource {cq : List Instr} (src : Nat) (s : State) (h_s : Kept cq s) : Kept cq (stewardSource src s) := by
  unfold stewardSource
  try dsimp only
  repeat' (first
    | with_reducible assumption | with_reducible apply kept_fireSource | with_reducible apply kept_stewardReset
    | with_reducible apply kept_foldl | with_reducible apply kept_foldl2 | with_reducible apply kept_foldl1 | (intro _)
    | (with_reducible split))

theorem kept_execPllLockLost {cq : List Instr} (memPll : Bool) (st : Straps) (s : State) (h_s : Kept cq s) : KeptO cq
    (execPllLockLost memPll st s) := by
  unfold execPllLockLost
  try dsimp only
  repeat' (first
    | with_reducible assumption | with_reducible apply keptO_next | with_reducible apply kept_strapPins
    | with_reducible apply kept_warmSource | with_reducible apply kept_updRst | with_reducible apply kept_foldl
    | with_reducible apply kept_foldl2 | with_reducible apply kept_foldl1 | (intro _) | (with_reducible split))

theorem kept_execWatchdogExpire {cq : List Instr} (s : State) (h_s : Kept cq s) : KeptO cq (execWatchdogExpire s) := by
  unfold execWatchdogExpire
  try dsimp only
  repeat' (first
    | with_reducible assumption | with_reducible apply keptO_next | with_reducible apply kept_stewardSource
    | with_reducible apply kept_foldl | with_reducible apply kept_foldl2 | with_reducible apply kept_foldl1 | (intro _)
    | (with_reducible split))

theorem kept_ctrlPhase {cq : List Instr} (v : BitVec 32) (s : State) (h_s : Kept cq s) : Kept cq (ctrlPhase v s) := by
  unfold ctrlPhase
  try dsimp only
  repeat' (first
    | with_reducible assumption | with_reducible apply kept_updRst | with_reducible apply kept_foldl
    | with_reducible apply kept_foldl2 | with_reducible apply kept_foldl1 | (intro _) | (with_reducible split))

theorem kept_ctrlFire {cq : List Instr} (v : BitVec 32) (i : Nat) (src : Nat) (s : State) (h_s : Kept cq s) : Kept cq (ctrlFire
    v i src s) := by
  unfold ctrlFire
  try dsimp only
  repeat' (first
    | with_reducible assumption | with_reducible apply kept_fireSource | with_reducible apply kept_foldl
    | with_reducible apply kept_foldl2 | with_reducible apply kept_foldl1 | (intro _) | (with_reducible split))

theorem kept_ctrlReset {cq : List Instr} (v : BitVec 32) (s : State) (h_s : Kept cq s) : Kept cq (ctrlReset v s) := by
  unfold ctrlReset
  try dsimp only
  repeat' (first
    | with_reducible assumption | with_reducible apply kept_coldReset | with_reducible apply kept_warmSource
    | with_reducible apply kept_stewardSource | with_reducible apply kept_foldl | with_reducible apply kept_foldl2
    | with_reducible apply kept_foldl1 | (intro _) | (with_reducible split))

theorem kept_rstCtrl {cq : List Instr} (o : Origin) (v : BitVec 32) (s : State) (h_s : Kept cq s) : Kept cq (rstCtrl o v s).2 :=
    by
  unfold rstCtrl
  try dsimp only
  repeat' (first
    | with_reducible assumption | with_reducible apply kept_refuseRights | with_reducible apply kept_ctrlPhase
    | with_reducible apply kept_logWrite | with_reducible apply kept_ctrlReset | with_reducible apply kept_ctrlFire
    | with_reducible apply kept_foldl | with_reducible apply kept_foldl2 | with_reducible apply kept_foldl1 | (intro _)
    | (with_reducible split))

theorem kept_execRecoveredClockSwitch {cq : List Instr} (s : State) (h_s : Kept cq s) : KeptO cq (execRecoveredClockSwitch s) :=
    by
  unfold execRecoveredClockSwitch
  try dsimp only
  repeat' (first
    | with_reducible assumption | with_reducible apply keptO_next | with_reducible apply kept_updRst
    | with_reducible apply kept_foldl | with_reducible apply kept_foldl2 | with_reducible apply kept_foldl1 | (intro _)
    | (with_reducible split))

/-! ### Registers -/

theorem kept_rawRegRead {cq : List Instr} (o : Origin) (a : Nat) (s : State) (h_s : Kept cq s) : Kept cq (rawRegRead o a s).2 :=
    by
  unfold rawRegRead
  try dsimp only
  repeat' (first
    | with_reducible assumption | with_reducible apply kept_mbxRead | with_reducible apply kept_updReg
    | with_reducible apply kept_foldl | with_reducible apply kept_foldl2 | with_reducible apply kept_foldl1 | (intro _)
    | (with_reducible split))

theorem kept_capture14 {cq : List Instr} (o : Origin) (a : Nat) (s : State) (h_s : Kept cq s) : Kept cq (capture14 o a s) := by
  unfold capture14
  try dsimp only
  repeat' (first
    | with_reducible assumption | with_reducible apply kept_rawRegRead | with_reducible apply kept_foldl
    | with_reducible apply kept_foldl2 | with_reducible apply kept_foldl1 | (intro _) | (with_reducible split)
    | (dsimp only [Kept]; (first | with_reducible assumption | change Kept _ _)))

theorem kept_ctlRead {cq : List Instr} (o : Origin) (a : Nat) (s : State) (h_s : Kept cq s) : Kept cq (ctlRead o a s).2 := by
  unfold ctlRead
  try dsimp only
  repeat' (first
    | with_reducible assumption | with_reducible apply kept_refuseRights | with_reducible apply kept_report
    | with_reducible apply kept_rawRegRead | with_reducible apply kept_capture14 | with_reducible apply kept_foldl
    | with_reducible apply kept_foldl2 | with_reducible apply kept_foldl1 | (intro _) | (with_reducible split)
    | (dsimp only [Kept]; (first | with_reducible assumption | change Kept _ _)))

theorem kept_okIf {cq : List Instr} (q : Bool × State) (h_q : Kept cq q.2) : Kept cq (okIf q).2 := by
  unfold okIf
  try dsimp only
  repeat' (first | with_reducible assumption)

theorem kept_palWriteOp {cq : List Instr} (o : Origin) (k : Nat) (v : BitVec 32) (s : State) (h_s : Kept cq s) : Kept cq
    (palWriteOp o k v s).2 := by
  unfold palWriteOp
  try dsimp only
  repeat' (first
    | with_reducible assumption | with_reducible apply kept_entryCommit | with_reducible apply kept_setInact
    | with_reducible apply kept_dropEntry | with_reducible apply kept_foldl | with_reducible apply kept_foldl2
    | with_reducible apply kept_foldl1 | (intro _) | (with_reducible split))

theorem kept_commitWrite {cq : List Instr} (o : Origin) (v : BitVec 32) (s : State) (h_s : Kept cq s) : Kept cq (commitWrite o v
    s).2 := by
  unfold commitWrite
  try dsimp only
  repeat' (first
    | with_reducible assumption | with_reducible apply kept_foldl | with_reducible apply kept_foldl2
    | with_reducible apply kept_foldl1 | (intro _) | (with_reducible split)
    | (dsimp only [Kept]; (first | with_reducible assumption | change Kept _ _)))

theorem kept_stageWrite {cq : List Instr} (o : Origin) (v : BitVec 32) (s : State) (h_s : Kept cq s) : Kept cq (stageWrite o v
    s).2 := by
  unfold stageWrite
  try dsimp only
  repeat' (first
    | with_reducible assumption | with_reducible apply kept_stageAbort | with_reducible apply kept_foldl
    | with_reducible apply kept_foldl2 | with_reducible apply kept_foldl1 | (intro _) | (with_reducible split)
    | (dsimp only [Kept]; (first | with_reducible assumption | change Kept _ _)))

theorem kept_progCtrl {cq : List Instr} (v : BitVec 32) (s : State) (h_s : Kept cq s) : Kept cq (progCtrl v s) := by
  unfold progCtrl
  try dsimp only
  repeat' (first
    | with_reducible assumption | with_reducible apply kept_bankTouched | with_reducible apply kept_setReg
    | with_reducible apply kept_foldl | with_reducible apply kept_foldl2 | with_reducible apply kept_foldl1 | (intro _)
    | (with_reducible split) | (dsimp only [Kept]; (first | with_reducible assumption | change Kept _ _)))

theorem kept_directWrite {cq : List Instr} (o : Origin) (v : BitVec 32) (s : State) (h_s : Kept cq s) : Kept cq (directWrite o v
    s).2 := by
  unfold directWrite
  try dsimp only
  repeat' (first
    | with_reducible assumption | with_reducible apply kept_setInact | with_reducible apply kept_setAct
    | with_reducible apply kept_dropEntry | with_reducible apply kept_foldl | with_reducible apply kept_foldl2
    | with_reducible apply kept_foldl1 | (intro _) | (with_reducible split))

theorem kept_skCtrl {cq : List Instr} (v : BitVec 32) (s : State) (h_s : Kept cq s) : Kept cq (skCtrl v s).2 := by
  unfold skCtrl
  try dsimp only
  repeat' (first
    | with_reducible assumption | with_reducible apply kept_setReg | with_reducible apply kept_skArm
    | with_reducible apply kept_skForce | with_reducible apply kept_skStop | with_reducible apply kept_foldl
    | with_reducible apply kept_foldl2 | with_reducible apply kept_foldl1 | (intro _) | (with_reducible split))

theorem kept_ctlOp {cq : List Instr} (o : Origin) (off : Nat) (v : BitVec 32) (s : State) (h_s : Kept cq s) : Kept cq (ctlOp o
    off v s).2 := by
  unfold ctlOp
  try dsimp only
  repeat' (first
    | with_reducible assumption | with_reducible apply kept_setReg | with_reducible apply kept_updReg
    | with_reducible apply kept_okIf | with_reducible apply kept_commitWrite | with_reducible apply kept_stageWrite
    | with_reducible apply kept_progCtrl | with_reducible apply kept_storeWord | with_reducible apply kept_palWriteOp
    | with_reducible apply kept_directWrite | with_reducible apply kept_skCtrl | with_reducible apply kept_foldl
    | with_reducible apply kept_foldl2 | with_reducible apply kept_foldl1 | (intro _) | (with_reducible split)
    | (dsimp only [Kept]; (first | with_reducible assumption | change Kept _ _)))

theorem kept_railOp {cq : List Instr} (off : Nat) (v : BitVec 32) (s : State) (h_s : Kept cq s) : Kept cq (railOp off v s).2 :=
    by
  unfold railOp
  try dsimp only
  repeat' (first
    | with_reducible assumption | with_reducible apply kept_phFaultClear | with_reducible apply kept_railEnSet
    | with_reducible apply kept_railClear | with_reducible apply kept_foldl | with_reducible apply kept_foldl2
    | with_reducible apply kept_foldl1 | (intro _) | (with_reducible split))

theorem kept_packCtrl {cq : List Instr} (o : Origin) (v : BitVec 32) (s : State) (h_s : Kept cq s) : Kept cq (packCtrl o v s).2
    := by
  unfold packCtrl
  try dsimp only
  repeat' (first
    | with_reducible assumption | with_reducible apply kept_packEnSet | with_reducible apply kept_wakeUp
    | with_reducible apply kept_crAbort | with_reducible apply kept_rearm | with_reducible apply kept_capRunStart
    | with_reducible apply kept_handoverStart | with_reducible apply kept_foldl | with_reducible apply kept_foldl2
    | with_reducible apply kept_foldl1 | (intro _) | (with_reducible split))

theorem kept_govOp {cq : List Instr} (off : Nat) (v : BitVec 32) (s : State) (h_s : Kept cq s) : Kept cq (govOp off v s).2 := by
  unfold govOp
  try dsimp only
  repeat' (first
    | with_reducible assumption | with_reducible apply kept_govBit | with_reducible apply kept_tripW1c
    | with_reducible apply kept_heartbeatIn | with_reducible apply kept_foldl | with_reducible apply kept_foldl2
    | with_reducible apply kept_foldl1 | (intro _) | (with_reducible split))

theorem kept_partOp {cq : List Instr} (a : Nat) (v : BitVec 32) (s : State) (h_s : Kept cq s) : Kept cq (partOp a v s).2 := by
  unfold partOp
  try dsimp only
  repeat' (first
    | with_reducible assumption | with_reducible apply kept_freezeSet | with_reducible apply kept_regBit
    | with_reducible apply kept_attrBit | with_reducible apply kept_okIf | with_reducible apply kept_attrClear
    | with_reducible apply kept_setReg | with_reducible apply kept_foldl | with_reducible apply kept_foldl2
    | with_reducible apply kept_foldl1 | (intro _) | (with_reducible split))

theorem kept_entryHi {cq : List Instr} (o : Origin) (v : BitVec 32) (s : State) (h_s : Kept cq s) : Kept cq (entryHi o v s) :=
    by
  unfold entryHi
  try dsimp only
  repeat' (first
    | with_reducible assumption | with_reducible apply kept_winWrite | with_reducible apply kept_foldl
    | with_reducible apply kept_foldl2 | with_reducible apply kept_foldl1 | (intro _) | (with_reducible split)
    | (dsimp only [Kept]; (first | with_reducible assumption | change Kept _ _)))

theorem kept_winOp {cq : List Instr} (o : Origin) (off : Nat) (v : BitVec 32) (s : State) (h_s : Kept cq s) : Kept cq (winOp o
    off v s).2 := by
  unfold winOp
  try dsimp only
  repeat' (first
    | with_reducible assumption | with_reducible apply kept_setReg | with_reducible apply kept_entryHi
    | with_reducible apply kept_regBit | with_reducible apply kept_foldl | with_reducible apply kept_foldl2
    | with_reducible apply kept_foldl1 | (intro _) | (with_reducible split)
    | (dsimp only [Kept]; (first | with_reducible assumption | change Kept _ _)))

theorem kept_netOp {cq : List Instr} (o : Origin) (a : Nat) (v : BitVec 32) (s : State) (h_s : Kept cq s) : Kept cq (netOp o a v
    s).2 := by
  unfold netOp
  try dsimp only
  repeat' (first
    | with_reducible assumption | with_reducible apply kept_okIf | with_reducible apply kept_lnkCtrl
    | with_reducible apply kept_lnkCmgt | with_reducible apply kept_portCtrl | with_reducible apply kept_setReg
    | with_reducible apply kept_foldl | with_reducible apply kept_foldl2 | with_reducible apply kept_foldl1 | (intro _)
    | (with_reducible split))

theorem kept_startFirmware {cq : List Instr} (src : Nat) (copy : Nat) (img : List Byte) (s : State) (h_s : Kept cq s) : Kept cq
    (startFirmware src copy img s) := by
  unfold startFirmware
  try dsimp only
  repeat' (first
    | with_reducible assumption | with_reducible apply kept_extendMs | with_reducible apply kept_updRst
    | with_reducible apply kept_foldl | with_reducible apply kept_foldl2 | with_reducible apply kept_foldl1 | (intro _)
    | (with_reducible split) | (dsimp only [Kept]; (first | with_reducible assumption | change Kept _ _)))

theorem kept_imageDone {cq : List Instr} (src : Nat) (s : State) (h_s : Kept cq s) : Kept cq (imageDone src s) := by
  unfold imageDone
  try dsimp only
  repeat' (first
    | with_reducible assumption | with_reducible apply kept_startFirmware | with_reducible apply kept_updRst
    | with_reducible apply kept_foldl | with_reducible apply kept_foldl2 | with_reducible apply kept_foldl1 | (intro _)
    | (with_reducible split))

theorem kept_bootCtrl {cq : List Instr} (v : BitVec 32) (s : State) (h_s : Kept cq s) : Kept cq (bootCtrl v s).2 := by
  unfold bootCtrl
  try dsimp only
  repeat' (first
    | with_reducible assumption | with_reducible apply kept_setReg | with_reducible apply kept_updRst
    | with_reducible apply kept_imageDone | with_reducible apply kept_foldl | with_reducible apply kept_foldl2
    | with_reducible apply kept_foldl1 | (intro _) | (with_reducible split))

theorem kept_bootWin {cq : List Instr} (v : BitVec 32) (s : State) (h_s : Kept cq s) : Kept cq (bootWin v s).2 := by
  unfold bootWin
  try dsimp only
  repeat' (first
    | with_reducible assumption | with_reducible apply kept_updRst | with_reducible apply kept_foldl
    | with_reducible apply kept_foldl2 | with_reducible apply kept_foldl1 | (intro _) | (with_reducible split))

theorem kept_attCtrl {cq : List Instr} (v : BitVec 32) (s : State) (h_s : Kept cq s) : Kept cq (attCtrl v s).2 := by
  unfold attCtrl
  try dsimp only
  repeat' (first
    | with_reducible assumption | with_reducible apply kept_setReg | with_reducible apply kept_extendMs
    | with_reducible apply kept_foldl | with_reducible apply kept_foldl2 | with_reducible apply kept_foldl1 | (intro _)
    | (with_reducible split) | (dsimp only [Kept]; (first | with_reducible assumption | change Kept _ _)))

theorem kept_sysOp {cq : List Instr} (a : Nat) (v : BitVec 32) (s : State) (h_s : Kept cq s) : Kept cq (sysOp a v s).2 := by
  unfold sysOp
  try dsimp only
  repeat' (first
    | with_reducible assumption | with_reducible apply kept_setReg | with_reducible apply kept_updRst
    | with_reducible apply kept_okIf | with_reducible apply kept_bootCtrl | with_reducible apply kept_bootWin
    | with_reducible apply kept_regBit | with_reducible apply kept_beatCtrl | with_reducible apply kept_evsFree
    | with_reducible apply kept_attCtrl | with_reducible apply kept_foldl | with_reducible apply kept_foldl2
    | with_reducible apply kept_foldl1 | (intro _) | (with_reducible split)
    | (dsimp only [Kept]; (first | with_reducible assumption | change Kept _ _)))

theorem kept_recOp {cq : List Instr} (o : Origin) (a : Nat) (v : BitVec 32) (s : State) (h_s : Kept cq s) : Kept cq (recOp o a v
    s).2 := by
  unfold recOp
  try dsimp only
  repeat' (first
    | with_reducible assumption | with_reducible apply kept_recClear | with_reducible apply kept_logClear
    | with_reducible apply kept_setReg | with_reducible apply kept_foldl | with_reducible apply kept_foldl2
    | with_reducible apply kept_foldl1 | (intro _) | (with_reducible split))

theorem kept_bellOp {cq : List Instr} (a : Nat) (v : BitVec 32) (s : State) (h_s : Kept cq s) : Kept cq (bellOp a v s).2 := by
  unfold bellOp
  try dsimp only
  repeat' (first
    | with_reducible assumption | with_reducible apply kept_updReg | with_reducible apply kept_maskWrite
    | with_reducible apply kept_foldl | with_reducible apply kept_foldl2 | with_reducible apply kept_foldl1 | (intro _)
    | (with_reducible split))

theorem kept_regWriteOp {cq : List Instr} (o : Origin) (a : Nat) (v : BitVec 32) (s : State) (h_s : Kept cq s) : Kept cq
    (regWriteOp o a v s).2 := by
  unfold regWriteOp
  try dsimp only
  repeat' (first
    | with_reducible assumption | with_reducible apply kept_faultClear | with_reducible apply kept_palWriteOp
    | with_reducible apply kept_bellOp | with_reducible apply kept_recOp | with_reducible apply kept_govOp
    | with_reducible apply kept_ctlOp | with_reducible apply kept_railOp | with_reducible apply kept_okIf
    | with_reducible apply kept_packCtrl | with_reducible apply kept_setReg | with_reducible apply kept_regBit
    | with_reducible apply kept_netOp | with_reducible apply kept_ceClear | with_reducible apply kept_winOp
    | with_reducible apply kept_partOp | with_reducible apply kept_sysOp | with_reducible apply kept_foldl
    | with_reducible apply kept_foldl2 | with_reducible apply kept_foldl1 | (intro _) | (with_reducible split))

theorem kept_writeLogged {cq : List Instr} (o : Origin) (a : Nat) (v : BitVec 32) (s : State) (h_s : Kept cq s) : Kept cq
    (writeLogged o a v s).2 := by
  unfold writeLogged
  try dsimp only
  repeat' (first
    | with_reducible assumption | with_reducible apply kept_regWriteOp | with_reducible apply kept_logWrite
    | with_reducible apply kept_foldl | with_reducible apply kept_foldl2 | with_reducible apply kept_foldl1 | (intro _)
    | (with_reducible split) | (dsimp only [Kept]; (first | with_reducible assumption | change Kept _ _)))

theorem kept_channelWrite {cq : List Instr} (o : Origin) (a : Nat) (v : BitVec 32) (s : State) (h_s : Kept cq s) : Kept cq
    (channelWrite o a v s).2 := by
  unfold channelWrite
  try dsimp only
  repeat' (first
    | with_reducible assumption | with_reducible apply kept_msgWrite | with_reducible apply kept_ctrlWrite
    | with_reducible apply kept_foldl | with_reducible apply kept_foldl2 | with_reducible apply kept_foldl1 | (intro _)
    | (with_reducible split))

theorem kept_writeNow {cq : List Instr} (o : Origin) (a : Nat) (v : BitVec 32) (s : State) (h_s : Kept cq s) : Kept cq (writeNow
    o a v s).2 := by
  unfold writeNow
  try dsimp only
  repeat' (first
    | with_reducible assumption | with_reducible apply kept_report | with_reducible apply kept_channelWrite
    | with_reducible apply kept_ringWrite | with_reducible apply kept_rstCtrl | with_reducible apply kept_refuseRights
    | with_reducible apply kept_writeLogged | with_reducible apply kept_foldl | with_reducible apply kept_foldl2
    | with_reducible apply kept_foldl1 | (intro _) | (with_reducible split))

theorem kept_ctlWrite {cq : List Instr} (o : Origin) (a : Nat) (v : BitVec 32) (s : State) (h_s : Kept cq s) : Kept cq (ctlWrite
    o a v s).2 := by
  unfold ctlWrite
  try dsimp only
  repeat' (first
    | with_reducible assumption | with_reducible apply kept_writeNow | with_reducible apply kept_foldl
    | with_reducible apply kept_foldl2 | with_reducible apply kept_foldl1 | (intro _) | (with_reducible split)
    | (dsimp only [Kept]; (first | with_reducible assumption | change Kept _ _)))

theorem kept_accessed {cq : List Instr} (o : Origin) (a : Nat) (q : Resp × State) (h_q : Kept cq q.2) : Kept cq (accessed o a q)
    := by
  unfold accessed
  try dsimp only
  repeat' (first | with_reducible assumption | with_reducible apply kept_emit)

/-! ### Host -/

theorem kept_dropDatagram {cq : List Instr} (s : State) (h_s : Kept cq s) : Kept cq (dropDatagram s) := by
  unfold dropDatagram
  try dsimp only
  repeat' (first | with_reducible assumption | with_reducible apply kept_countReg)

theorem kept_openMgmt {cq : List Instr} (addr : BitVec 128) (port : BitVec 16) (seq : BitVec 32) (s : State) (h_s : Kept cq s) :
    Kept cq (openMgmt addr port seq s) := by
  unfold openMgmt
  try dsimp only
  repeat' (first
    | with_reducible assumption | with_reducible apply kept_dropDatagram | with_reducible apply kept_closeSession
    | with_reducible apply kept_wire | with_reducible apply kept_updSes | with_reducible apply kept_foldl
    | with_reducible apply kept_foldl2 | with_reducible apply kept_foldl1 | (intro _) | (with_reducible split))

theorem kept_execOpenSes {cq : List Instr} (addr : BitVec 128) (port : BitVec 16) (seq : BitVec 32) (s : State) (h_s : Kept cq
    s) : KeptO cq (execOpenSes addr port seq s) := by
  unfold execOpenSes
  try dsimp only
  repeat' (first | with_reducible assumption | with_reducible apply keptO_next | with_reducible apply kept_openMgmt)

theorem kept_execClose {cq : List Instr} (ses : BitVec 16) (addr : BitVec 128) (port : BitVec 16) (s : State) (h_s : Kept cq s)
    : KeptO cq (execClose ses addr port s) := by
  unfold execClose
  try dsimp only
  repeat' (first
    | with_reducible assumption | with_reducible apply keptO_next | with_reducible apply kept_closeSession
    | with_reducible apply kept_dropDatagram | with_reducible apply kept_foldl | with_reducible apply kept_foldl2
    | with_reducible apply kept_foldl1 | (intro _) | (with_reducible split))

theorem kept_execAck {cq : List Instr} (ses : BitVec 16) (addr : BitVec 128) (port : BitVec 16) (ackno : BitVec 32) (ecn : Bool)
    (s : State) (h_s : Kept cq s) : KeptO cq (execAck ses addr port ackno ecn s) := by
  unfold execAck
  try dsimp only
  repeat' (first
    | with_reducible assumption | with_reducible apply keptO_next | with_reducible apply kept_chanAck
    | with_reducible apply kept_dropDatagram | with_reducible apply kept_foldl | with_reducible apply kept_foldl2
    | with_reducible apply kept_foldl1 | (intro _) | (with_reducible split))

theorem kept_loseSpace {cq : List Instr} (sp : Space) (s : State) (h_s : Kept cq s) : Kept cq (loseSpace sp s) := by
  unfold loseSpace
  try dsimp only
  repeat' (first
    | with_reducible assumption | with_reducible apply kept_countReg | with_reducible apply kept_closeSession
    | with_reducible apply kept_chanPump | with_reducible apply kept_setChan | with_reducible apply kept_forAll
    | with_reducible apply kept_timeoutOp | with_reducible apply kept_foldl | with_reducible apply kept_foldl2
    | with_reducible apply kept_foldl1 | (intro _) | (with_reducible split))

theorem kept_retransmit {cq : List Instr} (sp : Space) (d : TxDg) (s : State) (h_s : Kept cq s) : Kept cq (retransmit sp d s) :=
    by
  unfold retransmit
  try dsimp only
  repeat' (first
    | with_reducible assumption | with_reducible apply kept_countReg | with_reducible apply kept_wire
    | with_reducible apply kept_setChan)

theorem kept_execDatagramRetransmit {cq : List Instr} (sp : Space) (s : State) (h_s : Kept cq s) : KeptO cq
    (execDatagramRetransmit sp s) := by
  unfold execDatagramRetransmit
  try dsimp only
  repeat' (first
    | with_reducible assumption | with_reducible apply keptO_next | with_reducible apply kept_loseSpace
    | with_reducible apply kept_forAll | with_reducible apply kept_retransmit | with_reducible apply kept_foldl
    | with_reducible apply kept_foldl2 | with_reducible apply kept_foldl1 | (intro _) | (with_reducible split))

theorem kept_logCmd {cq : List Instr} (n : Nat) (op : Nat) (new : Option (BitVec 64)) (s : State) (h_s : Kept cq s) : Kept cq
    (logCmd n op new s) := by
  unfold logCmd
  try dsimp only
  repeat' (first
    | with_reducible assumption | with_reducible apply kept_logEntry | with_reducible apply kept_useFree
    | with_reducible apply kept_foldl | with_reducible apply kept_foldl2 | with_reducible apply kept_foldl1 | (intro _)
    | (with_reducible split))

theorem kept_refuse {cq : List Instr} (n : Nat) (op : Nat) (tag : BitVec 16) (status : BitVec 8) (s : State) (h_s : Kept cq s) :
    Kept cq (refuse n op tag status s) := by
  unfold refuse
  try dsimp only
  repeat' (first
    | with_reducible assumption | with_reducible apply kept_respond | with_reducible apply kept_refuseRights
    | with_reducible apply kept_foldl | with_reducible apply kept_foldl2 | with_reducible apply kept_foldl1 | (intro _)
    | (with_reducible split))

theorem kept_done {cq : List Instr} (n : Nat) (op : Nat) (tag : BitVec 16) (new : Option (BitVec 64)) (q : BitVec 8 × State) (s
    : State) (h_q : Kept cq q.2) (h_s : Kept cq s) : Kept cq (done n op tag new q s) := by
  unfold done
  try dsimp only
  repeat' (first
    | with_reducible assumption | with_reducible apply kept_respond | with_reducible apply kept_logCmd
    | with_reducible apply kept_refuse | with_reducible apply kept_foldl | with_reducible apply kept_foldl2
    | with_reducible apply kept_foldl1 | (intro _) | (with_reducible split))

theorem kept_checked {cq : List Instr} (l : List (Bool × BitVec 8)) (t : State) (h_t : Kept cq t) : Kept cq (checked l t).2 :=
    by
  unfold checked
  try dsimp only
  repeat' (first | with_reducible assumption)

theorem kept_openSessionOp {cq : List Instr} (n : Nat) (m : BitVec 6) (addr : BitVec 128) (port : BitVec 16) (part : Option
    (BitVec 4)) (rights : BitVec 4) (s : State) (h_s : Kept cq s) : Kept cq (openSessionOp n m addr port part rights s).2 := by
  unfold openSessionOp
  try dsimp only
  repeat' (first | with_reducible assumption | with_reducible apply kept_checked | with_reducible apply kept_updSes)

theorem kept_closeSessionOp {cq : List Instr} (n : Nat) (m : BitVec 6) (s : State) (h_s : Kept cq s) : Kept cq (closeSessionOp n
    m s).2 := by
  unfold closeSessionOp
  try dsimp only
  repeat' (first | with_reducible assumption | with_reducible apply kept_checked | with_reducible apply kept_closeSession)

theorem kept_setIdOp {cq : List Instr} (n : Nat) (id : PkgId) (s : State) (h_s : Kept cq s) : Kept cq (setIdOp n id s).2 := by
  unfold setIdOp
  try dsimp only
  repeat' (first
    | with_reducible assumption | with_reducible apply kept_checked | with_reducible apply kept_foldl
    | with_reducible apply kept_foldl2 | with_reducible apply kept_foldl1 | (intro _) | (with_reducible split)
    | (dsimp only [Kept]; (first | with_reducible assumption | change Kept _ _)))

theorem kept_assignOp {cq : List Instr} (n : Nat) (p : BitVec 4) (map : BitVec 1024) (s : State) (h_s : Kept cq s) : Kept cq
    (assignOp n p map s).2 := by
  unfold assignOp
  try dsimp only
  repeat' (first
    | with_reducible assumption | with_reducible apply kept_checked | with_reducible apply kept_forAll
    | with_reducible apply kept_updTile | with_reducible apply kept_foldl | with_reducible apply kept_foldl2
    | with_reducible apply kept_foldl1 | (intro _))

theorem kept_releaseTile {cq : List Instr} (t : Nat) (s : State) (h_s : Kept cq s) : Kept cq (releaseTile t s) := by
  unfold releaseTile
  try dsimp only
  repeat' (first
    | with_reducible assumption | with_reducible apply kept_updTile | with_reducible apply kept_dropOps
    | with_reducible apply kept_regBit | with_reducible apply kept_foldl | with_reducible apply kept_foldl2
    | with_reducible apply kept_foldl1 | (intro _) | (with_reducible split)
    | (dsimp only [Kept]; (first | with_reducible assumption | change Kept _ _)))

theorem kept_releaseOp {cq : List Instr} (n : Nat) (p : BitVec 4) (map : BitVec 1024) (s : State) (h_s : Kept cq s) : Kept cq
    (releaseOp n p map s).2 := by
  unfold releaseOp
  try dsimp only
  repeat' (first
    | with_reducible assumption | with_reducible apply kept_checked | with_reducible apply kept_forAll
    | with_reducible apply kept_releaseTile | with_reducible apply kept_kernelStop | with_reducible apply kept_foldl
    | with_reducible apply kept_foldl2 | with_reducible apply kept_foldl1 | (intro _))

theorem kept_bindOp {cq : List Instr} (n : Nat) (p : BitVec 4) (q : BitVec 8) (s : State) (h_s : Kept cq s) : Kept cq (bindOp n
    p q s).2 := by
  unfold bindOp
  try dsimp only
  repeat' (first
    | with_reducible assumption | with_reducible apply kept_checked | with_reducible apply kept_updQueue
    | with_reducible apply kept_foldl | with_reducible apply kept_foldl2 | with_reducible apply kept_foldl1 | (intro _)
    | (with_reducible split))

theorem kept_unbindOp {cq : List Instr} (n : Nat) (p : BitVec 4) (q : BitVec 8) (s : State) (h_s : Kept cq s) : Kept cq
    (unbindOp n p q s).2 := by
  unfold unbindOp
  try dsimp only
  repeat' (first | with_reducible assumption | with_reducible apply kept_checked | with_reducible apply kept_updQueue)

theorem kept_launchOp {cq : List Instr} (n : Nat) (tag : BitVec 16) (p : BitVec 4) (d : LaunchDesc) (s : State) (h_s : Kept cq
    s) : Kept cq (launchOp n tag p d s) := by
  unfold launchOp
  try dsimp only
  repeat' (first | with_reducible assumption | with_reducible apply kept_updQueue)

theorem kept_launchCmd {cq : List Instr} (n : Nat) (tag : BitVec 16) (p : BitVec 4) (d : LaunchDesc) (s : State) (h_s : Kept cq
    s) : Kept cq (launchCmd n tag p d s) := by
  unfold launchCmd
  try dsimp only
  repeat' (first
    | with_reducible assumption | with_reducible apply kept_respond | with_reducible apply kept_launchOp
    | with_reducible apply kept_refuse | with_reducible apply kept_foldl | with_reducible apply kept_foldl2
    | with_reducible apply kept_foldl1 | (intro _) | (with_reducible split))

theorem kept_jobCreateOp {cq : List Instr} (n : Nat) (p : BitVec 4) (j : BitVec 16) (ms : List PkgId) (s : State) (h_s : Kept cq
    s) : Kept cq (jobCreateOp n p j ms s).2 := by
  unfold jobCreateOp
  try dsimp only
  repeat' (first
    | with_reducible assumption | with_reducible apply kept_checked | with_reducible apply kept_updPart
    | with_reducible apply kept_foldl | with_reducible apply kept_foldl2 | with_reducible apply kept_foldl1 | (intro _)
    | (with_reducible split) | (dsimp only [Kept]; (first | with_reducible assumption | change Kept _ _)))

theorem kept_dropGroups {cq : List Instr} (p : Nat) (s : State) (h_s : Kept cq s) : Kept cq (dropGroups p s) := by
  unfold dropGroups
  try dsimp only
  repeat' (first
    | with_reducible assumption | with_reducible apply kept_foldl | with_reducible apply kept_foldl2
    | with_reducible apply kept_foldl1 | (intro _) | (with_reducible split)
    | (dsimp only [Kept]; (first | with_reducible assumption | change Kept _ _)))

theorem kept_jobLeaveOp {cq : List Instr} (n : Nat) (p : BitVec 4) (s : State) (h_s : Kept cq s) : Kept cq (jobLeaveOp n p s).2
    := by
  unfold jobLeaveOp
  try dsimp only
  repeat' (first
    | with_reducible assumption | with_reducible apply kept_checked | with_reducible apply kept_dropGroups
    | with_reducible apply kept_updPart | with_reducible apply kept_foldl | with_reducible apply kept_foldl2
    | with_reducible apply kept_foldl1 | (intro _) | (with_reducible split)
    | (dsimp only [Kept]; (first | with_reducible assumption | change Kept _ _)))

theorem kept_barrierSetOp {cq : List Instr} (n : Nat) (p : BitVec 4) (g : BitVec 8) (map : BitVec 1024) (ms : List PkgId) (s :
    State) (h_s : Kept cq s) : Kept cq (barrierSetOp n p g map ms s).2 := by
  unfold barrierSetOp
  try dsimp only
  repeat' (first
    | with_reducible assumption | with_reducible apply kept_checked | with_reducible apply kept_foldl
    | with_reducible apply kept_foldl2 | with_reducible apply kept_foldl1 | (intro _) | (with_reducible split)
    | (dsimp only [Kept]; (first | with_reducible assumption | change Kept _ _)))

theorem kept_clearStop {cq : List Instr} (j : BitVec 16) (s : State) (h_s : Kept cq s) : Kept cq (clearStop j s) := by
  unfold clearStop
  try dsimp only
  repeat' (first | with_reducible assumption | with_reducible apply kept_updJob)

theorem kept_endClear {cq : List Instr} (ok : Bool) (c : ClearStop) (s : State) (h_s : Kept cq s) : Kept cq (endClear ok c s) :=
    by
  unfold endClear
  try dsimp only
  repeat' (first
    | with_reducible assumption | with_reducible apply kept_respond | with_reducible apply kept_logCmd
    | with_reducible apply kept_clearStop | with_reducible apply kept_foldl | with_reducible apply kept_foldl2
    | with_reducible apply kept_foldl1 | (intro _) | (with_reducible split)
    | (dsimp only [Kept]; (first | with_reducible assumption | change Kept _ _)))

theorem kept_readyClears {cq : List Instr} (s : State) (h_s : Kept cq s) : Kept cq (readyClears s) := by
  unfold readyClears
  try dsimp only
  repeat' (first
    | with_reducible assumption | with_reducible apply kept_forAll | with_reducible apply kept_endClear
    | with_reducible apply kept_foldl | with_reducible apply kept_foldl2 | with_reducible apply kept_foldl1 | (intro _)
    | (with_reducible split))

theorem kept_clearStopOp {cq : List Instr} (n : Nat) (tag : BitVec 16) (new : Option (BitVec 64)) (p : BitVec 4) (s : State)
    (h_s : Kept cq s) : Kept cq (clearStopOp n tag new p s) := by
  unfold clearStopOp
  try dsimp only
  repeat' (first
    | with_reducible assumption | with_reducible apply kept_refuse | with_reducible apply kept_readyClears
    | with_reducible apply kept_forAll | with_reducible apply kept_toMember | with_reducible apply kept_foldl
    | with_reducible apply kept_foldl2 | with_reducible apply kept_foldl1 | (intro _) | (with_reducible split)
    | (dsimp only [Kept]; (first | with_reducible assumption | change Kept _ _)))

theorem kept_queryIn {cq : List Instr} (src : PkgId) (j : BitVec 16) (s : State) (h_s : Kept cq s) : Kept cq (queryIn src j s)
    := by
  unfold queryIn
  try dsimp only
  repeat' (first
    | with_reducible assumption | with_reducible apply kept_toMember | with_reducible apply kept_foldl
    | with_reducible apply kept_foldl2 | with_reducible apply kept_foldl1 | (intro _) | (with_reducible split))

theorem kept_stopReportIn {cq : List Instr} (src : PkgId) (j : BitVec 16) (stopped : Bool) (s : State) (h_s : Kept cq s) : Kept
    cq (stopReportIn src j stopped s) := by
  unfold stopReportIn
  try dsimp only
  repeat' (first
    | with_reducible assumption | with_reducible apply kept_readyClears | with_reducible apply kept_forAll
    | with_reducible apply kept_endClear | with_reducible apply kept_foldl | with_reducible apply kept_foldl2
    | with_reducible apply kept_foldl1 | (intro _) | (with_reducible split)
    | (dsimp only [Kept]; (first | with_reducible assumption | change Kept _ _)))

theorem kept_windowSetOp {cq : List Instr} (n : Nat) (tag : BitVec 16) (w : BitVec 32) (e : BitVec 64) (s : State) (h_s : Kept
    cq s) : Kept cq (windowSetOp n tag w e s) := by
  unfold windowSetOp
  try dsimp only
  repeat' (first
    | with_reducible assumption | with_reducible apply kept_refuse | with_reducible apply kept_winWrite
    | with_reducible apply kept_respond | with_reducible apply kept_foldl | with_reducible apply kept_foldl2
    | with_reducible apply kept_foldl1 | (intro _) | (with_reducible split)
    | (dsimp only [Kept]; (first | with_reducible assumption | change Kept _ _)))

theorem kept_paletteOp {cq : List Instr} (n : Nat) (bad : BitVec 8) (k : Nat) (v : BitVec 32) (s : State) (h_s : Kept cq s) :
    Kept cq (paletteOp n bad k v s).2 := by
  unfold paletteOp
  try dsimp only
  repeat' (first | with_reducible assumption | with_reducible apply kept_entryCommit)

theorem kept_wattsOp {cq : List Instr} (n : Nat) (k : Nat) (w : BitVec 32) (s : State) (h_s : Kept cq s) : Kept cq (wattsOp n k
    w s).2 := by
  unfold wattsOp
  try dsimp only
  repeat' (first | with_reducible assumption | with_reducible apply kept_paletteOp)

theorem kept_pointOp {cq : List Instr} (n : Nat) (p : BitVec 8) (tag : BitVec 8) (op : BitVec 8) (l : BitVec 16) (s : State)
    (h_s : Kept cq s) : Kept cq (pointOp n p tag op l s).2 := by
  unfold pointOp
  try dsimp only
  repeat' (first | with_reducible assumption | with_reducible apply kept_paletteOp)

theorem kept_attestOp {cq : List Instr} (n : Nat) (tag : BitVec 16) (nonce : BitVec 256) (s : State) (h_s : Kept cq s) : Kept cq
    (attestOp n tag nonce s) := by
  unfold attestOp
  try dsimp only
  repeat' (first
    | with_reducible assumption | with_reducible apply kept_refuse | with_reducible apply kept_foldl
    | with_reducible apply kept_foldl2 | with_reducible apply kept_foldl1 | (intro _) | (with_reducible split)
    | (dsimp only [Kept]; (first | with_reducible assumption | change Kept _ _)))

theorem kept_readRegs {cq : List Instr} (o : Origin) (a k : Nat) (s : State) (h_s : Kept cq s) : Kept cq
    (readRegs o a k s).2.2 := by
  induction k generalizing a s with
  | zero => exact h_s
  | succ k ih =>
    unfold readRegs
    split
    · exact h_s
    · have h1 := kept_ctlRead o a s h_s
      generalize ctlRead o a s = q at h1 ⊢
      dsimp only
      split
      · exact ih _ _ h1
      · exact h1

theorem kept_regReadOp {cq : List Instr} (n : Nat) (tag : BitVec 16) (a : Nat) (count : Nat) (s : State) (h_s : Kept cq s) :
    Kept cq (regReadOp n tag a count s) := by
  unfold regReadOp
  try dsimp only
  repeat' (first
    | with_reducible assumption | with_reducible apply kept_refuse | with_reducible apply kept_readRegs
    | with_reducible apply kept_respond | with_reducible apply kept_foldl | with_reducible apply kept_foldl2
    | with_reducible apply kept_foldl1 | (intro _) | (with_reducible split))

theorem kept_writeRegs {cq : List Instr} (o : Origin) (a : Nat) (l : List (BitVec 32)) (s : State)
    (h_s : Kept cq s) : Kept cq (writeRegs o a l s).2.2 := by
  induction l generalizing a s with
  | nil => exact h_s
  | cons v l ih =>
    unfold writeRegs
    split
    · exact h_s
    · have h1 := kept_ctlWrite o a v s h_s
      generalize ctlWrite o a v s = q at h1 ⊢
      dsimp only
      split
      · exact h_s
      · split
        · exact h1
        · exact ih _ _ h1

theorem kept_regWriteCmd {cq : List Instr} (k : Nat) (n : Nat) (tag : BitVec 16) (a : Nat) (vals : List (BitVec 32)) (s : State)
    (h_s : Kept cq s) : Kept cq (regWriteCmd k n tag a vals s).2 := by
  unfold regWriteCmd
  try dsimp only
  repeat' (first
    | with_reducible assumption | with_reducible apply kept_refuse | with_reducible apply kept_writeRegs
    | with_reducible apply kept_respond | with_reducible apply kept_foldl | with_reducible apply kept_foldl2
    | with_reducible apply kept_foldl1 | (intro _) | (with_reducible split))

theorem kept_memOp {cq : List Instr} (k : RKind) (op : Nat) (n : Nat) (tag : BitVec 16) (ga : BitVec 64) (len : Nat) (data :
    List Byte) (s : State) (h_s : Kept cq s) : Kept cq (memOp k op n tag ga len data s) := by
  unfold memOp
  try dsimp only
  repeat' (first
    | with_reducible assumption | with_reducible apply kept_refuse | with_reducible apply kept_respond
    | with_reducible apply kept_sessionOp | with_reducible apply kept_foldl | with_reducible apply kept_foldl2
    | with_reducible apply kept_foldl1 | (intro _) | (with_reducible split))

theorem kept_mbxPostOp {cq : List Instr} (n : Nat) (ch : Nat) (dest : BitVec 7) (msg : List (BitVec 32)) (s : State) (h_s : Kept
    cq s) : Kept cq (mbxPostOp n ch dest msg s).2 := by
  unfold mbxPostOp
  try dsimp only
  repeat' (first
    | with_reducible assumption | with_reducible apply kept_mbxErr | with_reducible apply kept_updStaged
    | with_reducible apply kept_postStaged | with_reducible apply kept_logWrite | with_reducible apply kept_foldl
    | with_reducible apply kept_foldl2 | with_reducible apply kept_foldl1 | (intro _) | (with_reducible split))

theorem kept_mbxPostCmd {cq : List Instr} (n : Nat) (tag : BitVec 16) (ch : Nat) (dest : BitVec 7) (msg : List (BitVec 32)) (s :
    State) (h_s : Kept cq s) : Kept cq (mbxPostCmd n tag ch dest msg s).2 := by
  unfold mbxPostCmd
  try dsimp only
  repeat' (first
    | with_reducible assumption | with_reducible apply kept_mbxPostOp | with_reducible apply kept_refuse
    | with_reducible apply kept_foldl | with_reducible apply kept_foldl2 | with_reducible apply kept_foldl1 | (intro _)
    | (with_reducible split))

theorem kept_runCmd {cq : List Instr} (n : Nat) (tag : BitVec 16) (new : Option (BitVec 64)) (k : Nat) (c : HostCmd) (s : State)
    (h_s : Kept cq s) : Kept cq (runCmd n tag new k c s).2 := by
  unfold runCmd
  try dsimp only
  repeat' (first
    | with_reducible assumption | with_reducible apply kept_done | with_reducible apply kept_openSessionOp
    | with_reducible apply kept_closeSessionOp | with_reducible apply kept_setIdOp | with_reducible apply kept_regReadOp
    | with_reducible apply kept_regWriteCmd | with_reducible apply kept_memOp | with_reducible apply kept_assignOp
    | with_reducible apply kept_releaseOp | with_reducible apply kept_bindOp | with_reducible apply kept_unbindOp
    | with_reducible apply kept_launchCmd | with_reducible apply kept_jobCreateOp | with_reducible apply kept_clearStopOp
    | with_reducible apply kept_jobLeaveOp | with_reducible apply kept_barrierSetOp | with_reducible apply kept_windowSetOp
    | with_reducible apply kept_wattsOp | with_reducible apply kept_pointOp | with_reducible apply kept_attestOp
    | with_reducible apply kept_mbxPostCmd | with_reducible apply kept_refuse | with_reducible apply kept_foldl
    | with_reducible apply kept_foldl2 | with_reducible apply kept_foldl1 | (intro _) | (with_reducible split))

theorem kept_beginCmd {cq : List Instr} (n : Nat) (w : Waiting) (s : State) (h_s : Kept cq s) : Kept cq (beginCmd n w s).2 := by
  unfold beginCmd
  try dsimp only
  repeat' (first
    | with_reducible assumption | with_reducible apply kept_respond | with_reducible apply kept_runCmd
    | with_reducible apply kept_foldl | with_reducible apply kept_foldl2 | with_reducible apply kept_foldl1 | (intro _)
    | (with_reducible split))

theorem kept_pumpSes {cq : List Instr} (k n : Nat) (s : State) (h_s : Kept cq s) : Kept cq (pumpSes k n s) := by
  induction k generalizing s with
  | zero => exact h_s
  | succ k ih =>
    unfold pumpSes
    dsimp only
    repeat' (first
        | with_reducible assumption | with_reducible apply ih | with_reducible apply kept_beginCmd
        | with_reducible apply kept_updSes | (with_reducible split))

theorem kept_orphanRun {cq : List Instr} (n : Nat) (x : Session) (w : Waiting) (s : State) (h_s : Kept cq s) : Kept cq
    (orphanRun n x w s) := by
  unfold orphanRun
  try dsimp only
  repeat' (first
    | with_reducible assumption | with_reducible apply kept_updSes | with_reducible apply kept_writeRegs
    | with_reducible apply kept_mbxPostOp | with_reducible apply kept_foldl | with_reducible apply kept_foldl2
    | with_reducible apply kept_foldl1 | (intro _) | (with_reducible split)
    | (dsimp only [Kept]; (first | with_reducible assumption | change Kept _ _)))

theorem kept_pumpOrphans {cq : List Instr} (s : State) (h_s : Kept cq s) : Kept cq (pumpOrphans s) := by
  unfold pumpOrphans
  try dsimp only
  repeat' (first
    | with_reducible assumption | with_reducible apply kept_forAll | with_reducible apply kept_orphanRun
    | with_reducible apply kept_foldl | with_reducible apply kept_foldl2 | with_reducible apply kept_foldl1 | (intro _)
    | (with_reducible split) | (dsimp only [Kept]; (first | with_reducible assumption | change Kept _ _)))

theorem kept_pumpAll {cq : List Instr} (s : State) (h_s : Kept cq s) : Kept cq (pumpAll s) := by
  unfold pumpAll
  try dsimp only
  repeat' (first
    | with_reducible assumption | with_reducible apply kept_forAll | with_reducible apply kept_pumpSes
    | with_reducible apply kept_pumpOrphans | with_reducible apply kept_readyClears | with_reducible apply kept_foldl
    | with_reducible apply kept_foldl2 | with_reducible apply kept_foldl1 | (intro _))

theorem kept_cmdTake {cq : List Instr} (n : Nat) (tag : BitVec 16) (new : Option (BitVec 64)) (c : HostCmd) (s : State) (h_s :
    Kept cq s) : Kept cq (cmdTake n tag new c s) := by
  unfold cmdTake
  try dsimp only
  repeat' (first
    | with_reducible assumption | with_reducible apply kept_dropDatagram | with_reducible apply kept_hostSend
    | with_reducible apply kept_pumpAll | with_reducible apply kept_updSes | with_reducible apply kept_foldl
    | with_reducible apply kept_foldl2 | with_reducible apply kept_foldl1 | (intro _) | (with_reducible split))

theorem kept_cmdIn {cq : List Instr} (h : CmdHdr) (c : HostCmd) (s : State) (h_s : Kept cq s) : Kept cq (cmdIn h c s) := by
  unfold cmdIn
  try dsimp only
  repeat' (first | with_reducible assumption | with_reducible apply kept_cmdTake)

theorem kept_commandIn {cq : List Instr} (n : Nat) (d : Datagram) (s : State) (h_s : Kept cq s) : Kept cq (commandIn n d s) :=
    by
  unfold commandIn
  try dsimp only
  repeat' (first | with_reducible assumption | with_reducible apply kept_cmdTake)

theorem kept_execOpenSession {cq : List Instr} (h : CmdHdr) (n : BitVec 6) (addr : BitVec 128) (port : BitVec 16) (part : Option
    (BitVec 4)) (rights : BitVec 4) (s : State) (h_s : Kept cq s) : KeptO cq (execOpenSession h n addr port part rights s) := by
  unfold execOpenSession
  try dsimp only
  repeat' (first | with_reducible assumption | with_reducible apply keptO_next | with_reducible apply kept_cmdIn)

theorem kept_execCloseSession {cq : List Instr} (h : CmdHdr) (n : BitVec 6) (s : State) (h_s : Kept cq s) : KeptO cq
    (execCloseSession h n s) := by
  unfold execCloseSession
  try dsimp only
  repeat' (first | with_reducible assumption | with_reducible apply keptO_next | with_reducible apply kept_cmdIn)

theorem kept_execSetPackageId {cq : List Instr} (h : CmdHdr) (id : PkgId) (s : State) (h_s : Kept cq s) : KeptO cq
    (execSetPackageId h id s) := by
  unfold execSetPackageId
  try dsimp only
  repeat' (first | with_reducible assumption | with_reducible apply keptO_next | with_reducible apply kept_cmdIn)

theorem kept_execRegRead {cq : List Instr} (h : CmdHdr) (addr : BitVec 32) (count : Nat) (s : State) (h_s : Kept cq s) : KeptO
    cq (execRegRead h addr count s) := by
  unfold execRegRead
  try dsimp only
  repeat' (first | with_reducible assumption | with_reducible apply keptO_next | with_reducible apply kept_cmdIn)

theorem kept_execRegWrite {cq : List Instr} (h : CmdHdr) (addr : BitVec 32) (vals : List (BitVec 32)) (s : State) (h_s : Kept cq
    s) : KeptO cq (execRegWrite h addr vals s) := by
  unfold execRegWrite
  try dsimp only
  repeat' (first | with_reducible assumption | with_reducible apply keptO_next | with_reducible apply kept_cmdIn)

theorem kept_execMemWrite {cq : List Instr} (h : CmdHdr) (ga : BitVec 64) (data : List Byte) (s : State) (h_s : Kept cq s) :
    KeptO cq (execMemWrite h ga data s) := by
  unfold execMemWrite
  try dsimp only
  repeat' (first | with_reducible assumption | with_reducible apply keptO_next | with_reducible apply kept_cmdIn)

theorem kept_execMemRead {cq : List Instr} (h : CmdHdr) (ga : BitVec 64) (count : Nat) (s : State) (h_s : Kept cq s) : KeptO cq
    (execMemRead h ga count s) := by
  unfold execMemRead
  try dsimp only
  repeat' (first | with_reducible assumption | with_reducible apply keptO_next | with_reducible apply kept_cmdIn)

theorem kept_execAssignTiles {cq : List Instr} (h : CmdHdr) (part : BitVec 4) (map : BitVec 1024) (s : State) (h_s : Kept cq s)
    : KeptO cq (execAssignTiles h part map s) := by
  unfold execAssignTiles
  try dsimp only
  repeat' (first | with_reducible assumption | with_reducible apply keptO_next | with_reducible apply kept_cmdIn)

theorem kept_execReleaseTiles {cq : List Instr} (h : CmdHdr) (part : BitVec 4) (map : BitVec 1024) (s : State) (h_s : Kept cq s)
    : KeptO cq (execReleaseTiles h part map s) := by
  unfold execReleaseTiles
  try dsimp only
  repeat' (first | with_reducible assumption | with_reducible apply keptO_next | with_reducible apply kept_cmdIn)

theorem kept_execQueueBind {cq : List Instr} (h : CmdHdr) (part : BitVec 4) (q : BitVec 8) (s : State) (h_s : Kept cq s) : KeptO
    cq (execQueueBind h part q s) := by
  unfold execQueueBind
  try dsimp only
  repeat' (first | with_reducible assumption | with_reducible apply keptO_next | with_reducible apply kept_cmdIn)

theorem kept_execQueueUnbind {cq : List Instr} (h : CmdHdr) (part : BitVec 4) (q : BitVec 8) (s : State) (h_s : Kept cq s) :
    KeptO cq (execQueueUnbind h part q s) := by
  unfold execQueueUnbind
  try dsimp only
  repeat' (first | with_reducible assumption | with_reducible apply keptO_next | with_reducible apply kept_cmdIn)

theorem kept_execLaunch {cq : List Instr} (h : CmdHdr) (part : BitVec 4) (d : LaunchDesc) (s : State) (h_s : Kept cq s) : KeptO
    cq (execLaunch h part d s) := by
  unfold execLaunch
  try dsimp only
  repeat' (first | with_reducible assumption | with_reducible apply keptO_next | with_reducible apply kept_cmdIn)

theorem kept_execJobCreate {cq : List Instr} (h : CmdHdr) (part : BitVec 4) (job : BitVec 16) (members : List PkgId) (s : State)
    (h_s : Kept cq s) : KeptO cq (execJobCreate h part job members s) := by
  unfold execJobCreate
  try dsimp only
  repeat' (first | with_reducible assumption | with_reducible apply keptO_next | with_reducible apply kept_cmdIn)

theorem kept_execJobClearStop {cq : List Instr} (h : CmdHdr) (part : BitVec 4) (s : State) (h_s : Kept cq s) : KeptO cq
    (execJobClearStop h part s) := by
  unfold execJobClearStop
  try dsimp only
  repeat' (first | with_reducible assumption | with_reducible apply keptO_next | with_reducible apply kept_cmdIn)

theorem kept_execJobLeave {cq : List Instr} (h : CmdHdr) (part : BitVec 4) (s : State) (h_s : Kept cq s) : KeptO cq
    (execJobLeave h part s) := by
  unfold execJobLeave
  try dsimp only
  repeat' (first | with_reducible assumption | with_reducible apply keptO_next | with_reducible apply kept_cmdIn)

theorem kept_execBarrierSet {cq : List Instr} (h : CmdHdr) (part : BitVec 4) (g : BitVec 8) (map : BitVec 1024) (members : List
    PkgId) (s : State) (h_s : Kept cq s) : KeptO cq (execBarrierSet h part g map members s) := by
  unfold execBarrierSet
  try dsimp only
  repeat' (first | with_reducible assumption | with_reducible apply keptO_next | with_reducible apply kept_cmdIn)

theorem kept_execWindowSet {cq : List Instr} (h : CmdHdr) (w : BitVec 32) (e : BitVec 64) (s : State) (h_s : Kept cq s) : KeptO
    cq (execWindowSet h w e s) := by
  unfold execWindowSet
  try dsimp only
  repeat' (first | with_reducible assumption | with_reducible apply keptO_next | with_reducible apply kept_cmdIn)

theorem kept_execSetCap {cq : List Instr} (h : CmdHdr) (watts : BitVec 32) (s : State) (h_s : Kept cq s) : KeptO cq (execSetCap
    h watts s) := by
  unfold execSetCap
  try dsimp only
  repeat' (first | with_reducible assumption | with_reducible apply keptO_next | with_reducible apply kept_cmdIn)

theorem kept_execSetPhasePoint {cq : List Instr} (h : CmdHdr) (part : BitVec 8) (tag : BitVec 8) (op : BitVec 8) (l : BitVec 16)
    (s : State) (h_s : Kept cq s) : KeptO cq (execSetPhasePoint h part tag op l s) := by
  unfold execSetPhasePoint
  try dsimp only
  repeat' (first | with_reducible assumption | with_reducible apply keptO_next | with_reducible apply kept_cmdIn)

theorem kept_execSetEnvelope {cq : List Instr} (h : CmdHdr) (watts : BitVec 32) (s : State) (h_s : Kept cq s) : KeptO cq
    (execSetEnvelope h watts s) := by
  unfold execSetEnvelope
  try dsimp only
  repeat' (first | with_reducible assumption | with_reducible apply keptO_next | with_reducible apply kept_cmdIn)

theorem kept_execAttest {cq : List Instr} (h : CmdHdr) (nonce : BitVec 256) (s : State) (h_s : Kept cq s) : KeptO cq (execAttest
    h nonce s) := by
  unfold execAttest
  try dsimp only
  repeat' (first | with_reducible assumption | with_reducible apply keptO_next | with_reducible apply kept_cmdIn)

theorem kept_execMbxPost {cq : List Instr} (h : CmdHdr) (ch : BitVec 8) (dest : BitVec 7) (msg : List (BitVec 32)) (s : State)
    (h_s : Kept cq s) : KeptO cq (execMbxPost h ch dest msg s) := by
  unfold execMbxPost
  try dsimp only
  repeat' (first | with_reducible assumption | with_reducible apply keptO_next | with_reducible apply kept_cmdIn)

theorem kept_execWindowDrainEnd {cq : List Instr} (s : State) (h_s : Kept cq s) : KeptO cq (execWindowDrainEnd s) := by
  unfold execWindowDrainEnd
  try dsimp only
  repeat' (first
    | with_reducible assumption | with_reducible apply keptO_next | with_reducible apply kept_pumpAll
    | with_reducible apply kept_forAll | with_reducible apply kept_respond | with_reducible apply kept_regBit
    | with_reducible apply kept_foldl | with_reducible apply kept_foldl2 | with_reducible apply kept_foldl1 | (intro _)
    | (with_reducible split) | (dsimp only [Kept]; (first | with_reducible assumption | change Kept _ _)))

theorem kept_execJobStopQuery {cq : List Instr} (src : PkgId) (job : BitVec 16) (s : State) (h_s : Kept cq s) : KeptO cq
    (execJobStopQuery src job s) := by
  unfold execJobStopQuery
  try dsimp only
  repeat' (first | with_reducible assumption | with_reducible apply keptO_next | with_reducible apply kept_queryIn)

theorem kept_execJobStopAnswer {cq : List Instr} (src : PkgId) (job : BitVec 16) (stopped : Bool) (s : State) (h_s : Kept cq s)
    : KeptO cq (execJobStopAnswer src job stopped s) := by
  unfold execJobStopAnswer
  try dsimp only
  repeat' (first
    | with_reducible assumption | with_reducible apply keptO_next | with_reducible apply kept_pumpAll
    | with_reducible apply kept_stopReportIn)

theorem kept_execJobClearStopTimeout {cq : List Instr} (job : BitVec 16) (s : State) (h_s : Kept cq s) : KeptO cq
    (execJobClearStopTimeout job s) := by
  unfold execJobClearStopTimeout
  try dsimp only
  repeat' (first
    | with_reducible assumption | with_reducible apply keptO_next | with_reducible apply kept_pumpAll
    | with_reducible apply kept_forAll | with_reducible apply kept_endClear)

theorem kept_execCompatHeldRelease {cq : List Instr} (s : State) (h_s : Kept cq s) : KeptO cq (execCompatHeldRelease s) := by
  unfold execCompatHeldRelease
  try dsimp only
  repeat' (first
    | with_reducible assumption | with_reducible apply keptO_next | with_reducible apply kept_pumpAll
    | with_reducible apply kept_compatRelease)

theorem kept_heldWrites {cq : List Instr} (k : Nat) (s : State) (h_s : Kept cq s) : Kept cq (heldWrites k s) := by
  induction k generalizing s with
  | zero => exact h_s
  | succ k ih =>
    unfold heldWrites
    dsimp only
    repeat' (first
        | with_reducible assumption | with_reducible apply ih | with_reducible apply kept_accessed
        | with_reducible apply kept_writeNow | (with_reducible split)
        | (dsimp only [Kept]; (first | with_reducible assumption | (change Kept _ _))))

theorem kept_execChangeHoldRelease {cq : List Instr} (s : State) (h_s : Kept cq s) : KeptO cq (execChangeHoldRelease s) := by
  unfold execChangeHoldRelease
  try dsimp only
  repeat' (first
    | with_reducible assumption | with_reducible apply keptO_next | with_reducible apply kept_pumpAll
    | with_reducible apply kept_heldWrites)

/-! ### Boot -/

theorem kept_palBoth {cq : List Instr} (k : Nat) (v : BitVec 32) (s : State) (h_s : Kept cq s) : Kept cq (palBoth k v s) := by
  unfold palBoth
  try dsimp only
  repeat' (first | with_reducible assumption | with_reducible apply kept_setInact | with_reducible apply kept_setAct)

theorem kept_optChannel {cq : List Instr} (a : Nat) (v : BitVec 32) (s : State) (h_s : Kept cq s) : Kept cq (optChannel a v s)
    := by
  unfold optChannel
  try dsimp only
  repeat' (first
    | with_reducible assumption | with_reducible apply kept_updRst | with_reducible apply kept_updMbx
    | with_reducible apply kept_mbxErr | with_reducible apply kept_updStaged | with_reducible apply kept_postStaged
    | with_reducible apply kept_foldl | with_reducible apply kept_foldl2 | with_reducible apply kept_foldl1 | (intro _)
    | (with_reducible split))

theorem kept_optRstCtrl {cq : List Instr} (v : BitVec 32) (s : State) (h_s : Kept cq s) : Kept cq (optRstCtrl v s) := by
  unfold optRstCtrl
  try dsimp only
  repeat' (first
    | with_reducible assumption | with_reducible apply kept_updRst | with_reducible apply kept_fireSource
    | with_reducible apply kept_foldl | with_reducible apply kept_foldl2 | with_reducible apply kept_foldl1 | (intro _)
    | (with_reducible split))

theorem kept_optWrite {cq : List Instr} (a : Nat) (v : BitVec 32) (s : State) (h_s : Kept cq s) : Kept cq (optWrite a v s) := by
  unfold optWrite
  try dsimp only
  repeat' (first
    | with_reducible assumption | with_reducible apply kept_palBoth | with_reducible apply kept_optRstCtrl
    | with_reducible apply kept_setReg | with_reducible apply kept_regBit | with_reducible apply kept_ringGo
    | with_reducible apply kept_mbxErr | with_reducible apply kept_optChannel | with_reducible apply kept_regWriteOp
    | with_reducible apply kept_foldl | with_reducible apply kept_foldl2 | with_reducible apply kept_foldl1 | (intro _)
    | (with_reducible split))

theorem kept_optApply {cq : List Instr} (bs : List Byte) (n : Nat) (s : State) (h_s : Kept cq s) : Kept cq
    (optApply bs n s).2 := by
  induction n generalizing bs s with
  | zero => exact h_s
  | succ n ih =>
    unfold optApply
    dsimp only
    split
    · exact ih _ _ (kept_updRst _ _ h_s)
    · split
      · exact kept_coldReset _ _ h_s
      · exact ih _ _ (kept_optWrite _ _ _ h_s)

theorem kept_railAuto {cq : List Instr} (s : State) (h_s : Kept cq s) : Kept cq (railAuto s) := by
  unfold railAuto
  try dsimp only
  repeat' (first
    | with_reducible assumption | with_reducible apply kept_forAll | with_reducible apply kept_railEnSet
    | with_reducible apply kept_foldl | with_reducible apply kept_foldl2 | with_reducible apply kept_foldl1 | (intro _))

theorem kept_optDone {cq : List Instr} (src : BitVec 2) (digest : BitVec 256) (s : State) (h_s : Kept cq s) : Kept cq (optDone
    src digest s) := by
  unfold optDone
  try dsimp only
  repeat' (first
    | with_reducible assumption | with_reducible apply kept_updRst | with_reducible apply kept_releaseBlocks
    | with_reducible apply kept_railAuto | with_reducible apply kept_logHw)

theorem kept_optLoaded {cq : List Instr} (copy : Option (Nat × List Byte)) (s : State) (h_s : Kept cq s) : Kept cq (optLoaded
    copy s) := by
  unfold optLoaded
  try dsimp only
  repeat' (first
    | with_reducible assumption | with_reducible apply kept_optDone | with_reducible apply kept_optApply
    | with_reducible apply kept_foldl | with_reducible apply kept_foldl2 | with_reducible apply kept_foldl1 | (intro _)
    | (with_reducible split))

theorem kept_execOptionLoadDone {cq : List Instr} (s : State) (h_s : Kept cq s) : KeptO cq (execOptionLoadDone s) := by
  unfold execOptionLoadDone
  try dsimp only
  repeat' (first
    | with_reducible assumption | with_reducible apply keptO_next | with_reducible apply kept_optLoaded
    | with_reducible apply kept_foldl | with_reducible apply kept_foldl2 | with_reducible apply kept_foldl1 | (intro _)
    | (with_reducible split))

theorem kept_loadMicro {cq : List Instr} (s : State) (h_s : Kept cq s) : Kept cq (loadMicro s) := by
  unfold loadMicro
  try dsimp only
  repeat' (first
    | with_reducible assumption | with_reducible apply kept_releaseBlocks | with_reducible apply kept_updRst
    | with_reducible apply kept_extendMs | with_reducible apply kept_foldl | with_reducible apply kept_foldl2
    | with_reducible apply kept_foldl1 | (intro _) | (with_reducible split))

theorem kept_loadSteward {cq : List Instr} (s : State) (h_s : Kept cq s) : Kept cq (loadSteward s) := by
  unfold loadSteward
  try dsimp only
  repeat' (first
    | with_reducible assumption | with_reducible apply kept_startFirmware | with_reducible apply kept_foldl
    | with_reducible apply kept_foldl2 | with_reducible apply kept_foldl1 | (intro _) | (with_reducible split))

theorem kept_execBootImageLoaded {cq : List Instr} (micro : Bool) (s : State) (h_s : Kept cq s) : KeptO cq (execBootImageLoaded
    micro s) := by
  unfold execBootImageLoaded
  try dsimp only
  repeat' (first
    | with_reducible assumption | with_reducible apply keptO_next | with_reducible apply kept_loadMicro
    | with_reducible apply kept_pumpAll | with_reducible apply kept_loadSteward | with_reducible apply kept_foldl
    | with_reducible apply kept_foldl2 | with_reducible apply kept_foldl1 | (intro _) | (with_reducible split))

theorem kept_execBootRequestPeriod {cq : List Instr} (s : State) (h_s : Kept cq s) : KeptO cq (execBootRequestPeriod s) := by
  unfold execBootRequestPeriod
  try dsimp only
  repeat' (first
    | with_reducible assumption | with_reducible apply keptO_next | with_reducible apply kept_linkSend
    | with_reducible apply kept_updRst | with_reducible apply kept_foldl | with_reducible apply kept_foldl2
    | with_reducible apply kept_foldl1 | (intro _) | (with_reducible split))

theorem kept_bootRequestIn {cq : List Instr} (n : Nat) (src : PkgId) (s : State) (h_s : Kept cq s) : Kept cq (bootRequestIn n
    src s) := by
  unfold bootRequestIn
  try dsimp only
  repeat' (first
    | with_reducible assumption | with_reducible apply kept_forAll | with_reducible apply kept_linkSend
    | with_reducible apply kept_foldl | with_reducible apply kept_foldl2 | with_reducible apply kept_foldl1 | (intro _)
    | (with_reducible split))

theorem kept_bootPacketIn {cq : List Instr} (last : Bool) (data : List Byte) (s : State) (h_s : Kept cq s) : Kept cq
    (bootPacketIn last data s) := by
  unfold bootPacketIn
  try dsimp only
  repeat' (first
    | with_reducible assumption | with_reducible apply kept_updRst | with_reducible apply kept_imageDone
    | with_reducible apply kept_foldl | with_reducible apply kept_foldl2 | with_reducible apply kept_foldl1 | (intro _)
    | (with_reducible split))

theorem kept_execBootPacket {cq : List Instr} (last : Bool) (data : List Byte) (s : State) (h_s : Kept cq s) : KeptO cq
    (execBootPacket last data s) := by
  unfold execBootPacket
  try dsimp only
  repeat' (first
    | with_reducible assumption | with_reducible apply keptO_next | with_reducible apply kept_pumpAll
    | with_reducible apply kept_bootPacketIn)

theorem kept_execBootFailure {cq : List Instr} (s : State) (h_s : Kept cq s) : KeptO cq (execBootFailure s) := by
  unfold execBootFailure
  try dsimp only
  repeat' (first
    | with_reducible assumption | with_reducible apply keptO_next | with_reducible apply kept_updRst
    | with_reducible apply kept_foldl | with_reducible apply kept_foldl2 | with_reducible apply kept_foldl1 | (intro _)
    | (with_reducible split))

theorem kept_execBootRetry {cq : List Instr} (s : State) (h_s : Kept cq s) : KeptO cq (execBootRetry s) := by
  unfold execBootRetry
  try dsimp only
  repeat' (first
    | with_reducible assumption | with_reducible apply keptO_next | with_reducible apply kept_updRst
    | with_reducible apply kept_loadMicro | with_reducible apply kept_pumpAll | with_reducible apply kept_loadSteward
    | with_reducible apply kept_foldl | with_reducible apply kept_foldl2 | with_reducible apply kept_foldl1 | (intro _)
    | (with_reducible split))

theorem kept_reportFor {cq : List Instr} (nonce : BitVec 256) (s : State) (h_s : Kept cq s) : Kept cq (reportFor nonce s).2 :=
    by
  unfold reportFor
  try dsimp only
  repeat' (first
    | with_reducible assumption | with_reducible apply kept_signPart | with_reducible apply kept_useFree
    | with_reducible apply kept_foldl | with_reducible apply kept_foldl2 | with_reducible apply kept_foldl1 | (intro _)
    | (with_reducible split))

theorem kept_execAttestReportDone {cq : List Instr} (s : State) (h_s : Kept cq s) : KeptO cq (execAttestReportDone s) := by
  unfold execAttestReportDone
  try dsimp only
  repeat' (first
    | with_reducible assumption | with_reducible apply keptO_next | with_reducible apply kept_reportFor
    | with_reducible apply kept_respond | with_reducible apply kept_foldl | with_reducible apply kept_foldl2
    | with_reducible apply kept_foldl1 | (intro _) | (with_reducible split)
    | (dsimp only [Kept]; (first | with_reducible assumption | change Kept _ _)))

/-! ### Net -/

theorem kept_faultStopIn {cq : List Instr} (src : PkgId) (j : BitVec 16) (s : State) (h_s : Kept cq s) : Kept cq (faultStopIn
    src j s) := by
  unfold faultStopIn
  try dsimp only
  repeat' (first
    | with_reducible assumption | with_reducible apply kept_jobStopFrom | with_reducible apply kept_toMember
    | with_reducible apply kept_foldl | with_reducible apply kept_foldl2 | with_reducible apply kept_foldl1 | (intro _)
    | (with_reducible split))

theorem kept_execFaultStop {cq : List Instr} (src : PkgId) (job : BitVec 16) (s : State) (h_s : Kept cq s) : KeptO cq
    (execFaultStop src job s) := by
  unfold execFaultStop
  try dsimp only
  repeat' (first | with_reducible assumption | with_reducible apply keptO_next | with_reducible apply kept_faultStopIn)

theorem kept_execFaultStopRepeat {cq : List Instr} (s : State) (h_s : Kept cq s) : KeptO cq (execFaultStopRepeat s) := by
  unfold execFaultStopRepeat
  try dsimp only
  repeat' (first
    | with_reducible assumption | with_reducible apply keptO_next | with_reducible apply kept_forAll
    | with_reducible apply kept_toMember | with_reducible apply kept_foldl | with_reducible apply kept_foldl2
    | with_reducible apply kept_foldl1 | (intro _))

theorem kept_faultStopAckIn {cq : List Instr} (src : PkgId) (j : BitVec 16) (s : State) (h_s : Kept cq s) : Kept cq
    (faultStopAckIn src j s) := by
  unfold faultStopAckIn
  try dsimp only
  repeat' (first | with_reducible assumption | with_reducible apply kept_updJob)

theorem kept_execFaultStopAck {cq : List Instr} (src : PkgId) (job : BitVec 16) (s : State) (h_s : Kept cq s) : KeptO cq
    (execFaultStopAck src job s) := by
  unfold execFaultStopAck
  try dsimp only
  repeat' (first | with_reducible assumption | with_reducible apply keptO_next | with_reducible apply kept_faultStopAckIn)

theorem kept_leavingIn {cq : List Instr} (src : PkgId) (j : BitVec 16) (s : State) (h_s : Kept cq s) : Kept cq (leavingIn src j
    s) := by
  unfold leavingIn
  try dsimp only
  repeat' (first
    | with_reducible assumption | with_reducible apply kept_jobStopFrom | with_reducible apply kept_stopReportIn
    | with_reducible apply kept_updJob)

theorem kept_execLeavingNotice {cq : List Instr} (src : PkgId) (job : BitVec 16) (s : State) (h_s : Kept cq s) : KeptO cq
    (execLeavingNotice src job s) := by
  unfold execLeavingNotice
  try dsimp only
  repeat' (first
    | with_reducible assumption | with_reducible apply keptO_next | with_reducible apply kept_pumpAll
    | with_reducible apply kept_leavingIn)

theorem kept_execVauxWarning {cq : List Instr} (s : State) (h_s : Kept cq s) : KeptO cq (execVauxWarning s) := by
  unfold execVauxWarning
  try dsimp only
  repeat' (first
    | with_reducible assumption | with_reducible apply keptO_next | with_reducible apply kept_haltFor
    | with_reducible apply kept_selfRefreshOn | with_reducible apply kept_updRst | with_reducible apply kept_foldl
    | with_reducible apply kept_foldl2 | with_reducible apply kept_foldl1 | (intro _) | (with_reducible split)
    | (dsimp only [Kept]; (first | with_reducible assumption | change Kept _ _)))

theorem kept_execVauxWarningClear {cq : List Instr} (s : State) (h_s : Kept cq s) : KeptO cq (execVauxWarningClear s) := by
  unfold execVauxWarningClear
  try dsimp only
  repeat' (first
    | with_reducible assumption | with_reducible apply keptO_next | with_reducible apply kept_updRst
    | with_reducible apply kept_endHalt | with_reducible apply kept_flashResume | with_reducible apply kept_foldl
    | with_reducible apply kept_foldl2 | with_reducible apply kept_foldl1 | (intro _) | (with_reducible split)
    | (dsimp only [Kept]; (first | with_reducible assumption | change Kept _ _)))

theorem kept_applyWhole {cq : List Instr} (src : PkgId) (n : Option Nat) (m : NetMsg) (s : State) (h_s : Kept cq s) : Kept cq
    (applyWhole src n m s) := by
  unfold applyWhole
  try dsimp only
  repeat' (first
    | with_reducible assumption | with_reducible apply kept_remoteIn | with_reducible apply kept_responseIn
    | with_reducible apply kept_faultStopIn | with_reducible apply kept_faultStopAckIn | with_reducible apply kept_leavingIn
    | with_reducible apply kept_arrivalIn | with_reducible apply kept_releaseIn | with_reducible apply kept_syncIn
    | with_reducible apply kept_announceIn | with_reducible apply kept_delayRequestIn | with_reducible apply kept_delayIn
    | with_reducible apply kept_linkStateIn | with_reducible apply kept_ringIn | with_reducible apply kept_mboxIn
    | with_reducible apply kept_mboxReplyIn | with_reducible apply kept_reportIn | with_reducible apply kept_packAnswerIn
    | with_reducible apply kept_noticeIn | with_reducible apply kept_levelIn | with_reducible apply kept_queryIn
    | with_reducible apply kept_stopReportIn | with_reducible apply kept_bootRequestIn | with_reducible apply kept_bootPacketIn
    | with_reducible apply kept_farRequestIn | with_reducible apply kept_farValuesIn | with_reducible apply kept_capRecordIn
    | with_reducible apply kept_foldl | with_reducible apply kept_foldl2 | with_reducible apply kept_foldl1 | (intro _)
    | (with_reducible split))

theorem kept_applyMsg {cq : List Instr} (src : PkgId) (n : Option Nat) (m : NetMsg) (s : State) (h_s : Kept cq s) : Kept cq
    (applyMsg src n m s) := by
  unfold applyMsg
  try dsimp only
  repeat' (first
    | with_reducible assumption | with_reducible apply kept_assemble | with_reducible apply kept_applyWhole
    | with_reducible apply kept_foldl | with_reducible apply kept_foldl2 | with_reducible apply kept_foldl1 | (intro _)
    | (with_reducible split))

theorem kept_takeAck {cq : List Instr} (n : Nat) (p : LinkFrame) (s : State) (h_s : Kept cq s) : Kept cq (takeAck n p s) := by
  unfold takeAck
  try dsimp only
  repeat' (first
    | with_reducible assumption | with_reducible apply kept_linkRetry | with_reducible apply kept_transmit
    | with_reducible apply kept_linkAcked | with_reducible apply kept_foldl | with_reducible apply kept_foldl2
    | with_reducible apply kept_foldl1 | (intro _) | (with_reducible split))

theorem kept_acceptPacket {cq : List Instr} (n : Nat) (p : LinkFrame) (m : NetMsg) (s : State) (h_s : Kept cq s) : Kept cq
    (acceptPacket n p m s) := by
  unfold acceptPacket
  try dsimp only
  repeat' (first
    | with_reducible assumption | with_reducible apply kept_emit | with_reducible apply kept_updLink
    | with_reducible apply kept_applyMsg | with_reducible apply kept_forward | with_reducible apply kept_foldl
    | with_reducible apply kept_foldl2 | with_reducible apply kept_foldl1 | (intro _) | (with_reducible split))

theorem kept_linkFec {cq : List Instr} (n : Nat) (p : LinkFrame) (s : State) (h_s : Kept cq s) : Kept cq (linkFec n p s) := by
  unfold linkFec
  try dsimp only
  repeat' (first | with_reducible assumption | with_reducible apply kept_countReg)

theorem kept_goodPacket {cq : List Instr} (n : LinkId) (p : LinkFrame) (s : State) (h_s : Kept cq s) : Kept cq (goodPacket n p
    s) := by
  unfold goodPacket
  try dsimp only
  repeat' (first
    | with_reducible assumption | with_reducible apply kept_takeAck | with_reducible apply kept_pumpAll
    | with_reducible apply kept_acceptPacket | with_reducible apply kept_emit | with_reducible apply kept_foldl
    | with_reducible apply kept_foldl2 | with_reducible apply kept_foldl1 | (intro _) | (with_reducible split))

theorem kept_execLinkPacket {cq : List Instr} (n : LinkId) (p : LinkFrame) (s : State) (h_s : Kept cq s) : KeptO cq
    (execLinkPacket n p s) := by
  unfold execLinkPacket
  try dsimp only
  repeat' (first
    | with_reducible assumption | with_reducible apply keptO_next | with_reducible apply kept_linkFec
    | with_reducible apply kept_emit | with_reducible apply kept_goodPacket | with_reducible apply kept_foldl
    | with_reducible apply kept_foldl2 | with_reducible apply kept_foldl1 | (intro _) | (with_reducible split))

theorem kept_sendAck {cq : List Instr} (sp : Space) (s : State) (h_s : Kept cq s) : Kept cq (sendAck sp s) := by
  unfold sendAck
  try dsimp only
  repeat' (first
    | with_reducible assumption | with_reducible apply kept_wire | with_reducible apply kept_ethPut
    | with_reducible apply kept_foldl | with_reducible apply kept_foldl2 | with_reducible apply kept_foldl1 | (intro _)
    | (with_reducible split))

theorem kept_sequenced {cq : List Instr} (sp : Space) (d : Datagram) (s : State) (h_s : Kept cq s) : Kept cq (sequenced sp d
    s).2 := by
  unfold sequenced
  try dsimp only
  repeat' (first
    | with_reducible assumption | with_reducible apply kept_chanAck | with_reducible apply kept_sendAck
    | with_reducible apply kept_setChan | with_reducible apply kept_foldl | with_reducible apply kept_foldl2
    | with_reducible apply kept_foldl1 | (intro _) | (with_reducible split))

theorem kept_sessionDatagram {cq : List Instr} (src : BitVec 128) (sport : BitVec 16) (d : Datagram) (s : State) (h_s : Kept cq
    s) : Kept cq (sessionDatagram src sport d s) := by
  unfold sessionDatagram
  try dsimp only
  repeat' (first
    | with_reducible assumption | with_reducible apply kept_openMgmt | with_reducible apply kept_dropDatagram
    | with_reducible apply kept_chanAck | with_reducible apply kept_sequenced | with_reducible apply kept_commandIn
    | with_reducible apply kept_closeSession | with_reducible apply kept_foldl | with_reducible apply kept_foldl2
    | with_reducible apply kept_foldl1 | (intro _) | (with_reducible split))

theorem kept_peerDatagram {cq : List Instr} (d : Datagram) (s : State) (h_s : Kept cq s) : Kept cq (peerDatagram d s) := by
  unfold peerDatagram
  try dsimp only
  repeat' (first
    | with_reducible assumption | with_reducible apply kept_chanAck | with_reducible apply kept_sequenced
    | with_reducible apply kept_applyMsg | with_reducible apply kept_dropDatagram | with_reducible apply kept_foldl
    | with_reducible apply kept_foldl2 | with_reducible apply kept_foldl1 | (intro _) | (with_reducible split))

theorem kept_datagramIn {cq : List Instr} (src : BitVec 128) (dst : BitVec 128) (sport : BitVec 16) (d : Datagram) (s : State)
    (h_s : Kept cq s) : Kept cq (datagramIn src dst sport d s) := by
  unfold datagramIn
  try dsimp only
  repeat' (first
    | with_reducible assumption | with_reducible apply kept_dropDatagram | with_reducible apply kept_peerDatagram
    | with_reducible apply kept_sessionDatagram | with_reducible apply kept_foldl | with_reducible apply kept_foldl2
    | with_reducible apply kept_foldl1 | (intro _) | (with_reducible split))

theorem kept_portFec {cq : List Instr} (e : EthFrame) (s : State) (h_s : Kept cq s) : Kept cq (portFec e s) := by
  unfold portFec
  try dsimp only
  repeat' (first | with_reducible assumption | with_reducible apply kept_countReg | with_reducible apply kept_setReg64)

theorem kept_pfcIn {cq : List Instr} (q : Nat) (s : State) (h_s : Kept cq s) : Kept cq (pfcIn q s) := by
  unfold pfcIn
  try dsimp only
  repeat' (first
    | with_reducible assumption | with_reducible apply kept_ethPump | with_reducible apply kept_foldl
    | with_reducible apply kept_foldl2 | with_reducible apply kept_foldl1 | (intro _) | (with_reducible split)
    | (dsimp only [Kept]; (first | with_reducible assumption | change Kept _ _)))

theorem kept_frameIn {cq : List Instr} (k : EthKind) (s : State) (h_s : Kept cq s) : Kept cq (frameIn k s) := by
  unfold frameIn
  try dsimp only
  repeat' (first
    | with_reducible assumption | with_reducible apply kept_dropDatagram | with_reducible apply kept_pfcIn
    | with_reducible apply kept_pumpAll | with_reducible apply kept_datagramIn | with_reducible apply kept_foldl
    | with_reducible apply kept_foldl2 | with_reducible apply kept_foldl1 | (intro _) | (with_reducible split))

theorem kept_execEthFrame {cq : List Instr} (e : EthFrame) (s : State) (h_s : Kept cq s) : KeptO cq (execEthFrame e s) := by
  unfold execEthFrame
  try dsimp only
  repeat' (first
    | with_reducible assumption | with_reducible apply keptO_next | with_reducible apply kept_portFec
    | with_reducible apply kept_dropDatagram | with_reducible apply kept_frameIn | with_reducible apply kept_foldl
    | with_reducible apply kept_foldl2 | with_reducible apply kept_foldl1 | (intro _) | (with_reducible split))

/-! ### Access -/

theorem kept_wr {cq : List Instr} (o : Origin) (a : Nat) (v : BitVec 32) (s : State) (h_s : Kept cq s) : Kept cq (wr o a v s) :=
    by
  unfold wr
  try dsimp only
  repeat' (first | with_reducible assumption | with_reducible apply kept_accessed | with_reducible apply kept_ctlWrite)

theorem kept_execRegisterWrite {cq : List Instr} (o : Origin) (addr : BitVec 24) (width : Nat) (v : BitVec 32) (s : State) (h_s
    : Kept cq s) : KeptO cq (execRegisterWrite o addr width v s) := by
  unfold execRegisterWrite
  try dsimp only
  repeat' (first
    | with_reducible assumption | with_reducible apply keptO_next | with_reducible apply kept_pumpAll
    | with_reducible apply kept_wr | with_reducible apply kept_accessed | with_reducible apply kept_foldl
    | with_reducible apply kept_foldl2 | with_reducible apply kept_foldl1 | (intro _) | (with_reducible split))

theorem kept_execLowWordRead {cq : List Instr} (o : Origin) (addr : BitVec 24) (s : State) (h_s : Kept cq s) : KeptO cq
    (execLowWordRead o addr s) := by
  unfold execLowWordRead
  try dsimp only
  repeat' (first
    | with_reducible assumption | with_reducible apply keptO_next | with_reducible apply kept_accessed
    | with_reducible apply kept_ctlRead | with_reducible apply kept_foldl | with_reducible apply kept_foldl2
    | with_reducible apply kept_foldl1 | (intro _) | (with_reducible split))

theorem kept_execPlaceWrite {cq : List Instr} (o : Origin) (v : BitVec 32) (s : State) (h_s : Kept cq s) : KeptO cq
    (execPlaceWrite o v s) := by
  unfold execPlaceWrite
  try dsimp only
  repeat' (first | with_reducible assumption | with_reducible apply keptO_next | with_reducible apply kept_wr)

theorem kept_execFaultValidClear {cq : List Instr} (o : Origin) (t : TileId) (s : State) (h_s : Kept cq s) : KeptO cq
    (execFaultValidClear o t s) := by
  unfold execFaultValidClear
  try dsimp only
  repeat' (first | with_reducible assumption | with_reducible apply keptO_next | with_reducible apply kept_wr)

theorem kept_execEntryLoStage {cq : List Instr} (o : Origin) (v : BitVec 32) (s : State) (h_s : Kept cq s) : KeptO cq
    (execEntryLoStage o v s) := by
  unfold execEntryLoStage
  try dsimp only
  repeat' (first | with_reducible assumption | with_reducible apply keptO_next | with_reducible apply kept_wr)

theorem kept_execEntryHiCommit {cq : List Instr} (o : Origin) (v : BitVec 32) (s : State) (h_s : Kept cq s) : KeptO cq
    (execEntryHiCommit o v s) := by
  unfold execEntryHiCommit
  try dsimp only
  repeat' (first | with_reducible assumption | with_reducible apply keptO_next | with_reducible apply kept_wr)

theorem kept_execCeClear {cq : List Instr} (o : Origin) (v : BitVec 32) (s : State) (h_s : Kept cq s) : KeptO cq (execCeClear o
    v s) := by
  unfold execCeClear
  try dsimp only
  repeat' (first | with_reducible assumption | with_reducible apply keptO_next | with_reducible apply kept_wr)

theorem kept_execRetrain {cq : List Instr} (o : Origin) (n : LinkId) (s : State) (h_s : Kept cq s) : KeptO cq (execRetrain o n
    s) := by
  unfold execRetrain
  try dsimp only
  repeat' (first | with_reducible assumption | with_reducible apply keptO_next | with_reducible apply kept_wr)

theorem kept_execLinkDisableWrite {cq : List Instr} (o : Origin) (n : LinkId) (v : BitVec 32) (s : State) (h_s : Kept cq s) :
    KeptO cq (execLinkDisableWrite o n v s) := by
  unfold execLinkDisableWrite
  try dsimp only
  repeat' (first | with_reducible assumption | with_reducible apply keptO_next | with_reducible apply kept_wr)

theorem kept_execCmgtGo {cq : List Instr} (o : Origin) (n : LinkId) (v : BitVec 32) (s : State) (h_s : Kept cq s) : KeptO cq
    (execCmgtGo o n v s) := by
  unfold execCmgtGo
  try dsimp only
  repeat' (first | with_reducible assumption | with_reducible apply keptO_next | with_reducible apply kept_wr)

theorem kept_execPortEnableWrite {cq : List Instr} (o : Origin) (v : BitVec 32) (s : State) (h_s : Kept cq s) : KeptO cq
    (execPortEnableWrite o v s) := by
  unfold execPortEnableWrite
  try dsimp only
  repeat' (first | with_reducible assumption | with_reducible apply keptO_next | with_reducible apply kept_wr)

theorem kept_execStepNow {cq : List Instr} (o : Origin) (s : State) (h_s : Kept cq s) : KeptO cq (execStepNow o s) := by
  unfold execStepNow
  try dsimp only
  repeat' (first | with_reducible assumption | with_reducible apply keptO_next | with_reducible apply kept_wr)

theorem kept_execEvsFree {cq : List Instr} (o : Origin) (v : BitVec 32) (s : State) (h_s : Kept cq s) : KeptO cq (execEvsFree o
    v s) := by
  unfold execEvsFree
  try dsimp only
  repeat' (first | with_reducible assumption | with_reducible apply keptO_next | with_reducible apply kept_wr)

theorem kept_execMbxMsgStage {cq : List Instr} (o : Origin) (ch : BitVec 5) (k : BitVec 4) (v : BitVec 32) (s : State) (h_s :
    Kept cq s) : KeptO cq (execMbxMsgStage o ch k v s) := by
  unfold execMbxMsgStage
  try dsimp only
  repeat' (first | with_reducible assumption | with_reducible apply keptO_next | with_reducible apply kept_wr)

theorem kept_execMbxGo {cq : List Instr} (o : Origin) (ch : BitVec 5) (v : BitVec 32) (s : State) (h_s : Kept cq s) : KeptO cq
    (execMbxGo o ch v s) := by
  unfold execMbxGo
  try dsimp only
  repeat' (first | with_reducible assumption | with_reducible apply keptO_next | with_reducible apply kept_wr)

theorem kept_execMbxRelease {cq : List Instr} (o : Origin) (ch : BitVec 5) (s : State) (h_s : Kept cq s) : KeptO cq
    (execMbxRelease o ch s) := by
  unfold execMbxRelease
  try dsimp only
  repeat' (first | with_reducible assumption | with_reducible apply keptO_next | with_reducible apply kept_wr)

theorem kept_execMbxCompatWrite {cq : List Instr} (o : Origin) (ch : BitVec 5) (on : Bool) (s : State) (h_s : Kept cq s) : KeptO
    cq (execMbxCompatWrite o ch on s) := by
  unfold execMbxCompatWrite
  try dsimp only
  repeat' (first | with_reducible assumption | with_reducible apply keptO_next | with_reducible apply kept_wr)

theorem kept_execCompatPost {cq : List Instr} (o : Origin) (ch : BitVec 5) (v : BitVec 32) (s : State) (h_s : Kept cq s) : KeptO
    cq (execCompatPost o ch v s) := by
  unfold execCompatPost
  try dsimp only
  repeat' (first | with_reducible assumption | with_reducible apply keptO_next | with_reducible apply kept_wr)

theorem kept_execMbxRing {cq : List Instr} (o : Origin) (v : BitVec 32) (s : State) (h_s : Kept cq s) : KeptO cq (execMbxRing o
    v s) := by
  unfold execMbxRing
  try dsimp only
  repeat' (first | with_reducible assumption | with_reducible apply keptO_next | with_reducible apply kept_wr)

theorem kept_execMbxMaskWrite {cq : List Instr} (o : Origin) (r : BitVec 3) (v : BitVec 32) (s : State) (h_s : Kept cq s) :
    KeptO cq (execMbxMaskWrite o r v s) := by
  unfold execMbxMaskWrite
  try dsimp only
  repeat' (first | with_reducible assumption | with_reducible apply keptO_next | with_reducible apply kept_wr)

theorem kept_execHtEnableWrite {cq : List Instr} (o : Origin) (v : BitVec 32) (s : State) (h_s : Kept cq s) : KeptO cq
    (execHtEnableWrite o v s) := by
  unfold execHtEnableWrite
  try dsimp only
  repeat' (first | with_reducible assumption | with_reducible apply keptO_next | with_reducible apply kept_wr)

theorem kept_execTripClear {cq : List Instr} (o : Origin) (s : State) (h_s : Kept cq s) : KeptO cq (execTripClear o s) := by
  unfold execTripClear
  try dsimp only
  repeat' (first | with_reducible assumption | with_reducible apply keptO_next | with_reducible apply kept_wr)

theorem kept_execHeartbeat {cq : List Instr} (o : Origin) (v : BitVec 32) (s : State) (h_s : Kept cq s) : KeptO cq
    (execHeartbeat o v s) := by
  unfold execHeartbeat
  try dsimp only
  repeat' (first | with_reducible assumption | with_reducible apply keptO_next | with_reducible apply kept_wr)

theorem kept_execProgDataLo {cq : List Instr} (o : Origin) (v : BitVec 32) (s : State) (h_s : Kept cq s) : KeptO cq
    (execProgDataLo o v s) := by
  unfold execProgDataLo
  try dsimp only
  repeat' (first | with_reducible assumption | with_reducible apply keptO_next | with_reducible apply kept_wr)

theorem kept_execProgDataHi {cq : List Instr} (o : Origin) (v : BitVec 32) (s : State) (h_s : Kept cq s) : KeptO cq
    (execProgDataHi o v s) := by
  unfold execProgDataHi
  try dsimp only
  repeat' (first | with_reducible assumption | with_reducible apply keptO_next | with_reducible apply kept_wr)

theorem kept_execVerify {cq : List Instr} (o : Origin) (v : BitVec 32) (s : State) (h_s : Kept cq s) : KeptO cq (execVerify o v
    s) := by
  unfold execVerify
  try dsimp only
  repeat' (first | with_reducible assumption | with_reducible apply keptO_next | with_reducible apply kept_wr)

theorem kept_execCommit {cq : List Instr} (o : Origin) (v : BitVec 32) (s : State) (h_s : Kept cq s) : KeptO cq (execCommit o v
    s) := by
  unfold execCommit
  try dsimp only
  repeat' (first | with_reducible assumption | with_reducible apply keptO_next | with_reducible apply kept_wr)

theorem kept_execPaletteWrite {cq : List Instr} (o : Origin) (k : BitVec 11) (v : BitVec 32) (s : State) (h_s : Kept cq s) :
    KeptO cq (execPaletteWrite o k v s) := by
  unfold execPaletteWrite
  try dsimp only
  repeat' (first
    | with_reducible assumption | with_reducible apply keptO_next | with_reducible apply kept_wr
    | with_reducible apply kept_foldl | with_reducible apply kept_foldl2 | with_reducible apply kept_foldl1 | (intro _)
    | (with_reducible split))

theorem kept_execEntryCommitWrite {cq : List Instr} (o : Origin) (addr : BitVec 24) (v : BitVec 32) (s : State) (h_s : Kept cq
    s) : KeptO cq (execEntryCommitWrite o addr v s) := by
  unfold execEntryCommitWrite
  try dsimp only
  repeat' (first | with_reducible assumption | with_reducible apply keptO_next | with_reducible apply kept_wr)

theorem kept_execStageOpen {cq : List Instr} (o : Origin) (s : State) (h_s : Kept cq s) : KeptO cq (execStageOpen o s) := by
  unfold execStageOpen
  try dsimp only
  repeat' (first | with_reducible assumption | with_reducible apply keptO_next | with_reducible apply kept_wr)

theorem kept_execStageAbort {cq : List Instr} (o : Origin) (s : State) (h_s : Kept cq s) : KeptO cq (execStageAbort o s) := by
  unfold execStageAbort
  try dsimp only
  repeat' (first | with_reducible assumption | with_reducible apply keptO_next | with_reducible apply kept_wr)

theorem kept_execDirectWrite {cq : List Instr} (o : Origin) (v : BitVec 32) (s : State) (h_s : Kept cq s) : KeptO cq
    (execDirectWrite o v s) := by
  unfold execDirectWrite
  try dsimp only
  repeat' (first | with_reducible assumption | with_reducible apply keptO_next | with_reducible apply kept_wr)

theorem kept_execArm {cq : List Instr} (o : Origin) (s : State) (h_s : Kept cq s) : KeptO cq (execArm o s) := by
  unfold execArm
  try dsimp only
  repeat' (first | with_reducible assumption | with_reducible apply keptO_next | with_reducible apply kept_wr)

theorem kept_execForce {cq : List Instr} (o : Origin) (s : State) (h_s : Kept cq s) : KeptO cq (execForce o s) := by
  unfold execForce
  try dsimp only
  repeat' (first | with_reducible assumption | with_reducible apply keptO_next | with_reducible apply kept_wr)

theorem kept_execStop {cq : List Instr} (o : Origin) (s : State) (h_s : Kept cq s) : KeptO cq (execStop o s) := by
  unfold execStop
  try dsimp only
  repeat' (first | with_reducible assumption | with_reducible apply keptO_next | with_reducible apply kept_wr)

theorem kept_execSkDataRead {cq : List Instr} (o : Origin) (s : State) (h_s : Kept cq s) : KeptO cq (execSkDataRead o s) := by
  unfold execSkDataRead
  try dsimp only
  repeat' (first
    | with_reducible assumption | with_reducible apply keptO_next | with_reducible apply kept_accessed
    | with_reducible apply kept_ctlRead)

theorem kept_execRailClear {cq : List Instr} (o : Origin) (r : RailId) (s : State) (h_s : Kept cq s) : KeptO cq (execRailClear o
    r s) := by
  unfold execRailClear
  try dsimp only
  repeat' (first | with_reducible assumption | with_reducible apply keptO_next | with_reducible apply kept_wr)

theorem kept_execRailEnWrite {cq : List Instr} (o : Origin) (r : RailId) (en : Bool) (s : State) (h_s : Kept cq s) : KeptO cq
    (execRailEnWrite o r en s) := by
  unfold execRailEnWrite
  try dsimp only
  repeat' (first | with_reducible assumption | with_reducible apply keptO_next | with_reducible apply kept_wr)

theorem kept_execPhFaultClear {cq : List Instr} (o : Origin) (hi : Bool) (v : BitVec 32) (s : State) (h_s : Kept cq s) : KeptO
    cq (execPhFaultClear o hi v s) := by
  unfold execPhFaultClear
  try dsimp only
  repeat' (first | with_reducible assumption | with_reducible apply keptO_next | with_reducible apply kept_wr)

theorem kept_execHandover {cq : List Instr} (o : Origin) (s : State) (h_s : Kept cq s) : KeptO cq (execHandover o s) := by
  unfold execHandover
  try dsimp only
  repeat' (first | with_reducible assumption | with_reducible apply keptO_next | with_reducible apply kept_wr)

theorem kept_execRearm {cq : List Instr} (o : Origin) (s : State) (h_s : Kept cq s) : KeptO cq (execRearm o s) := by
  unfold execRearm
  try dsimp only
  repeat' (first | with_reducible assumption | with_reducible apply keptO_next | with_reducible apply kept_wr)

theorem kept_execCaprun {cq : List Instr} (o : Origin) (s : State) (h_s : Kept cq s) : KeptO cq (execCaprun o s) := by
  unfold execCaprun
  try dsimp only
  repeat' (first | with_reducible assumption | with_reducible apply keptO_next | with_reducible apply kept_wr)

theorem kept_execCapabort {cq : List Instr} (o : Origin) (s : State) (h_s : Kept cq s) : KeptO cq (execCapabort o s) := by
  unfold execCapabort
  try dsimp only
  repeat' (first | with_reducible assumption | with_reducible apply keptO_next | with_reducible apply kept_wr)

theorem kept_execWake {cq : List Instr} (o : Origin) (s : State) (h_s : Kept cq s) : KeptO cq (execWake o s) := by
  unfold execWake
  try dsimp only
  repeat' (first | with_reducible assumption | with_reducible apply keptO_next | with_reducible apply kept_wr)

theorem kept_execAttrClear {cq : List Instr} (o : Origin) (v : BitVec 32) (s : State) (h_s : Kept cq s) : KeptO cq
    (execAttrClear o v s) := by
  unfold execAttrClear
  try dsimp only
  repeat' (first | with_reducible assumption | with_reducible apply keptO_next | with_reducible apply kept_wr)

theorem kept_execFreeze {cq : List Instr} (o : Origin) (on : Bool) (s : State) (h_s : Kept cq s) : KeptO cq (execFreeze o on s)
    := by
  unfold execFreeze
  try dsimp only
  repeat' (first | with_reducible assumption | with_reducible apply keptO_next | with_reducible apply kept_wr)

theorem kept_execRecClear {cq : List Instr} (o : Origin) (mode : Bool) (s : State) (h_s : Kept cq s) : KeptO cq (execRecClear o
    mode s) := by
  unfold execRecClear
  try dsimp only
  repeat' (first | with_reducible assumption | with_reducible apply keptO_next | with_reducible apply kept_wr)

theorem kept_execLogClear {cq : List Instr} (o : Origin) (s : State) (h_s : Kept cq s) : KeptO cq (execLogClear o s) := by
  unfold execLogClear
  try dsimp only
  repeat' (first | with_reducible assumption | with_reducible apply keptO_next | with_reducible apply kept_wr)

theorem kept_execCold {cq : List Instr} (o : Origin) (st : Straps) (s : State) (h_s : Kept cq s) : KeptO cq (execCold o st s) :=
    by
  unfold execCold
  try dsimp only
  repeat' (first
    | with_reducible assumption | with_reducible apply keptO_next | with_reducible apply kept_wr
    | with_reducible apply kept_strapPins)

theorem kept_execWarm {cq : List Instr} (o : Origin) (st : Straps) (s : State) (h_s : Kept cq s) : KeptO cq (execWarm o st s) :=
    by
  unfold execWarm
  try dsimp only
  repeat' (first
    | with_reducible assumption | with_reducible apply keptO_next | with_reducible apply kept_wr
    | with_reducible apply kept_strapPins)

theorem kept_execSteward {cq : List Instr} (o : Origin) (s : State) (h_s : Kept cq s) : KeptO cq (execSteward o s) := by
  unfold execSteward
  try dsimp only
  repeat' (first | with_reducible assumption | with_reducible apply keptO_next | with_reducible apply kept_wr)

theorem kept_execStewardSelf {cq : List Instr} (o : Origin) (s : State) (h_s : Kept cq s) : KeptO cq (execStewardSelf o s) := by
  unfold execStewardSelf
  try dsimp only
  repeat' (first | with_reducible assumption | with_reducible apply keptO_next | with_reducible apply kept_wr)

theorem kept_execWdogWrite {cq : List Instr} (o : Origin) (v : BitVec 32) (s : State) (h_s : Kept cq s) : KeptO cq
    (execWdogWrite o v s) := by
  unfold execWdogWrite
  try dsimp only
  repeat' (first | with_reducible assumption | with_reducible apply keptO_next | with_reducible apply kept_wr)

theorem kept_execInService {cq : List Instr} (o : Origin) (s : State) (h_s : Kept cq s) : KeptO cq (execInService o s) := by
  unfold execInService
  try dsimp only
  repeat' (first | with_reducible assumption | with_reducible apply keptO_next | with_reducible apply kept_wr)

theorem kept_execTest {cq : List Instr} (o : Origin) (s : State) (h_s : Kept cq s) : KeptO cq (execTest o s) := by
  unfold execTest
  try dsimp only
  repeat' (first | with_reducible assumption | with_reducible apply keptO_next | with_reducible apply kept_wr)

theorem kept_execBootStart {cq : List Instr} (o : Origin) (len : BitVec 24) (s : State) (h_s : Kept cq s) : KeptO cq
    (execBootStart o len s) := by
  unfold execBootStart
  try dsimp only
  repeat' (first | with_reducible assumption | with_reducible apply keptO_next | with_reducible apply kept_wr)

theorem kept_execBootWinWrite {cq : List Instr} (o : Origin) (v : BitVec 32) (s : State) (h_s : Kept cq s) : KeptO cq
    (execBootWinWrite o v s) := by
  unfold execBootWinWrite
  try dsimp only
  repeat' (first | with_reducible assumption | with_reducible apply keptO_next | with_reducible apply kept_wr)

theorem kept_execBootDone {cq : List Instr} (o : Origin) (s : State) (h_s : Kept cq s) : KeptO cq (execBootDone o s) := by
  unfold execBootDone
  try dsimp only
  repeat' (first
    | with_reducible assumption | with_reducible apply keptO_next | with_reducible apply kept_pumpAll
    | with_reducible apply kept_wr)

theorem kept_execAttGo {cq : List Instr} (o : Origin) (s : State) (h_s : Kept cq s) : KeptO cq (execAttGo o s) := by
  unfold execAttGo
  try dsimp only
  repeat' (first | with_reducible assumption | with_reducible apply keptO_next | with_reducible apply kept_wr)

theorem kept_execAttExt {cq : List Instr} (o : Origin) (slot : BitVec 3) (s : State) (h_s : Kept cq s) : KeptO cq (execAttExt o
    slot s) := by
  unfold execAttExt
  try dsimp only
  repeat' (first | with_reducible assumption | with_reducible apply keptO_next | with_reducible apply kept_wr)

end Sys2Proof.Machine
end

