-- ==== Sys2Proof/Laws/State.lean ====
section
/-! SUPPORT. What each named update of the state leaves alone, one lemma for each field, and what a read after it gives. -/

namespace Sys2Proof.Machine

/-! ### setReg -/

@[simp] theorem setReg_pending (a : Nat) (v : BitVec 32) (s : State) : (setReg a v s).pending = s.pending := rfl
@[simp] theorem setReg_free (a : Nat) (v : BitVec 32) (s : State) : (setReg a v s).free = s.free := rfl
@[simp] theorem setReg_tick (a : Nat) (v : BitVec 32) (s : State) : (setReg a v s).tick = s.tick := rfl
@[simp] theorem setReg_beat (a : Nat) (v : BitVec 32) (s : State) : (setReg a v s).beat = s.beat := rfl
@[simp] theorem setReg_frac (a : Nat) (v : BitVec 32) (s : State) : (setReg a v s).frac = s.frac := rfl
@[simp] theorem setReg_cycle (a : Nat) (v : BitVec 32) (s : State) : (setReg a v s).cycle = s.cycle := rfl
@[simp] theorem setReg_shadow (a : Nat) (v : BitVec 32) (s : State) : (setReg a v s).shadow = s.shadow := rfl
@[simp] theorem setReg_pkgSet (a : Nat) (v : BitVec 32) (s : State) : (setReg a v s).pkgSet = s.pkgSet := rfl
@[simp] theorem setReg_place (a : Nat) (v : BitVec 32) (s : State) : (setReg a v s).place = s.place := rfl
@[simp] theorem setReg_cardId (a : Nat) (v : BitVec 32) (s : State) : (setReg a v s).cardId = s.cardId := rfl
@[simp] theorem setReg_tile (a : Nat) (v : BitVec 32) (s : State) : (setReg a v s).tile = s.tile := rfl
@[simp] theorem setReg_scratch (a : Nat) (v : BitVec 32) (s : State) : (setReg a v s).scratch = s.scratch := rfl
@[simp] theorem setReg_vault (a : Nat) (v : BitVec 32) (s : State) : (setReg a v s).vault = s.vault := rfl
@[simp] theorem setReg_vaultErr (a : Nat) (v : BitVec 32) (s : State) : (setReg a v s).vaultErr = s.vaultErr := rfl
@[simp] theorem setReg_scratchErr (a : Nat) (v : BitVec 32) (s : State) : (setReg a v s).scratchErr = s.scratchErr := rfl
@[simp] theorem setReg_istoreErr (a : Nat) (v : BitVec 32) (s : State) : (setReg a v s).istoreErr = s.istoreErr := rfl
@[simp] theorem setReg_vaultFix (a : Nat) (v : BitVec 32) (s : State) : (setReg a v s).vaultFix = s.vaultFix := rfl
@[simp] theorem setReg_scratchFix (a : Nat) (v : BitVec 32) (s : State) : (setReg a v s).scratchFix = s.scratchFix := rfl
@[simp] theorem setReg_ceRecAt (a : Nat) (v : BitVec 32) (s : State) : (setReg a v s).ceRecAt = s.ceRecAt := rfl
@[simp] theorem setReg_vaultScrub (a : Nat) (v : BitVec 32) (s : State) : (setReg a v s).vaultScrub = s.vaultScrub := rfl
@[simp] theorem setReg_scratchScrub (a : Nat) (v : BitVec 32) (s : State) : (setReg a v s).scratchScrub = s.scratchScrub := rfl
@[simp] theorem setReg_scrubAt (a : Nat) (v : BitVec 32) (s : State) : (setReg a v s).scrubAt = s.scrubAt := rfl
@[simp] theorem setReg_vaultRow (a : Nat) (v : BitVec 32) (s : State) : (setReg a v s).vaultRow = s.vaultRow := rfl
@[simp] theorem setReg_rc (a : Nat) (v : BitVec 32) (s : State) : (setReg a v s).rc = s.rc := rfl
@[simp] theorem setReg_aligned (a : Nat) (v : BitVec 32) (s : State) : (setReg a v s).aligned = s.aligned := rfl
@[simp] theorem setReg_selfRefresh (a : Nat) (v : BitVec 32) (s : State) : (setReg a v s).selfRefresh = s.selfRefresh := rfl
@[simp] theorem setReg_window (a : Nat) (v : BitVec 32) (s : State) : (setReg a v s).window = s.window := rfl
@[simp] theorem setReg_stagedLo (a : Nat) (v : BitVec 32) (s : State) : (setReg a v s).stagedLo = s.stagedLo := rfl
@[simp] theorem setReg_rops (a : Nat) (v : BitVec 32) (s : State) : (setReg a v s).rops = s.rops := rfl
@[simp] theorem setReg_fences (a : Nat) (v : BitVec 32) (s : State) : (setReg a v s).fences = s.fences := rfl
@[simp] theorem setReg_passed (a : Nat) (v : BitVec 32) (s : State) : (setReg a v s).passed = s.passed := rfl
@[simp] theorem setReg_nextOp (a : Nat) (v : BitVec 32) (s : State) : (setReg a v s).nextOp = s.nextOp := rfl
@[simp] theorem setReg_session (a : Nat) (v : BitVec 32) (s : State) : (setReg a v s).session = s.session := rfl
@[simp] theorem setReg_peer (a : Nat) (v : BitVec 32) (s : State) : (setReg a v s).peer = s.peer := rfl
@[simp] theorem setReg_part (a : Nat) (v : BitVec 32) (s : State) : (setReg a v s).part = s.part := rfl
@[simp] theorem setReg_group (a : Nat) (v : BitVec 32) (s : State) : (setReg a v s).group = s.group := rfl
@[simp] theorem setReg_queue (a : Nat) (v : BitVec 32) (s : State) : (setReg a v s).queue = s.queue := rfl
@[simp] theorem setReg_jobs (a : Nat) (v : BitVec 32) (s : State) : (setReg a v s).jobs = s.jobs := rfl
@[simp] theorem setReg_clears (a : Nat) (v : BitVec 32) (s : State) : (setReg a v s).clears = s.clears := rfl
@[simp] theorem setReg_windowWaits (a : Nat) (v : BitVec 32) (s : State) : (setReg a v s).windowWaits = s.windowWaits := rfl
@[simp] theorem setReg_orphans (a : Nat) (v : BitVec 32) (s : State) : (setReg a v s).orphans = s.orphans := rfl
@[simp] theorem setReg_link (a : Nat) (v : BitVec 32) (s : State) : (setReg a v s).link = s.link := rfl
@[simp] theorem setReg_eth (a : Nat) (v : BitVec 32) (s : State) : (setReg a v s).eth = s.eth := rfl
@[simp] theorem setReg_asm (a : Nat) (v : BitVec 32) (s : State) : (setReg a v s).asm = s.asm := rfl
@[simp] theorem setReg_rackUp (a : Nat) (v : BitVec 32) (s : State) : (setReg a v s).rackUp = s.rackUp := rfl
@[simp] theorem setReg_sync (a : Nat) (v : BitVec 32) (s : State) : (setReg a v s).sync = s.sync := rfl
@[simp] theorem setReg_evs (a : Nat) (v : BitVec 32) (s : State) : (setReg a v s).evs = s.evs := rfl
@[simp] theorem setReg_evsLost (a : Nat) (v : BitVec 32) (s : State) : (setReg a v s).evsLost = s.evsLost := rfl
@[simp] theorem setReg_recorder (a : Nat) (v : BitVec 32) (s : State) : (setReg a v s).recorder = s.recorder := rfl
@[simp] theorem setReg_changes (a : Nat) (v : BitVec 32) (s : State) : (setReg a v s).changes = s.changes := rfl
@[simp] theorem setReg_mbox (a : Nat) (v : BitVec 32) (s : State) : (setReg a v s).mbox = s.mbox := rfl
@[simp] theorem setReg_staged (a : Nat) (v : BitVec 32) (s : State) : (setReg a v s).staged = s.staged := rfl
@[simp] theorem setReg_compatHeld (a : Nat) (v : BitVec 32) (s : State) : (setReg a v s).compatHeld = s.compatHeld := rfl
@[simp] theorem setReg_goWaits (a : Nat) (v : BitVec 32) (s : State) : (setReg a v s).goWaits = s.goWaits := rfl
@[simp] theorem setReg_bellsDue (a : Nat) (v : BitVec 32) (s : State) : (setReg a v s).bellsDue = s.bellsDue := rfl
@[simp] theorem setReg_gov (a : Nat) (v : BitVec 32) (s : State) : (setReg a v s).gov = s.gov := rfl
@[simp] theorem setReg_loop (a : Nat) (v : BitVec 32) (s : State) : (setReg a v s).loop = s.loop := rfl
@[simp] theorem setReg_rails (a : Nat) (v : BitVec 32) (s : State) : (setReg a v s).rails = s.rails := rfl
@[simp] theorem setReg_pack (a : Nat) (v : BitVec 32) (s : State) : (setReg a v s).pack = s.pack := rfl
@[simp] theorem setReg_varnish (a : Nat) (v : BitVec 32) (s : State) : (setReg a v s).varnish = s.varnish := rfl
@[simp] theorem setReg_attr (a : Nat) (v : BitVec 32) (s : State) : (setReg a v s).attr = s.attr := rfl
@[simp] theorem setReg_rst (a : Nat) (v : BitVec 32) (s : State) : (setReg a v s).rst = s.rst := rfl
@[simp] theorem setReg_att (a : Nat) (v : BitVec 32) (s : State) : (setReg a v s).att = s.att := rfl
@[simp] theorem setReg_flash (a : Nat) (v : BitVec 32) (s : State) : (setReg a v s).flash = s.flash := rfl
@[simp] theorem setReg_nvDeferred (a : Nat) (v : BitVec 32) (s : State) : (setReg a v s).nvDeferred = s.nvDeferred := rfl
@[simp] theorem setReg_ledHigh (a : Nat) (v : BitVec 32) (s : State) : (setReg a v s).ledHigh = s.ledHigh := rfl
@[simp] theorem setReg_out (a : Nat) (v : BitVec 32) (s : State) : (setReg a v s).out = s.out := rfl

/-! ### updReg -/

@[simp] theorem updReg_pending (a : Nat) (f : BitVec 32 → BitVec 32) (s : State) : (updReg a f s).pending = s.pending := rfl
@[simp] theorem updReg_free (a : Nat) (f : BitVec 32 → BitVec 32) (s : State) : (updReg a f s).free = s.free := rfl
@[simp] theorem updReg_tick (a : Nat) (f : BitVec 32 → BitVec 32) (s : State) : (updReg a f s).tick = s.tick := rfl
@[simp] theorem updReg_beat (a : Nat) (f : BitVec 32 → BitVec 32) (s : State) : (updReg a f s).beat = s.beat := rfl
@[simp] theorem updReg_frac (a : Nat) (f : BitVec 32 → BitVec 32) (s : State) : (updReg a f s).frac = s.frac := rfl
@[simp] theorem updReg_cycle (a : Nat) (f : BitVec 32 → BitVec 32) (s : State) : (updReg a f s).cycle = s.cycle := rfl
@[simp] theorem updReg_shadow (a : Nat) (f : BitVec 32 → BitVec 32) (s : State) : (updReg a f s).shadow = s.shadow := rfl
@[simp] theorem updReg_pkgSet (a : Nat) (f : BitVec 32 → BitVec 32) (s : State) : (updReg a f s).pkgSet = s.pkgSet := rfl
@[simp] theorem updReg_place (a : Nat) (f : BitVec 32 → BitVec 32) (s : State) : (updReg a f s).place = s.place := rfl
@[simp] theorem updReg_cardId (a : Nat) (f : BitVec 32 → BitVec 32) (s : State) : (updReg a f s).cardId = s.cardId := rfl
@[simp] theorem updReg_tile (a : Nat) (f : BitVec 32 → BitVec 32) (s : State) : (updReg a f s).tile = s.tile := rfl
@[simp] theorem updReg_scratch (a : Nat) (f : BitVec 32 → BitVec 32) (s : State) : (updReg a f s).scratch = s.scratch := rfl
@[simp] theorem updReg_vault (a : Nat) (f : BitVec 32 → BitVec 32) (s : State) : (updReg a f s).vault = s.vault := rfl
@[simp] theorem updReg_vaultErr (a : Nat) (f : BitVec 32 → BitVec 32) (s : State) : (updReg a f s).vaultErr = s.vaultErr := rfl
@[simp] theorem updReg_scratchErr (a : Nat) (f : BitVec 32 → BitVec 32) (s : State) : (updReg a f s).scratchErr = s.scratchErr := rfl
@[simp] theorem updReg_istoreErr (a : Nat) (f : BitVec 32 → BitVec 32) (s : State) : (updReg a f s).istoreErr = s.istoreErr := rfl
@[simp] theorem updReg_vaultFix (a : Nat) (f : BitVec 32 → BitVec 32) (s : State) : (updReg a f s).vaultFix = s.vaultFix := rfl
@[simp] theorem updReg_scratchFix (a : Nat) (f : BitVec 32 → BitVec 32) (s : State) : (updReg a f s).scratchFix = s.scratchFix := rfl
@[simp] theorem updReg_ceRecAt (a : Nat) (f : BitVec 32 → BitVec 32) (s : State) : (updReg a f s).ceRecAt = s.ceRecAt := rfl
@[simp] theorem updReg_vaultScrub (a : Nat) (f : BitVec 32 → BitVec 32) (s : State) : (updReg a f s).vaultScrub = s.vaultScrub := rfl
@[simp] theorem updReg_scratchScrub (a : Nat) (f : BitVec 32 → BitVec 32) (s : State) : (updReg a f s).scratchScrub = s.scratchScrub := rfl
@[simp] theorem updReg_scrubAt (a : Nat) (f : BitVec 32 → BitVec 32) (s : State) : (updReg a f s).scrubAt = s.scrubAt := rfl
@[simp] theorem updReg_vaultRow (a : Nat) (f : BitVec 32 → BitVec 32) (s : State) : (updReg a f s).vaultRow = s.vaultRow := rfl
@[simp] theorem updReg_rc (a : Nat) (f : BitVec 32 → BitVec 32) (s : State) : (updReg a f s).rc = s.rc := rfl
@[simp] theorem updReg_aligned (a : Nat) (f : BitVec 32 → BitVec 32) (s : State) : (updReg a f s).aligned = s.aligned := rfl
@[simp] theorem updReg_selfRefresh (a : Nat) (f : BitVec 32 → BitVec 32) (s : State) : (updReg a f s).selfRefresh = s.selfRefresh := rfl
@[simp] theorem updReg_window (a : Nat) (f : BitVec 32 → BitVec 32) (s : State) : (updReg a f s).window = s.window := rfl
@[simp] theorem updReg_stagedLo (a : Nat) (f : BitVec 32 → BitVec 32) (s : State) : (updReg a f s).stagedLo = s.stagedLo := rfl
@[simp] theorem updReg_rops (a : Nat) (f : BitVec 32 → BitVec 32) (s : State) : (updReg a f s).rops = s.rops := rfl
@[simp] theorem updReg_fences (a : Nat) (f : BitVec 32 → BitVec 32) (s : State) : (updReg a f s).fences = s.fences := rfl
@[simp] theorem updReg_passed (a : Nat) (f : BitVec 32 → BitVec 32) (s : State) : (updReg a f s).passed = s.passed := rfl
@[simp] theorem updReg_nextOp (a : Nat) (f : BitVec 32 → BitVec 32) (s : State) : (updReg a f s).nextOp = s.nextOp := rfl
@[simp] theorem updReg_session (a : Nat) (f : BitVec 32 → BitVec 32) (s : State) : (updReg a f s).session = s.session := rfl
@[simp] theorem updReg_peer (a : Nat) (f : BitVec 32 → BitVec 32) (s : State) : (updReg a f s).peer = s.peer := rfl
@[simp] theorem updReg_part (a : Nat) (f : BitVec 32 → BitVec 32) (s : State) : (updReg a f s).part = s.part := rfl
@[simp] theorem updReg_group (a : Nat) (f : BitVec 32 → BitVec 32) (s : State) : (updReg a f s).group = s.group := rfl
@[simp] theorem updReg_queue (a : Nat) (f : BitVec 32 → BitVec 32) (s : State) : (updReg a f s).queue = s.queue := rfl
@[simp] theorem updReg_jobs (a : Nat) (f : BitVec 32 → BitVec 32) (s : State) : (updReg a f s).jobs = s.jobs := rfl
@[simp] theorem updReg_clears (a : Nat) (f : BitVec 32 → BitVec 32) (s : State) : (updReg a f s).clears = s.clears := rfl
@[simp] theorem updReg_windowWaits (a : Nat) (f : BitVec 32 → BitVec 32) (s : State) : (updReg a f s).windowWaits = s.windowWaits := rfl
@[simp] theorem updReg_orphans (a : Nat) (f : BitVec 32 → BitVec 32) (s : State) : (updReg a f s).orphans = s.orphans := rfl
@[simp] theorem updReg_link (a : Nat) (f : BitVec 32 → BitVec 32) (s : State) : (updReg a f s).link = s.link := rfl
@[simp] theorem updReg_eth (a : Nat) (f : BitVec 32 → BitVec 32) (s : State) : (updReg a f s).eth = s.eth := rfl
@[simp] theorem updReg_asm (a : Nat) (f : BitVec 32 → BitVec 32) (s : State) : (updReg a f s).asm = s.asm := rfl
@[simp] theorem updReg_rackUp (a : Nat) (f : BitVec 32 → BitVec 32) (s : State) : (updReg a f s).rackUp = s.rackUp := rfl
@[simp] theorem updReg_sync (a : Nat) (f : BitVec 32 → BitVec 32) (s : State) : (updReg a f s).sync = s.sync := rfl
@[simp] theorem updReg_evs (a : Nat) (f : BitVec 32 → BitVec 32) (s : State) : (updReg a f s).evs = s.evs := rfl
@[simp] theorem updReg_evsLost (a : Nat) (f : BitVec 32 → BitVec 32) (s : State) : (updReg a f s).evsLost = s.evsLost := rfl
@[simp] theorem updReg_recorder (a : Nat) (f : BitVec 32 → BitVec 32) (s : State) : (updReg a f s).recorder = s.recorder := rfl
@[simp] theorem updReg_changes (a : Nat) (f : BitVec 32 → BitVec 32) (s : State) : (updReg a f s).changes = s.changes := rfl
@[simp] theorem updReg_mbox (a : Nat) (f : BitVec 32 → BitVec 32) (s : State) : (updReg a f s).mbox = s.mbox := rfl
@[simp] theorem updReg_staged (a : Nat) (f : BitVec 32 → BitVec 32) (s : State) : (updReg a f s).staged = s.staged := rfl
@[simp] theorem updReg_compatHeld (a : Nat) (f : BitVec 32 → BitVec 32) (s : State) : (updReg a f s).compatHeld = s.compatHeld := rfl
@[simp] theorem updReg_goWaits (a : Nat) (f : BitVec 32 → BitVec 32) (s : State) : (updReg a f s).goWaits = s.goWaits := rfl
@[simp] theorem updReg_bellsDue (a : Nat) (f : BitVec 32 → BitVec 32) (s : State) : (updReg a f s).bellsDue = s.bellsDue := rfl
@[simp] theorem updReg_gov (a : Nat) (f : BitVec 32 → BitVec 32) (s : State) : (updReg a f s).gov = s.gov := rfl
@[simp] theorem updReg_loop (a : Nat) (f : BitVec 32 → BitVec 32) (s : State) : (updReg a f s).loop = s.loop := rfl
@[simp] theorem updReg_rails (a : Nat) (f : BitVec 32 → BitVec 32) (s : State) : (updReg a f s).rails = s.rails := rfl
@[simp] theorem updReg_pack (a : Nat) (f : BitVec 32 → BitVec 32) (s : State) : (updReg a f s).pack = s.pack := rfl
@[simp] theorem updReg_varnish (a : Nat) (f : BitVec 32 → BitVec 32) (s : State) : (updReg a f s).varnish = s.varnish := rfl
@[simp] theorem updReg_attr (a : Nat) (f : BitVec 32 → BitVec 32) (s : State) : (updReg a f s).attr = s.attr := rfl
@[simp] theorem updReg_rst (a : Nat) (f : BitVec 32 → BitVec 32) (s : State) : (updReg a f s).rst = s.rst := rfl
@[simp] theorem updReg_att (a : Nat) (f : BitVec 32 → BitVec 32) (s : State) : (updReg a f s).att = s.att := rfl
@[simp] theorem updReg_flash (a : Nat) (f : BitVec 32 → BitVec 32) (s : State) : (updReg a f s).flash = s.flash := rfl
@[simp] theorem updReg_nvDeferred (a : Nat) (f : BitVec 32 → BitVec 32) (s : State) : (updReg a f s).nvDeferred = s.nvDeferred := rfl
@[simp] theorem updReg_ledHigh (a : Nat) (f : BitVec 32 → BitVec 32) (s : State) : (updReg a f s).ledHigh = s.ledHigh := rfl
@[simp] theorem updReg_out (a : Nat) (f : BitVec 32 → BitVec 32) (s : State) : (updReg a f s).out = s.out := rfl

/-! ### countReg -/

@[simp] theorem countReg_pending (a n : Nat) (s : State) : (countReg a n s).pending = s.pending := rfl
@[simp] theorem countReg_free (a n : Nat) (s : State) : (countReg a n s).free = s.free := rfl
@[simp] theorem countReg_tick (a n : Nat) (s : State) : (countReg a n s).tick = s.tick := rfl
@[simp] theorem countReg_beat (a n : Nat) (s : State) : (countReg a n s).beat = s.beat := rfl
@[simp] theorem countReg_frac (a n : Nat) (s : State) : (countReg a n s).frac = s.frac := rfl
@[simp] theorem countReg_cycle (a n : Nat) (s : State) : (countReg a n s).cycle = s.cycle := rfl
@[simp] theorem countReg_shadow (a n : Nat) (s : State) : (countReg a n s).shadow = s.shadow := rfl
@[simp] theorem countReg_pkgSet (a n : Nat) (s : State) : (countReg a n s).pkgSet = s.pkgSet := rfl
@[simp] theorem countReg_place (a n : Nat) (s : State) : (countReg a n s).place = s.place := rfl
@[simp] theorem countReg_cardId (a n : Nat) (s : State) : (countReg a n s).cardId = s.cardId := rfl
@[simp] theorem countReg_tile (a n : Nat) (s : State) : (countReg a n s).tile = s.tile := rfl
@[simp] theorem countReg_scratch (a n : Nat) (s : State) : (countReg a n s).scratch = s.scratch := rfl
@[simp] theorem countReg_vault (a n : Nat) (s : State) : (countReg a n s).vault = s.vault := rfl
@[simp] theorem countReg_vaultErr (a n : Nat) (s : State) : (countReg a n s).vaultErr = s.vaultErr := rfl
@[simp] theorem countReg_scratchErr (a n : Nat) (s : State) : (countReg a n s).scratchErr = s.scratchErr := rfl
@[simp] theorem countReg_istoreErr (a n : Nat) (s : State) : (countReg a n s).istoreErr = s.istoreErr := rfl
@[simp] theorem countReg_vaultFix (a n : Nat) (s : State) : (countReg a n s).vaultFix = s.vaultFix := rfl
@[simp] theorem countReg_scratchFix (a n : Nat) (s : State) : (countReg a n s).scratchFix = s.scratchFix := rfl
@[simp] theorem countReg_ceRecAt (a n : Nat) (s : State) : (countReg a n s).ceRecAt = s.ceRecAt := rfl
@[simp] theorem countReg_vaultScrub (a n : Nat) (s : State) : (countReg a n s).vaultScrub = s.vaultScrub := rfl
@[simp] theorem countReg_scratchScrub (a n : Nat) (s : State) : (countReg a n s).scratchScrub = s.scratchScrub := rfl
@[simp] theorem countReg_scrubAt (a n : Nat) (s : State) : (countReg a n s).scrubAt = s.scrubAt := rfl
@[simp] theorem countReg_vaultRow (a n : Nat) (s : State) : (countReg a n s).vaultRow = s.vaultRow := rfl
@[simp] theorem countReg_rc (a n : Nat) (s : State) : (countReg a n s).rc = s.rc := rfl
@[simp] theorem countReg_aligned (a n : Nat) (s : State) : (countReg a n s).aligned = s.aligned := rfl
@[simp] theorem countReg_selfRefresh (a n : Nat) (s : State) : (countReg a n s).selfRefresh = s.selfRefresh := rfl
@[simp] theorem countReg_window (a n : Nat) (s : State) : (countReg a n s).window = s.window := rfl
@[simp] theorem countReg_stagedLo (a n : Nat) (s : State) : (countReg a n s).stagedLo = s.stagedLo := rfl
@[simp] theorem countReg_rops (a n : Nat) (s : State) : (countReg a n s).rops = s.rops := rfl
@[simp] theorem countReg_fences (a n : Nat) (s : State) : (countReg a n s).fences = s.fences := rfl
@[simp] theorem countReg_passed (a n : Nat) (s : State) : (countReg a n s).passed = s.passed := rfl
@[simp] theorem countReg_nextOp (a n : Nat) (s : State) : (countReg a n s).nextOp = s.nextOp := rfl
@[simp] theorem countReg_session (a n : Nat) (s : State) : (countReg a n s).session = s.session := rfl
@[simp] theorem countReg_peer (a n : Nat) (s : State) : (countReg a n s).peer = s.peer := rfl
@[simp] theorem countReg_part (a n : Nat) (s : State) : (countReg a n s).part = s.part := rfl
@[simp] theorem countReg_group (a n : Nat) (s : State) : (countReg a n s).group = s.group := rfl
@[simp] theorem countReg_queue (a n : Nat) (s : State) : (countReg a n s).queue = s.queue := rfl
@[simp] theorem countReg_jobs (a n : Nat) (s : State) : (countReg a n s).jobs = s.jobs := rfl
@[simp] theorem countReg_clears (a n : Nat) (s : State) : (countReg a n s).clears = s.clears := rfl
@[simp] theorem countReg_windowWaits (a n : Nat) (s : State) : (countReg a n s).windowWaits = s.windowWaits := rfl
@[simp] theorem countReg_orphans (a n : Nat) (s : State) : (countReg a n s).orphans = s.orphans := rfl
@[simp] theorem countReg_link (a n : Nat) (s : State) : (countReg a n s).link = s.link := rfl
@[simp] theorem countReg_eth (a n : Nat) (s : State) : (countReg a n s).eth = s.eth := rfl
@[simp] theorem countReg_asm (a n : Nat) (s : State) : (countReg a n s).asm = s.asm := rfl
@[simp] theorem countReg_rackUp (a n : Nat) (s : State) : (countReg a n s).rackUp = s.rackUp := rfl
@[simp] theorem countReg_sync (a n : Nat) (s : State) : (countReg a n s).sync = s.sync := rfl
@[simp] theorem countReg_evs (a n : Nat) (s : State) : (countReg a n s).evs = s.evs := rfl
@[simp] theorem countReg_evsLost (a n : Nat) (s : State) : (countReg a n s).evsLost = s.evsLost := rfl
@[simp] theorem countReg_recorder (a n : Nat) (s : State) : (countReg a n s).recorder = s.recorder := rfl
@[simp] theorem countReg_changes (a n : Nat) (s : State) : (countReg a n s).changes = s.changes := rfl
@[simp] theorem countReg_mbox (a n : Nat) (s : State) : (countReg a n s).mbox = s.mbox := rfl
@[simp] theorem countReg_staged (a n : Nat) (s : State) : (countReg a n s).staged = s.staged := rfl
@[simp] theorem countReg_compatHeld (a n : Nat) (s : State) : (countReg a n s).compatHeld = s.compatHeld := rfl
@[simp] theorem countReg_goWaits (a n : Nat) (s : State) : (countReg a n s).goWaits = s.goWaits := rfl
@[simp] theorem countReg_bellsDue (a n : Nat) (s : State) : (countReg a n s).bellsDue = s.bellsDue := rfl
@[simp] theorem countReg_gov (a n : Nat) (s : State) : (countReg a n s).gov = s.gov := rfl
@[simp] theorem countReg_loop (a n : Nat) (s : State) : (countReg a n s).loop = s.loop := rfl
@[simp] theorem countReg_rails (a n : Nat) (s : State) : (countReg a n s).rails = s.rails := rfl
@[simp] theorem countReg_pack (a n : Nat) (s : State) : (countReg a n s).pack = s.pack := rfl
@[simp] theorem countReg_varnish (a n : Nat) (s : State) : (countReg a n s).varnish = s.varnish := rfl
@[simp] theorem countReg_attr (a n : Nat) (s : State) : (countReg a n s).attr = s.attr := rfl
@[simp] theorem countReg_rst (a n : Nat) (s : State) : (countReg a n s).rst = s.rst := rfl
@[simp] theorem countReg_att (a n : Nat) (s : State) : (countReg a n s).att = s.att := rfl
@[simp] theorem countReg_flash (a n : Nat) (s : State) : (countReg a n s).flash = s.flash := rfl
@[simp] theorem countReg_nvDeferred (a n : Nat) (s : State) : (countReg a n s).nvDeferred = s.nvDeferred := rfl
@[simp] theorem countReg_ledHigh (a n : Nat) (s : State) : (countReg a n s).ledHigh = s.ledHigh := rfl
@[simp] theorem countReg_out (a n : Nat) (s : State) : (countReg a n s).out = s.out := rfl

/-! ### regBit -/

@[simp] theorem regBit_pending (a i : Nat) (b : Bool) (s : State) : (regBit a i b s).pending = s.pending := rfl
@[simp] theorem regBit_free (a i : Nat) (b : Bool) (s : State) : (regBit a i b s).free = s.free := rfl
@[simp] theorem regBit_tick (a i : Nat) (b : Bool) (s : State) : (regBit a i b s).tick = s.tick := rfl
@[simp] theorem regBit_beat (a i : Nat) (b : Bool) (s : State) : (regBit a i b s).beat = s.beat := rfl
@[simp] theorem regBit_frac (a i : Nat) (b : Bool) (s : State) : (regBit a i b s).frac = s.frac := rfl
@[simp] theorem regBit_cycle (a i : Nat) (b : Bool) (s : State) : (regBit a i b s).cycle = s.cycle := rfl
@[simp] theorem regBit_shadow (a i : Nat) (b : Bool) (s : State) : (regBit a i b s).shadow = s.shadow := rfl
@[simp] theorem regBit_pkgSet (a i : Nat) (b : Bool) (s : State) : (regBit a i b s).pkgSet = s.pkgSet := rfl
@[simp] theorem regBit_place (a i : Nat) (b : Bool) (s : State) : (regBit a i b s).place = s.place := rfl
@[simp] theorem regBit_cardId (a i : Nat) (b : Bool) (s : State) : (regBit a i b s).cardId = s.cardId := rfl
@[simp] theorem regBit_tile (a i : Nat) (b : Bool) (s : State) : (regBit a i b s).tile = s.tile := rfl
@[simp] theorem regBit_scratch (a i : Nat) (b : Bool) (s : State) : (regBit a i b s).scratch = s.scratch := rfl
@[simp] theorem regBit_vault (a i : Nat) (b : Bool) (s : State) : (regBit a i b s).vault = s.vault := rfl
@[simp] theorem regBit_vaultErr (a i : Nat) (b : Bool) (s : State) : (regBit a i b s).vaultErr = s.vaultErr := rfl
@[simp] theorem regBit_scratchErr (a i : Nat) (b : Bool) (s : State) : (regBit a i b s).scratchErr = s.scratchErr := rfl
@[simp] theorem regBit_istoreErr (a i : Nat) (b : Bool) (s : State) : (regBit a i b s).istoreErr = s.istoreErr := rfl
@[simp] theorem regBit_vaultFix (a i : Nat) (b : Bool) (s : State) : (regBit a i b s).vaultFix = s.vaultFix := rfl
@[simp] theorem regBit_scratchFix (a i : Nat) (b : Bool) (s : State) : (regBit a i b s).scratchFix = s.scratchFix := rfl
@[simp] theorem regBit_ceRecAt (a i : Nat) (b : Bool) (s : State) : (regBit a i b s).ceRecAt = s.ceRecAt := rfl
@[simp] theorem regBit_vaultScrub (a i : Nat) (b : Bool) (s : State) : (regBit a i b s).vaultScrub = s.vaultScrub := rfl
@[simp] theorem regBit_scratchScrub (a i : Nat) (b : Bool) (s : State) : (regBit a i b s).scratchScrub = s.scratchScrub := rfl
@[simp] theorem regBit_scrubAt (a i : Nat) (b : Bool) (s : State) : (regBit a i b s).scrubAt = s.scrubAt := rfl
@[simp] theorem regBit_vaultRow (a i : Nat) (b : Bool) (s : State) : (regBit a i b s).vaultRow = s.vaultRow := rfl
@[simp] theorem regBit_rc (a i : Nat) (b : Bool) (s : State) : (regBit a i b s).rc = s.rc := rfl
@[simp] theorem regBit_aligned (a i : Nat) (b : Bool) (s : State) : (regBit a i b s).aligned = s.aligned := rfl
@[simp] theorem regBit_selfRefresh (a i : Nat) (b : Bool) (s : State) : (regBit a i b s).selfRefresh = s.selfRefresh := rfl
@[simp] theorem regBit_window (a i : Nat) (b : Bool) (s : State) : (regBit a i b s).window = s.window := rfl
@[simp] theorem regBit_stagedLo (a i : Nat) (b : Bool) (s : State) : (regBit a i b s).stagedLo = s.stagedLo := rfl
@[simp] theorem regBit_rops (a i : Nat) (b : Bool) (s : State) : (regBit a i b s).rops = s.rops := rfl
@[simp] theorem regBit_fences (a i : Nat) (b : Bool) (s : State) : (regBit a i b s).fences = s.fences := rfl
@[simp] theorem regBit_passed (a i : Nat) (b : Bool) (s : State) : (regBit a i b s).passed = s.passed := rfl
@[simp] theorem regBit_nextOp (a i : Nat) (b : Bool) (s : State) : (regBit a i b s).nextOp = s.nextOp := rfl
@[simp] theorem regBit_session (a i : Nat) (b : Bool) (s : State) : (regBit a i b s).session = s.session := rfl
@[simp] theorem regBit_peer (a i : Nat) (b : Bool) (s : State) : (regBit a i b s).peer = s.peer := rfl
@[simp] theorem regBit_part (a i : Nat) (b : Bool) (s : State) : (regBit a i b s).part = s.part := rfl
@[simp] theorem regBit_group (a i : Nat) (b : Bool) (s : State) : (regBit a i b s).group = s.group := rfl
@[simp] theorem regBit_queue (a i : Nat) (b : Bool) (s : State) : (regBit a i b s).queue = s.queue := rfl
@[simp] theorem regBit_jobs (a i : Nat) (b : Bool) (s : State) : (regBit a i b s).jobs = s.jobs := rfl
@[simp] theorem regBit_clears (a i : Nat) (b : Bool) (s : State) : (regBit a i b s).clears = s.clears := rfl
@[simp] theorem regBit_windowWaits (a i : Nat) (b : Bool) (s : State) : (regBit a i b s).windowWaits = s.windowWaits := rfl
@[simp] theorem regBit_orphans (a i : Nat) (b : Bool) (s : State) : (regBit a i b s).orphans = s.orphans := rfl
@[simp] theorem regBit_link (a i : Nat) (b : Bool) (s : State) : (regBit a i b s).link = s.link := rfl
@[simp] theorem regBit_eth (a i : Nat) (b : Bool) (s : State) : (regBit a i b s).eth = s.eth := rfl
@[simp] theorem regBit_asm (a i : Nat) (b : Bool) (s : State) : (regBit a i b s).asm = s.asm := rfl
@[simp] theorem regBit_rackUp (a i : Nat) (b : Bool) (s : State) : (regBit a i b s).rackUp = s.rackUp := rfl
@[simp] theorem regBit_sync (a i : Nat) (b : Bool) (s : State) : (regBit a i b s).sync = s.sync := rfl
@[simp] theorem regBit_evs (a i : Nat) (b : Bool) (s : State) : (regBit a i b s).evs = s.evs := rfl
@[simp] theorem regBit_evsLost (a i : Nat) (b : Bool) (s : State) : (regBit a i b s).evsLost = s.evsLost := rfl
@[simp] theorem regBit_recorder (a i : Nat) (b : Bool) (s : State) : (regBit a i b s).recorder = s.recorder := rfl
@[simp] theorem regBit_changes (a i : Nat) (b : Bool) (s : State) : (regBit a i b s).changes = s.changes := rfl
@[simp] theorem regBit_mbox (a i : Nat) (b : Bool) (s : State) : (regBit a i b s).mbox = s.mbox := rfl
@[simp] theorem regBit_staged (a i : Nat) (b : Bool) (s : State) : (regBit a i b s).staged = s.staged := rfl
@[simp] theorem regBit_compatHeld (a i : Nat) (b : Bool) (s : State) : (regBit a i b s).compatHeld = s.compatHeld := rfl
@[simp] theorem regBit_goWaits (a i : Nat) (b : Bool) (s : State) : (regBit a i b s).goWaits = s.goWaits := rfl
@[simp] theorem regBit_bellsDue (a i : Nat) (b : Bool) (s : State) : (regBit a i b s).bellsDue = s.bellsDue := rfl
@[simp] theorem regBit_gov (a i : Nat) (b : Bool) (s : State) : (regBit a i b s).gov = s.gov := rfl
@[simp] theorem regBit_loop (a i : Nat) (b : Bool) (s : State) : (regBit a i b s).loop = s.loop := rfl
@[simp] theorem regBit_rails (a i : Nat) (b : Bool) (s : State) : (regBit a i b s).rails = s.rails := rfl
@[simp] theorem regBit_pack (a i : Nat) (b : Bool) (s : State) : (regBit a i b s).pack = s.pack := rfl
@[simp] theorem regBit_varnish (a i : Nat) (b : Bool) (s : State) : (regBit a i b s).varnish = s.varnish := rfl
@[simp] theorem regBit_attr (a i : Nat) (b : Bool) (s : State) : (regBit a i b s).attr = s.attr := rfl
@[simp] theorem regBit_rst (a i : Nat) (b : Bool) (s : State) : (regBit a i b s).rst = s.rst := rfl
@[simp] theorem regBit_att (a i : Nat) (b : Bool) (s : State) : (regBit a i b s).att = s.att := rfl
@[simp] theorem regBit_flash (a i : Nat) (b : Bool) (s : State) : (regBit a i b s).flash = s.flash := rfl
@[simp] theorem regBit_nvDeferred (a i : Nat) (b : Bool) (s : State) : (regBit a i b s).nvDeferred = s.nvDeferred := rfl
@[simp] theorem regBit_ledHigh (a i : Nat) (b : Bool) (s : State) : (regBit a i b s).ledHigh = s.ledHigh := rfl
@[simp] theorem regBit_out (a i : Nat) (b : Bool) (s : State) : (regBit a i b s).out = s.out := rfl

/-! ### setReg64 -/

@[simp] theorem setReg64_pending (a : Nat) (v : BitVec 64) (s : State) : (setReg64 a v s).pending = s.pending := rfl
@[simp] theorem setReg64_free (a : Nat) (v : BitVec 64) (s : State) : (setReg64 a v s).free = s.free := rfl
@[simp] theorem setReg64_tick (a : Nat) (v : BitVec 64) (s : State) : (setReg64 a v s).tick = s.tick := rfl
@[simp] theorem setReg64_beat (a : Nat) (v : BitVec 64) (s : State) : (setReg64 a v s).beat = s.beat := rfl
@[simp] theorem setReg64_frac (a : Nat) (v : BitVec 64) (s : State) : (setReg64 a v s).frac = s.frac := rfl
@[simp] theorem setReg64_cycle (a : Nat) (v : BitVec 64) (s : State) : (setReg64 a v s).cycle = s.cycle := rfl
@[simp] theorem setReg64_shadow (a : Nat) (v : BitVec 64) (s : State) : (setReg64 a v s).shadow = s.shadow := rfl
@[simp] theorem setReg64_pkgSet (a : Nat) (v : BitVec 64) (s : State) : (setReg64 a v s).pkgSet = s.pkgSet := rfl
@[simp] theorem setReg64_place (a : Nat) (v : BitVec 64) (s : State) : (setReg64 a v s).place = s.place := rfl
@[simp] theorem setReg64_cardId (a : Nat) (v : BitVec 64) (s : State) : (setReg64 a v s).cardId = s.cardId := rfl
@[simp] theorem setReg64_tile (a : Nat) (v : BitVec 64) (s : State) : (setReg64 a v s).tile = s.tile := rfl
@[simp] theorem setReg64_scratch (a : Nat) (v : BitVec 64) (s : State) : (setReg64 a v s).scratch = s.scratch := rfl
@[simp] theorem setReg64_vault (a : Nat) (v : BitVec 64) (s : State) : (setReg64 a v s).vault = s.vault := rfl
@[simp] theorem setReg64_vaultErr (a : Nat) (v : BitVec 64) (s : State) : (setReg64 a v s).vaultErr = s.vaultErr := rfl
@[simp] theorem setReg64_scratchErr (a : Nat) (v : BitVec 64) (s : State) : (setReg64 a v s).scratchErr = s.scratchErr := rfl
@[simp] theorem setReg64_istoreErr (a : Nat) (v : BitVec 64) (s : State) : (setReg64 a v s).istoreErr = s.istoreErr := rfl
@[simp] theorem setReg64_vaultFix (a : Nat) (v : BitVec 64) (s : State) : (setReg64 a v s).vaultFix = s.vaultFix := rfl
@[simp] theorem setReg64_scratchFix (a : Nat) (v : BitVec 64) (s : State) : (setReg64 a v s).scratchFix = s.scratchFix := rfl
@[simp] theorem setReg64_ceRecAt (a : Nat) (v : BitVec 64) (s : State) : (setReg64 a v s).ceRecAt = s.ceRecAt := rfl
@[simp] theorem setReg64_vaultScrub (a : Nat) (v : BitVec 64) (s : State) : (setReg64 a v s).vaultScrub = s.vaultScrub := rfl
@[simp] theorem setReg64_scratchScrub (a : Nat) (v : BitVec 64) (s : State) : (setReg64 a v s).scratchScrub = s.scratchScrub := rfl
@[simp] theorem setReg64_scrubAt (a : Nat) (v : BitVec 64) (s : State) : (setReg64 a v s).scrubAt = s.scrubAt := rfl
@[simp] theorem setReg64_vaultRow (a : Nat) (v : BitVec 64) (s : State) : (setReg64 a v s).vaultRow = s.vaultRow := rfl
@[simp] theorem setReg64_rc (a : Nat) (v : BitVec 64) (s : State) : (setReg64 a v s).rc = s.rc := rfl
@[simp] theorem setReg64_aligned (a : Nat) (v : BitVec 64) (s : State) : (setReg64 a v s).aligned = s.aligned := rfl
@[simp] theorem setReg64_selfRefresh (a : Nat) (v : BitVec 64) (s : State) : (setReg64 a v s).selfRefresh = s.selfRefresh := rfl
@[simp] theorem setReg64_window (a : Nat) (v : BitVec 64) (s : State) : (setReg64 a v s).window = s.window := rfl
@[simp] theorem setReg64_stagedLo (a : Nat) (v : BitVec 64) (s : State) : (setReg64 a v s).stagedLo = s.stagedLo := rfl
@[simp] theorem setReg64_rops (a : Nat) (v : BitVec 64) (s : State) : (setReg64 a v s).rops = s.rops := rfl
@[simp] theorem setReg64_fences (a : Nat) (v : BitVec 64) (s : State) : (setReg64 a v s).fences = s.fences := rfl
@[simp] theorem setReg64_passed (a : Nat) (v : BitVec 64) (s : State) : (setReg64 a v s).passed = s.passed := rfl
@[simp] theorem setReg64_nextOp (a : Nat) (v : BitVec 64) (s : State) : (setReg64 a v s).nextOp = s.nextOp := rfl
@[simp] theorem setReg64_session (a : Nat) (v : BitVec 64) (s : State) : (setReg64 a v s).session = s.session := rfl
@[simp] theorem setReg64_peer (a : Nat) (v : BitVec 64) (s : State) : (setReg64 a v s).peer = s.peer := rfl
@[simp] theorem setReg64_part (a : Nat) (v : BitVec 64) (s : State) : (setReg64 a v s).part = s.part := rfl
@[simp] theorem setReg64_group (a : Nat) (v : BitVec 64) (s : State) : (setReg64 a v s).group = s.group := rfl
@[simp] theorem setReg64_queue (a : Nat) (v : BitVec 64) (s : State) : (setReg64 a v s).queue = s.queue := rfl
@[simp] theorem setReg64_jobs (a : Nat) (v : BitVec 64) (s : State) : (setReg64 a v s).jobs = s.jobs := rfl
@[simp] theorem setReg64_clears (a : Nat) (v : BitVec 64) (s : State) : (setReg64 a v s).clears = s.clears := rfl
@[simp] theorem setReg64_windowWaits (a : Nat) (v : BitVec 64) (s : State) : (setReg64 a v s).windowWaits = s.windowWaits := rfl
@[simp] theorem setReg64_orphans (a : Nat) (v : BitVec 64) (s : State) : (setReg64 a v s).orphans = s.orphans := rfl
@[simp] theorem setReg64_link (a : Nat) (v : BitVec 64) (s : State) : (setReg64 a v s).link = s.link := rfl
@[simp] theorem setReg64_eth (a : Nat) (v : BitVec 64) (s : State) : (setReg64 a v s).eth = s.eth := rfl
@[simp] theorem setReg64_asm (a : Nat) (v : BitVec 64) (s : State) : (setReg64 a v s).asm = s.asm := rfl
@[simp] theorem setReg64_rackUp (a : Nat) (v : BitVec 64) (s : State) : (setReg64 a v s).rackUp = s.rackUp := rfl
@[simp] theorem setReg64_sync (a : Nat) (v : BitVec 64) (s : State) : (setReg64 a v s).sync = s.sync := rfl
@[simp] theorem setReg64_evs (a : Nat) (v : BitVec 64) (s : State) : (setReg64 a v s).evs = s.evs := rfl
@[simp] theorem setReg64_evsLost (a : Nat) (v : BitVec 64) (s : State) : (setReg64 a v s).evsLost = s.evsLost := rfl
@[simp] theorem setReg64_recorder (a : Nat) (v : BitVec 64) (s : State) : (setReg64 a v s).recorder = s.recorder := rfl
@[simp] theorem setReg64_changes (a : Nat) (v : BitVec 64) (s : State) : (setReg64 a v s).changes = s.changes := rfl
@[simp] theorem setReg64_mbox (a : Nat) (v : BitVec 64) (s : State) : (setReg64 a v s).mbox = s.mbox := rfl
@[simp] theorem setReg64_staged (a : Nat) (v : BitVec 64) (s : State) : (setReg64 a v s).staged = s.staged := rfl
@[simp] theorem setReg64_compatHeld (a : Nat) (v : BitVec 64) (s : State) : (setReg64 a v s).compatHeld = s.compatHeld := rfl
@[simp] theorem setReg64_goWaits (a : Nat) (v : BitVec 64) (s : State) : (setReg64 a v s).goWaits = s.goWaits := rfl
@[simp] theorem setReg64_bellsDue (a : Nat) (v : BitVec 64) (s : State) : (setReg64 a v s).bellsDue = s.bellsDue := rfl
@[simp] theorem setReg64_gov (a : Nat) (v : BitVec 64) (s : State) : (setReg64 a v s).gov = s.gov := rfl
@[simp] theorem setReg64_loop (a : Nat) (v : BitVec 64) (s : State) : (setReg64 a v s).loop = s.loop := rfl
@[simp] theorem setReg64_rails (a : Nat) (v : BitVec 64) (s : State) : (setReg64 a v s).rails = s.rails := rfl
@[simp] theorem setReg64_pack (a : Nat) (v : BitVec 64) (s : State) : (setReg64 a v s).pack = s.pack := rfl
@[simp] theorem setReg64_varnish (a : Nat) (v : BitVec 64) (s : State) : (setReg64 a v s).varnish = s.varnish := rfl
@[simp] theorem setReg64_attr (a : Nat) (v : BitVec 64) (s : State) : (setReg64 a v s).attr = s.attr := rfl
@[simp] theorem setReg64_rst (a : Nat) (v : BitVec 64) (s : State) : (setReg64 a v s).rst = s.rst := rfl
@[simp] theorem setReg64_att (a : Nat) (v : BitVec 64) (s : State) : (setReg64 a v s).att = s.att := rfl
@[simp] theorem setReg64_flash (a : Nat) (v : BitVec 64) (s : State) : (setReg64 a v s).flash = s.flash := rfl
@[simp] theorem setReg64_nvDeferred (a : Nat) (v : BitVec 64) (s : State) : (setReg64 a v s).nvDeferred = s.nvDeferred := rfl
@[simp] theorem setReg64_ledHigh (a : Nat) (v : BitVec 64) (s : State) : (setReg64 a v s).ledHigh = s.ledHigh := rfl
@[simp] theorem setReg64_out (a : Nat) (v : BitVec 64) (s : State) : (setReg64 a v s).out = s.out := rfl

/-! ### setTile -/

@[simp] theorem setTile_pending (t : Nat) (x : Tile) (s : State) : (setTile t x s).pending = s.pending := rfl
@[simp] theorem setTile_free (t : Nat) (x : Tile) (s : State) : (setTile t x s).free = s.free := rfl
@[simp] theorem setTile_tick (t : Nat) (x : Tile) (s : State) : (setTile t x s).tick = s.tick := rfl
@[simp] theorem setTile_beat (t : Nat) (x : Tile) (s : State) : (setTile t x s).beat = s.beat := rfl
@[simp] theorem setTile_frac (t : Nat) (x : Tile) (s : State) : (setTile t x s).frac = s.frac := rfl
@[simp] theorem setTile_cycle (t : Nat) (x : Tile) (s : State) : (setTile t x s).cycle = s.cycle := rfl
@[simp] theorem setTile_regs (t : Nat) (x : Tile) (s : State) : (setTile t x s).regs = s.regs := rfl
@[simp] theorem setTile_shadow (t : Nat) (x : Tile) (s : State) : (setTile t x s).shadow = s.shadow := rfl
@[simp] theorem setTile_pkgSet (t : Nat) (x : Tile) (s : State) : (setTile t x s).pkgSet = s.pkgSet := rfl
@[simp] theorem setTile_place (t : Nat) (x : Tile) (s : State) : (setTile t x s).place = s.place := rfl
@[simp] theorem setTile_cardId (t : Nat) (x : Tile) (s : State) : (setTile t x s).cardId = s.cardId := rfl
@[simp] theorem setTile_scratch (t : Nat) (x : Tile) (s : State) : (setTile t x s).scratch = s.scratch := rfl
@[simp] theorem setTile_vault (t : Nat) (x : Tile) (s : State) : (setTile t x s).vault = s.vault := rfl
@[simp] theorem setTile_vaultErr (t : Nat) (x : Tile) (s : State) : (setTile t x s).vaultErr = s.vaultErr := rfl
@[simp] theorem setTile_scratchErr (t : Nat) (x : Tile) (s : State) : (setTile t x s).scratchErr = s.scratchErr := rfl
@[simp] theorem setTile_istoreErr (t : Nat) (x : Tile) (s : State) : (setTile t x s).istoreErr = s.istoreErr := rfl
@[simp] theorem setTile_vaultFix (t : Nat) (x : Tile) (s : State) : (setTile t x s).vaultFix = s.vaultFix := rfl
@[simp] theorem setTile_scratchFix (t : Nat) (x : Tile) (s : State) : (setTile t x s).scratchFix = s.scratchFix := rfl
@[simp] theorem setTile_ceRecAt (t : Nat) (x : Tile) (s : State) : (setTile t x s).ceRecAt = s.ceRecAt := rfl
@[simp] theorem setTile_vaultScrub (t : Nat) (x : Tile) (s : State) : (setTile t x s).vaultScrub = s.vaultScrub := rfl
@[simp] theorem setTile_scratchScrub (t : Nat) (x : Tile) (s : State) : (setTile t x s).scratchScrub = s.scratchScrub := rfl
@[simp] theorem setTile_scrubAt (t : Nat) (x : Tile) (s : State) : (setTile t x s).scrubAt = s.scrubAt := rfl
@[simp] theorem setTile_vaultRow (t : Nat) (x : Tile) (s : State) : (setTile t x s).vaultRow = s.vaultRow := rfl
@[simp] theorem setTile_rc (t : Nat) (x : Tile) (s : State) : (setTile t x s).rc = s.rc := rfl
@[simp] theorem setTile_aligned (t : Nat) (x : Tile) (s : State) : (setTile t x s).aligned = s.aligned := rfl
@[simp] theorem setTile_selfRefresh (t : Nat) (x : Tile) (s : State) : (setTile t x s).selfRefresh = s.selfRefresh := rfl
@[simp] theorem setTile_window (t : Nat) (x : Tile) (s : State) : (setTile t x s).window = s.window := rfl
@[simp] theorem setTile_stagedLo (t : Nat) (x : Tile) (s : State) : (setTile t x s).stagedLo = s.stagedLo := rfl
@[simp] theorem setTile_rops (t : Nat) (x : Tile) (s : State) : (setTile t x s).rops = s.rops := rfl
@[simp] theorem setTile_fences (t : Nat) (x : Tile) (s : State) : (setTile t x s).fences = s.fences := rfl
@[simp] theorem setTile_passed (t : Nat) (x : Tile) (s : State) : (setTile t x s).passed = s.passed := rfl
@[simp] theorem setTile_nextOp (t : Nat) (x : Tile) (s : State) : (setTile t x s).nextOp = s.nextOp := rfl
@[simp] theorem setTile_session (t : Nat) (x : Tile) (s : State) : (setTile t x s).session = s.session := rfl
@[simp] theorem setTile_peer (t : Nat) (x : Tile) (s : State) : (setTile t x s).peer = s.peer := rfl
@[simp] theorem setTile_part (t : Nat) (x : Tile) (s : State) : (setTile t x s).part = s.part := rfl
@[simp] theorem setTile_group (t : Nat) (x : Tile) (s : State) : (setTile t x s).group = s.group := rfl
@[simp] theorem setTile_queue (t : Nat) (x : Tile) (s : State) : (setTile t x s).queue = s.queue := rfl
@[simp] theorem setTile_jobs (t : Nat) (x : Tile) (s : State) : (setTile t x s).jobs = s.jobs := rfl
@[simp] theorem setTile_clears (t : Nat) (x : Tile) (s : State) : (setTile t x s).clears = s.clears := rfl
@[simp] theorem setTile_windowWaits (t : Nat) (x : Tile) (s : State) : (setTile t x s).windowWaits = s.windowWaits := rfl
@[simp] theorem setTile_orphans (t : Nat) (x : Tile) (s : State) : (setTile t x s).orphans = s.orphans := rfl
@[simp] theorem setTile_link (t : Nat) (x : Tile) (s : State) : (setTile t x s).link = s.link := rfl
@[simp] theorem setTile_eth (t : Nat) (x : Tile) (s : State) : (setTile t x s).eth = s.eth := rfl
@[simp] theorem setTile_asm (t : Nat) (x : Tile) (s : State) : (setTile t x s).asm = s.asm := rfl
@[simp] theorem setTile_rackUp (t : Nat) (x : Tile) (s : State) : (setTile t x s).rackUp = s.rackUp := rfl
@[simp] theorem setTile_sync (t : Nat) (x : Tile) (s : State) : (setTile t x s).sync = s.sync := rfl
@[simp] theorem setTile_evs (t : Nat) (x : Tile) (s : State) : (setTile t x s).evs = s.evs := rfl
@[simp] theorem setTile_evsLost (t : Nat) (x : Tile) (s : State) : (setTile t x s).evsLost = s.evsLost := rfl
@[simp] theorem setTile_recorder (t : Nat) (x : Tile) (s : State) : (setTile t x s).recorder = s.recorder := rfl
@[simp] theorem setTile_changes (t : Nat) (x : Tile) (s : State) : (setTile t x s).changes = s.changes := rfl
@[simp] theorem setTile_mbox (t : Nat) (x : Tile) (s : State) : (setTile t x s).mbox = s.mbox := rfl
@[simp] theorem setTile_staged (t : Nat) (x : Tile) (s : State) : (setTile t x s).staged = s.staged := rfl
@[simp] theorem setTile_compatHeld (t : Nat) (x : Tile) (s : State) : (setTile t x s).compatHeld = s.compatHeld := rfl
@[simp] theorem setTile_goWaits (t : Nat) (x : Tile) (s : State) : (setTile t x s).goWaits = s.goWaits := rfl
@[simp] theorem setTile_bellsDue (t : Nat) (x : Tile) (s : State) : (setTile t x s).bellsDue = s.bellsDue := rfl
@[simp] theorem setTile_gov (t : Nat) (x : Tile) (s : State) : (setTile t x s).gov = s.gov := rfl
@[simp] theorem setTile_loop (t : Nat) (x : Tile) (s : State) : (setTile t x s).loop = s.loop := rfl
@[simp] theorem setTile_rails (t : Nat) (x : Tile) (s : State) : (setTile t x s).rails = s.rails := rfl
@[simp] theorem setTile_pack (t : Nat) (x : Tile) (s : State) : (setTile t x s).pack = s.pack := rfl
@[simp] theorem setTile_varnish (t : Nat) (x : Tile) (s : State) : (setTile t x s).varnish = s.varnish := rfl
@[simp] theorem setTile_attr (t : Nat) (x : Tile) (s : State) : (setTile t x s).attr = s.attr := rfl
@[simp] theorem setTile_rst (t : Nat) (x : Tile) (s : State) : (setTile t x s).rst = s.rst := rfl
@[simp] theorem setTile_att (t : Nat) (x : Tile) (s : State) : (setTile t x s).att = s.att := rfl
@[simp] theorem setTile_flash (t : Nat) (x : Tile) (s : State) : (setTile t x s).flash = s.flash := rfl
@[simp] theorem setTile_nvDeferred (t : Nat) (x : Tile) (s : State) : (setTile t x s).nvDeferred = s.nvDeferred := rfl
@[simp] theorem setTile_ledHigh (t : Nat) (x : Tile) (s : State) : (setTile t x s).ledHigh = s.ledHigh := rfl
@[simp] theorem setTile_out (t : Nat) (x : Tile) (s : State) : (setTile t x s).out = s.out := rfl

/-! ### updTile -/

@[simp] theorem updTile_pending (t : Nat) (f : Tile → Tile) (s : State) : (updTile t f s).pending = s.pending := rfl
@[simp] theorem updTile_free (t : Nat) (f : Tile → Tile) (s : State) : (updTile t f s).free = s.free := rfl
@[simp] theorem updTile_tick (t : Nat) (f : Tile → Tile) (s : State) : (updTile t f s).tick = s.tick := rfl
@[simp] theorem updTile_beat (t : Nat) (f : Tile → Tile) (s : State) : (updTile t f s).beat = s.beat := rfl
@[simp] theorem updTile_frac (t : Nat) (f : Tile → Tile) (s : State) : (updTile t f s).frac = s.frac := rfl
@[simp] theorem updTile_cycle (t : Nat) (f : Tile → Tile) (s : State) : (updTile t f s).cycle = s.cycle := rfl
@[simp] theorem updTile_regs (t : Nat) (f : Tile → Tile) (s : State) : (updTile t f s).regs = s.regs := rfl
@[simp] theorem updTile_shadow (t : Nat) (f : Tile → Tile) (s : State) : (updTile t f s).shadow = s.shadow := rfl
@[simp] theorem updTile_pkgSet (t : Nat) (f : Tile → Tile) (s : State) : (updTile t f s).pkgSet = s.pkgSet := rfl
@[simp] theorem updTile_place (t : Nat) (f : Tile → Tile) (s : State) : (updTile t f s).place = s.place := rfl
@[simp] theorem updTile_cardId (t : Nat) (f : Tile → Tile) (s : State) : (updTile t f s).cardId = s.cardId := rfl
@[simp] theorem updTile_scratch (t : Nat) (f : Tile → Tile) (s : State) : (updTile t f s).scratch = s.scratch := rfl
@[simp] theorem updTile_vault (t : Nat) (f : Tile → Tile) (s : State) : (updTile t f s).vault = s.vault := rfl
@[simp] theorem updTile_vaultErr (t : Nat) (f : Tile → Tile) (s : State) : (updTile t f s).vaultErr = s.vaultErr := rfl
@[simp] theorem updTile_scratchErr (t : Nat) (f : Tile → Tile) (s : State) : (updTile t f s).scratchErr = s.scratchErr := rfl
@[simp] theorem updTile_istoreErr (t : Nat) (f : Tile → Tile) (s : State) : (updTile t f s).istoreErr = s.istoreErr := rfl
@[simp] theorem updTile_vaultFix (t : Nat) (f : Tile → Tile) (s : State) : (updTile t f s).vaultFix = s.vaultFix := rfl
@[simp] theorem updTile_scratchFix (t : Nat) (f : Tile → Tile) (s : State) : (updTile t f s).scratchFix = s.scratchFix := rfl
@[simp] theorem updTile_ceRecAt (t : Nat) (f : Tile → Tile) (s : State) : (updTile t f s).ceRecAt = s.ceRecAt := rfl
@[simp] theorem updTile_vaultScrub (t : Nat) (f : Tile → Tile) (s : State) : (updTile t f s).vaultScrub = s.vaultScrub := rfl
@[simp] theorem updTile_scratchScrub (t : Nat) (f : Tile → Tile) (s : State) : (updTile t f s).scratchScrub = s.scratchScrub := rfl
@[simp] theorem updTile_scrubAt (t : Nat) (f : Tile → Tile) (s : State) : (updTile t f s).scrubAt = s.scrubAt := rfl
@[simp] theorem updTile_vaultRow (t : Nat) (f : Tile → Tile) (s : State) : (updTile t f s).vaultRow = s.vaultRow := rfl
@[simp] theorem updTile_rc (t : Nat) (f : Tile → Tile) (s : State) : (updTile t f s).rc = s.rc := rfl
@[simp] theorem updTile_aligned (t : Nat) (f : Tile → Tile) (s : State) : (updTile t f s).aligned = s.aligned := rfl
@[simp] theorem updTile_selfRefresh (t : Nat) (f : Tile → Tile) (s : State) : (updTile t f s).selfRefresh = s.selfRefresh := rfl
@[simp] theorem updTile_window (t : Nat) (f : Tile → Tile) (s : State) : (updTile t f s).window = s.window := rfl
@[simp] theorem updTile_stagedLo (t : Nat) (f : Tile → Tile) (s : State) : (updTile t f s).stagedLo = s.stagedLo := rfl
@[simp] theorem updTile_rops (t : Nat) (f : Tile → Tile) (s : State) : (updTile t f s).rops = s.rops := rfl
@[simp] theorem updTile_fences (t : Nat) (f : Tile → Tile) (s : State) : (updTile t f s).fences = s.fences := rfl
@[simp] theorem updTile_passed (t : Nat) (f : Tile → Tile) (s : State) : (updTile t f s).passed = s.passed := rfl
@[simp] theorem updTile_nextOp (t : Nat) (f : Tile → Tile) (s : State) : (updTile t f s).nextOp = s.nextOp := rfl
@[simp] theorem updTile_session (t : Nat) (f : Tile → Tile) (s : State) : (updTile t f s).session = s.session := rfl
@[simp] theorem updTile_peer (t : Nat) (f : Tile → Tile) (s : State) : (updTile t f s).peer = s.peer := rfl
@[simp] theorem updTile_part (t : Nat) (f : Tile → Tile) (s : State) : (updTile t f s).part = s.part := rfl
@[simp] theorem updTile_group (t : Nat) (f : Tile → Tile) (s : State) : (updTile t f s).group = s.group := rfl
@[simp] theorem updTile_queue (t : Nat) (f : Tile → Tile) (s : State) : (updTile t f s).queue = s.queue := rfl
@[simp] theorem updTile_jobs (t : Nat) (f : Tile → Tile) (s : State) : (updTile t f s).jobs = s.jobs := rfl
@[simp] theorem updTile_clears (t : Nat) (f : Tile → Tile) (s : State) : (updTile t f s).clears = s.clears := rfl
@[simp] theorem updTile_windowWaits (t : Nat) (f : Tile → Tile) (s : State) : (updTile t f s).windowWaits = s.windowWaits := rfl
@[simp] theorem updTile_orphans (t : Nat) (f : Tile → Tile) (s : State) : (updTile t f s).orphans = s.orphans := rfl
@[simp] theorem updTile_link (t : Nat) (f : Tile → Tile) (s : State) : (updTile t f s).link = s.link := rfl
@[simp] theorem updTile_eth (t : Nat) (f : Tile → Tile) (s : State) : (updTile t f s).eth = s.eth := rfl
@[simp] theorem updTile_asm (t : Nat) (f : Tile → Tile) (s : State) : (updTile t f s).asm = s.asm := rfl
@[simp] theorem updTile_rackUp (t : Nat) (f : Tile → Tile) (s : State) : (updTile t f s).rackUp = s.rackUp := rfl
@[simp] theorem updTile_sync (t : Nat) (f : Tile → Tile) (s : State) : (updTile t f s).sync = s.sync := rfl
@[simp] theorem updTile_evs (t : Nat) (f : Tile → Tile) (s : State) : (updTile t f s).evs = s.evs := rfl
@[simp] theorem updTile_evsLost (t : Nat) (f : Tile → Tile) (s : State) : (updTile t f s).evsLost = s.evsLost := rfl
@[simp] theorem updTile_recorder (t : Nat) (f : Tile → Tile) (s : State) : (updTile t f s).recorder = s.recorder := rfl
@[simp] theorem updTile_changes (t : Nat) (f : Tile → Tile) (s : State) : (updTile t f s).changes = s.changes := rfl
@[simp] theorem updTile_mbox (t : Nat) (f : Tile → Tile) (s : State) : (updTile t f s).mbox = s.mbox := rfl
@[simp] theorem updTile_staged (t : Nat) (f : Tile → Tile) (s : State) : (updTile t f s).staged = s.staged := rfl
@[simp] theorem updTile_compatHeld (t : Nat) (f : Tile → Tile) (s : State) : (updTile t f s).compatHeld = s.compatHeld := rfl
@[simp] theorem updTile_goWaits (t : Nat) (f : Tile → Tile) (s : State) : (updTile t f s).goWaits = s.goWaits := rfl
@[simp] theorem updTile_bellsDue (t : Nat) (f : Tile → Tile) (s : State) : (updTile t f s).bellsDue = s.bellsDue := rfl
@[simp] theorem updTile_gov (t : Nat) (f : Tile → Tile) (s : State) : (updTile t f s).gov = s.gov := rfl
@[simp] theorem updTile_loop (t : Nat) (f : Tile → Tile) (s : State) : (updTile t f s).loop = s.loop := rfl
@[simp] theorem updTile_rails (t : Nat) (f : Tile → Tile) (s : State) : (updTile t f s).rails = s.rails := rfl
@[simp] theorem updTile_pack (t : Nat) (f : Tile → Tile) (s : State) : (updTile t f s).pack = s.pack := rfl
@[simp] theorem updTile_varnish (t : Nat) (f : Tile → Tile) (s : State) : (updTile t f s).varnish = s.varnish := rfl
@[simp] theorem updTile_attr (t : Nat) (f : Tile → Tile) (s : State) : (updTile t f s).attr = s.attr := rfl
@[simp] theorem updTile_rst (t : Nat) (f : Tile → Tile) (s : State) : (updTile t f s).rst = s.rst := rfl
@[simp] theorem updTile_att (t : Nat) (f : Tile → Tile) (s : State) : (updTile t f s).att = s.att := rfl
@[simp] theorem updTile_flash (t : Nat) (f : Tile → Tile) (s : State) : (updTile t f s).flash = s.flash := rfl
@[simp] theorem updTile_nvDeferred (t : Nat) (f : Tile → Tile) (s : State) : (updTile t f s).nvDeferred = s.nvDeferred := rfl
@[simp] theorem updTile_ledHigh (t : Nat) (f : Tile → Tile) (s : State) : (updTile t f s).ledHigh = s.ledHigh := rfl
@[simp] theorem updTile_out (t : Nat) (f : Tile → Tile) (s : State) : (updTile t f s).out = s.out := rfl

/-! ### updPart -/

@[simp] theorem updPart_pending (p : Nat) (f : Part → Part) (s : State) : (updPart p f s).pending = s.pending := rfl
@[simp] theorem updPart_free (p : Nat) (f : Part → Part) (s : State) : (updPart p f s).free = s.free := rfl
@[simp] theorem updPart_tick (p : Nat) (f : Part → Part) (s : State) : (updPart p f s).tick = s.tick := rfl
@[simp] theorem updPart_beat (p : Nat) (f : Part → Part) (s : State) : (updPart p f s).beat = s.beat := rfl
@[simp] theorem updPart_frac (p : Nat) (f : Part → Part) (s : State) : (updPart p f s).frac = s.frac := rfl
@[simp] theorem updPart_cycle (p : Nat) (f : Part → Part) (s : State) : (updPart p f s).cycle = s.cycle := rfl
@[simp] theorem updPart_regs (p : Nat) (f : Part → Part) (s : State) : (updPart p f s).regs = s.regs := rfl
@[simp] theorem updPart_shadow (p : Nat) (f : Part → Part) (s : State) : (updPart p f s).shadow = s.shadow := rfl
@[simp] theorem updPart_pkgSet (p : Nat) (f : Part → Part) (s : State) : (updPart p f s).pkgSet = s.pkgSet := rfl
@[simp] theorem updPart_place (p : Nat) (f : Part → Part) (s : State) : (updPart p f s).place = s.place := rfl
@[simp] theorem updPart_cardId (p : Nat) (f : Part → Part) (s : State) : (updPart p f s).cardId = s.cardId := rfl
@[simp] theorem updPart_tile (p : Nat) (f : Part → Part) (s : State) : (updPart p f s).tile = s.tile := rfl
@[simp] theorem updPart_scratch (p : Nat) (f : Part → Part) (s : State) : (updPart p f s).scratch = s.scratch := rfl
@[simp] theorem updPart_vault (p : Nat) (f : Part → Part) (s : State) : (updPart p f s).vault = s.vault := rfl
@[simp] theorem updPart_vaultErr (p : Nat) (f : Part → Part) (s : State) : (updPart p f s).vaultErr = s.vaultErr := rfl
@[simp] theorem updPart_scratchErr (p : Nat) (f : Part → Part) (s : State) : (updPart p f s).scratchErr = s.scratchErr := rfl
@[simp] theorem updPart_istoreErr (p : Nat) (f : Part → Part) (s : State) : (updPart p f s).istoreErr = s.istoreErr := rfl
@[simp] theorem updPart_vaultFix (p : Nat) (f : Part → Part) (s : State) : (updPart p f s).vaultFix = s.vaultFix := rfl
@[simp] theorem updPart_scratchFix (p : Nat) (f : Part → Part) (s : State) : (updPart p f s).scratchFix = s.scratchFix := rfl
@[simp] theorem updPart_ceRecAt (p : Nat) (f : Part → Part) (s : State) : (updPart p f s).ceRecAt = s.ceRecAt := rfl
@[simp] theorem updPart_vaultScrub (p : Nat) (f : Part → Part) (s : State) : (updPart p f s).vaultScrub = s.vaultScrub := rfl
@[simp] theorem updPart_scratchScrub (p : Nat) (f : Part → Part) (s : State) : (updPart p f s).scratchScrub = s.scratchScrub := rfl
@[simp] theorem updPart_scrubAt (p : Nat) (f : Part → Part) (s : State) : (updPart p f s).scrubAt = s.scrubAt := rfl
@[simp] theorem updPart_vaultRow (p : Nat) (f : Part → Part) (s : State) : (updPart p f s).vaultRow = s.vaultRow := rfl
@[simp] theorem updPart_rc (p : Nat) (f : Part → Part) (s : State) : (updPart p f s).rc = s.rc := rfl
@[simp] theorem updPart_aligned (p : Nat) (f : Part → Part) (s : State) : (updPart p f s).aligned = s.aligned := rfl
@[simp] theorem updPart_selfRefresh (p : Nat) (f : Part → Part) (s : State) : (updPart p f s).selfRefresh = s.selfRefresh := rfl
@[simp] theorem updPart_window (p : Nat) (f : Part → Part) (s : State) : (updPart p f s).window = s.window := rfl
@[simp] theorem updPart_stagedLo (p : Nat) (f : Part → Part) (s : State) : (updPart p f s).stagedLo = s.stagedLo := rfl
@[simp] theorem updPart_rops (p : Nat) (f : Part → Part) (s : State) : (updPart p f s).rops = s.rops := rfl
@[simp] theorem updPart_fences (p : Nat) (f : Part → Part) (s : State) : (updPart p f s).fences = s.fences := rfl
@[simp] theorem updPart_passed (p : Nat) (f : Part → Part) (s : State) : (updPart p f s).passed = s.passed := rfl
@[simp] theorem updPart_nextOp (p : Nat) (f : Part → Part) (s : State) : (updPart p f s).nextOp = s.nextOp := rfl
@[simp] theorem updPart_session (p : Nat) (f : Part → Part) (s : State) : (updPart p f s).session = s.session := rfl
@[simp] theorem updPart_peer (p : Nat) (f : Part → Part) (s : State) : (updPart p f s).peer = s.peer := rfl
@[simp] theorem updPart_group (p : Nat) (f : Part → Part) (s : State) : (updPart p f s).group = s.group := rfl
@[simp] theorem updPart_queue (p : Nat) (f : Part → Part) (s : State) : (updPart p f s).queue = s.queue := rfl
@[simp] theorem updPart_jobs (p : Nat) (f : Part → Part) (s : State) : (updPart p f s).jobs = s.jobs := rfl
@[simp] theorem updPart_clears (p : Nat) (f : Part → Part) (s : State) : (updPart p f s).clears = s.clears := rfl
@[simp] theorem updPart_windowWaits (p : Nat) (f : Part → Part) (s : State) : (updPart p f s).windowWaits = s.windowWaits := rfl
@[simp] theorem updPart_orphans (p : Nat) (f : Part → Part) (s : State) : (updPart p f s).orphans = s.orphans := rfl
@[simp] theorem updPart_link (p : Nat) (f : Part → Part) (s : State) : (updPart p f s).link = s.link := rfl
@[simp] theorem updPart_eth (p : Nat) (f : Part → Part) (s : State) : (updPart p f s).eth = s.eth := rfl
@[simp] theorem updPart_asm (p : Nat) (f : Part → Part) (s : State) : (updPart p f s).asm = s.asm := rfl
@[simp] theorem updPart_rackUp (p : Nat) (f : Part → Part) (s : State) : (updPart p f s).rackUp = s.rackUp := rfl
@[simp] theorem updPart_sync (p : Nat) (f : Part → Part) (s : State) : (updPart p f s).sync = s.sync := rfl
@[simp] theorem updPart_evs (p : Nat) (f : Part → Part) (s : State) : (updPart p f s).evs = s.evs := rfl
@[simp] theorem updPart_evsLost (p : Nat) (f : Part → Part) (s : State) : (updPart p f s).evsLost = s.evsLost := rfl
@[simp] theorem updPart_recorder (p : Nat) (f : Part → Part) (s : State) : (updPart p f s).recorder = s.recorder := rfl
@[simp] theorem updPart_changes (p : Nat) (f : Part → Part) (s : State) : (updPart p f s).changes = s.changes := rfl
@[simp] theorem updPart_mbox (p : Nat) (f : Part → Part) (s : State) : (updPart p f s).mbox = s.mbox := rfl
@[simp] theorem updPart_staged (p : Nat) (f : Part → Part) (s : State) : (updPart p f s).staged = s.staged := rfl
@[simp] theorem updPart_compatHeld (p : Nat) (f : Part → Part) (s : State) : (updPart p f s).compatHeld = s.compatHeld := rfl
@[simp] theorem updPart_goWaits (p : Nat) (f : Part → Part) (s : State) : (updPart p f s).goWaits = s.goWaits := rfl
@[simp] theorem updPart_bellsDue (p : Nat) (f : Part → Part) (s : State) : (updPart p f s).bellsDue = s.bellsDue := rfl
@[simp] theorem updPart_gov (p : Nat) (f : Part → Part) (s : State) : (updPart p f s).gov = s.gov := rfl
@[simp] theorem updPart_loop (p : Nat) (f : Part → Part) (s : State) : (updPart p f s).loop = s.loop := rfl
@[simp] theorem updPart_rails (p : Nat) (f : Part → Part) (s : State) : (updPart p f s).rails = s.rails := rfl
@[simp] theorem updPart_pack (p : Nat) (f : Part → Part) (s : State) : (updPart p f s).pack = s.pack := rfl
@[simp] theorem updPart_varnish (p : Nat) (f : Part → Part) (s : State) : (updPart p f s).varnish = s.varnish := rfl
@[simp] theorem updPart_attr (p : Nat) (f : Part → Part) (s : State) : (updPart p f s).attr = s.attr := rfl
@[simp] theorem updPart_rst (p : Nat) (f : Part → Part) (s : State) : (updPart p f s).rst = s.rst := rfl
@[simp] theorem updPart_att (p : Nat) (f : Part → Part) (s : State) : (updPart p f s).att = s.att := rfl
@[simp] theorem updPart_flash (p : Nat) (f : Part → Part) (s : State) : (updPart p f s).flash = s.flash := rfl
@[simp] theorem updPart_nvDeferred (p : Nat) (f : Part → Part) (s : State) : (updPart p f s).nvDeferred = s.nvDeferred := rfl
@[simp] theorem updPart_ledHigh (p : Nat) (f : Part → Part) (s : State) : (updPart p f s).ledHigh = s.ledHigh := rfl
@[simp] theorem updPart_out (p : Nat) (f : Part → Part) (s : State) : (updPart p f s).out = s.out := rfl

/-! ### updJob -/

@[simp] theorem updJob_pending (j : BitVec 16) (f : Job → Job) (s : State) : (updJob j f s).pending = s.pending := rfl
@[simp] theorem updJob_free (j : BitVec 16) (f : Job → Job) (s : State) : (updJob j f s).free = s.free := rfl
@[simp] theorem updJob_tick (j : BitVec 16) (f : Job → Job) (s : State) : (updJob j f s).tick = s.tick := rfl
@[simp] theorem updJob_beat (j : BitVec 16) (f : Job → Job) (s : State) : (updJob j f s).beat = s.beat := rfl
@[simp] theorem updJob_frac (j : BitVec 16) (f : Job → Job) (s : State) : (updJob j f s).frac = s.frac := rfl
@[simp] theorem updJob_cycle (j : BitVec 16) (f : Job → Job) (s : State) : (updJob j f s).cycle = s.cycle := rfl
@[simp] theorem updJob_regs (j : BitVec 16) (f : Job → Job) (s : State) : (updJob j f s).regs = s.regs := rfl
@[simp] theorem updJob_shadow (j : BitVec 16) (f : Job → Job) (s : State) : (updJob j f s).shadow = s.shadow := rfl
@[simp] theorem updJob_pkgSet (j : BitVec 16) (f : Job → Job) (s : State) : (updJob j f s).pkgSet = s.pkgSet := rfl
@[simp] theorem updJob_place (j : BitVec 16) (f : Job → Job) (s : State) : (updJob j f s).place = s.place := rfl
@[simp] theorem updJob_cardId (j : BitVec 16) (f : Job → Job) (s : State) : (updJob j f s).cardId = s.cardId := rfl
@[simp] theorem updJob_tile (j : BitVec 16) (f : Job → Job) (s : State) : (updJob j f s).tile = s.tile := rfl
@[simp] theorem updJob_scratch (j : BitVec 16) (f : Job → Job) (s : State) : (updJob j f s).scratch = s.scratch := rfl
@[simp] theorem updJob_vault (j : BitVec 16) (f : Job → Job) (s : State) : (updJob j f s).vault = s.vault := rfl
@[simp] theorem updJob_vaultErr (j : BitVec 16) (f : Job → Job) (s : State) : (updJob j f s).vaultErr = s.vaultErr := rfl
@[simp] theorem updJob_scratchErr (j : BitVec 16) (f : Job → Job) (s : State) : (updJob j f s).scratchErr = s.scratchErr := rfl
@[simp] theorem updJob_istoreErr (j : BitVec 16) (f : Job → Job) (s : State) : (updJob j f s).istoreErr = s.istoreErr := rfl
@[simp] theorem updJob_vaultFix (j : BitVec 16) (f : Job → Job) (s : State) : (updJob j f s).vaultFix = s.vaultFix := rfl
@[simp] theorem updJob_scratchFix (j : BitVec 16) (f : Job → Job) (s : State) : (updJob j f s).scratchFix = s.scratchFix := rfl
@[simp] theorem updJob_ceRecAt (j : BitVec 16) (f : Job → Job) (s : State) : (updJob j f s).ceRecAt = s.ceRecAt := rfl
@[simp] theorem updJob_vaultScrub (j : BitVec 16) (f : Job → Job) (s : State) : (updJob j f s).vaultScrub = s.vaultScrub := rfl
@[simp] theorem updJob_scratchScrub (j : BitVec 16) (f : Job → Job) (s : State) : (updJob j f s).scratchScrub = s.scratchScrub := rfl
@[simp] theorem updJob_scrubAt (j : BitVec 16) (f : Job → Job) (s : State) : (updJob j f s).scrubAt = s.scrubAt := rfl
@[simp] theorem updJob_vaultRow (j : BitVec 16) (f : Job → Job) (s : State) : (updJob j f s).vaultRow = s.vaultRow := rfl
@[simp] theorem updJob_rc (j : BitVec 16) (f : Job → Job) (s : State) : (updJob j f s).rc = s.rc := rfl
@[simp] theorem updJob_aligned (j : BitVec 16) (f : Job → Job) (s : State) : (updJob j f s).aligned = s.aligned := rfl
@[simp] theorem updJob_selfRefresh (j : BitVec 16) (f : Job → Job) (s : State) : (updJob j f s).selfRefresh = s.selfRefresh := rfl
@[simp] theorem updJob_window (j : BitVec 16) (f : Job → Job) (s : State) : (updJob j f s).window = s.window := rfl
@[simp] theorem updJob_stagedLo (j : BitVec 16) (f : Job → Job) (s : State) : (updJob j f s).stagedLo = s.stagedLo := rfl
@[simp] theorem updJob_rops (j : BitVec 16) (f : Job → Job) (s : State) : (updJob j f s).rops = s.rops := rfl
@[simp] theorem updJob_fences (j : BitVec 16) (f : Job → Job) (s : State) : (updJob j f s).fences = s.fences := rfl
@[simp] theorem updJob_passed (j : BitVec 16) (f : Job → Job) (s : State) : (updJob j f s).passed = s.passed := rfl
@[simp] theorem updJob_nextOp (j : BitVec 16) (f : Job → Job) (s : State) : (updJob j f s).nextOp = s.nextOp := rfl
@[simp] theorem updJob_session (j : BitVec 16) (f : Job → Job) (s : State) : (updJob j f s).session = s.session := rfl
@[simp] theorem updJob_peer (j : BitVec 16) (f : Job → Job) (s : State) : (updJob j f s).peer = s.peer := rfl
@[simp] theorem updJob_part (j : BitVec 16) (f : Job → Job) (s : State) : (updJob j f s).part = s.part := rfl
@[simp] theorem updJob_group (j : BitVec 16) (f : Job → Job) (s : State) : (updJob j f s).group = s.group := rfl
@[simp] theorem updJob_queue (j : BitVec 16) (f : Job → Job) (s : State) : (updJob j f s).queue = s.queue := rfl
@[simp] theorem updJob_clears (j : BitVec 16) (f : Job → Job) (s : State) : (updJob j f s).clears = s.clears := rfl
@[simp] theorem updJob_windowWaits (j : BitVec 16) (f : Job → Job) (s : State) : (updJob j f s).windowWaits = s.windowWaits := rfl
@[simp] theorem updJob_orphans (j : BitVec 16) (f : Job → Job) (s : State) : (updJob j f s).orphans = s.orphans := rfl
@[simp] theorem updJob_link (j : BitVec 16) (f : Job → Job) (s : State) : (updJob j f s).link = s.link := rfl
@[simp] theorem updJob_eth (j : BitVec 16) (f : Job → Job) (s : State) : (updJob j f s).eth = s.eth := rfl
@[simp] theorem updJob_asm (j : BitVec 16) (f : Job → Job) (s : State) : (updJob j f s).asm = s.asm := rfl
@[simp] theorem updJob_rackUp (j : BitVec 16) (f : Job → Job) (s : State) : (updJob j f s).rackUp = s.rackUp := rfl
@[simp] theorem updJob_sync (j : BitVec 16) (f : Job → Job) (s : State) : (updJob j f s).sync = s.sync := rfl
@[simp] theorem updJob_evs (j : BitVec 16) (f : Job → Job) (s : State) : (updJob j f s).evs = s.evs := rfl
@[simp] theorem updJob_evsLost (j : BitVec 16) (f : Job → Job) (s : State) : (updJob j f s).evsLost = s.evsLost := rfl
@[simp] theorem updJob_recorder (j : BitVec 16) (f : Job → Job) (s : State) : (updJob j f s).recorder = s.recorder := rfl
@[simp] theorem updJob_changes (j : BitVec 16) (f : Job → Job) (s : State) : (updJob j f s).changes = s.changes := rfl
@[simp] theorem updJob_mbox (j : BitVec 16) (f : Job → Job) (s : State) : (updJob j f s).mbox = s.mbox := rfl
@[simp] theorem updJob_staged (j : BitVec 16) (f : Job → Job) (s : State) : (updJob j f s).staged = s.staged := rfl
@[simp] theorem updJob_compatHeld (j : BitVec 16) (f : Job → Job) (s : State) : (updJob j f s).compatHeld = s.compatHeld := rfl
@[simp] theorem updJob_goWaits (j : BitVec 16) (f : Job → Job) (s : State) : (updJob j f s).goWaits = s.goWaits := rfl
@[simp] theorem updJob_bellsDue (j : BitVec 16) (f : Job → Job) (s : State) : (updJob j f s).bellsDue = s.bellsDue := rfl
@[simp] theorem updJob_gov (j : BitVec 16) (f : Job → Job) (s : State) : (updJob j f s).gov = s.gov := rfl
@[simp] theorem updJob_loop (j : BitVec 16) (f : Job → Job) (s : State) : (updJob j f s).loop = s.loop := rfl
@[simp] theorem updJob_rails (j : BitVec 16) (f : Job → Job) (s : State) : (updJob j f s).rails = s.rails := rfl
@[simp] theorem updJob_pack (j : BitVec 16) (f : Job → Job) (s : State) : (updJob j f s).pack = s.pack := rfl
@[simp] theorem updJob_varnish (j : BitVec 16) (f : Job → Job) (s : State) : (updJob j f s).varnish = s.varnish := rfl
@[simp] theorem updJob_attr (j : BitVec 16) (f : Job → Job) (s : State) : (updJob j f s).attr = s.attr := rfl
@[simp] theorem updJob_rst (j : BitVec 16) (f : Job → Job) (s : State) : (updJob j f s).rst = s.rst := rfl
@[simp] theorem updJob_att (j : BitVec 16) (f : Job → Job) (s : State) : (updJob j f s).att = s.att := rfl
@[simp] theorem updJob_flash (j : BitVec 16) (f : Job → Job) (s : State) : (updJob j f s).flash = s.flash := rfl
@[simp] theorem updJob_nvDeferred (j : BitVec 16) (f : Job → Job) (s : State) : (updJob j f s).nvDeferred = s.nvDeferred := rfl
@[simp] theorem updJob_ledHigh (j : BitVec 16) (f : Job → Job) (s : State) : (updJob j f s).ledHigh = s.ledHigh := rfl
@[simp] theorem updJob_out (j : BitVec 16) (f : Job → Job) (s : State) : (updJob j f s).out = s.out := rfl

/-! ### updQueue -/

@[simp] theorem updQueue_pending (q : Nat) (f : Queue → Queue) (s : State) : (updQueue q f s).pending = s.pending := rfl
@[simp] theorem updQueue_free (q : Nat) (f : Queue → Queue) (s : State) : (updQueue q f s).free = s.free := rfl
@[simp] theorem updQueue_tick (q : Nat) (f : Queue → Queue) (s : State) : (updQueue q f s).tick = s.tick := rfl
@[simp] theorem updQueue_beat (q : Nat) (f : Queue → Queue) (s : State) : (updQueue q f s).beat = s.beat := rfl
@[simp] theorem updQueue_frac (q : Nat) (f : Queue → Queue) (s : State) : (updQueue q f s).frac = s.frac := rfl
@[simp] theorem updQueue_cycle (q : Nat) (f : Queue → Queue) (s : State) : (updQueue q f s).cycle = s.cycle := rfl
@[simp] theorem updQueue_regs (q : Nat) (f : Queue → Queue) (s : State) : (updQueue q f s).regs = s.regs := rfl
@[simp] theorem updQueue_shadow (q : Nat) (f : Queue → Queue) (s : State) : (updQueue q f s).shadow = s.shadow := rfl
@[simp] theorem updQueue_pkgSet (q : Nat) (f : Queue → Queue) (s : State) : (updQueue q f s).pkgSet = s.pkgSet := rfl
@[simp] theorem updQueue_place (q : Nat) (f : Queue → Queue) (s : State) : (updQueue q f s).place = s.place := rfl
@[simp] theorem updQueue_cardId (q : Nat) (f : Queue → Queue) (s : State) : (updQueue q f s).cardId = s.cardId := rfl
@[simp] theorem updQueue_tile (q : Nat) (f : Queue → Queue) (s : State) : (updQueue q f s).tile = s.tile := rfl
@[simp] theorem updQueue_scratch (q : Nat) (f : Queue → Queue) (s : State) : (updQueue q f s).scratch = s.scratch := rfl
@[simp] theorem updQueue_vault (q : Nat) (f : Queue → Queue) (s : State) : (updQueue q f s).vault = s.vault := rfl
@[simp] theorem updQueue_vaultErr (q : Nat) (f : Queue → Queue) (s : State) : (updQueue q f s).vaultErr = s.vaultErr := rfl
@[simp] theorem updQueue_scratchErr (q : Nat) (f : Queue → Queue) (s : State) : (updQueue q f s).scratchErr = s.scratchErr := rfl
@[simp] theorem updQueue_istoreErr (q : Nat) (f : Queue → Queue) (s : State) : (updQueue q f s).istoreErr = s.istoreErr := rfl
@[simp] theorem updQueue_vaultFix (q : Nat) (f : Queue → Queue) (s : State) : (updQueue q f s).vaultFix = s.vaultFix := rfl
@[simp] theorem updQueue_scratchFix (q : Nat) (f : Queue → Queue) (s : State) : (updQueue q f s).scratchFix = s.scratchFix := rfl
@[simp] theorem updQueue_ceRecAt (q : Nat) (f : Queue → Queue) (s : State) : (updQueue q f s).ceRecAt = s.ceRecAt := rfl
@[simp] theorem updQueue_vaultScrub (q : Nat) (f : Queue → Queue) (s : State) : (updQueue q f s).vaultScrub = s.vaultScrub := rfl
@[simp] theorem updQueue_scratchScrub (q : Nat) (f : Queue → Queue) (s : State) : (updQueue q f s).scratchScrub = s.scratchScrub := rfl
@[simp] theorem updQueue_scrubAt (q : Nat) (f : Queue → Queue) (s : State) : (updQueue q f s).scrubAt = s.scrubAt := rfl
@[simp] theorem updQueue_vaultRow (q : Nat) (f : Queue → Queue) (s : State) : (updQueue q f s).vaultRow = s.vaultRow := rfl
@[simp] theorem updQueue_rc (q : Nat) (f : Queue → Queue) (s : State) : (updQueue q f s).rc = s.rc := rfl
@[simp] theorem updQueue_aligned (q : Nat) (f : Queue → Queue) (s : State) : (updQueue q f s).aligned = s.aligned := rfl
@[simp] theorem updQueue_selfRefresh (q : Nat) (f : Queue → Queue) (s : State) : (updQueue q f s).selfRefresh = s.selfRefresh := rfl
@[simp] theorem updQueue_window (q : Nat) (f : Queue → Queue) (s : State) : (updQueue q f s).window = s.window := rfl
@[simp] theorem updQueue_stagedLo (q : Nat) (f : Queue → Queue) (s : State) : (updQueue q f s).stagedLo = s.stagedLo := rfl
@[simp] theorem updQueue_rops (q : Nat) (f : Queue → Queue) (s : State) : (updQueue q f s).rops = s.rops := rfl
@[simp] theorem updQueue_fences (q : Nat) (f : Queue → Queue) (s : State) : (updQueue q f s).fences = s.fences := rfl
@[simp] theorem updQueue_passed (q : Nat) (f : Queue → Queue) (s : State) : (updQueue q f s).passed = s.passed := rfl
@[simp] theorem updQueue_nextOp (q : Nat) (f : Queue → Queue) (s : State) : (updQueue q f s).nextOp = s.nextOp := rfl
@[simp] theorem updQueue_session (q : Nat) (f : Queue → Queue) (s : State) : (updQueue q f s).session = s.session := rfl
@[simp] theorem updQueue_peer (q : Nat) (f : Queue → Queue) (s : State) : (updQueue q f s).peer = s.peer := rfl
@[simp] theorem updQueue_part (q : Nat) (f : Queue → Queue) (s : State) : (updQueue q f s).part = s.part := rfl
@[simp] theorem updQueue_group (q : Nat) (f : Queue → Queue) (s : State) : (updQueue q f s).group = s.group := rfl
@[simp] theorem updQueue_jobs (q : Nat) (f : Queue → Queue) (s : State) : (updQueue q f s).jobs = s.jobs := rfl
@[simp] theorem updQueue_clears (q : Nat) (f : Queue → Queue) (s : State) : (updQueue q f s).clears = s.clears := rfl
@[simp] theorem updQueue_windowWaits (q : Nat) (f : Queue → Queue) (s : State) : (updQueue q f s).windowWaits = s.windowWaits := rfl
@[simp] theorem updQueue_orphans (q : Nat) (f : Queue → Queue) (s : State) : (updQueue q f s).orphans = s.orphans := rfl
@[simp] theorem updQueue_link (q : Nat) (f : Queue → Queue) (s : State) : (updQueue q f s).link = s.link := rfl
@[simp] theorem updQueue_eth (q : Nat) (f : Queue → Queue) (s : State) : (updQueue q f s).eth = s.eth := rfl
@[simp] theorem updQueue_asm (q : Nat) (f : Queue → Queue) (s : State) : (updQueue q f s).asm = s.asm := rfl
@[simp] theorem updQueue_rackUp (q : Nat) (f : Queue → Queue) (s : State) : (updQueue q f s).rackUp = s.rackUp := rfl
@[simp] theorem updQueue_sync (q : Nat) (f : Queue → Queue) (s : State) : (updQueue q f s).sync = s.sync := rfl
@[simp] theorem updQueue_evs (q : Nat) (f : Queue → Queue) (s : State) : (updQueue q f s).evs = s.evs := rfl
@[simp] theorem updQueue_evsLost (q : Nat) (f : Queue → Queue) (s : State) : (updQueue q f s).evsLost = s.evsLost := rfl
@[simp] theorem updQueue_recorder (q : Nat) (f : Queue → Queue) (s : State) : (updQueue q f s).recorder = s.recorder := rfl
@[simp] theorem updQueue_changes (q : Nat) (f : Queue → Queue) (s : State) : (updQueue q f s).changes = s.changes := rfl
@[simp] theorem updQueue_mbox (q : Nat) (f : Queue → Queue) (s : State) : (updQueue q f s).mbox = s.mbox := rfl
@[simp] theorem updQueue_staged (q : Nat) (f : Queue → Queue) (s : State) : (updQueue q f s).staged = s.staged := rfl
@[simp] theorem updQueue_compatHeld (q : Nat) (f : Queue → Queue) (s : State) : (updQueue q f s).compatHeld = s.compatHeld := rfl
@[simp] theorem updQueue_goWaits (q : Nat) (f : Queue → Queue) (s : State) : (updQueue q f s).goWaits = s.goWaits := rfl
@[simp] theorem updQueue_bellsDue (q : Nat) (f : Queue → Queue) (s : State) : (updQueue q f s).bellsDue = s.bellsDue := rfl
@[simp] theorem updQueue_gov (q : Nat) (f : Queue → Queue) (s : State) : (updQueue q f s).gov = s.gov := rfl
@[simp] theorem updQueue_loop (q : Nat) (f : Queue → Queue) (s : State) : (updQueue q f s).loop = s.loop := rfl
@[simp] theorem updQueue_rails (q : Nat) (f : Queue → Queue) (s : State) : (updQueue q f s).rails = s.rails := rfl
@[simp] theorem updQueue_pack (q : Nat) (f : Queue → Queue) (s : State) : (updQueue q f s).pack = s.pack := rfl
@[simp] theorem updQueue_varnish (q : Nat) (f : Queue → Queue) (s : State) : (updQueue q f s).varnish = s.varnish := rfl
@[simp] theorem updQueue_attr (q : Nat) (f : Queue → Queue) (s : State) : (updQueue q f s).attr = s.attr := rfl
@[simp] theorem updQueue_rst (q : Nat) (f : Queue → Queue) (s : State) : (updQueue q f s).rst = s.rst := rfl
@[simp] theorem updQueue_att (q : Nat) (f : Queue → Queue) (s : State) : (updQueue q f s).att = s.att := rfl
@[simp] theorem updQueue_flash (q : Nat) (f : Queue → Queue) (s : State) : (updQueue q f s).flash = s.flash := rfl
@[simp] theorem updQueue_nvDeferred (q : Nat) (f : Queue → Queue) (s : State) : (updQueue q f s).nvDeferred = s.nvDeferred := rfl
@[simp] theorem updQueue_ledHigh (q : Nat) (f : Queue → Queue) (s : State) : (updQueue q f s).ledHigh = s.ledHigh := rfl
@[simp] theorem updQueue_out (q : Nat) (f : Queue → Queue) (s : State) : (updQueue q f s).out = s.out := rfl

/-! ### updSes -/

@[simp] theorem updSes_pending (n : Nat) (f : Session → Session) (s : State) : (updSes n f s).pending = s.pending := rfl
@[simp] theorem updSes_free (n : Nat) (f : Session → Session) (s : State) : (updSes n f s).free = s.free := rfl
@[simp] theorem updSes_tick (n : Nat) (f : Session → Session) (s : State) : (updSes n f s).tick = s.tick := rfl
@[simp] theorem updSes_beat (n : Nat) (f : Session → Session) (s : State) : (updSes n f s).beat = s.beat := rfl
@[simp] theorem updSes_frac (n : Nat) (f : Session → Session) (s : State) : (updSes n f s).frac = s.frac := rfl
@[simp] theorem updSes_cycle (n : Nat) (f : Session → Session) (s : State) : (updSes n f s).cycle = s.cycle := rfl
@[simp] theorem updSes_regs (n : Nat) (f : Session → Session) (s : State) : (updSes n f s).regs = s.regs := rfl
@[simp] theorem updSes_shadow (n : Nat) (f : Session → Session) (s : State) : (updSes n f s).shadow = s.shadow := rfl
@[simp] theorem updSes_pkgSet (n : Nat) (f : Session → Session) (s : State) : (updSes n f s).pkgSet = s.pkgSet := rfl
@[simp] theorem updSes_place (n : Nat) (f : Session → Session) (s : State) : (updSes n f s).place = s.place := rfl
@[simp] theorem updSes_cardId (n : Nat) (f : Session → Session) (s : State) : (updSes n f s).cardId = s.cardId := rfl
@[simp] theorem updSes_tile (n : Nat) (f : Session → Session) (s : State) : (updSes n f s).tile = s.tile := rfl
@[simp] theorem updSes_scratch (n : Nat) (f : Session → Session) (s : State) : (updSes n f s).scratch = s.scratch := rfl
@[simp] theorem updSes_vault (n : Nat) (f : Session → Session) (s : State) : (updSes n f s).vault = s.vault := rfl
@[simp] theorem updSes_vaultErr (n : Nat) (f : Session → Session) (s : State) : (updSes n f s).vaultErr = s.vaultErr := rfl
@[simp] theorem updSes_scratchErr (n : Nat) (f : Session → Session) (s : State) : (updSes n f s).scratchErr = s.scratchErr := rfl
@[simp] theorem updSes_istoreErr (n : Nat) (f : Session → Session) (s : State) : (updSes n f s).istoreErr = s.istoreErr := rfl
@[simp] theorem updSes_vaultFix (n : Nat) (f : Session → Session) (s : State) : (updSes n f s).vaultFix = s.vaultFix := rfl
@[simp] theorem updSes_scratchFix (n : Nat) (f : Session → Session) (s : State) : (updSes n f s).scratchFix = s.scratchFix := rfl
@[simp] theorem updSes_ceRecAt (n : Nat) (f : Session → Session) (s : State) : (updSes n f s).ceRecAt = s.ceRecAt := rfl
@[simp] theorem updSes_vaultScrub (n : Nat) (f : Session → Session) (s : State) : (updSes n f s).vaultScrub = s.vaultScrub := rfl
@[simp] theorem updSes_scratchScrub (n : Nat) (f : Session → Session) (s : State) : (updSes n f s).scratchScrub = s.scratchScrub := rfl
@[simp] theorem updSes_scrubAt (n : Nat) (f : Session → Session) (s : State) : (updSes n f s).scrubAt = s.scrubAt := rfl
@[simp] theorem updSes_vaultRow (n : Nat) (f : Session → Session) (s : State) : (updSes n f s).vaultRow = s.vaultRow := rfl
@[simp] theorem updSes_rc (n : Nat) (f : Session → Session) (s : State) : (updSes n f s).rc = s.rc := rfl
@[simp] theorem updSes_aligned (n : Nat) (f : Session → Session) (s : State) : (updSes n f s).aligned = s.aligned := rfl
@[simp] theorem updSes_selfRefresh (n : Nat) (f : Session → Session) (s : State) : (updSes n f s).selfRefresh = s.selfRefresh := rfl
@[simp] theorem updSes_window (n : Nat) (f : Session → Session) (s : State) : (updSes n f s).window = s.window := rfl
@[simp] theorem updSes_stagedLo (n : Nat) (f : Session → Session) (s : State) : (updSes n f s).stagedLo = s.stagedLo := rfl
@[simp] theorem updSes_rops (n : Nat) (f : Session → Session) (s : State) : (updSes n f s).rops = s.rops := rfl
@[simp] theorem updSes_fences (n : Nat) (f : Session → Session) (s : State) : (updSes n f s).fences = s.fences := rfl
@[simp] theorem updSes_passed (n : Nat) (f : Session → Session) (s : State) : (updSes n f s).passed = s.passed := rfl
@[simp] theorem updSes_nextOp (n : Nat) (f : Session → Session) (s : State) : (updSes n f s).nextOp = s.nextOp := rfl
@[simp] theorem updSes_peer (n : Nat) (f : Session → Session) (s : State) : (updSes n f s).peer = s.peer := rfl
@[simp] theorem updSes_part (n : Nat) (f : Session → Session) (s : State) : (updSes n f s).part = s.part := rfl
@[simp] theorem updSes_group (n : Nat) (f : Session → Session) (s : State) : (updSes n f s).group = s.group := rfl
@[simp] theorem updSes_queue (n : Nat) (f : Session → Session) (s : State) : (updSes n f s).queue = s.queue := rfl
@[simp] theorem updSes_jobs (n : Nat) (f : Session → Session) (s : State) : (updSes n f s).jobs = s.jobs := rfl
@[simp] theorem updSes_clears (n : Nat) (f : Session → Session) (s : State) : (updSes n f s).clears = s.clears := rfl
@[simp] theorem updSes_windowWaits (n : Nat) (f : Session → Session) (s : State) : (updSes n f s).windowWaits = s.windowWaits := rfl
@[simp] theorem updSes_orphans (n : Nat) (f : Session → Session) (s : State) : (updSes n f s).orphans = s.orphans := rfl
@[simp] theorem updSes_link (n : Nat) (f : Session → Session) (s : State) : (updSes n f s).link = s.link := rfl
@[simp] theorem updSes_eth (n : Nat) (f : Session → Session) (s : State) : (updSes n f s).eth = s.eth := rfl
@[simp] theorem updSes_asm (n : Nat) (f : Session → Session) (s : State) : (updSes n f s).asm = s.asm := rfl
@[simp] theorem updSes_rackUp (n : Nat) (f : Session → Session) (s : State) : (updSes n f s).rackUp = s.rackUp := rfl
@[simp] theorem updSes_sync (n : Nat) (f : Session → Session) (s : State) : (updSes n f s).sync = s.sync := rfl
@[simp] theorem updSes_evs (n : Nat) (f : Session → Session) (s : State) : (updSes n f s).evs = s.evs := rfl
@[simp] theorem updSes_evsLost (n : Nat) (f : Session → Session) (s : State) : (updSes n f s).evsLost = s.evsLost := rfl
@[simp] theorem updSes_recorder (n : Nat) (f : Session → Session) (s : State) : (updSes n f s).recorder = s.recorder := rfl
@[simp] theorem updSes_changes (n : Nat) (f : Session → Session) (s : State) : (updSes n f s).changes = s.changes := rfl
@[simp] theorem updSes_mbox (n : Nat) (f : Session → Session) (s : State) : (updSes n f s).mbox = s.mbox := rfl
@[simp] theorem updSes_staged (n : Nat) (f : Session → Session) (s : State) : (updSes n f s).staged = s.staged := rfl
@[simp] theorem updSes_compatHeld (n : Nat) (f : Session → Session) (s : State) : (updSes n f s).compatHeld = s.compatHeld := rfl
@[simp] theorem updSes_goWaits (n : Nat) (f : Session → Session) (s : State) : (updSes n f s).goWaits = s.goWaits := rfl
@[simp] theorem updSes_bellsDue (n : Nat) (f : Session → Session) (s : State) : (updSes n f s).bellsDue = s.bellsDue := rfl
@[simp] theorem updSes_gov (n : Nat) (f : Session → Session) (s : State) : (updSes n f s).gov = s.gov := rfl
@[simp] theorem updSes_loop (n : Nat) (f : Session → Session) (s : State) : (updSes n f s).loop = s.loop := rfl
@[simp] theorem updSes_rails (n : Nat) (f : Session → Session) (s : State) : (updSes n f s).rails = s.rails := rfl
@[simp] theorem updSes_pack (n : Nat) (f : Session → Session) (s : State) : (updSes n f s).pack = s.pack := rfl
@[simp] theorem updSes_varnish (n : Nat) (f : Session → Session) (s : State) : (updSes n f s).varnish = s.varnish := rfl
@[simp] theorem updSes_attr (n : Nat) (f : Session → Session) (s : State) : (updSes n f s).attr = s.attr := rfl
@[simp] theorem updSes_rst (n : Nat) (f : Session → Session) (s : State) : (updSes n f s).rst = s.rst := rfl
@[simp] theorem updSes_att (n : Nat) (f : Session → Session) (s : State) : (updSes n f s).att = s.att := rfl
@[simp] theorem updSes_flash (n : Nat) (f : Session → Session) (s : State) : (updSes n f s).flash = s.flash := rfl
@[simp] theorem updSes_nvDeferred (n : Nat) (f : Session → Session) (s : State) : (updSes n f s).nvDeferred = s.nvDeferred := rfl
@[simp] theorem updSes_ledHigh (n : Nat) (f : Session → Session) (s : State) : (updSes n f s).ledHigh = s.ledHigh := rfl
@[simp] theorem updSes_out (n : Nat) (f : Session → Session) (s : State) : (updSes n f s).out = s.out := rfl

/-! ### updLink -/

@[simp] theorem updLink_pending (n : Nat) (f : Link → Link) (s : State) : (updLink n f s).pending = s.pending := rfl
@[simp] theorem updLink_free (n : Nat) (f : Link → Link) (s : State) : (updLink n f s).free = s.free := rfl
@[simp] theorem updLink_tick (n : Nat) (f : Link → Link) (s : State) : (updLink n f s).tick = s.tick := rfl
@[simp] theorem updLink_beat (n : Nat) (f : Link → Link) (s : State) : (updLink n f s).beat = s.beat := rfl
@[simp] theorem updLink_frac (n : Nat) (f : Link → Link) (s : State) : (updLink n f s).frac = s.frac := rfl
@[simp] theorem updLink_cycle (n : Nat) (f : Link → Link) (s : State) : (updLink n f s).cycle = s.cycle := rfl
@[simp] theorem updLink_regs (n : Nat) (f : Link → Link) (s : State) : (updLink n f s).regs = s.regs := rfl
@[simp] theorem updLink_shadow (n : Nat) (f : Link → Link) (s : State) : (updLink n f s).shadow = s.shadow := rfl
@[simp] theorem updLink_pkgSet (n : Nat) (f : Link → Link) (s : State) : (updLink n f s).pkgSet = s.pkgSet := rfl
@[simp] theorem updLink_place (n : Nat) (f : Link → Link) (s : State) : (updLink n f s).place = s.place := rfl
@[simp] theorem updLink_cardId (n : Nat) (f : Link → Link) (s : State) : (updLink n f s).cardId = s.cardId := rfl
@[simp] theorem updLink_tile (n : Nat) (f : Link → Link) (s : State) : (updLink n f s).tile = s.tile := rfl
@[simp] theorem updLink_scratch (n : Nat) (f : Link → Link) (s : State) : (updLink n f s).scratch = s.scratch := rfl
@[simp] theorem updLink_vault (n : Nat) (f : Link → Link) (s : State) : (updLink n f s).vault = s.vault := rfl
@[simp] theorem updLink_vaultErr (n : Nat) (f : Link → Link) (s : State) : (updLink n f s).vaultErr = s.vaultErr := rfl
@[simp] theorem updLink_scratchErr (n : Nat) (f : Link → Link) (s : State) : (updLink n f s).scratchErr = s.scratchErr := rfl
@[simp] theorem updLink_istoreErr (n : Nat) (f : Link → Link) (s : State) : (updLink n f s).istoreErr = s.istoreErr := rfl
@[simp] theorem updLink_vaultFix (n : Nat) (f : Link → Link) (s : State) : (updLink n f s).vaultFix = s.vaultFix := rfl
@[simp] theorem updLink_scratchFix (n : Nat) (f : Link → Link) (s : State) : (updLink n f s).scratchFix = s.scratchFix := rfl
@[simp] theorem updLink_ceRecAt (n : Nat) (f : Link → Link) (s : State) : (updLink n f s).ceRecAt = s.ceRecAt := rfl
@[simp] theorem updLink_vaultScrub (n : Nat) (f : Link → Link) (s : State) : (updLink n f s).vaultScrub = s.vaultScrub := rfl
@[simp] theorem updLink_scratchScrub (n : Nat) (f : Link → Link) (s : State) : (updLink n f s).scratchScrub = s.scratchScrub := rfl
@[simp] theorem updLink_scrubAt (n : Nat) (f : Link → Link) (s : State) : (updLink n f s).scrubAt = s.scrubAt := rfl
@[simp] theorem updLink_vaultRow (n : Nat) (f : Link → Link) (s : State) : (updLink n f s).vaultRow = s.vaultRow := rfl
@[simp] theorem updLink_rc (n : Nat) (f : Link → Link) (s : State) : (updLink n f s).rc = s.rc := rfl
@[simp] theorem updLink_aligned (n : Nat) (f : Link → Link) (s : State) : (updLink n f s).aligned = s.aligned := rfl
@[simp] theorem updLink_selfRefresh (n : Nat) (f : Link → Link) (s : State) : (updLink n f s).selfRefresh = s.selfRefresh := rfl
@[simp] theorem updLink_window (n : Nat) (f : Link → Link) (s : State) : (updLink n f s).window = s.window := rfl
@[simp] theorem updLink_stagedLo (n : Nat) (f : Link → Link) (s : State) : (updLink n f s).stagedLo = s.stagedLo := rfl
@[simp] theorem updLink_rops (n : Nat) (f : Link → Link) (s : State) : (updLink n f s).rops = s.rops := rfl
@[simp] theorem updLink_fences (n : Nat) (f : Link → Link) (s : State) : (updLink n f s).fences = s.fences := rfl
@[simp] theorem updLink_passed (n : Nat) (f : Link → Link) (s : State) : (updLink n f s).passed = s.passed := rfl
@[simp] theorem updLink_nextOp (n : Nat) (f : Link → Link) (s : State) : (updLink n f s).nextOp = s.nextOp := rfl
@[simp] theorem updLink_session (n : Nat) (f : Link → Link) (s : State) : (updLink n f s).session = s.session := rfl
@[simp] theorem updLink_peer (n : Nat) (f : Link → Link) (s : State) : (updLink n f s).peer = s.peer := rfl
@[simp] theorem updLink_part (n : Nat) (f : Link → Link) (s : State) : (updLink n f s).part = s.part := rfl
@[simp] theorem updLink_group (n : Nat) (f : Link → Link) (s : State) : (updLink n f s).group = s.group := rfl
@[simp] theorem updLink_queue (n : Nat) (f : Link → Link) (s : State) : (updLink n f s).queue = s.queue := rfl
@[simp] theorem updLink_jobs (n : Nat) (f : Link → Link) (s : State) : (updLink n f s).jobs = s.jobs := rfl
@[simp] theorem updLink_clears (n : Nat) (f : Link → Link) (s : State) : (updLink n f s).clears = s.clears := rfl
@[simp] theorem updLink_windowWaits (n : Nat) (f : Link → Link) (s : State) : (updLink n f s).windowWaits = s.windowWaits := rfl
@[simp] theorem updLink_orphans (n : Nat) (f : Link → Link) (s : State) : (updLink n f s).orphans = s.orphans := rfl
@[simp] theorem updLink_rackUp (n : Nat) (f : Link → Link) (s : State) : (updLink n f s).rackUp = s.rackUp := rfl
@[simp] theorem updLink_sync (n : Nat) (f : Link → Link) (s : State) : (updLink n f s).sync = s.sync := rfl
@[simp] theorem updLink_evs (n : Nat) (f : Link → Link) (s : State) : (updLink n f s).evs = s.evs := rfl
@[simp] theorem updLink_evsLost (n : Nat) (f : Link → Link) (s : State) : (updLink n f s).evsLost = s.evsLost := rfl
@[simp] theorem updLink_recorder (n : Nat) (f : Link → Link) (s : State) : (updLink n f s).recorder = s.recorder := rfl
@[simp] theorem updLink_changes (n : Nat) (f : Link → Link) (s : State) : (updLink n f s).changes = s.changes := rfl
@[simp] theorem updLink_mbox (n : Nat) (f : Link → Link) (s : State) : (updLink n f s).mbox = s.mbox := rfl
@[simp] theorem updLink_staged (n : Nat) (f : Link → Link) (s : State) : (updLink n f s).staged = s.staged := rfl
@[simp] theorem updLink_compatHeld (n : Nat) (f : Link → Link) (s : State) : (updLink n f s).compatHeld = s.compatHeld := rfl
@[simp] theorem updLink_goWaits (n : Nat) (f : Link → Link) (s : State) : (updLink n f s).goWaits = s.goWaits := rfl
@[simp] theorem updLink_bellsDue (n : Nat) (f : Link → Link) (s : State) : (updLink n f s).bellsDue = s.bellsDue := rfl
@[simp] theorem updLink_gov (n : Nat) (f : Link → Link) (s : State) : (updLink n f s).gov = s.gov := rfl
@[simp] theorem updLink_loop (n : Nat) (f : Link → Link) (s : State) : (updLink n f s).loop = s.loop := rfl
@[simp] theorem updLink_rails (n : Nat) (f : Link → Link) (s : State) : (updLink n f s).rails = s.rails := rfl
@[simp] theorem updLink_pack (n : Nat) (f : Link → Link) (s : State) : (updLink n f s).pack = s.pack := rfl
@[simp] theorem updLink_varnish (n : Nat) (f : Link → Link) (s : State) : (updLink n f s).varnish = s.varnish := rfl
@[simp] theorem updLink_attr (n : Nat) (f : Link → Link) (s : State) : (updLink n f s).attr = s.attr := rfl
@[simp] theorem updLink_rst (n : Nat) (f : Link → Link) (s : State) : (updLink n f s).rst = s.rst := rfl
@[simp] theorem updLink_att (n : Nat) (f : Link → Link) (s : State) : (updLink n f s).att = s.att := rfl
@[simp] theorem updLink_flash (n : Nat) (f : Link → Link) (s : State) : (updLink n f s).flash = s.flash := rfl
@[simp] theorem updLink_nvDeferred (n : Nat) (f : Link → Link) (s : State) : (updLink n f s).nvDeferred = s.nvDeferred := rfl
@[simp] theorem updLink_ledHigh (n : Nat) (f : Link → Link) (s : State) : (updLink n f s).ledHigh = s.ledHigh := rfl
@[simp] theorem updLink_out (n : Nat) (f : Link → Link) (s : State) : (updLink n f s).out = s.out := rfl

/-! ### writeScratch -/

@[simp] theorem writeScratch_pending (t a : Nat) (bs : List Byte) (s : State) : (writeScratch t a bs s).pending = s.pending := rfl
@[simp] theorem writeScratch_free (t a : Nat) (bs : List Byte) (s : State) : (writeScratch t a bs s).free = s.free := rfl
@[simp] theorem writeScratch_tick (t a : Nat) (bs : List Byte) (s : State) : (writeScratch t a bs s).tick = s.tick := rfl
@[simp] theorem writeScratch_beat (t a : Nat) (bs : List Byte) (s : State) : (writeScratch t a bs s).beat = s.beat := rfl
@[simp] theorem writeScratch_frac (t a : Nat) (bs : List Byte) (s : State) : (writeScratch t a bs s).frac = s.frac := rfl
@[simp] theorem writeScratch_cycle (t a : Nat) (bs : List Byte) (s : State) : (writeScratch t a bs s).cycle = s.cycle := rfl
@[simp] theorem writeScratch_regs (t a : Nat) (bs : List Byte) (s : State) : (writeScratch t a bs s).regs = s.regs := rfl
@[simp] theorem writeScratch_shadow (t a : Nat) (bs : List Byte) (s : State) : (writeScratch t a bs s).shadow = s.shadow := rfl
@[simp] theorem writeScratch_pkgSet (t a : Nat) (bs : List Byte) (s : State) : (writeScratch t a bs s).pkgSet = s.pkgSet := rfl
@[simp] theorem writeScratch_place (t a : Nat) (bs : List Byte) (s : State) : (writeScratch t a bs s).place = s.place := rfl
@[simp] theorem writeScratch_cardId (t a : Nat) (bs : List Byte) (s : State) : (writeScratch t a bs s).cardId = s.cardId := rfl
@[simp] theorem writeScratch_tile (t a : Nat) (bs : List Byte) (s : State) : (writeScratch t a bs s).tile = s.tile := rfl
@[simp] theorem writeScratch_vault (t a : Nat) (bs : List Byte) (s : State) : (writeScratch t a bs s).vault = s.vault := rfl
@[simp] theorem writeScratch_vaultErr (t a : Nat) (bs : List Byte) (s : State) : (writeScratch t a bs s).vaultErr = s.vaultErr := rfl
@[simp] theorem writeScratch_scratchErr (t a : Nat) (bs : List Byte) (s : State) : (writeScratch t a bs s).scratchErr = s.scratchErr := rfl
@[simp] theorem writeScratch_istoreErr (t a : Nat) (bs : List Byte) (s : State) : (writeScratch t a bs s).istoreErr = s.istoreErr := rfl
@[simp] theorem writeScratch_vaultFix (t a : Nat) (bs : List Byte) (s : State) : (writeScratch t a bs s).vaultFix = s.vaultFix := rfl
@[simp] theorem writeScratch_scratchFix (t a : Nat) (bs : List Byte) (s : State) : (writeScratch t a bs s).scratchFix = s.scratchFix := rfl
@[simp] theorem writeScratch_ceRecAt (t a : Nat) (bs : List Byte) (s : State) : (writeScratch t a bs s).ceRecAt = s.ceRecAt := rfl
@[simp] theorem writeScratch_vaultScrub (t a : Nat) (bs : List Byte) (s : State) : (writeScratch t a bs s).vaultScrub = s.vaultScrub := rfl
@[simp] theorem writeScratch_scratchScrub (t a : Nat) (bs : List Byte) (s : State) : (writeScratch t a bs s).scratchScrub = s.scratchScrub := rfl
@[simp] theorem writeScratch_scrubAt (t a : Nat) (bs : List Byte) (s : State) : (writeScratch t a bs s).scrubAt = s.scrubAt := rfl
@[simp] theorem writeScratch_vaultRow (t a : Nat) (bs : List Byte) (s : State) : (writeScratch t a bs s).vaultRow = s.vaultRow := rfl
@[simp] theorem writeScratch_rc (t a : Nat) (bs : List Byte) (s : State) : (writeScratch t a bs s).rc = s.rc := rfl
@[simp] theorem writeScratch_aligned (t a : Nat) (bs : List Byte) (s : State) : (writeScratch t a bs s).aligned = s.aligned := rfl
@[simp] theorem writeScratch_selfRefresh (t a : Nat) (bs : List Byte) (s : State) : (writeScratch t a bs s).selfRefresh = s.selfRefresh := rfl
@[simp] theorem writeScratch_window (t a : Nat) (bs : List Byte) (s : State) : (writeScratch t a bs s).window = s.window := rfl
@[simp] theorem writeScratch_stagedLo (t a : Nat) (bs : List Byte) (s : State) : (writeScratch t a bs s).stagedLo = s.stagedLo := rfl
@[simp] theorem writeScratch_rops (t a : Nat) (bs : List Byte) (s : State) : (writeScratch t a bs s).rops = s.rops := rfl
@[simp] theorem writeScratch_fences (t a : Nat) (bs : List Byte) (s : State) : (writeScratch t a bs s).fences = s.fences := rfl
@[simp] theorem writeScratch_passed (t a : Nat) (bs : List Byte) (s : State) : (writeScratch t a bs s).passed = s.passed := rfl
@[simp] theorem writeScratch_nextOp (t a : Nat) (bs : List Byte) (s : State) : (writeScratch t a bs s).nextOp = s.nextOp := rfl
@[simp] theorem writeScratch_session (t a : Nat) (bs : List Byte) (s : State) : (writeScratch t a bs s).session = s.session := rfl
@[simp] theorem writeScratch_peer (t a : Nat) (bs : List Byte) (s : State) : (writeScratch t a bs s).peer = s.peer := rfl
@[simp] theorem writeScratch_part (t a : Nat) (bs : List Byte) (s : State) : (writeScratch t a bs s).part = s.part := rfl
@[simp] theorem writeScratch_group (t a : Nat) (bs : List Byte) (s : State) : (writeScratch t a bs s).group = s.group := rfl
@[simp] theorem writeScratch_queue (t a : Nat) (bs : List Byte) (s : State) : (writeScratch t a bs s).queue = s.queue := rfl
@[simp] theorem writeScratch_jobs (t a : Nat) (bs : List Byte) (s : State) : (writeScratch t a bs s).jobs = s.jobs := rfl
@[simp] theorem writeScratch_clears (t a : Nat) (bs : List Byte) (s : State) : (writeScratch t a bs s).clears = s.clears := rfl
@[simp] theorem writeScratch_windowWaits (t a : Nat) (bs : List Byte) (s : State) : (writeScratch t a bs s).windowWaits = s.windowWaits := rfl
@[simp] theorem writeScratch_orphans (t a : Nat) (bs : List Byte) (s : State) : (writeScratch t a bs s).orphans = s.orphans := rfl
@[simp] theorem writeScratch_link (t a : Nat) (bs : List Byte) (s : State) : (writeScratch t a bs s).link = s.link := rfl
@[simp] theorem writeScratch_eth (t a : Nat) (bs : List Byte) (s : State) : (writeScratch t a bs s).eth = s.eth := rfl
@[simp] theorem writeScratch_asm (t a : Nat) (bs : List Byte) (s : State) : (writeScratch t a bs s).asm = s.asm := rfl
@[simp] theorem writeScratch_rackUp (t a : Nat) (bs : List Byte) (s : State) : (writeScratch t a bs s).rackUp = s.rackUp := rfl
@[simp] theorem writeScratch_sync (t a : Nat) (bs : List Byte) (s : State) : (writeScratch t a bs s).sync = s.sync := rfl
@[simp] theorem writeScratch_evs (t a : Nat) (bs : List Byte) (s : State) : (writeScratch t a bs s).evs = s.evs := rfl
@[simp] theorem writeScratch_evsLost (t a : Nat) (bs : List Byte) (s : State) : (writeScratch t a bs s).evsLost = s.evsLost := rfl
@[simp] theorem writeScratch_recorder (t a : Nat) (bs : List Byte) (s : State) : (writeScratch t a bs s).recorder = s.recorder := rfl
@[simp] theorem writeScratch_changes (t a : Nat) (bs : List Byte) (s : State) : (writeScratch t a bs s).changes = s.changes := rfl
@[simp] theorem writeScratch_mbox (t a : Nat) (bs : List Byte) (s : State) : (writeScratch t a bs s).mbox = s.mbox := rfl
@[simp] theorem writeScratch_staged (t a : Nat) (bs : List Byte) (s : State) : (writeScratch t a bs s).staged = s.staged := rfl
@[simp] theorem writeScratch_compatHeld (t a : Nat) (bs : List Byte) (s : State) : (writeScratch t a bs s).compatHeld = s.compatHeld := rfl
@[simp] theorem writeScratch_goWaits (t a : Nat) (bs : List Byte) (s : State) : (writeScratch t a bs s).goWaits = s.goWaits := rfl
@[simp] theorem writeScratch_bellsDue (t a : Nat) (bs : List Byte) (s : State) : (writeScratch t a bs s).bellsDue = s.bellsDue := rfl
@[simp] theorem writeScratch_gov (t a : Nat) (bs : List Byte) (s : State) : (writeScratch t a bs s).gov = s.gov := rfl
@[simp] theorem writeScratch_loop (t a : Nat) (bs : List Byte) (s : State) : (writeScratch t a bs s).loop = s.loop := rfl
@[simp] theorem writeScratch_rails (t a : Nat) (bs : List Byte) (s : State) : (writeScratch t a bs s).rails = s.rails := rfl
@[simp] theorem writeScratch_pack (t a : Nat) (bs : List Byte) (s : State) : (writeScratch t a bs s).pack = s.pack := rfl
@[simp] theorem writeScratch_varnish (t a : Nat) (bs : List Byte) (s : State) : (writeScratch t a bs s).varnish = s.varnish := rfl
@[simp] theorem writeScratch_attr (t a : Nat) (bs : List Byte) (s : State) : (writeScratch t a bs s).attr = s.attr := rfl
@[simp] theorem writeScratch_rst (t a : Nat) (bs : List Byte) (s : State) : (writeScratch t a bs s).rst = s.rst := rfl
@[simp] theorem writeScratch_att (t a : Nat) (bs : List Byte) (s : State) : (writeScratch t a bs s).att = s.att := rfl
@[simp] theorem writeScratch_flash (t a : Nat) (bs : List Byte) (s : State) : (writeScratch t a bs s).flash = s.flash := rfl
@[simp] theorem writeScratch_nvDeferred (t a : Nat) (bs : List Byte) (s : State) : (writeScratch t a bs s).nvDeferred = s.nvDeferred := rfl
@[simp] theorem writeScratch_ledHigh (t a : Nat) (bs : List Byte) (s : State) : (writeScratch t a bs s).ledHigh = s.ledHigh := rfl
@[simp] theorem writeScratch_out (t a : Nat) (bs : List Byte) (s : State) : (writeScratch t a bs s).out = s.out := rfl

/-! ### writeVault -/

@[simp] theorem writeVault_pending (t a : Nat) (bs : List Byte) (s : State) : (writeVault t a bs s).pending = s.pending := rfl
@[simp] theorem writeVault_free (t a : Nat) (bs : List Byte) (s : State) : (writeVault t a bs s).free = s.free := rfl
@[simp] theorem writeVault_tick (t a : Nat) (bs : List Byte) (s : State) : (writeVault t a bs s).tick = s.tick := rfl
@[simp] theorem writeVault_beat (t a : Nat) (bs : List Byte) (s : State) : (writeVault t a bs s).beat = s.beat := rfl
@[simp] theorem writeVault_frac (t a : Nat) (bs : List Byte) (s : State) : (writeVault t a bs s).frac = s.frac := rfl
@[simp] theorem writeVault_cycle (t a : Nat) (bs : List Byte) (s : State) : (writeVault t a bs s).cycle = s.cycle := rfl
@[simp] theorem writeVault_regs (t a : Nat) (bs : List Byte) (s : State) : (writeVault t a bs s).regs = s.regs := rfl
@[simp] theorem writeVault_shadow (t a : Nat) (bs : List Byte) (s : State) : (writeVault t a bs s).shadow = s.shadow := rfl
@[simp] theorem writeVault_pkgSet (t a : Nat) (bs : List Byte) (s : State) : (writeVault t a bs s).pkgSet = s.pkgSet := rfl
@[simp] theorem writeVault_place (t a : Nat) (bs : List Byte) (s : State) : (writeVault t a bs s).place = s.place := rfl
@[simp] theorem writeVault_cardId (t a : Nat) (bs : List Byte) (s : State) : (writeVault t a bs s).cardId = s.cardId := rfl
@[simp] theorem writeVault_tile (t a : Nat) (bs : List Byte) (s : State) : (writeVault t a bs s).tile = s.tile := rfl
@[simp] theorem writeVault_scratch (t a : Nat) (bs : List Byte) (s : State) : (writeVault t a bs s).scratch = s.scratch := rfl
@[simp] theorem writeVault_vaultErr (t a : Nat) (bs : List Byte) (s : State) : (writeVault t a bs s).vaultErr = s.vaultErr := rfl
@[simp] theorem writeVault_scratchErr (t a : Nat) (bs : List Byte) (s : State) : (writeVault t a bs s).scratchErr = s.scratchErr := rfl
@[simp] theorem writeVault_istoreErr (t a : Nat) (bs : List Byte) (s : State) : (writeVault t a bs s).istoreErr = s.istoreErr := rfl
@[simp] theorem writeVault_vaultFix (t a : Nat) (bs : List Byte) (s : State) : (writeVault t a bs s).vaultFix = s.vaultFix := rfl
@[simp] theorem writeVault_scratchFix (t a : Nat) (bs : List Byte) (s : State) : (writeVault t a bs s).scratchFix = s.scratchFix := rfl
@[simp] theorem writeVault_ceRecAt (t a : Nat) (bs : List Byte) (s : State) : (writeVault t a bs s).ceRecAt = s.ceRecAt := rfl
@[simp] theorem writeVault_vaultScrub (t a : Nat) (bs : List Byte) (s : State) : (writeVault t a bs s).vaultScrub = s.vaultScrub := rfl
@[simp] theorem writeVault_scratchScrub (t a : Nat) (bs : List Byte) (s : State) : (writeVault t a bs s).scratchScrub = s.scratchScrub := rfl
@[simp] theorem writeVault_scrubAt (t a : Nat) (bs : List Byte) (s : State) : (writeVault t a bs s).scrubAt = s.scrubAt := rfl
@[simp] theorem writeVault_vaultRow (t a : Nat) (bs : List Byte) (s : State) : (writeVault t a bs s).vaultRow = s.vaultRow := rfl
@[simp] theorem writeVault_rc (t a : Nat) (bs : List Byte) (s : State) : (writeVault t a bs s).rc = s.rc := rfl
@[simp] theorem writeVault_aligned (t a : Nat) (bs : List Byte) (s : State) : (writeVault t a bs s).aligned = s.aligned := rfl
@[simp] theorem writeVault_selfRefresh (t a : Nat) (bs : List Byte) (s : State) : (writeVault t a bs s).selfRefresh = s.selfRefresh := rfl
@[simp] theorem writeVault_window (t a : Nat) (bs : List Byte) (s : State) : (writeVault t a bs s).window = s.window := rfl
@[simp] theorem writeVault_stagedLo (t a : Nat) (bs : List Byte) (s : State) : (writeVault t a bs s).stagedLo = s.stagedLo := rfl
@[simp] theorem writeVault_rops (t a : Nat) (bs : List Byte) (s : State) : (writeVault t a bs s).rops = s.rops := rfl
@[simp] theorem writeVault_fences (t a : Nat) (bs : List Byte) (s : State) : (writeVault t a bs s).fences = s.fences := rfl
@[simp] theorem writeVault_passed (t a : Nat) (bs : List Byte) (s : State) : (writeVault t a bs s).passed = s.passed := rfl
@[simp] theorem writeVault_nextOp (t a : Nat) (bs : List Byte) (s : State) : (writeVault t a bs s).nextOp = s.nextOp := rfl
@[simp] theorem writeVault_session (t a : Nat) (bs : List Byte) (s : State) : (writeVault t a bs s).session = s.session := rfl
@[simp] theorem writeVault_peer (t a : Nat) (bs : List Byte) (s : State) : (writeVault t a bs s).peer = s.peer := rfl
@[simp] theorem writeVault_part (t a : Nat) (bs : List Byte) (s : State) : (writeVault t a bs s).part = s.part := rfl
@[simp] theorem writeVault_group (t a : Nat) (bs : List Byte) (s : State) : (writeVault t a bs s).group = s.group := rfl
@[simp] theorem writeVault_queue (t a : Nat) (bs : List Byte) (s : State) : (writeVault t a bs s).queue = s.queue := rfl
@[simp] theorem writeVault_jobs (t a : Nat) (bs : List Byte) (s : State) : (writeVault t a bs s).jobs = s.jobs := rfl
@[simp] theorem writeVault_clears (t a : Nat) (bs : List Byte) (s : State) : (writeVault t a bs s).clears = s.clears := rfl
@[simp] theorem writeVault_windowWaits (t a : Nat) (bs : List Byte) (s : State) : (writeVault t a bs s).windowWaits = s.windowWaits := rfl
@[simp] theorem writeVault_orphans (t a : Nat) (bs : List Byte) (s : State) : (writeVault t a bs s).orphans = s.orphans := rfl
@[simp] theorem writeVault_link (t a : Nat) (bs : List Byte) (s : State) : (writeVault t a bs s).link = s.link := rfl
@[simp] theorem writeVault_eth (t a : Nat) (bs : List Byte) (s : State) : (writeVault t a bs s).eth = s.eth := rfl
@[simp] theorem writeVault_asm (t a : Nat) (bs : List Byte) (s : State) : (writeVault t a bs s).asm = s.asm := rfl
@[simp] theorem writeVault_rackUp (t a : Nat) (bs : List Byte) (s : State) : (writeVault t a bs s).rackUp = s.rackUp := rfl
@[simp] theorem writeVault_sync (t a : Nat) (bs : List Byte) (s : State) : (writeVault t a bs s).sync = s.sync := rfl
@[simp] theorem writeVault_evs (t a : Nat) (bs : List Byte) (s : State) : (writeVault t a bs s).evs = s.evs := rfl
@[simp] theorem writeVault_evsLost (t a : Nat) (bs : List Byte) (s : State) : (writeVault t a bs s).evsLost = s.evsLost := rfl
@[simp] theorem writeVault_recorder (t a : Nat) (bs : List Byte) (s : State) : (writeVault t a bs s).recorder = s.recorder := rfl
@[simp] theorem writeVault_changes (t a : Nat) (bs : List Byte) (s : State) : (writeVault t a bs s).changes = s.changes := rfl
@[simp] theorem writeVault_mbox (t a : Nat) (bs : List Byte) (s : State) : (writeVault t a bs s).mbox = s.mbox := rfl
@[simp] theorem writeVault_staged (t a : Nat) (bs : List Byte) (s : State) : (writeVault t a bs s).staged = s.staged := rfl
@[simp] theorem writeVault_compatHeld (t a : Nat) (bs : List Byte) (s : State) : (writeVault t a bs s).compatHeld = s.compatHeld := rfl
@[simp] theorem writeVault_goWaits (t a : Nat) (bs : List Byte) (s : State) : (writeVault t a bs s).goWaits = s.goWaits := rfl
@[simp] theorem writeVault_bellsDue (t a : Nat) (bs : List Byte) (s : State) : (writeVault t a bs s).bellsDue = s.bellsDue := rfl
@[simp] theorem writeVault_gov (t a : Nat) (bs : List Byte) (s : State) : (writeVault t a bs s).gov = s.gov := rfl
@[simp] theorem writeVault_loop (t a : Nat) (bs : List Byte) (s : State) : (writeVault t a bs s).loop = s.loop := rfl
@[simp] theorem writeVault_rails (t a : Nat) (bs : List Byte) (s : State) : (writeVault t a bs s).rails = s.rails := rfl
@[simp] theorem writeVault_pack (t a : Nat) (bs : List Byte) (s : State) : (writeVault t a bs s).pack = s.pack := rfl
@[simp] theorem writeVault_varnish (t a : Nat) (bs : List Byte) (s : State) : (writeVault t a bs s).varnish = s.varnish := rfl
@[simp] theorem writeVault_attr (t a : Nat) (bs : List Byte) (s : State) : (writeVault t a bs s).attr = s.attr := rfl
@[simp] theorem writeVault_rst (t a : Nat) (bs : List Byte) (s : State) : (writeVault t a bs s).rst = s.rst := rfl
@[simp] theorem writeVault_att (t a : Nat) (bs : List Byte) (s : State) : (writeVault t a bs s).att = s.att := rfl
@[simp] theorem writeVault_flash (t a : Nat) (bs : List Byte) (s : State) : (writeVault t a bs s).flash = s.flash := rfl
@[simp] theorem writeVault_nvDeferred (t a : Nat) (bs : List Byte) (s : State) : (writeVault t a bs s).nvDeferred = s.nvDeferred := rfl
@[simp] theorem writeVault_ledHigh (t a : Nat) (bs : List Byte) (s : State) : (writeVault t a bs s).ledHigh = s.ledHigh := rfl
@[simp] theorem writeVault_out (t a : Nat) (bs : List Byte) (s : State) : (writeVault t a bs s).out = s.out := rfl

/-! ### emit -/

@[simp] theorem emit_pending (o : Out) (s : State) : (emit o s).pending = s.pending := rfl
@[simp] theorem emit_free (o : Out) (s : State) : (emit o s).free = s.free := rfl
@[simp] theorem emit_tick (o : Out) (s : State) : (emit o s).tick = s.tick := rfl
@[simp] theorem emit_beat (o : Out) (s : State) : (emit o s).beat = s.beat := rfl
@[simp] theorem emit_frac (o : Out) (s : State) : (emit o s).frac = s.frac := rfl
@[simp] theorem emit_cycle (o : Out) (s : State) : (emit o s).cycle = s.cycle := rfl
@[simp] theorem emit_regs (o : Out) (s : State) : (emit o s).regs = s.regs := rfl
@[simp] theorem emit_shadow (o : Out) (s : State) : (emit o s).shadow = s.shadow := rfl
@[simp] theorem emit_pkgSet (o : Out) (s : State) : (emit o s).pkgSet = s.pkgSet := rfl
@[simp] theorem emit_place (o : Out) (s : State) : (emit o s).place = s.place := rfl
@[simp] theorem emit_cardId (o : Out) (s : State) : (emit o s).cardId = s.cardId := rfl
@[simp] theorem emit_tile (o : Out) (s : State) : (emit o s).tile = s.tile := rfl
@[simp] theorem emit_scratch (o : Out) (s : State) : (emit o s).scratch = s.scratch := rfl
@[simp] theorem emit_vault (o : Out) (s : State) : (emit o s).vault = s.vault := rfl
@[simp] theorem emit_vaultErr (o : Out) (s : State) : (emit o s).vaultErr = s.vaultErr := rfl
@[simp] theorem emit_scratchErr (o : Out) (s : State) : (emit o s).scratchErr = s.scratchErr := rfl
@[simp] theorem emit_istoreErr (o : Out) (s : State) : (emit o s).istoreErr = s.istoreErr := rfl
@[simp] theorem emit_vaultFix (o : Out) (s : State) : (emit o s).vaultFix = s.vaultFix := rfl
@[simp] theorem emit_scratchFix (o : Out) (s : State) : (emit o s).scratchFix = s.scratchFix := rfl
@[simp] theorem emit_ceRecAt (o : Out) (s : State) : (emit o s).ceRecAt = s.ceRecAt := rfl
@[simp] theorem emit_vaultScrub (o : Out) (s : State) : (emit o s).vaultScrub = s.vaultScrub := rfl
@[simp] theorem emit_scratchScrub (o : Out) (s : State) : (emit o s).scratchScrub = s.scratchScrub := rfl
@[simp] theorem emit_scrubAt (o : Out) (s : State) : (emit o s).scrubAt = s.scrubAt := rfl
@[simp] theorem emit_vaultRow (o : Out) (s : State) : (emit o s).vaultRow = s.vaultRow := rfl
@[simp] theorem emit_rc (o : Out) (s : State) : (emit o s).rc = s.rc := rfl
@[simp] theorem emit_aligned (o : Out) (s : State) : (emit o s).aligned = s.aligned := rfl
@[simp] theorem emit_selfRefresh (o : Out) (s : State) : (emit o s).selfRefresh = s.selfRefresh := rfl
@[simp] theorem emit_window (o : Out) (s : State) : (emit o s).window = s.window := rfl
@[simp] theorem emit_stagedLo (o : Out) (s : State) : (emit o s).stagedLo = s.stagedLo := rfl
@[simp] theorem emit_rops (o : Out) (s : State) : (emit o s).rops = s.rops := rfl
@[simp] theorem emit_fences (o : Out) (s : State) : (emit o s).fences = s.fences := rfl
@[simp] theorem emit_passed (o : Out) (s : State) : (emit o s).passed = s.passed := rfl
@[simp] theorem emit_nextOp (o : Out) (s : State) : (emit o s).nextOp = s.nextOp := rfl
@[simp] theorem emit_session (o : Out) (s : State) : (emit o s).session = s.session := rfl
@[simp] theorem emit_peer (o : Out) (s : State) : (emit o s).peer = s.peer := rfl
@[simp] theorem emit_part (o : Out) (s : State) : (emit o s).part = s.part := rfl
@[simp] theorem emit_group (o : Out) (s : State) : (emit o s).group = s.group := rfl
@[simp] theorem emit_queue (o : Out) (s : State) : (emit o s).queue = s.queue := rfl
@[simp] theorem emit_jobs (o : Out) (s : State) : (emit o s).jobs = s.jobs := rfl
@[simp] theorem emit_clears (o : Out) (s : State) : (emit o s).clears = s.clears := rfl
@[simp] theorem emit_windowWaits (o : Out) (s : State) : (emit o s).windowWaits = s.windowWaits := rfl
@[simp] theorem emit_orphans (o : Out) (s : State) : (emit o s).orphans = s.orphans := rfl
@[simp] theorem emit_link (o : Out) (s : State) : (emit o s).link = s.link := rfl
@[simp] theorem emit_eth (o : Out) (s : State) : (emit o s).eth = s.eth := rfl
@[simp] theorem emit_asm (o : Out) (s : State) : (emit o s).asm = s.asm := rfl
@[simp] theorem emit_rackUp (o : Out) (s : State) : (emit o s).rackUp = s.rackUp := rfl
@[simp] theorem emit_sync (o : Out) (s : State) : (emit o s).sync = s.sync := rfl
@[simp] theorem emit_evs (o : Out) (s : State) : (emit o s).evs = s.evs := rfl
@[simp] theorem emit_evsLost (o : Out) (s : State) : (emit o s).evsLost = s.evsLost := rfl
@[simp] theorem emit_recorder (o : Out) (s : State) : (emit o s).recorder = s.recorder := rfl
@[simp] theorem emit_changes (o : Out) (s : State) : (emit o s).changes = s.changes := rfl
@[simp] theorem emit_mbox (o : Out) (s : State) : (emit o s).mbox = s.mbox := rfl
@[simp] theorem emit_staged (o : Out) (s : State) : (emit o s).staged = s.staged := rfl
@[simp] theorem emit_compatHeld (o : Out) (s : State) : (emit o s).compatHeld = s.compatHeld := rfl
@[simp] theorem emit_goWaits (o : Out) (s : State) : (emit o s).goWaits = s.goWaits := rfl
@[simp] theorem emit_bellsDue (o : Out) (s : State) : (emit o s).bellsDue = s.bellsDue := rfl
@[simp] theorem emit_gov (o : Out) (s : State) : (emit o s).gov = s.gov := rfl
@[simp] theorem emit_loop (o : Out) (s : State) : (emit o s).loop = s.loop := rfl
@[simp] theorem emit_rails (o : Out) (s : State) : (emit o s).rails = s.rails := rfl
@[simp] theorem emit_pack (o : Out) (s : State) : (emit o s).pack = s.pack := rfl
@[simp] theorem emit_varnish (o : Out) (s : State) : (emit o s).varnish = s.varnish := rfl
@[simp] theorem emit_attr (o : Out) (s : State) : (emit o s).attr = s.attr := rfl
@[simp] theorem emit_rst (o : Out) (s : State) : (emit o s).rst = s.rst := rfl
@[simp] theorem emit_att (o : Out) (s : State) : (emit o s).att = s.att := rfl
@[simp] theorem emit_flash (o : Out) (s : State) : (emit o s).flash = s.flash := rfl
@[simp] theorem emit_nvDeferred (o : Out) (s : State) : (emit o s).nvDeferred = s.nvDeferred := rfl
@[simp] theorem emit_ledHigh (o : Out) (s : State) : (emit o s).ledHigh = s.ledHigh := rfl

/-! ### useFree -/

@[simp] theorem useFree_pending (s : State) : (useFree s).pending = s.pending := rfl
@[simp] theorem useFree_tick (s : State) : (useFree s).tick = s.tick := rfl
@[simp] theorem useFree_beat (s : State) : (useFree s).beat = s.beat := rfl
@[simp] theorem useFree_frac (s : State) : (useFree s).frac = s.frac := rfl
@[simp] theorem useFree_cycle (s : State) : (useFree s).cycle = s.cycle := rfl
@[simp] theorem useFree_regs (s : State) : (useFree s).regs = s.regs := rfl
@[simp] theorem useFree_shadow (s : State) : (useFree s).shadow = s.shadow := rfl
@[simp] theorem useFree_pkgSet (s : State) : (useFree s).pkgSet = s.pkgSet := rfl
@[simp] theorem useFree_place (s : State) : (useFree s).place = s.place := rfl
@[simp] theorem useFree_cardId (s : State) : (useFree s).cardId = s.cardId := rfl
@[simp] theorem useFree_tile (s : State) : (useFree s).tile = s.tile := rfl
@[simp] theorem useFree_scratch (s : State) : (useFree s).scratch = s.scratch := rfl
@[simp] theorem useFree_vault (s : State) : (useFree s).vault = s.vault := rfl
@[simp] theorem useFree_vaultErr (s : State) : (useFree s).vaultErr = s.vaultErr := rfl
@[simp] theorem useFree_scratchErr (s : State) : (useFree s).scratchErr = s.scratchErr := rfl
@[simp] theorem useFree_istoreErr (s : State) : (useFree s).istoreErr = s.istoreErr := rfl
@[simp] theorem useFree_vaultFix (s : State) : (useFree s).vaultFix = s.vaultFix := rfl
@[simp] theorem useFree_scratchFix (s : State) : (useFree s).scratchFix = s.scratchFix := rfl
@[simp] theorem useFree_ceRecAt (s : State) : (useFree s).ceRecAt = s.ceRecAt := rfl
@[simp] theorem useFree_vaultScrub (s : State) : (useFree s).vaultScrub = s.vaultScrub := rfl
@[simp] theorem useFree_scratchScrub (s : State) : (useFree s).scratchScrub = s.scratchScrub := rfl
@[simp] theorem useFree_scrubAt (s : State) : (useFree s).scrubAt = s.scrubAt := rfl
@[simp] theorem useFree_vaultRow (s : State) : (useFree s).vaultRow = s.vaultRow := rfl
@[simp] theorem useFree_rc (s : State) : (useFree s).rc = s.rc := rfl
@[simp] theorem useFree_aligned (s : State) : (useFree s).aligned = s.aligned := rfl
@[simp] theorem useFree_selfRefresh (s : State) : (useFree s).selfRefresh = s.selfRefresh := rfl
@[simp] theorem useFree_window (s : State) : (useFree s).window = s.window := rfl
@[simp] theorem useFree_stagedLo (s : State) : (useFree s).stagedLo = s.stagedLo := rfl
@[simp] theorem useFree_rops (s : State) : (useFree s).rops = s.rops := rfl
@[simp] theorem useFree_fences (s : State) : (useFree s).fences = s.fences := rfl
@[simp] theorem useFree_passed (s : State) : (useFree s).passed = s.passed := rfl
@[simp] theorem useFree_nextOp (s : State) : (useFree s).nextOp = s.nextOp := rfl
@[simp] theorem useFree_session (s : State) : (useFree s).session = s.session := rfl
@[simp] theorem useFree_peer (s : State) : (useFree s).peer = s.peer := rfl
@[simp] theorem useFree_part (s : State) : (useFree s).part = s.part := rfl
@[simp] theorem useFree_group (s : State) : (useFree s).group = s.group := rfl
@[simp] theorem useFree_queue (s : State) : (useFree s).queue = s.queue := rfl
@[simp] theorem useFree_jobs (s : State) : (useFree s).jobs = s.jobs := rfl
@[simp] theorem useFree_clears (s : State) : (useFree s).clears = s.clears := rfl
@[simp] theorem useFree_windowWaits (s : State) : (useFree s).windowWaits = s.windowWaits := rfl
@[simp] theorem useFree_orphans (s : State) : (useFree s).orphans = s.orphans := rfl
@[simp] theorem useFree_link (s : State) : (useFree s).link = s.link := rfl
@[simp] theorem useFree_eth (s : State) : (useFree s).eth = s.eth := rfl
@[simp] theorem useFree_asm (s : State) : (useFree s).asm = s.asm := rfl
@[simp] theorem useFree_rackUp (s : State) : (useFree s).rackUp = s.rackUp := rfl
@[simp] theorem useFree_sync (s : State) : (useFree s).sync = s.sync := rfl
@[simp] theorem useFree_evs (s : State) : (useFree s).evs = s.evs := rfl
@[simp] theorem useFree_evsLost (s : State) : (useFree s).evsLost = s.evsLost := rfl
@[simp] theorem useFree_recorder (s : State) : (useFree s).recorder = s.recorder := rfl
@[simp] theorem useFree_changes (s : State) : (useFree s).changes = s.changes := rfl
@[simp] theorem useFree_mbox (s : State) : (useFree s).mbox = s.mbox := rfl
@[simp] theorem useFree_staged (s : State) : (useFree s).staged = s.staged := rfl
@[simp] theorem useFree_compatHeld (s : State) : (useFree s).compatHeld = s.compatHeld := rfl
@[simp] theorem useFree_goWaits (s : State) : (useFree s).goWaits = s.goWaits := rfl
@[simp] theorem useFree_bellsDue (s : State) : (useFree s).bellsDue = s.bellsDue := rfl
@[simp] theorem useFree_gov (s : State) : (useFree s).gov = s.gov := rfl
@[simp] theorem useFree_loop (s : State) : (useFree s).loop = s.loop := rfl
@[simp] theorem useFree_rails (s : State) : (useFree s).rails = s.rails := rfl
@[simp] theorem useFree_pack (s : State) : (useFree s).pack = s.pack := rfl
@[simp] theorem useFree_varnish (s : State) : (useFree s).varnish = s.varnish := rfl
@[simp] theorem useFree_attr (s : State) : (useFree s).attr = s.attr := rfl
@[simp] theorem useFree_rst (s : State) : (useFree s).rst = s.rst := rfl
@[simp] theorem useFree_att (s : State) : (useFree s).att = s.att := rfl
@[simp] theorem useFree_flash (s : State) : (useFree s).flash = s.flash := rfl
@[simp] theorem useFree_nvDeferred (s : State) : (useFree s).nvDeferred = s.nvDeferred := rfl
@[simp] theorem useFree_ledHigh (s : State) : (useFree s).ledHigh = s.ledHigh := rfl
@[simp] theorem useFree_out (s : State) : (useFree s).out = s.out := rfl

/-! ### logEntry -/

@[simp] theorem logEntry_pending (c : Change) (s : State) : (logEntry c s).pending = s.pending := rfl
@[simp] theorem logEntry_free (c : Change) (s : State) : (logEntry c s).free = s.free := rfl
@[simp] theorem logEntry_tick (c : Change) (s : State) : (logEntry c s).tick = s.tick := rfl
@[simp] theorem logEntry_beat (c : Change) (s : State) : (logEntry c s).beat = s.beat := rfl
@[simp] theorem logEntry_frac (c : Change) (s : State) : (logEntry c s).frac = s.frac := rfl
@[simp] theorem logEntry_cycle (c : Change) (s : State) : (logEntry c s).cycle = s.cycle := rfl
@[simp] theorem logEntry_regs (c : Change) (s : State) : (logEntry c s).regs = s.regs := rfl
@[simp] theorem logEntry_shadow (c : Change) (s : State) : (logEntry c s).shadow = s.shadow := rfl
@[simp] theorem logEntry_pkgSet (c : Change) (s : State) : (logEntry c s).pkgSet = s.pkgSet := rfl
@[simp] theorem logEntry_place (c : Change) (s : State) : (logEntry c s).place = s.place := rfl
@[simp] theorem logEntry_cardId (c : Change) (s : State) : (logEntry c s).cardId = s.cardId := rfl
@[simp] theorem logEntry_tile (c : Change) (s : State) : (logEntry c s).tile = s.tile := rfl
@[simp] theorem logEntry_scratch (c : Change) (s : State) : (logEntry c s).scratch = s.scratch := rfl
@[simp] theorem logEntry_vault (c : Change) (s : State) : (logEntry c s).vault = s.vault := rfl
@[simp] theorem logEntry_vaultErr (c : Change) (s : State) : (logEntry c s).vaultErr = s.vaultErr := rfl
@[simp] theorem logEntry_scratchErr (c : Change) (s : State) : (logEntry c s).scratchErr = s.scratchErr := rfl
@[simp] theorem logEntry_istoreErr (c : Change) (s : State) : (logEntry c s).istoreErr = s.istoreErr := rfl
@[simp] theorem logEntry_vaultFix (c : Change) (s : State) : (logEntry c s).vaultFix = s.vaultFix := rfl
@[simp] theorem logEntry_scratchFix (c : Change) (s : State) : (logEntry c s).scratchFix = s.scratchFix := rfl
@[simp] theorem logEntry_ceRecAt (c : Change) (s : State) : (logEntry c s).ceRecAt = s.ceRecAt := rfl
@[simp] theorem logEntry_vaultScrub (c : Change) (s : State) : (logEntry c s).vaultScrub = s.vaultScrub := rfl
@[simp] theorem logEntry_scratchScrub (c : Change) (s : State) : (logEntry c s).scratchScrub = s.scratchScrub := rfl
@[simp] theorem logEntry_scrubAt (c : Change) (s : State) : (logEntry c s).scrubAt = s.scrubAt := rfl
@[simp] theorem logEntry_vaultRow (c : Change) (s : State) : (logEntry c s).vaultRow = s.vaultRow := rfl
@[simp] theorem logEntry_rc (c : Change) (s : State) : (logEntry c s).rc = s.rc := rfl
@[simp] theorem logEntry_aligned (c : Change) (s : State) : (logEntry c s).aligned = s.aligned := rfl
@[simp] theorem logEntry_selfRefresh (c : Change) (s : State) : (logEntry c s).selfRefresh = s.selfRefresh := rfl
@[simp] theorem logEntry_window (c : Change) (s : State) : (logEntry c s).window = s.window := rfl
@[simp] theorem logEntry_stagedLo (c : Change) (s : State) : (logEntry c s).stagedLo = s.stagedLo := rfl
@[simp] theorem logEntry_rops (c : Change) (s : State) : (logEntry c s).rops = s.rops := rfl
@[simp] theorem logEntry_fences (c : Change) (s : State) : (logEntry c s).fences = s.fences := rfl
@[simp] theorem logEntry_passed (c : Change) (s : State) : (logEntry c s).passed = s.passed := rfl
@[simp] theorem logEntry_nextOp (c : Change) (s : State) : (logEntry c s).nextOp = s.nextOp := rfl
@[simp] theorem logEntry_session (c : Change) (s : State) : (logEntry c s).session = s.session := rfl
@[simp] theorem logEntry_peer (c : Change) (s : State) : (logEntry c s).peer = s.peer := rfl
@[simp] theorem logEntry_part (c : Change) (s : State) : (logEntry c s).part = s.part := rfl
@[simp] theorem logEntry_group (c : Change) (s : State) : (logEntry c s).group = s.group := rfl
@[simp] theorem logEntry_queue (c : Change) (s : State) : (logEntry c s).queue = s.queue := rfl
@[simp] theorem logEntry_jobs (c : Change) (s : State) : (logEntry c s).jobs = s.jobs := rfl
@[simp] theorem logEntry_clears (c : Change) (s : State) : (logEntry c s).clears = s.clears := rfl
@[simp] theorem logEntry_windowWaits (c : Change) (s : State) : (logEntry c s).windowWaits = s.windowWaits := rfl
@[simp] theorem logEntry_orphans (c : Change) (s : State) : (logEntry c s).orphans = s.orphans := rfl
@[simp] theorem logEntry_link (c : Change) (s : State) : (logEntry c s).link = s.link := rfl
@[simp] theorem logEntry_eth (c : Change) (s : State) : (logEntry c s).eth = s.eth := rfl
@[simp] theorem logEntry_asm (c : Change) (s : State) : (logEntry c s).asm = s.asm := rfl
@[simp] theorem logEntry_rackUp (c : Change) (s : State) : (logEntry c s).rackUp = s.rackUp := rfl
@[simp] theorem logEntry_sync (c : Change) (s : State) : (logEntry c s).sync = s.sync := rfl
@[simp] theorem logEntry_evs (c : Change) (s : State) : (logEntry c s).evs = s.evs := rfl
@[simp] theorem logEntry_evsLost (c : Change) (s : State) : (logEntry c s).evsLost = s.evsLost := rfl
@[simp] theorem logEntry_recorder (c : Change) (s : State) : (logEntry c s).recorder = s.recorder := rfl
@[simp] theorem logEntry_mbox (c : Change) (s : State) : (logEntry c s).mbox = s.mbox := rfl
@[simp] theorem logEntry_staged (c : Change) (s : State) : (logEntry c s).staged = s.staged := rfl
@[simp] theorem logEntry_compatHeld (c : Change) (s : State) : (logEntry c s).compatHeld = s.compatHeld := rfl
@[simp] theorem logEntry_goWaits (c : Change) (s : State) : (logEntry c s).goWaits = s.goWaits := rfl
@[simp] theorem logEntry_bellsDue (c : Change) (s : State) : (logEntry c s).bellsDue = s.bellsDue := rfl
@[simp] theorem logEntry_gov (c : Change) (s : State) : (logEntry c s).gov = s.gov := rfl
@[simp] theorem logEntry_loop (c : Change) (s : State) : (logEntry c s).loop = s.loop := rfl
@[simp] theorem logEntry_rails (c : Change) (s : State) : (logEntry c s).rails = s.rails := rfl
@[simp] theorem logEntry_pack (c : Change) (s : State) : (logEntry c s).pack = s.pack := rfl
@[simp] theorem logEntry_varnish (c : Change) (s : State) : (logEntry c s).varnish = s.varnish := rfl
@[simp] theorem logEntry_attr (c : Change) (s : State) : (logEntry c s).attr = s.attr := rfl
@[simp] theorem logEntry_rst (c : Change) (s : State) : (logEntry c s).rst = s.rst := rfl
@[simp] theorem logEntry_att (c : Change) (s : State) : (logEntry c s).att = s.att := rfl
@[simp] theorem logEntry_flash (c : Change) (s : State) : (logEntry c s).flash = s.flash := rfl
@[simp] theorem logEntry_nvDeferred (c : Change) (s : State) : (logEntry c s).nvDeferred = s.nvDeferred := rfl
@[simp] theorem logEntry_ledHigh (c : Change) (s : State) : (logEntry c s).ledHigh = s.ledHigh := rfl
@[simp] theorem logEntry_out (c : Change) (s : State) : (logEntry c s).out = s.out := rfl

/-! ### charge -/

@[simp] theorem charge_pending (acct k n : Nat) (s : State) : (charge acct k n s).pending = s.pending := rfl
@[simp] theorem charge_free (acct k n : Nat) (s : State) : (charge acct k n s).free = s.free := rfl
@[simp] theorem charge_tick (acct k n : Nat) (s : State) : (charge acct k n s).tick = s.tick := rfl
@[simp] theorem charge_beat (acct k n : Nat) (s : State) : (charge acct k n s).beat = s.beat := rfl
@[simp] theorem charge_frac (acct k n : Nat) (s : State) : (charge acct k n s).frac = s.frac := rfl
@[simp] theorem charge_cycle (acct k n : Nat) (s : State) : (charge acct k n s).cycle = s.cycle := rfl
@[simp] theorem charge_regs (acct k n : Nat) (s : State) : (charge acct k n s).regs = s.regs := rfl
@[simp] theorem charge_shadow (acct k n : Nat) (s : State) : (charge acct k n s).shadow = s.shadow := rfl
@[simp] theorem charge_pkgSet (acct k n : Nat) (s : State) : (charge acct k n s).pkgSet = s.pkgSet := rfl
@[simp] theorem charge_place (acct k n : Nat) (s : State) : (charge acct k n s).place = s.place := rfl
@[simp] theorem charge_cardId (acct k n : Nat) (s : State) : (charge acct k n s).cardId = s.cardId := rfl
@[simp] theorem charge_tile (acct k n : Nat) (s : State) : (charge acct k n s).tile = s.tile := rfl
@[simp] theorem charge_scratch (acct k n : Nat) (s : State) : (charge acct k n s).scratch = s.scratch := rfl
@[simp] theorem charge_vault (acct k n : Nat) (s : State) : (charge acct k n s).vault = s.vault := rfl
@[simp] theorem charge_vaultErr (acct k n : Nat) (s : State) : (charge acct k n s).vaultErr = s.vaultErr := rfl
@[simp] theorem charge_scratchErr (acct k n : Nat) (s : State) : (charge acct k n s).scratchErr = s.scratchErr := rfl
@[simp] theorem charge_istoreErr (acct k n : Nat) (s : State) : (charge acct k n s).istoreErr = s.istoreErr := rfl
@[simp] theorem charge_vaultFix (acct k n : Nat) (s : State) : (charge acct k n s).vaultFix = s.vaultFix := rfl
@[simp] theorem charge_scratchFix (acct k n : Nat) (s : State) : (charge acct k n s).scratchFix = s.scratchFix := rfl
@[simp] theorem charge_ceRecAt (acct k n : Nat) (s : State) : (charge acct k n s).ceRecAt = s.ceRecAt := rfl
@[simp] theorem charge_vaultScrub (acct k n : Nat) (s : State) : (charge acct k n s).vaultScrub = s.vaultScrub := rfl
@[simp] theorem charge_scratchScrub (acct k n : Nat) (s : State) : (charge acct k n s).scratchScrub = s.scratchScrub := rfl
@[simp] theorem charge_scrubAt (acct k n : Nat) (s : State) : (charge acct k n s).scrubAt = s.scrubAt := rfl
@[simp] theorem charge_vaultRow (acct k n : Nat) (s : State) : (charge acct k n s).vaultRow = s.vaultRow := rfl
@[simp] theorem charge_rc (acct k n : Nat) (s : State) : (charge acct k n s).rc = s.rc := rfl
@[simp] theorem charge_aligned (acct k n : Nat) (s : State) : (charge acct k n s).aligned = s.aligned := rfl
@[simp] theorem charge_selfRefresh (acct k n : Nat) (s : State) : (charge acct k n s).selfRefresh = s.selfRefresh := rfl
@[simp] theorem charge_window (acct k n : Nat) (s : State) : (charge acct k n s).window = s.window := rfl
@[simp] theorem charge_stagedLo (acct k n : Nat) (s : State) : (charge acct k n s).stagedLo = s.stagedLo := rfl
@[simp] theorem charge_rops (acct k n : Nat) (s : State) : (charge acct k n s).rops = s.rops := rfl
@[simp] theorem charge_fences (acct k n : Nat) (s : State) : (charge acct k n s).fences = s.fences := rfl
@[simp] theorem charge_passed (acct k n : Nat) (s : State) : (charge acct k n s).passed = s.passed := rfl
@[simp] theorem charge_nextOp (acct k n : Nat) (s : State) : (charge acct k n s).nextOp = s.nextOp := rfl
@[simp] theorem charge_session (acct k n : Nat) (s : State) : (charge acct k n s).session = s.session := rfl
@[simp] theorem charge_peer (acct k n : Nat) (s : State) : (charge acct k n s).peer = s.peer := rfl
@[simp] theorem charge_part (acct k n : Nat) (s : State) : (charge acct k n s).part = s.part := rfl
@[simp] theorem charge_group (acct k n : Nat) (s : State) : (charge acct k n s).group = s.group := rfl
@[simp] theorem charge_queue (acct k n : Nat) (s : State) : (charge acct k n s).queue = s.queue := rfl
@[simp] theorem charge_jobs (acct k n : Nat) (s : State) : (charge acct k n s).jobs = s.jobs := rfl
@[simp] theorem charge_clears (acct k n : Nat) (s : State) : (charge acct k n s).clears = s.clears := rfl
@[simp] theorem charge_windowWaits (acct k n : Nat) (s : State) : (charge acct k n s).windowWaits = s.windowWaits := rfl
@[simp] theorem charge_orphans (acct k n : Nat) (s : State) : (charge acct k n s).orphans = s.orphans := rfl
@[simp] theorem charge_link (acct k n : Nat) (s : State) : (charge acct k n s).link = s.link := rfl
@[simp] theorem charge_eth (acct k n : Nat) (s : State) : (charge acct k n s).eth = s.eth := rfl
@[simp] theorem charge_asm (acct k n : Nat) (s : State) : (charge acct k n s).asm = s.asm := rfl
@[simp] theorem charge_rackUp (acct k n : Nat) (s : State) : (charge acct k n s).rackUp = s.rackUp := rfl
@[simp] theorem charge_sync (acct k n : Nat) (s : State) : (charge acct k n s).sync = s.sync := rfl
@[simp] theorem charge_evs (acct k n : Nat) (s : State) : (charge acct k n s).evs = s.evs := rfl
@[simp] theorem charge_evsLost (acct k n : Nat) (s : State) : (charge acct k n s).evsLost = s.evsLost := rfl
@[simp] theorem charge_recorder (acct k n : Nat) (s : State) : (charge acct k n s).recorder = s.recorder := rfl
@[simp] theorem charge_changes (acct k n : Nat) (s : State) : (charge acct k n s).changes = s.changes := rfl
@[simp] theorem charge_mbox (acct k n : Nat) (s : State) : (charge acct k n s).mbox = s.mbox := rfl
@[simp] theorem charge_staged (acct k n : Nat) (s : State) : (charge acct k n s).staged = s.staged := rfl
@[simp] theorem charge_compatHeld (acct k n : Nat) (s : State) : (charge acct k n s).compatHeld = s.compatHeld := rfl
@[simp] theorem charge_goWaits (acct k n : Nat) (s : State) : (charge acct k n s).goWaits = s.goWaits := rfl
@[simp] theorem charge_bellsDue (acct k n : Nat) (s : State) : (charge acct k n s).bellsDue = s.bellsDue := rfl
@[simp] theorem charge_gov (acct k n : Nat) (s : State) : (charge acct k n s).gov = s.gov := rfl
@[simp] theorem charge_loop (acct k n : Nat) (s : State) : (charge acct k n s).loop = s.loop := rfl
@[simp] theorem charge_rails (acct k n : Nat) (s : State) : (charge acct k n s).rails = s.rails := rfl
@[simp] theorem charge_pack (acct k n : Nat) (s : State) : (charge acct k n s).pack = s.pack := rfl
@[simp] theorem charge_varnish (acct k n : Nat) (s : State) : (charge acct k n s).varnish = s.varnish := rfl
@[simp] theorem charge_rst (acct k n : Nat) (s : State) : (charge acct k n s).rst = s.rst := rfl
@[simp] theorem charge_att (acct k n : Nat) (s : State) : (charge acct k n s).att = s.att := rfl
@[simp] theorem charge_flash (acct k n : Nat) (s : State) : (charge acct k n s).flash = s.flash := rfl
@[simp] theorem charge_nvDeferred (acct k n : Nat) (s : State) : (charge acct k n s).nvDeferred = s.nvDeferred := rfl
@[simp] theorem charge_ledHigh (acct k n : Nat) (s : State) : (charge acct k n s).ledHigh = s.ledHigh := rfl
@[simp] theorem charge_out (acct k n : Nat) (s : State) : (charge acct k n s).out = s.out := rfl

/-! ### evPostAt -/

@[simp] theorem evPostAt_pending (src : Byte) (value : BitVec 32) (stamp : BitVec 64) (m : Mark) (s : State) : (evPostAt src value stamp m s).pending = s.pending := by unfold evPostAt; split <;> rfl
@[simp] theorem evPostAt_free (src : Byte) (value : BitVec 32) (stamp : BitVec 64) (m : Mark) (s : State) : (evPostAt src value stamp m s).free = s.free := by unfold evPostAt; split <;> rfl
@[simp] theorem evPostAt_tick (src : Byte) (value : BitVec 32) (stamp : BitVec 64) (m : Mark) (s : State) : (evPostAt src value stamp m s).tick = s.tick := by unfold evPostAt; split <;> rfl
@[simp] theorem evPostAt_beat (src : Byte) (value : BitVec 32) (stamp : BitVec 64) (m : Mark) (s : State) : (evPostAt src value stamp m s).beat = s.beat := by unfold evPostAt; split <;> rfl
@[simp] theorem evPostAt_frac (src : Byte) (value : BitVec 32) (stamp : BitVec 64) (m : Mark) (s : State) : (evPostAt src value stamp m s).frac = s.frac := by unfold evPostAt; split <;> rfl
@[simp] theorem evPostAt_cycle (src : Byte) (value : BitVec 32) (stamp : BitVec 64) (m : Mark) (s : State) : (evPostAt src value stamp m s).cycle = s.cycle := by unfold evPostAt; split <;> rfl
@[simp] theorem evPostAt_regs (src : Byte) (value : BitVec 32) (stamp : BitVec 64) (m : Mark) (s : State) : (evPostAt src value stamp m s).regs = s.regs := by unfold evPostAt; split <;> rfl
@[simp] theorem evPostAt_shadow (src : Byte) (value : BitVec 32) (stamp : BitVec 64) (m : Mark) (s : State) : (evPostAt src value stamp m s).shadow = s.shadow := by unfold evPostAt; split <;> rfl
@[simp] theorem evPostAt_pkgSet (src : Byte) (value : BitVec 32) (stamp : BitVec 64) (m : Mark) (s : State) : (evPostAt src value stamp m s).pkgSet = s.pkgSet := by unfold evPostAt; split <;> rfl
@[simp] theorem evPostAt_place (src : Byte) (value : BitVec 32) (stamp : BitVec 64) (m : Mark) (s : State) : (evPostAt src value stamp m s).place = s.place := by unfold evPostAt; split <;> rfl
@[simp] theorem evPostAt_cardId (src : Byte) (value : BitVec 32) (stamp : BitVec 64) (m : Mark) (s : State) : (evPostAt src value stamp m s).cardId = s.cardId := by unfold evPostAt; split <;> rfl
@[simp] theorem evPostAt_tile (src : Byte) (value : BitVec 32) (stamp : BitVec 64) (m : Mark) (s : State) : (evPostAt src value stamp m s).tile = s.tile := by unfold evPostAt; split <;> rfl
@[simp] theorem evPostAt_scratch (src : Byte) (value : BitVec 32) (stamp : BitVec 64) (m : Mark) (s : State) : (evPostAt src value stamp m s).scratch = s.scratch := by unfold evPostAt; split <;> rfl
@[simp] theorem evPostAt_vault (src : Byte) (value : BitVec 32) (stamp : BitVec 64) (m : Mark) (s : State) : (evPostAt src value stamp m s).vault = s.vault := by unfold evPostAt; split <;> rfl
@[simp] theorem evPostAt_vaultErr (src : Byte) (value : BitVec 32) (stamp : BitVec 64) (m : Mark) (s : State) : (evPostAt src value stamp m s).vaultErr = s.vaultErr := by unfold evPostAt; split <;> rfl
@[simp] theorem evPostAt_scratchErr (src : Byte) (value : BitVec 32) (stamp : BitVec 64) (m : Mark) (s : State) : (evPostAt src value stamp m s).scratchErr = s.scratchErr := by unfold evPostAt; split <;> rfl
@[simp] theorem evPostAt_istoreErr (src : Byte) (value : BitVec 32) (stamp : BitVec 64) (m : Mark) (s : State) : (evPostAt src value stamp m s).istoreErr = s.istoreErr := by unfold evPostAt; split <;> rfl
@[simp] theorem evPostAt_vaultFix (src : Byte) (value : BitVec 32) (stamp : BitVec 64) (m : Mark) (s : State) : (evPostAt src value stamp m s).vaultFix = s.vaultFix := by unfold evPostAt; split <;> rfl
@[simp] theorem evPostAt_scratchFix (src : Byte) (value : BitVec 32) (stamp : BitVec 64) (m : Mark) (s : State) : (evPostAt src value stamp m s).scratchFix = s.scratchFix := by unfold evPostAt; split <;> rfl
@[simp] theorem evPostAt_ceRecAt (src : Byte) (value : BitVec 32) (stamp : BitVec 64) (m : Mark) (s : State) : (evPostAt src value stamp m s).ceRecAt = s.ceRecAt := by unfold evPostAt; split <;> rfl
@[simp] theorem evPostAt_vaultScrub (src : Byte) (value : BitVec 32) (stamp : BitVec 64) (m : Mark) (s : State) : (evPostAt src value stamp m s).vaultScrub = s.vaultScrub := by unfold evPostAt; split <;> rfl
@[simp] theorem evPostAt_scratchScrub (src : Byte) (value : BitVec 32) (stamp : BitVec 64) (m : Mark) (s : State) : (evPostAt src value stamp m s).scratchScrub = s.scratchScrub := by unfold evPostAt; split <;> rfl
@[simp] theorem evPostAt_scrubAt (src : Byte) (value : BitVec 32) (stamp : BitVec 64) (m : Mark) (s : State) : (evPostAt src value stamp m s).scrubAt = s.scrubAt := by unfold evPostAt; split <;> rfl
@[simp] theorem evPostAt_vaultRow (src : Byte) (value : BitVec 32) (stamp : BitVec 64) (m : Mark) (s : State) : (evPostAt src value stamp m s).vaultRow = s.vaultRow := by unfold evPostAt; split <;> rfl
@[simp] theorem evPostAt_rc (src : Byte) (value : BitVec 32) (stamp : BitVec 64) (m : Mark) (s : State) : (evPostAt src value stamp m s).rc = s.rc := by unfold evPostAt; split <;> rfl
@[simp] theorem evPostAt_aligned (src : Byte) (value : BitVec 32) (stamp : BitVec 64) (m : Mark) (s : State) : (evPostAt src value stamp m s).aligned = s.aligned := by unfold evPostAt; split <;> rfl
@[simp] theorem evPostAt_selfRefresh (src : Byte) (value : BitVec 32) (stamp : BitVec 64) (m : Mark) (s : State) : (evPostAt src value stamp m s).selfRefresh = s.selfRefresh := by unfold evPostAt; split <;> rfl
@[simp] theorem evPostAt_window (src : Byte) (value : BitVec 32) (stamp : BitVec 64) (m : Mark) (s : State) : (evPostAt src value stamp m s).window = s.window := by unfold evPostAt; split <;> rfl
@[simp] theorem evPostAt_stagedLo (src : Byte) (value : BitVec 32) (stamp : BitVec 64) (m : Mark) (s : State) : (evPostAt src value stamp m s).stagedLo = s.stagedLo := by unfold evPostAt; split <;> rfl
@[simp] theorem evPostAt_rops (src : Byte) (value : BitVec 32) (stamp : BitVec 64) (m : Mark) (s : State) : (evPostAt src value stamp m s).rops = s.rops := by unfold evPostAt; split <;> rfl
@[simp] theorem evPostAt_fences (src : Byte) (value : BitVec 32) (stamp : BitVec 64) (m : Mark) (s : State) : (evPostAt src value stamp m s).fences = s.fences := by unfold evPostAt; split <;> rfl
@[simp] theorem evPostAt_passed (src : Byte) (value : BitVec 32) (stamp : BitVec 64) (m : Mark) (s : State) : (evPostAt src value stamp m s).passed = s.passed := by unfold evPostAt; split <;> rfl
@[simp] theorem evPostAt_nextOp (src : Byte) (value : BitVec 32) (stamp : BitVec 64) (m : Mark) (s : State) : (evPostAt src value stamp m s).nextOp = s.nextOp := by unfold evPostAt; split <;> rfl
@[simp] theorem evPostAt_session (src : Byte) (value : BitVec 32) (stamp : BitVec 64) (m : Mark) (s : State) : (evPostAt src value stamp m s).session = s.session := by unfold evPostAt; split <;> rfl
@[simp] theorem evPostAt_peer (src : Byte) (value : BitVec 32) (stamp : BitVec 64) (m : Mark) (s : State) : (evPostAt src value stamp m s).peer = s.peer := by unfold evPostAt; split <;> rfl
@[simp] theorem evPostAt_part (src : Byte) (value : BitVec 32) (stamp : BitVec 64) (m : Mark) (s : State) : (evPostAt src value stamp m s).part = s.part := by unfold evPostAt; split <;> rfl
@[simp] theorem evPostAt_group (src : Byte) (value : BitVec 32) (stamp : BitVec 64) (m : Mark) (s : State) : (evPostAt src value stamp m s).group = s.group := by unfold evPostAt; split <;> rfl
@[simp] theorem evPostAt_queue (src : Byte) (value : BitVec 32) (stamp : BitVec 64) (m : Mark) (s : State) : (evPostAt src value stamp m s).queue = s.queue := by unfold evPostAt; split <;> rfl
@[simp] theorem evPostAt_jobs (src : Byte) (value : BitVec 32) (stamp : BitVec 64) (m : Mark) (s : State) : (evPostAt src value stamp m s).jobs = s.jobs := by unfold evPostAt; split <;> rfl
@[simp] theorem evPostAt_clears (src : Byte) (value : BitVec 32) (stamp : BitVec 64) (m : Mark) (s : State) : (evPostAt src value stamp m s).clears = s.clears := by unfold evPostAt; split <;> rfl
@[simp] theorem evPostAt_windowWaits (src : Byte) (value : BitVec 32) (stamp : BitVec 64) (m : Mark) (s : State) : (evPostAt src value stamp m s).windowWaits = s.windowWaits := by unfold evPostAt; split <;> rfl
@[simp] theorem evPostAt_orphans (src : Byte) (value : BitVec 32) (stamp : BitVec 64) (m : Mark) (s : State) : (evPostAt src value stamp m s).orphans = s.orphans := by unfold evPostAt; split <;> rfl
@[simp] theorem evPostAt_link (src : Byte) (value : BitVec 32) (stamp : BitVec 64) (m : Mark) (s : State) : (evPostAt src value stamp m s).link = s.link := by unfold evPostAt; split <;> rfl
@[simp] theorem evPostAt_eth (src : Byte) (value : BitVec 32) (stamp : BitVec 64) (m : Mark) (s : State) : (evPostAt src value stamp m s).eth = s.eth := by unfold evPostAt; split <;> rfl
@[simp] theorem evPostAt_asm (src : Byte) (value : BitVec 32) (stamp : BitVec 64) (m : Mark) (s : State) : (evPostAt src value stamp m s).asm = s.asm := by unfold evPostAt; split <;> rfl
@[simp] theorem evPostAt_rackUp (src : Byte) (value : BitVec 32) (stamp : BitVec 64) (m : Mark) (s : State) : (evPostAt src value stamp m s).rackUp = s.rackUp := by unfold evPostAt; split <;> rfl
@[simp] theorem evPostAt_sync (src : Byte) (value : BitVec 32) (stamp : BitVec 64) (m : Mark) (s : State) : (evPostAt src value stamp m s).sync = s.sync := by unfold evPostAt; split <;> rfl
@[simp] theorem evPostAt_recorder (src : Byte) (value : BitVec 32) (stamp : BitVec 64) (m : Mark) (s : State) : (evPostAt src value stamp m s).recorder = s.recorder := by unfold evPostAt; split <;> rfl
@[simp] theorem evPostAt_changes (src : Byte) (value : BitVec 32) (stamp : BitVec 64) (m : Mark) (s : State) : (evPostAt src value stamp m s).changes = s.changes := by unfold evPostAt; split <;> rfl
@[simp] theorem evPostAt_mbox (src : Byte) (value : BitVec 32) (stamp : BitVec 64) (m : Mark) (s : State) : (evPostAt src value stamp m s).mbox = s.mbox := by unfold evPostAt; split <;> rfl
@[simp] theorem evPostAt_staged (src : Byte) (value : BitVec 32) (stamp : BitVec 64) (m : Mark) (s : State) : (evPostAt src value stamp m s).staged = s.staged := by unfold evPostAt; split <;> rfl
@[simp] theorem evPostAt_compatHeld (src : Byte) (value : BitVec 32) (stamp : BitVec 64) (m : Mark) (s : State) : (evPostAt src value stamp m s).compatHeld = s.compatHeld := by unfold evPostAt; split <;> rfl
@[simp] theorem evPostAt_goWaits (src : Byte) (value : BitVec 32) (stamp : BitVec 64) (m : Mark) (s : State) : (evPostAt src value stamp m s).goWaits = s.goWaits := by unfold evPostAt; split <;> rfl
@[simp] theorem evPostAt_bellsDue (src : Byte) (value : BitVec 32) (stamp : BitVec 64) (m : Mark) (s : State) : (evPostAt src value stamp m s).bellsDue = s.bellsDue := by unfold evPostAt; split <;> rfl
@[simp] theorem evPostAt_gov (src : Byte) (value : BitVec 32) (stamp : BitVec 64) (m : Mark) (s : State) : (evPostAt src value stamp m s).gov = s.gov := by unfold evPostAt; split <;> rfl
@[simp] theorem evPostAt_loop (src : Byte) (value : BitVec 32) (stamp : BitVec 64) (m : Mark) (s : State) : (evPostAt src value stamp m s).loop = s.loop := by unfold evPostAt; split <;> rfl
@[simp] theorem evPostAt_rails (src : Byte) (value : BitVec 32) (stamp : BitVec 64) (m : Mark) (s : State) : (evPostAt src value stamp m s).rails = s.rails := by unfold evPostAt; split <;> rfl
@[simp] theorem evPostAt_pack (src : Byte) (value : BitVec 32) (stamp : BitVec 64) (m : Mark) (s : State) : (evPostAt src value stamp m s).pack = s.pack := by unfold evPostAt; split <;> rfl
@[simp] theorem evPostAt_varnish (src : Byte) (value : BitVec 32) (stamp : BitVec 64) (m : Mark) (s : State) : (evPostAt src value stamp m s).varnish = s.varnish := by unfold evPostAt; split <;> rfl
@[simp] theorem evPostAt_attr (src : Byte) (value : BitVec 32) (stamp : BitVec 64) (m : Mark) (s : State) : (evPostAt src value stamp m s).attr = s.attr := by unfold evPostAt; split <;> rfl
@[simp] theorem evPostAt_rst (src : Byte) (value : BitVec 32) (stamp : BitVec 64) (m : Mark) (s : State) : (evPostAt src value stamp m s).rst = s.rst := by unfold evPostAt; split <;> rfl
@[simp] theorem evPostAt_att (src : Byte) (value : BitVec 32) (stamp : BitVec 64) (m : Mark) (s : State) : (evPostAt src value stamp m s).att = s.att := by unfold evPostAt; split <;> rfl
@[simp] theorem evPostAt_flash (src : Byte) (value : BitVec 32) (stamp : BitVec 64) (m : Mark) (s : State) : (evPostAt src value stamp m s).flash = s.flash := by unfold evPostAt; split <;> rfl
@[simp] theorem evPostAt_nvDeferred (src : Byte) (value : BitVec 32) (stamp : BitVec 64) (m : Mark) (s : State) : (evPostAt src value stamp m s).nvDeferred = s.nvDeferred := by unfold evPostAt; split <;> rfl
@[simp] theorem evPostAt_ledHigh (src : Byte) (value : BitVec 32) (stamp : BitVec 64) (m : Mark) (s : State) : (evPostAt src value stamp m s).ledHigh = s.ledHigh := by unfold evPostAt; split <;> rfl
@[simp] theorem evPostAt_out (src : Byte) (value : BitVec 32) (stamp : BitVec 64) (m : Mark) (s : State) : (evPostAt src value stamp m s).out = s.out := by unfold evPostAt; split <;> rfl

/-! ### report -/

@[simp] theorem report_pending (type : Byte) (origin : Origin) (key : BitVec 32) (payload : List Byte) (s : State) : (report type origin key payload s).pending = s.pending := by unfold report; dsimp only; split <;> rfl
@[simp] theorem report_free (type : Byte) (origin : Origin) (key : BitVec 32) (payload : List Byte) (s : State) : (report type origin key payload s).free = s.free := by unfold report; dsimp only; split <;> rfl
@[simp] theorem report_tick (type : Byte) (origin : Origin) (key : BitVec 32) (payload : List Byte) (s : State) : (report type origin key payload s).tick = s.tick := by unfold report; dsimp only; split <;> rfl
@[simp] theorem report_beat (type : Byte) (origin : Origin) (key : BitVec 32) (payload : List Byte) (s : State) : (report type origin key payload s).beat = s.beat := by unfold report; dsimp only; split <;> rfl
@[simp] theorem report_frac (type : Byte) (origin : Origin) (key : BitVec 32) (payload : List Byte) (s : State) : (report type origin key payload s).frac = s.frac := by unfold report; dsimp only; split <;> rfl
@[simp] theorem report_cycle (type : Byte) (origin : Origin) (key : BitVec 32) (payload : List Byte) (s : State) : (report type origin key payload s).cycle = s.cycle := by unfold report; dsimp only; split <;> rfl
@[simp] theorem report_regs (type : Byte) (origin : Origin) (key : BitVec 32) (payload : List Byte) (s : State) : (report type origin key payload s).regs = s.regs := by unfold report; dsimp only; split <;> rfl
@[simp] theorem report_shadow (type : Byte) (origin : Origin) (key : BitVec 32) (payload : List Byte) (s : State) : (report type origin key payload s).shadow = s.shadow := by unfold report; dsimp only; split <;> rfl
@[simp] theorem report_pkgSet (type : Byte) (origin : Origin) (key : BitVec 32) (payload : List Byte) (s : State) : (report type origin key payload s).pkgSet = s.pkgSet := by unfold report; dsimp only; split <;> rfl
@[simp] theorem report_place (type : Byte) (origin : Origin) (key : BitVec 32) (payload : List Byte) (s : State) : (report type origin key payload s).place = s.place := by unfold report; dsimp only; split <;> rfl
@[simp] theorem report_cardId (type : Byte) (origin : Origin) (key : BitVec 32) (payload : List Byte) (s : State) : (report type origin key payload s).cardId = s.cardId := by unfold report; dsimp only; split <;> rfl
@[simp] theorem report_tile (type : Byte) (origin : Origin) (key : BitVec 32) (payload : List Byte) (s : State) : (report type origin key payload s).tile = s.tile := by unfold report; dsimp only; split <;> rfl
@[simp] theorem report_scratch (type : Byte) (origin : Origin) (key : BitVec 32) (payload : List Byte) (s : State) : (report type origin key payload s).scratch = s.scratch := by unfold report; dsimp only; split <;> rfl
@[simp] theorem report_vault (type : Byte) (origin : Origin) (key : BitVec 32) (payload : List Byte) (s : State) : (report type origin key payload s).vault = s.vault := by unfold report; dsimp only; split <;> rfl
@[simp] theorem report_vaultErr (type : Byte) (origin : Origin) (key : BitVec 32) (payload : List Byte) (s : State) : (report type origin key payload s).vaultErr = s.vaultErr := by unfold report; dsimp only; split <;> rfl
@[simp] theorem report_scratchErr (type : Byte) (origin : Origin) (key : BitVec 32) (payload : List Byte) (s : State) : (report type origin key payload s).scratchErr = s.scratchErr := by unfold report; dsimp only; split <;> rfl
@[simp] theorem report_istoreErr (type : Byte) (origin : Origin) (key : BitVec 32) (payload : List Byte) (s : State) : (report type origin key payload s).istoreErr = s.istoreErr := by unfold report; dsimp only; split <;> rfl
@[simp] theorem report_vaultFix (type : Byte) (origin : Origin) (key : BitVec 32) (payload : List Byte) (s : State) : (report type origin key payload s).vaultFix = s.vaultFix := by unfold report; dsimp only; split <;> rfl
@[simp] theorem report_scratchFix (type : Byte) (origin : Origin) (key : BitVec 32) (payload : List Byte) (s : State) : (report type origin key payload s).scratchFix = s.scratchFix := by unfold report; dsimp only; split <;> rfl
@[simp] theorem report_ceRecAt (type : Byte) (origin : Origin) (key : BitVec 32) (payload : List Byte) (s : State) : (report type origin key payload s).ceRecAt = s.ceRecAt := by unfold report; dsimp only; split <;> rfl
@[simp] theorem report_vaultScrub (type : Byte) (origin : Origin) (key : BitVec 32) (payload : List Byte) (s : State) : (report type origin key payload s).vaultScrub = s.vaultScrub := by unfold report; dsimp only; split <;> rfl
@[simp] theorem report_scratchScrub (type : Byte) (origin : Origin) (key : BitVec 32) (payload : List Byte) (s : State) : (report type origin key payload s).scratchScrub = s.scratchScrub := by unfold report; dsimp only; split <;> rfl
@[simp] theorem report_scrubAt (type : Byte) (origin : Origin) (key : BitVec 32) (payload : List Byte) (s : State) : (report type origin key payload s).scrubAt = s.scrubAt := by unfold report; dsimp only; split <;> rfl
@[simp] theorem report_vaultRow (type : Byte) (origin : Origin) (key : BitVec 32) (payload : List Byte) (s : State) : (report type origin key payload s).vaultRow = s.vaultRow := by unfold report; dsimp only; split <;> rfl
@[simp] theorem report_rc (type : Byte) (origin : Origin) (key : BitVec 32) (payload : List Byte) (s : State) : (report type origin key payload s).rc = s.rc := by unfold report; dsimp only; split <;> rfl
@[simp] theorem report_aligned (type : Byte) (origin : Origin) (key : BitVec 32) (payload : List Byte) (s : State) : (report type origin key payload s).aligned = s.aligned := by unfold report; dsimp only; split <;> rfl
@[simp] theorem report_selfRefresh (type : Byte) (origin : Origin) (key : BitVec 32) (payload : List Byte) (s : State) : (report type origin key payload s).selfRefresh = s.selfRefresh := by unfold report; dsimp only; split <;> rfl
@[simp] theorem report_window (type : Byte) (origin : Origin) (key : BitVec 32) (payload : List Byte) (s : State) : (report type origin key payload s).window = s.window := by unfold report; dsimp only; split <;> rfl
@[simp] theorem report_stagedLo (type : Byte) (origin : Origin) (key : BitVec 32) (payload : List Byte) (s : State) : (report type origin key payload s).stagedLo = s.stagedLo := by unfold report; dsimp only; split <;> rfl
@[simp] theorem report_rops (type : Byte) (origin : Origin) (key : BitVec 32) (payload : List Byte) (s : State) : (report type origin key payload s).rops = s.rops := by unfold report; dsimp only; split <;> rfl
@[simp] theorem report_fences (type : Byte) (origin : Origin) (key : BitVec 32) (payload : List Byte) (s : State) : (report type origin key payload s).fences = s.fences := by unfold report; dsimp only; split <;> rfl
@[simp] theorem report_passed (type : Byte) (origin : Origin) (key : BitVec 32) (payload : List Byte) (s : State) : (report type origin key payload s).passed = s.passed := by unfold report; dsimp only; split <;> rfl
@[simp] theorem report_nextOp (type : Byte) (origin : Origin) (key : BitVec 32) (payload : List Byte) (s : State) : (report type origin key payload s).nextOp = s.nextOp := by unfold report; dsimp only; split <;> rfl
@[simp] theorem report_session (type : Byte) (origin : Origin) (key : BitVec 32) (payload : List Byte) (s : State) : (report type origin key payload s).session = s.session := by unfold report; dsimp only; split <;> rfl
@[simp] theorem report_peer (type : Byte) (origin : Origin) (key : BitVec 32) (payload : List Byte) (s : State) : (report type origin key payload s).peer = s.peer := by unfold report; dsimp only; split <;> rfl
@[simp] theorem report_part (type : Byte) (origin : Origin) (key : BitVec 32) (payload : List Byte) (s : State) : (report type origin key payload s).part = s.part := by unfold report; dsimp only; split <;> rfl
@[simp] theorem report_group (type : Byte) (origin : Origin) (key : BitVec 32) (payload : List Byte) (s : State) : (report type origin key payload s).group = s.group := by unfold report; dsimp only; split <;> rfl
@[simp] theorem report_queue (type : Byte) (origin : Origin) (key : BitVec 32) (payload : List Byte) (s : State) : (report type origin key payload s).queue = s.queue := by unfold report; dsimp only; split <;> rfl
@[simp] theorem report_jobs (type : Byte) (origin : Origin) (key : BitVec 32) (payload : List Byte) (s : State) : (report type origin key payload s).jobs = s.jobs := by unfold report; dsimp only; split <;> rfl
@[simp] theorem report_clears (type : Byte) (origin : Origin) (key : BitVec 32) (payload : List Byte) (s : State) : (report type origin key payload s).clears = s.clears := by unfold report; dsimp only; split <;> rfl
@[simp] theorem report_windowWaits (type : Byte) (origin : Origin) (key : BitVec 32) (payload : List Byte) (s : State) : (report type origin key payload s).windowWaits = s.windowWaits := by unfold report; dsimp only; split <;> rfl
@[simp] theorem report_orphans (type : Byte) (origin : Origin) (key : BitVec 32) (payload : List Byte) (s : State) : (report type origin key payload s).orphans = s.orphans := by unfold report; dsimp only; split <;> rfl
@[simp] theorem report_link (type : Byte) (origin : Origin) (key : BitVec 32) (payload : List Byte) (s : State) : (report type origin key payload s).link = s.link := by unfold report; dsimp only; split <;> rfl
@[simp] theorem report_eth (type : Byte) (origin : Origin) (key : BitVec 32) (payload : List Byte) (s : State) : (report type origin key payload s).eth = s.eth := by unfold report; dsimp only; split <;> rfl
@[simp] theorem report_asm (type : Byte) (origin : Origin) (key : BitVec 32) (payload : List Byte) (s : State) : (report type origin key payload s).asm = s.asm := by unfold report; dsimp only; split <;> rfl
@[simp] theorem report_rackUp (type : Byte) (origin : Origin) (key : BitVec 32) (payload : List Byte) (s : State) : (report type origin key payload s).rackUp = s.rackUp := by unfold report; dsimp only; split <;> rfl
@[simp] theorem report_sync (type : Byte) (origin : Origin) (key : BitVec 32) (payload : List Byte) (s : State) : (report type origin key payload s).sync = s.sync := by unfold report; dsimp only; split <;> rfl
@[simp] theorem report_evs (type : Byte) (origin : Origin) (key : BitVec 32) (payload : List Byte) (s : State) : (report type origin key payload s).evs = s.evs := by unfold report; dsimp only; split <;> rfl
@[simp] theorem report_evsLost (type : Byte) (origin : Origin) (key : BitVec 32) (payload : List Byte) (s : State) : (report type origin key payload s).evsLost = s.evsLost := by unfold report; dsimp only; split <;> rfl
@[simp] theorem report_changes (type : Byte) (origin : Origin) (key : BitVec 32) (payload : List Byte) (s : State) : (report type origin key payload s).changes = s.changes := by unfold report; dsimp only; split <;> rfl
@[simp] theorem report_mbox (type : Byte) (origin : Origin) (key : BitVec 32) (payload : List Byte) (s : State) : (report type origin key payload s).mbox = s.mbox := by unfold report; dsimp only; split <;> rfl
@[simp] theorem report_staged (type : Byte) (origin : Origin) (key : BitVec 32) (payload : List Byte) (s : State) : (report type origin key payload s).staged = s.staged := by unfold report; dsimp only; split <;> rfl
@[simp] theorem report_compatHeld (type : Byte) (origin : Origin) (key : BitVec 32) (payload : List Byte) (s : State) : (report type origin key payload s).compatHeld = s.compatHeld := by unfold report; dsimp only; split <;> rfl
@[simp] theorem report_goWaits (type : Byte) (origin : Origin) (key : BitVec 32) (payload : List Byte) (s : State) : (report type origin key payload s).goWaits = s.goWaits := by unfold report; dsimp only; split <;> rfl
@[simp] theorem report_bellsDue (type : Byte) (origin : Origin) (key : BitVec 32) (payload : List Byte) (s : State) : (report type origin key payload s).bellsDue = s.bellsDue := by unfold report; dsimp only; split <;> rfl
@[simp] theorem report_gov (type : Byte) (origin : Origin) (key : BitVec 32) (payload : List Byte) (s : State) : (report type origin key payload s).gov = s.gov := by unfold report; dsimp only; split <;> rfl
@[simp] theorem report_loop (type : Byte) (origin : Origin) (key : BitVec 32) (payload : List Byte) (s : State) : (report type origin key payload s).loop = s.loop := by unfold report; dsimp only; split <;> rfl
@[simp] theorem report_rails (type : Byte) (origin : Origin) (key : BitVec 32) (payload : List Byte) (s : State) : (report type origin key payload s).rails = s.rails := by unfold report; dsimp only; split <;> rfl
@[simp] theorem report_pack (type : Byte) (origin : Origin) (key : BitVec 32) (payload : List Byte) (s : State) : (report type origin key payload s).pack = s.pack := by unfold report; dsimp only; split <;> rfl
@[simp] theorem report_varnish (type : Byte) (origin : Origin) (key : BitVec 32) (payload : List Byte) (s : State) : (report type origin key payload s).varnish = s.varnish := by unfold report; dsimp only; split <;> rfl
@[simp] theorem report_attr (type : Byte) (origin : Origin) (key : BitVec 32) (payload : List Byte) (s : State) : (report type origin key payload s).attr = s.attr := by unfold report; dsimp only; split <;> rfl
@[simp] theorem report_rst (type : Byte) (origin : Origin) (key : BitVec 32) (payload : List Byte) (s : State) : (report type origin key payload s).rst = s.rst := by unfold report; dsimp only; split <;> rfl
@[simp] theorem report_att (type : Byte) (origin : Origin) (key : BitVec 32) (payload : List Byte) (s : State) : (report type origin key payload s).att = s.att := by unfold report; dsimp only; split <;> rfl
@[simp] theorem report_flash (type : Byte) (origin : Origin) (key : BitVec 32) (payload : List Byte) (s : State) : (report type origin key payload s).flash = s.flash := by unfold report; dsimp only; split <;> rfl
@[simp] theorem report_nvDeferred (type : Byte) (origin : Origin) (key : BitVec 32) (payload : List Byte) (s : State) : (report type origin key payload s).nvDeferred = s.nvDeferred := by unfold report; dsimp only; split <;> rfl
@[simp] theorem report_ledHigh (type : Byte) (origin : Origin) (key : BitVec 32) (payload : List Byte) (s : State) : (report type origin key payload s).ledHigh = s.ledHigh := by unfold report; dsimp only; split <;> rfl
@[simp] theorem report_out (type : Byte) (origin : Origin) (key : BitVec 32) (payload : List Byte) (s : State) : (report type origin key payload s).out = s.out := by unfold report; dsimp only; split <;> rfl

/-! ### A read after an update -/

@[simp] theorem reg_setReg_self (a : Nat) (v : BitVec 32) (s : State) : reg a (setReg a v s) = v := by simp [reg, setReg]

theorem reg_setReg (a b : Nat) (v : BitVec 32) (s : State) : reg b (setReg a v s) = if b = a then v else reg b s := by
  by_cases h : b = a
  · subst h; simp
  · simp [reg, setReg, mapGet_mapSet_other _ _ _ _ h, h]

theorem reg_updReg (a b : Nat) (f : BitVec 32 → BitVec 32) (s : State) :
    reg b (updReg a f s) = if b = a then f (reg a s) else reg b s := reg_setReg _ _ _ _

theorem reg_regBit (a b i : Nat) (x : Bool) (s : State) :
    reg b (regBit a i x s) = if b = a then setBit (reg a s) i x else reg b s := reg_setReg _ _ _ _

theorem reg_countReg (a b n : Nat) (s : State) :
    reg b (countReg a n s) = if b = a then satAdd (reg a s) n else reg b s := reg_setReg _ _ _ _

/-- A register depends on the register map alone. -/
theorem reg_of_regs {s t : State} (h : t.regs = s.regs) (a : Nat) : reg a t = reg a s := by simp [reg, h]

@[simp] theorem tileAt_setTile_self (t : Nat) (x : Tile) (s : State) : tileAt t (setTile t x s) = x := by simp [tileAt, setTile]

theorem tileAt_setTile (t u : Nat) (x : Tile) (s : State) : tileAt u (setTile t x s) = if u = t then x else tileAt u s := by
  simp [tileAt, setTile, mapGet_mapSet]

@[simp] theorem tileAt_updTile_self (t : Nat) (f : Tile → Tile) (s : State) : tileAt t (updTile t f s) = f (tileAt t s) := by
  simp [updTile]

theorem tileAt_updTile (t u : Nat) (f : Tile → Tile) (s : State) :
    tileAt u (updTile t f s) = if u = t then f (tileAt t s) else tileAt u s := tileAt_setTile _ _ _ _

/-- A tile depends on the tile map alone. -/
theorem tileAt_of_tile {s t : State} (h : t.tile = s.tile) (u : Nat) : tileAt u t = tileAt u s := by simp [tileAt, h]

theorem partAt_updPart (p k : Nat) (f : Part → Part) (s : State) :
    partAt k (updPart p f s) = if k = p then f (partAt p s) else partAt k s := by simp [partAt, updPart, mapGet_mapUpd]

theorem queueAt_updQueue (q k : Nat) (f : Queue → Queue) (s : State) :
    queueAt k (updQueue q f s) = if k = q then f (queueAt q s) else queueAt k s := by simp [queueAt, updQueue, mapGet_mapUpd]

theorem sesAt_updSes (n k : Nat) (f : Session → Session) (s : State) :
    sesAt k (updSes n f s) = if k = n then f (sesAt n s) else sesAt k s := by simp [sesAt, updSes, mapGet_mapUpd]

theorem linkAt_updLink (n k : Nat) (f : Link → Link) (s : State) :
    linkAt k (updLink n f s) = if k = n then f (linkAt n s) else linkAt k s := by simp [linkAt, updLink, mapGet_mapUpd]

/-- A byte of scratch after a write of bytes: the written byte inside the range, what was there outside it. -/
theorem scratch_writeScratch (t a : Nat) (bs : List Byte) (s : State) (j : Nat) :
    mapGet 0 (writeScratch t a bs s).scratch j =
      if t * scratchSize + a ≤ j ∧ j < t * scratchSize + a + bs.length then bs.getD (j - (t * scratchSize + a)) 0
      else mapGet 0 s.scratch j := mapGet_writeMem _ _ _ _

/-- A byte of a vault after a write of bytes. -/
theorem vault_writeVault (t a : Nat) (bs : List Byte) (s : State) (j : Nat) :
    mapGet 0 (writeVault t a bs s).vault j =
      if t * vaultSize + a ≤ j ∧ j < t * vaultSize + a + bs.length then bs.getD (j - (t * vaultSize + a)) 0
      else mapGet 0 s.vault j := mapGet_writeMem _ _ _ _

/-! ### Register files of a tile -/

/-- s0 reads 0, whatever was written to it (R50). -/
@[simp] theorem sGet_zero (x : Tile) : sGet x 0 = 0 := by simp [sGet]

theorem sGet_sSet (i j : Nat) (v : BitVec 64) (x : Tile) :
    sGet (sSet i v x) j = if j = i ∧ i ≠ 0 then v else sGet x j := by
  unfold sGet sSet
  by_cases hi : i = 0
  · simp [hi]
  · by_cases hj : j = i
    · subst hj; simp [hi]
    · by_cases h0 : j = 0
      · subst h0; simp [hi, hj]
      · simp [hi, hj, h0, mapGet_mapSet]

/-- p0 reads 1, whatever was written to it (R50). -/
@[simp] theorem pGet_zero (x : Tile) : pGet x 0 = true := by simp [pGet]

theorem cGet_cSet (i j : Nat) (v : BitVec 32) (x : Tile) : cGet (cSet i v x) j = if j = i then v else cGet x j := by
  simp [cGet, cSet, mapGet_mapSet]

theorem vGet_vSet (i l j k : Nat) (v : BitVec 32) (x : Tile) :
    vGet (vSet i l v x) j k = if 64 * j + k = 64 * i + l then v else vGet x j k := by simp [vGet, vSet, mapGet_mapSet]

theorem mGet_mSet (i j : Nat) (v : Acc) (x : Tile) : mGet (mSet i v x) j = if j = i then v else mGet x j := by
  simp [mGet, mSet, mapGet_mapSet]

end Sys2Proof.Machine
end

