-- ==== Sys2Proof/Laws/Tile.lean ====
section
/-! SUPPORT. What issuing a tile instruction does, once for each shared operation. -/

namespace Sys2Proof.Machine

/-! ### Only one tile -/

theorem OnlyTile.refl (t : TileId) (s : State) : OnlyTile t s s := ⟨fun _ _ => rfl, rfl, rfl⟩

theorem OnlyTile.trans {t : TileId} {s u v : State} (h : OnlyTile t s u) (k : OnlyTile t u v) : OnlyTile t s v := by
  refine ⟨fun n hn => (k.tiles n hn).trans (h.tiles n hn), ?_, ?_⟩
  · rw [← h.counts, ← k.counts]
  · rw [← h.rest, ← k.rest]

/-- Activity counts are no change of a tile. -/
theorem OnlyTile.charge (t : TileId) (a k n : Nat) (s : State) : OnlyTile t s (charge a k n s) := ⟨fun _ _ => rfl, rfl, rfl⟩

theorem OnlyTile.updTile (t : TileId) (g : Tile → Tile) (s : State) : OnlyTile t s (updTile t.toNat g s) :=
  ⟨fun n hn => by simp [tileAt_updTile, hn], rfl, rfl⟩

@[simp] theorem tileAt_charge (u a k n : Nat) (s : State) : tileAt u (charge a k n s) = tileAt u s := rfl

@[simp] theorem tileAt_emit (u : Nat) (o : Out) (s : State) : tileAt u (emit o s) = tileAt u s := rfl

@[simp] theorem tileAt_setReg (u a : Nat) (v : BitVec 32) (s : State) : tileAt u (setReg a v s) = tileAt u s := rfl

/-! ### Issue -/

/-- An instruction whose format and register indexes are as R48 asks has no encoding fault. -/
theorem encOf_none {d a b : Bool} {z : Nat} {ix : Bool} {f : Ins} {p0 : Bool} (hd : d = true ∨ f.d = 0) (ha : a = true ∨ f.a = 0)
   (hb : b = true ∨ f.b = 0) (hz : f.imm.toNat &&& z = 0) (hp : p0 = false ∨ f.p = 0) (hx : ix = true) : encOf d a b z ix f p0 = none := by
  unfold encOf
  have h1 : (d || f.d == 0) = true := by rcases hd with h | h <;> simp [h]
  have h2 : (a || f.a == 0) = true := by rcases ha with h | h <;> simp [h]
  have h3 : (b || f.b == 0) = true := by rcases hb with h | h <;> simp [h]
  have h4 : (!p0 || f.p == 0) = true := by rcases hp with h | h <;> simp [h]
  rw [h1, h2, h3, h4]; simp [hz, hx]


/-- A fetch that meets no stored error drops the increments of the cycle before (R66) and is one activity event (R402). -/
theorem fetched_clean {t : Nat} {s : State} (fetch : mapGet 0 s.istoreErr (t * 8192 + (tileAt t s).pc) = 0) :
    fetched t s = charge (acctOfTile t s) 5 1 (updTile t (fun x => { x with incs := [] }) s) := by
  simp [fetched, fetch]

theorem tileAt_fetched {t : Nat} {s : State} (fetch : mapGet 0 s.istoreErr (t * 8192 + (tileAt t s).pc) = 0) :
    tileAt t (fetched t s) = { tileAt t s with incs := [] } := by
  rw [fetched_clean fetch, tileAt_charge, tileAt_updTile_self]

/-- A fetch changes its tile alone. -/
theorem OnlyTile.fetched {t : TileId} {s : State} (fetch : mapGet 0 s.istoreErr (t.toNat * 8192 + (tileAt t.toNat s).pc) = 0) :
    OnlyTile t s (fetched t.toNat s) := by
  rw [fetched_clean fetch]
  exact (OnlyTile.updTile t _ s).trans (OnlyTile.charge t _ _ _ _)

/-- An instruction that issues, with no encoding fault, is its own effect after its fetch. -/
theorem issue_run {t : TileId} {cls op : Nat} {f : Ins} {s : State} (h : Issues t cls op f s)
    (run : Nat → BitVec 64 → State → State) :
    issue t cls op f none run s = run t.toNat (insWord cls op f) (fetched t.toNat s) := by
  simp [issue, issueWord, h.may, h.fetch, h.pred]

/-- An instruction whose predicate is false only moves on (R51). -/
theorem issue_skip {t : TileId} {cls op : Nat} {f : Ins} {s : State} (run : Nat → BitVec 64 → State → State)
    (may : canIssue t.toNat cls op f s = true)
    (fetch : mapGet 0 s.istoreErr (t.toNat * 8192 + (tileAt t.toNat s).pc) = 0)
    (pred : pGet (tileAt t.toNat s) f.p.toNat = false) :
    issue t cls op f none run s = advance t.toNat (insWord cls op f) (fetched t.toNat s) := by
  simp [issue, issueWord, may, fetch, pred]

/-- An encoding fault is raised whatever the predicate (R49, R81). -/
theorem issue_fault {t : TileId} {cls op c : Nat} {f : Ins} {s : State} (run : Nat → BitVec 64 → State → State)
    (may : canIssue t.toNat cls op f s = true)
    (fetch : mapGet 0 s.istoreErr (t.toNat * 8192 + (tileAt t.toNat s).pc) = 0) :
    issue t cls op f (some c) run s =
      raiseFault t.toNat c (tileAt t.toNat s).pc (insWord cls op f) 0 (fetched t.toNat s) := by
  simp [issue, issueWord, may, fetch]

/-- A tile that may not issue is left alone, and so is everything else. -/
theorem issue_not {t : TileId} {cls op : Nat} {f : Ins} {s : State} (enc : Option Nat)
    (run : Nat → BitVec 64 → State → State) (h : canIssue t.toNat cls op f s = false) : issue t cls op f enc run s = s := by
  simp [issue, h]

/-- Moving on to the next instruction, after a fetch. -/
theorem advance_spec {t : TileId} {w : BitVec 64} {s : State} (hi : (tileAt t.toNat s).incs = []) (h : (tileAt t.toNat s).pc ≠ 8191) :
    GoesTo t ((tileAt t.toNat s).pc + 1) s (advance t.toNat w s) := by
  have e : advance t.toNat w s = updTile t.toNat (fun x => { x with pc := (tileAt t.toNat s).pc + 1 }) s := by simp [advance, h]
  rw [e]
  exact ⟨by simp [← hi], OnlyTile.updTile _ _ _⟩

/-- A register-only instruction: the tile changes, and the PC names the next instruction. -/
theorem onTile_spec {t : TileId} {w : BitVec 64} {g : Tile → Tile} {s : State} (hg : ∀ x, (g x).pc = x.pc ∧ (g x).incs = x.incs)
    (hi : (tileAt t.toNat s).incs = []) (h : (tileAt t.toNat s).pc ≠ 8191) :
    tileAt t.toNat (onTile g t.toNat w s) = { g (tileAt t.toNat s) with incs := [], pc := (tileAt t.toNat s).pc + 1 } ∧
      OnlyTile t s (onTile g t.toNat w s) := by
  have hu : tileAt t.toNat (updTile t.toNat g s) = g (tileAt t.toNat s) := by simp
  have ha := advance_spec (t := t) (w := w) (s := updTile t.toNat g s) (by rw [hu, (hg _).2]; exact hi) (by rw [hu, (hg _).1]; exact h)
  refine ⟨?_, (OnlyTile.updTile t g s).trans ha.only⟩
  have := ha.tile
  rw [hu, (hg _).1] at this
  exact this

/-- Stopping issue until an event, after a fetch. -/
theorem waitFor_spec {t : TileId} (st : BitVec 5) (w : Wait) {s : State} (hi : (tileAt t.toNat s).incs = []) :
    Waits t st w s (waitFor t.toNat st w s) :=
  ⟨by simp [waitFor, ← hi], OnlyTile.updTile _ _ _⟩

/-! ### The register files after a write -/

theorem sSet_frame (i : Nat) (v : BitVec 64) (x : Tile) : sSet i v x = { x with sreg := (sSet i v x).sreg } := by
  unfold sSet; split <;> rfl

theorem pSet_frame (i : Nat) (b : Bool) (x : Tile) : pSet i b x = { x with pred := (pSet i b x).pred } := by
  unfold pSet; split <;> rfl

theorem getLsbD_setBit {n : Nat} (v : BitVec n) (i k : Nat) (b : Bool) (hi : i < n) :
    (setBit v i b).getLsbD k = if k = i then b else v.getLsbD k := by
  have hb : (BitVec.ofNat n (2 ^ i)).getLsbD k = decide (k = i) := by
    rw [BitVec.getLsbD_ofNat, Nat.testBit_two_pow]
    by_cases h : k = i
    · subst h; simp [hi]
    · simp [h, Ne.symm h]
  unfold setBit
  cases b with
  | true =>
    simp only [if_true, BitVec.getLsbD_or, hb]
    by_cases h : k = i <;> simp [h]
  | false =>
    by_cases hk : k < n
    · rw [if_neg (by simp), BitVec.getLsbD_and, BitVec.getLsbD_not, hb]
      by_cases h : k = i <;> simp [h, hk]
    · have h : k ≠ i := by omega
      simp [BitVec.getLsbD_of_ge _ _ (Nat.le_of_not_lt hk), h]

theorem pGet_pSet (i k : Nat) (b : Bool) (x : Tile) (hi : i < 8) :
    pGet (pSet i b x) k = if k = i ∧ i ≠ 0 then b else pGet x k := by
  unfold pGet pSet
  by_cases h0 : i = 0
  · simp [h0]
  · by_cases hk : k = i
    · subst hk; simp [h0, getLsbD_setBit _ _ _ _ hi]
    · by_cases hz : k = 0
      · subst hz; simp [h0, Ne.symm h0]
      · simp [h0, hk, getLsbD_setBit _ _ _ _ hi]

/-- Writing the enabled lanes from a list: lane `l` of v[i] is the list's, where it is on and the list has it. -/
theorem vGet_vSetAll (i : Nat) (on : Nat → Bool) (vs : List (BitVec 32)) (x : Tile) (k l : Nat) (hl : l < 64)
    (hv : vs.length ≤ 64) :
    vGet (vSetAll i on vs x) k l = if k = i ∧ on l ∧ l < vs.length then vs.getD l 0 else vGet x k l := by
  have key : ∀ (ws : List (BitVec 32)) (n : Nat) (y : Tile), n + ws.length ≤ 64 →
      vGet ((ws.zipIdx n).foldl (fun x e => if on e.2 then vSet i e.2 e.1 x else x) y) k l =
        if k = i ∧ on l ∧ n ≤ l ∧ l < n + ws.length then ws.getD (l - n) 0 else vGet y k l := by
    intro ws
    induction ws with
    | nil => intro n y _; simp <;> omega
    | cons w r ih =>
      intro n y hn
      simp only [List.length_cons] at hn
      simp only [List.zipIdx_cons, List.foldl_cons]
      rw [ih (n + 1) _ (by omega)]
      have step : vGet (if on n = true then vSet i n w y else y) k l =
          if k = i ∧ on l ∧ l = n then w else vGet y k l := by
        by_cases hon : on n
        · rw [if_pos hon, vGet_vSet]
          by_cases h : k = i ∧ l = n
          · obtain ⟨rfl, rfl⟩ := h
            simp [hon]
          · rw [if_neg (by omega), if_neg (by rintro ⟨g1, _, g3⟩; exact h ⟨g1, g3⟩)]
        · rw [if_neg hon, if_neg (by rintro ⟨_, g, rfl⟩; exact hon g)]
      rw [step]
      by_cases hr : k = i ∧ on l ∧ n + 1 ≤ l ∧ l < n + 1 + r.length
      · rw [if_pos hr, if_pos ⟨hr.1, hr.2.1, by omega, by simp only [List.length_cons]; omega⟩]
        obtain ⟨m, rfl⟩ : ∃ m, l = n + 1 + m := ⟨l - (n + 1), by omega⟩
        have e1 : n + 1 + m - (n + 1) = m := by omega
        have e2 : n + 1 + m - n = m + 1 := by omega
        rw [e1, e2, List.getD_cons_succ]
      · rw [if_neg hr]
        by_cases hn' : k = i ∧ on l ∧ l = n
        · rw [if_pos hn', if_pos ⟨hn'.1, hn'.2.1, by omega, by simp only [List.length_cons]; omega⟩, hn'.2.2]
          simp
        · rw [if_neg hn', if_neg]
          rintro ⟨g1, g2, g3, g4⟩
          simp only [List.length_cons] at g4
          by_cases hln : l = n
          · exact hn' ⟨g1, g2, hln⟩
          · exact hr ⟨g1, g2, by omega, by omega⟩
  have := key vs 0 x (by simpa using hv)
  simpa [vSetAll] using this

theorem vSetAll_frame (i : Nat) (on : Nat → Bool) (vs : List (BitVec 32)) (x : Tile) :
    vSetAll i on vs x = { x with vreg := (vSetAll i on vs x).vreg } := by
  unfold vSetAll
  generalize vs.zipIdx = l
  induction l generalizing x with
  | nil => rfl
  | cons e r ih =>
    simp only [List.foldl_cons]
    split
    · rw [ih]; rfl
    · exact ih _

/-! ### Instructions that write one register file -/

theorem bv_toNat_eq {n : Nat} {a b : BitVec n} : a.toNat = b.toNat ↔ a = b := ⟨BitVec.eq_of_toNat_eq, fun h => h ▸ rfl⟩

/-- A scalar result. -/
theorem wroteS_onTile {t : TileId} {w : BitVec 64} {d : BitVec 6} {s : State} (v : Tile → BitVec 64)
    (hi : (tileAt t.toNat s).incs = []) (h : (tileAt t.toNat s).pc ≠ 8191) :
    WroteS t d (v (tileAt t.toNat s)) s (onTile (fun x => sSet d.toNat (v x) x) t.toNat w s) := by
  obtain ⟨ht, ho⟩ := onTile_spec (w := w) (g := fun x => sSet d.toNat (v x) x) (s := s)
    (fun x => by rw [sSet_frame]; exact ⟨rfl, rfl⟩) hi h
  refine ⟨fun k => ?_, ?_, ho⟩
  · rw [ht]
    show sGet (sSet d.toNat _ _) k.toNat = _
    rw [sGet_sSet]
    simp only [bv_toNat_eq, ne_eq]
    have : d.toNat = 0 ↔ d = 0 := bv_toNat_eq (b := (0 : BitVec 6))
    simp [this]
  · rw [ht, sSet_frame]

/-- A predicate result. -/
theorem wroteP_onTile {t : TileId} {w : BitVec 64} {d : BitVec 6} {s : State} (v : Tile → Bool) (hd : d.toNat < 8)
    (hi : (tileAt t.toNat s).incs = []) (h : (tileAt t.toNat s).pc ≠ 8191) :
    WroteP t d (v (tileAt t.toNat s)) s (onTile (fun x => pSet d.toNat (v x) x) t.toNat w s) := by
  obtain ⟨ht, ho⟩ := onTile_spec (w := w) (g := fun x => pSet d.toNat (v x) x) (s := s)
    (fun x => by rw [pSet_frame]; exact ⟨rfl, rfl⟩) hi h
  refine ⟨fun k => ?_, ?_, ho⟩
  · rw [ht]
    show pGet (pSet d.toNat _ _) k.toNat = _
    rw [pGet_pSet _ _ _ _ hd]
    have e1 : k.toNat = d.toNat ↔ k.setWidth 6 = d := by
      rw [← bv_toNat_eq, BitVec.toNat_setWidth, Nat.mod_eq_of_lt (by omega)]
    have e2 : d.toNat = 0 ↔ d = 0 := bv_toNat_eq (b := (0 : BitVec 6))
    simp [e1, e2]
  · rw [ht, pSet_frame]

/-- A counter result. -/
theorem wroteC_onTile {t : TileId} {w : BitVec 64} {d : BitVec 6} {s : State} (v : Tile → BitVec 32)
    (hi : (tileAt t.toNat s).incs = []) (h : (tileAt t.toNat s).pc ≠ 8191) :
    WroteC t d (v (tileAt t.toNat s)) s (onTile (fun x => cSet d.toNat (v x) x) t.toNat w s) := by
  obtain ⟨ht, ho⟩ := onTile_spec (w := w) (g := fun x => cSet d.toNat (v x) x) (s := s) (fun _ => ⟨rfl, rfl⟩) hi h
  refine ⟨fun k => ?_, ?_, ho⟩
  · rw [ht]
    show cGet (cSet d.toNat _ _) k.toNat = _
    rw [cGet_cSet]
    simp [bv_toNat_eq]
  · rw [ht]; rfl

/-- A vector result with tile flags. -/
theorem wroteV_onTile {t : TileId} {w : BitVec 64} {d : BitVec 6} {s : State} (on : Tile → Nat → Bool)
    (vs : Tile → List (BitVec 32)) (fl : Tile → BitVec 4) (hv : ∀ x, (vs x).length = 64)
    (hi : (tileAt t.toNat s).incs = []) (h : (tileAt t.toNat s).pc ≠ 8191) :
    WroteV t d (on (tileAt t.toNat s)) (fun l => (vs (tileAt t.toNat s)).getD l 0) (fl (tileAt t.toNat s)) s
      (onTile (fun x => orFlags (fl x) (vSetAll d.toNat (on x) (vs x) x)) t.toNat w s) := by
  obtain ⟨ht, ho⟩ := onTile_spec (w := w) (g := fun x => orFlags (fl x) (vSetAll d.toNat (on x) (vs x) x)) (s := s)
    (fun x => by rw [vSetAll_frame]; exact ⟨rfl, rfl⟩) hi h
  refine ⟨fun k l hl => ?_, ?_, ?_, ho⟩
  · rw [ht]
    show vGet (vSetAll d.toNat _ _ _) k.toNat l = _
    rw [vGet_vSetAll _ _ _ _ _ _ hl (Nat.le_of_eq (hv _))]
    simp [bv_toNat_eq, hv, hl]
  · rw [ht, vSetAll_frame]; rfl
  · rw [ht, vSetAll_frame]; rfl

/-- What a register-only instruction writes is what it writes after its fetch. -/
theorem WroteS.ofFetched {t : TileId} {d : BitVec 6} {v : BitVec 64} {s s' : State}
    (f : mapGet 0 s.istoreErr (t.toNat * 8192 + (tileAt t.toNat s).pc) = 0) (h : WroteS t d v (fetched t.toNat s) s') : WroteS t d v s s' := by
  have e := tileAt_fetched f
  refine ⟨fun k => ?_, ?_, (OnlyTile.fetched f).trans h.only⟩
  · rw [h.value k, e]; rfl
  · rw [h.tile, e]

theorem WroteP.ofFetched {t : TileId} {d : BitVec 6} {b : Bool} {s s' : State}
    (f : mapGet 0 s.istoreErr (t.toNat * 8192 + (tileAt t.toNat s).pc) = 0) (h : WroteP t d b (fetched t.toNat s) s') : WroteP t d b s s' := by
  have e := tileAt_fetched f
  refine ⟨fun k => ?_, ?_, (OnlyTile.fetched f).trans h.only⟩
  · rw [h.value k, e]; rfl
  · rw [h.tile, e]

theorem WroteC.ofFetched {t : TileId} {d : BitVec 6} {v : BitVec 32} {s s' : State}
    (f : mapGet 0 s.istoreErr (t.toNat * 8192 + (tileAt t.toNat s).pc) = 0) (h : WroteC t d v (fetched t.toNat s) s') : WroteC t d v s s' := by
  have e := tileAt_fetched f
  refine ⟨fun k => ?_, ?_, (OnlyTile.fetched f).trans h.only⟩
  · rw [h.value k, e]; rfl
  · rw [h.tile, e]

theorem WroteV.ofFetched {t : TileId} {d : BitVec 6} {on : Nat → Bool} {g : Nat → BitVec 32} {fl : BitVec 4} {s s' : State}
    (f : mapGet 0 s.istoreErr (t.toNat * 8192 + (tileAt t.toNat s).pc) = 0) (h : WroteV t d on g fl (fetched t.toNat s) s') :
    WroteV t d on g fl s s' := by
  have e := tileAt_fetched f
  refine ⟨fun k l hl => ?_, ?_, ?_, (OnlyTile.fetched f).trans h.only⟩
  · rw [h.value k l hl, e]; rfl
  · rw [h.flags, e]
  · rw [h.tile, e]

theorem Waits.ofFetched {t : TileId} {st : BitVec 5} {w : Wait} {s s' : State}
    (f : mapGet 0 s.istoreErr (t.toNat * 8192 + (tileAt t.toNat s).pc) = 0) (h : Waits t st w (fetched t.toNat s) s') : Waits t st w s s' :=
  ⟨by rw [h.tile, tileAt_fetched f], (OnlyTile.fetched f).trans h.only⟩

theorem GoesTo.ofFetched {t : TileId} {pc : Nat} {s s' : State}
    (f : mapGet 0 s.istoreErr (t.toNat * 8192 + (tileAt t.toNat s).pc) = 0) (h : GoesTo t pc (fetched t.toNat s) s') : GoesTo t pc s s' :=
  ⟨by rw [h.tile, tileAt_fetched f], (OnlyTile.fetched f).trans h.only⟩

/-- An instruction that writes one scalar register. -/
theorem issue_wroteS {t : TileId} {cls op : Nat} {f : Ins} {s : State} (h : Issues t cls op f s) (v : Tile → BitVec 64)
    (hv : ∀ x : Tile, v { x with incs := [] } = v x) :
    WroteS t f.d (v (tileAt t.toNat s)) s (issue t cls op f none (onTile (fun x => sSet f.d.toNat (v x) x)) s) := by
  have e := tileAt_fetched h.fetch
  rw [issue_run h, ← hv, ← e]
  exact (wroteS_onTile v (by rw [e]) (by rw [e]; exact h.room)).ofFetched h.fetch

/-- An instruction that writes one predicate. -/
theorem issue_wroteP {t : TileId} {cls op : Nat} {f : Ins} {s : State} (h : Issues t cls op f s) (v : Tile → Bool)
    (hv : ∀ x : Tile, v { x with incs := [] } = v x) (hd : f.d.toNat < 8) :
    WroteP t f.d (v (tileAt t.toNat s)) s (issue t cls op f none (onTile (fun x => pSet f.d.toNat (v x) x)) s) := by
  have e := tileAt_fetched h.fetch
  rw [issue_run h, ← hv, ← e]
  exact (wroteP_onTile v hd (by rw [e]) (by rw [e]; exact h.room)).ofFetched h.fetch

/-- An instruction that writes one counter. -/
theorem issue_wroteC {t : TileId} {cls op : Nat} {f : Ins} {s : State} (h : Issues t cls op f s) (v : Tile → BitVec 32)
    (hv : ∀ x : Tile, v { x with incs := [] } = v x) :
    WroteC t f.d (v (tileAt t.toNat s)) s (issue t cls op f none (onTile (fun x => cSet f.d.toNat (v x) x)) s) := by
  have e := tileAt_fetched h.fetch
  rw [issue_run h, ← hv, ← e]
  exact (wroteC_onTile v (by rw [e]) (by rw [e]; exact h.room)).ofFetched h.fetch

end Sys2Proof.Machine
end

