-- ==== Sys2Proof/Laws/Memory.lean ====
section
/-! SUPPORT. What reading and writing scratch and vaults does where no stored error is met. -/

namespace Sys2Proof.Machine

/-- Scratch has no rows (R152, R156). -/
@[simp] theorem openRows_scratch (t a n : Nat) (s : State) : openRows true t a n s = s := by simp [openRows]

/-- Opening the rows of a vault's units changes nothing but which rows are open. -/
theorem openRows_frame (scratch : Bool) (t a n : Nat) (s : State) :
    openRows scratch t a n s = { s with vaultRow := (openRows scratch t a n s).vaultRow } := by
  have key : ∀ (l : List Nat) (s : State), (forAll l (fun i => openUnit t (a / 64 * 64 + 64 * i)) s) =
      { s with vaultRow := (forAll l (fun i => openUnit t (a / 64 * 64 + 64 * i)) s).vaultRow } := by
    intro l
    induction l with
    | nil => intro s; rfl
    | cons i l ih =>
      intro s
      have e := ih (openUnit t (a / 64 * 64 + 64 * i) s)
      simp only [forAll, List.foldl_cons] at e ⊢
      rw [e]
      rfl
  unfold openRows
  split
  · rfl
  · exact key _ _

/-- Open rows are no matter of the stored errors. -/
@[simp] theorem badGrains_openRows (sc scratch : Bool) (t u a b n m c : Nat) (s : State) :
    badGrains sc t a n c (openRows scratch u b m s) = badGrains sc t a n c s := by
  rw [openRows_frame]
  rfl

/-- A read that meets no stored error only reads, and opens the rows that it reads from. -/
theorem checkRead_clean {reader t a n : Nat} {scratch : Bool} {own : Option (Nat × BitVec 64)} {s : State}
    (h : NoErr scratch t a n s) : checkRead reader scratch t a n own s = (true, openRows scratch t a n s) := by
  obtain ⟨h1, h2⟩ := h
  simp [checkRead, h1, forAll, h2]

/-- Whether a pending write-back belongs to a grain that `n` bytes at `a` touch. -/
def touchedBy (scratch : Bool) (t a n k : Nat) : Bool :=
  decide (t * grains scratch + a / grain scratch ≤ k) &&
    decide (k < t * grains scratch + (a + n + grain scratch - 1) / grain scratch) && decide (n ≠ 0)

/-- A write that meets no stored error writes its bytes and drops the write-backs of the grains that it touches. -/
theorem memStore_clean {t a : Nat} {bs : List Byte} {scratch : Bool} {own : Option (Nat × BitVec 64)} {s : State}
    (h : NoErr scratch t a bs.length s) :
    memStore scratch t a bs own s = (true, rawWrite scratch t a bs
      (if scratch then { openRows scratch t a bs.length s with
         scratchFix := (openRows scratch t a bs.length s).scratchFix.filter (fun k => !touchedBy scratch t a bs.length k) }
       else { openRows scratch t a bs.length s with
         vaultFix := (openRows scratch t a bs.length s).vaultFix.filter (fun k => !touchedBy scratch t a bs.length k) })) := by
  obtain ⟨h1, h2⟩ := h
  simp only [memStore, memMerge, badGrains_openRows, h1, h2, List.filter_nil, forAll, List.foldl_nil, List.append_nil, List.isEmpty_nil,
    if_true]
  rfl

/-- Stored errors are no matter of the activity counts. -/
theorem NoErr.charge {scratch : Bool} {t a n i k m : Nat} {s : State} (h : NoErr scratch t a n s) :
    NoErr scratch t a n (charge i k m s) := by
  unfold NoErr badGrains errMap Machine.charge at *
  exact h

/-- Bytes of scratch are no matter of the activity counts. -/
theorem readScratch_charge (t a n i k m : Nat) (s : State) :
    readScratch t a n (charge i k m s) = readScratch t a n s := by
  simp only [readScratch, charge]

/-- A tile's load from clean scratch: its bytes go to the rest of the instruction. -/
theorem ownRead_clean {reader t a n : Nat} {w : BitVec 64} {k : List Byte → State → State} {s : State}
    (h : NoErr true t a n s) :
    ownRead reader t a n w k s =
      k (readScratch t a n s) (charge (acctOfTile t s) 6 (unitsOf a n) s) := by
  unfold ownRead
  rw [checkRead_clean h.charge]
  simp only [readScratch_charge, if_true, openRows_scratch]

/-- A tile's store to clean scratch: its bytes are written and the instruction moves on. -/
theorem ownWrite_clean {t : TileId} {a : Nat} {bs : List Byte} {w : BitVec 64} {s : State}
    (h : NoErr true t.toNat a bs.length s) (none : (tileAt t.toNat s).incs = []) (room : (tileAt t.toNat s).pc ≠ 8191) :
    Stored t a bs.length (fun i => bs.getD i 0) s (ownWrite t.toNat a bs w (advance t.toNat w) s) := by
  unfold ownWrite
  rw [memStore_clean h.charge]
  simp only [if_true, rawWrite, openRows_scratch]
  unfold advance
  rw [if_neg (by exact room)]
  refine ⟨fun i hi => ?_, fun k hk => ?_, fun u => ?_, fun k hk => ?_, ?_, ?_⟩
  · simp only [scratchByte, updTile, setTile, writeScratch]
    rw [mapGet_writeMem, if_pos ⟨by omega, by omega⟩]
    congr 1
    omega
  · simp only [updTile, setTile, writeScratch]
    rw [mapGet_writeMem, if_neg hk]
    rfl
  · rw [tileAt_updTile]
    by_cases hu : u = t.toNat
    · subst hu
      rw [if_pos rfl, if_pos rfl, ← none]
      rfl
    · rw [if_neg hu, if_neg hu]
      rfl
  · exact (List.mem_filter.mp hk).1
  · simp only [updTile, setTile, writeScratch, Machine.charge]
  · simp only [updTile, setTile, writeScratch, Machine.charge]

/-! ### Bytes and words -/

/-- The address of R59, written out. -/
theorem lsAddr_eq (f : Ins) (x : Tile) : lsAddr f x = (sGet x f.a.toNat + sGet x f.b.toNat + (f.imm.setWidth 20).signExtend 64).toNat := by
  have : BitVec.ofNat 20 (immF f 19 0) = f.imm.setWidth 20 := by
    apply BitVec.eq_of_toNat_eq; simp [immF, bitsN]
  simp [lsAddr, this]

/-- The checks of a scratch access: none, 0x11 or 0x12 (R59, R81). -/
theorem lsFault_cases (a n w : Nat) : (a % w = 0 → a + n ≤ 2^20 → lsFault a n w = none) ∧ (a % w ≠ 0 → lsFault a n w = some 0x11) ∧ (a % w = 0 → 2^20 < a + n → lsFault a n w = some 0x12) := by
  unfold lsFault scratchSize
  refine ⟨fun h1 h2 => ?_, fun h1 => ?_, fun h1 h2 => ?_⟩
  · simp [h1]; omega
  · simp [h1]
  · rw [if_neg (by simpa using h1), if_pos (by omega)]

/-- How many bytes `leBytes` gives. -/
theorem leBytes_len (n v : Nat) : (leBytes n v).length = n := by induction n generalizing v with
  | zero => rfl
  | succ n ih => simp [leBytes, ih]
/-- Each little-endian byte of a number. -/
theorem leBytes_get (n : Nat) : ∀ v i : Nat, i < n → (leBytes n v).getD i 0 = BitVec.ofNat 8 (v / 2^(8*i)) := by
  induction n with
  | zero => intro v i h; omega
  | succ n ih =>
    intro v i h
    cases i with
    | zero => simp [leBytes]
    | succ i =>
      rw [leBytes, List.getD_cons_succ, ih _ _ (by omega), Nat.div_div_eq_div_mul]
      congr 2
      rw [show 8*(i+1) = 8 + 8*i by omega, Nat.pow_add]

/-- How many bytes a vector register's image has. -/
theorem vBytes_len (ls : List (BitVec 32)) : (vBytes ls).length = 4 * ls.length := by
  induction ls with
  | nil => rfl
  | cons a r ih => simp only [vBytes, List.flatMap_cons, List.length_append, leBytes_len, List.length_cons] at *; omega
/-- Each byte of a vector register's image. -/
theorem vBytes_get (ls : List (BitVec 32)) : ∀ i, i < 4 * ls.length → (vBytes ls).getD i 0 = BitVec.ofNat 8 ((ls.getD (i/4) 0).toNat / 2^(8*(i%4))) := by
  induction ls with
  | nil => intro i h; simp at h
  | cons a r ih =>
    intro i h
    have e : vBytes (a :: r) = leBytes 4 a.toNat ++ vBytes r := rfl
    rw [e]
    by_cases hi : i < 4
    · rw [List.getD_eq_getElem?_getD, List.getElem?_append_left (by rw [leBytes_len]; exact hi), ← List.getD_eq_getElem?_getD,
        leBytes_get _ _ _ hi, Nat.div_eq_of_lt hi, Nat.mod_eq_of_lt hi]; rfl
    · rw [List.getD_eq_getElem?_getD, List.getElem?_append_right (by rw [leBytes_len]; omega),
        ← List.getD_eq_getElem?_getD, leBytes_len, ih _ (by simp at h; omega)]
      obtain ⟨m, rfl⟩ : ∃ m, i = m + 4 := ⟨i-4, by omega⟩
      rw [show (m+4)/4 = m/4+1 by omega, List.getD_cons_succ, show m+4-4 = m by omega, show (m+4)%4 = m%4 by omega]

/-- A little-endian number fits its bytes. -/
theorem ofLe_lt (bs : List Byte) : ofLe bs < 2^(8*bs.length) := by
  induction bs with
  | nil => simp [ofLe]
  | cons b r ih =>
    have := b.isLt
    simp only [ofLe, List.length_cons]
    rw [show 8*(r.length+1) = 8 + 8*r.length by omega, Nat.pow_add]; omega

/-- Each word of a byte string. -/
theorem wordsOf_get (n : Nat) : ∀ (bs : List Byte) l, l < n → (wordsOf n bs).getD l 0 = BitVec.ofNat 32 (ofLe ((bs.drop (4*l)).take 4)) := by
  induction n with
  | zero => intro _ l h; omega
  | succ n ih =>
    intro bs l h
    cases l with
    | zero => simp [wordsOf]
    | succ l => rw [wordsOf, List.getD_cons_succ, ih _ _ (by omega), List.drop_drop, show 4 + 4*l = 4*(l+1) by omega]
/-- How many words `wordsOf` gives. -/
theorem wordsOf_len (n : Nat) : ∀ (bs : List Byte), (wordsOf n bs).length = n := by
  induction n with
  | zero => intro _; rfl
  | succ n ih => intro bs; simp [wordsOf, ih]

/-- A word of a longer read. -/
theorem readScratch_sub (t a n l : Nat) (s : State) (h : 4*l + 4 ≤ n) : ((readScratch t a n s).drop (4*l)).take 4 = readScratch t (a+4*l) 4 s := by
  unfold readScratch readMem
  apply List.ext_getElem
  · simp; omega
  · intro i h1 h2
    simp [Nat.add_assoc]

/-- What a store leaves is what it leaves after its activity event. -/
theorem Stored.charged {t : TileId} {a n : Nat} {g : Nat → Byte} {s s' : State} {i k m : Nat}
    (h : Stored t a n g (Machine.charge i k m s) s') : Stored t a n g s s' := by
  exact ⟨h.bytes, h.others, h.tiles, h.fixes, congrArg (fun x : Attr => { x with counts := s.attr.counts }) h.counts,
    congrArg (fun x : State => { x with attr := s.attr }) h.rest⟩

/-- What a store leaves is what it leaves after the instruction's fetch. -/
theorem Stored.ofFetched {t : TileId} {a n : Nat} {g : Nat → Byte} {s s' : State}
    (f : mapGet 0 s.istoreErr (t.toNat * 8192 + (tileAt t.toNat s).pc) = 0) (h : Stored t a n g (fetched t.toNat s) s') :
    Stored t a n g s s' := by
  have hu : ∀ u : Nat, tileAt u (fetched t.toNat s) =
      if u = t.toNat then { tileAt u s with incs := [] } else tileAt u s := by
    intro u
    rw [fetched_clean f, tileAt_charge, tileAt_updTile]
    split <;> simp [*]
  obtain ⟨h1, h2, h3, h4, h5, h6⟩ := h
  rw [fetched_clean f] at h2 h4 h5 h6
  refine ⟨h1, h2, fun u => ?_, h4, congrArg (fun x : Attr => { x with counts := s.attr.counts }) h5,
    congrArg (fun x : State => { x with attr := s.attr, tile := s.tile }) h6⟩
  rw [h3 u, hu u]
  split <;> rfl

/-! ### Numbers and checksums -/

/-- The bytes of a number are the number again, modulo what they can hold. -/
theorem ofLe_leBytes (n : Nat) : ∀ v : Nat, ofLe (leBytes n v) = v % 256 ^ n := by
  induction n with
  | zero => intro v; simp [leBytes, ofLe, Nat.mod_one]
  | succ n ih =>
    intro v
    rw [leBytes, ofLe, ih, Nat.pow_succ, Nat.mul_comm (256 ^ n), Nat.mod_mul]
    simp

/-- Bytes that end with their own CRC are good. -/
theorem crcGood_closed (b : List Byte) : crcGood (b ++ leBytes 4 (crc32c b).toNat) = true := by
  have hl : (leBytes 4 (crc32c b).toNat).length = 4 := leBytes_len _ _
  have h : (b ++ leBytes 4 (crc32c b).toNat).length - 4 = b.length := by simp [hl]
  unfold crcGood
  rw [h, List.take_left, List.drop_left, ofLe_leBytes]
  have : (crc32c b).toNat % 256 ^ 4 = (crc32c b).toNat := Nat.mod_eq_of_lt (crc32c b).isLt
  rw [this]
  simp [hl]

end Sys2Proof.Machine
end

