-- ==== Sys2Proof/Tests/Slice0.lean ====
section
/-! SUPPORT. Tests: the well-formedness checks refuse an ill-formed term each, worked examples of the spec, and for every
statement with hypotheses a concrete state and operands that meet them together. -/

namespace Sys2Proof.Tests

open Sys2Proof Sys2Proof.Machine

/-! ### Small states -/

/-- The operand fields of an instruction. -/
def ins (d a b : BitVec 6) (imm : BitVec 31 := 0) (p : BitVec 3 := 0) : Ins := ⟨d, a, b, p, imm⟩

/-- A tile of partition 0 that runs. -/
def runs : Tile := { Tile.zero with st := 1, assigned := true }

/-- Tile 0 is `x` and no cluster is held. -/
def on (x : Tile) : State := { State.reset with tile := [(0, x)], gov := { State.reset.gov with halt := 0 } }

/-- A running tile 0 whose PC names an instruction before the last issues any instruction of predicate p0. -/
theorem issues_on (x : Tile) (hs : x.st = 1) (hw : x.wait = .none) (hv : x.vattn = none) (hm : x.mats = []) (hp : x.pc < 8191)
    (cls op : Nat) (f : Ins) (hf : f.p = 0) : Issues 0 cls op f (on x) := by
  have h2 : x.pc < 8192 := by omega
  have ht : tileAt 0 (on x) = x := rfl
  have hc : clusterOpen 0 (on x) = true := by
    show ((0 : BitVec 8) == 0 && !(0 : BitVec 64).getLsbD (clusterOf 0)) = true
    decide
  have hr : (on x).rops = [] := rfl
  refine ⟨?_, rfl, ?_, ?_⟩
  · rw [show (0 : TileId).toNat = 0 from rfl, canIssue, tileIssues, hr, hc]
    simp [ht, hs, hw, hv, hm, h2, matsBlock]
  · show pGet x f.p.toNat = true
    simp [hf, pGet]
  · show x.pc ≠ 8191
    omega

/-- A running tile 0 with these scalar registers. -/
def regs (l : SMap (BitVec 64)) : State := on { runs with sreg := l }

theorem issues_regs (l : SMap (BitVec 64)) (cls op : Nat) (f : Ins) (hf : f.p = 0) : Issues 0 cls op f (regs l) :=
  issues_on _ rfl rfl rfl rfl (show 0 < 8191 by decide) cls op f hf

/-! ### Witnesses: steps and tile instructions (O3 to O17) -/

/-- A running tile whose scratch holds a byte, and a command that waits. -/
def busy : State := { regs [(1, 7)] with scratch := [(5, 1)], nextOp := 1, pending := [.counterReached 0] }

theorem acctTotal_nil : acctTotal [] = 0 := by
  have h : ∀ n : Nat, ((List.range n).map (mapGet 0 ([] : SMap Nat))).sum = 0 := by
    intro n
    induction n with
    | zero => rfl
    | succ n ih => rw [List.range_succ, List.map_append, List.sum_append, ih]; rfl
  exact h _

/-- O3, O4: a state that keeps the invariant, whose step answers a next state. -/
theorem witness_StepsAndInvariant : busy.Inv ∧ ∃ t, step busy = .next t :=
  ⟨⟨by decide, by decide, by decide, (fun _ h => nomatch h), ⟨by rw [show busy.attr.acct = [] from rfl, acctTotal_nil]; rfl,
    (fun _ h => nomatch h)⟩⟩, _, rfl⟩

/-- O5: a register-to-register instruction with B 0, which issues whatever its operation. -/
theorem witness_ScalarRegisterResults (op : Nat) : (ins 3 1 0).imm = 0 ∧ (ins 3 1 0).b = 0 ∧
    Issues 0 0 op (ins 3 1 0) (regs [(1, 7)]) := ⟨rfl, rfl, issues_regs _ _ _ _ rfl⟩

/-- O6: ADDI with B 0; MOVK with the field 3 of s[D]; MOVK of bit 18; SEL with predicate p1. -/
theorem witness_ScalarImmediateResults (op : Nat) :
    ((ins 3 1 0 5).b = 0 ∧ Issues 0 0 op (ins 3 1 0 5) (regs [(1, 7)])) ∧
    ((ins 3 0 0 0x3FFFF).a = 0 ∧ (ins 3 0 0 0x3FFFF).b = 0 ∧ (ins 3 0 0 0x3FFFF).imm.toNat < 2 ^ 18 ∧
      Issues 0 0 op (ins 3 0 0 0x3FFFF) (regs [(3, 7)])) ∧
    ((ins 3 0 0 0x40000).a = 0 ∧ (ins 3 0 0 0x40000).b = 0 ∧ 2 ^ 18 ≤ (ins 3 0 0 0x40000).imm.toNat ∧
      Issues 0 0 op (ins 3 0 0 0x40000) (regs [])) ∧
    ((ins 3 1 2 0x2000000).imm.toNat % 2 ^ 25 = 0 ∧ (ins 3 1 2 0x2000000).imm.toNat < 2 ^ 28 ∧
      Issues 0 0 op (ins 3 1 2 0x2000000) (regs [(1, 7)])) :=
  ⟨⟨rfl, issues_regs _ _ _ _ rfl⟩, ⟨rfl, rfl, by decide, issues_regs _ _ _ _ rfl⟩, ⟨rfl, rfl, by decide, issues_regs _ _ _ _ rfl⟩,
    by decide, by decide, issues_regs _ _ _ _ rfl⟩

/-- O7: predicate operations on indexes up to 7, a compare with an immediate, and the same with an index of 8. -/
theorem witness_PredicateResults (op : Nat) :
    ((ins 7 7 0).d.toNat < 8 ∧ (ins 7 7 0).a.toNat < 8 ∧ (ins 7 7 0).b = 0 ∧ (ins 7 7 0).imm = 0 ∧
      Issues 0 0 op (ins 7 7 0) (regs [(7, 1)])) ∧
    (8 ≤ (ins 8 1 0).d.toNat ∧ (ins 8 1 0).b = 0 ∧ (ins 8 1 0).imm = 0 ∧ Issues 0 0 op (ins 8 1 0) (regs [])) ∧
    (8 ≤ (ins 1 8 0).a.toNat ∧ (ins 1 8 0).b = 0 ∧ (ins 1 8 0).imm = 0 ∧ Issues 0 0 op (ins 1 8 0) (regs [])) ∧
    (8 ≤ (ins 1 1 8).b.toNat ∧ (ins 1 1 8).imm = 0 ∧ Issues 0 0 op (ins 1 1 8) (regs [])) :=
  ⟨⟨by decide, by decide, rfl, rfl, issues_regs _ _ _ _ rfl⟩, ⟨by decide, rfl, rfl, issues_regs _ _ _ _ rfl⟩,
    ⟨by decide, rfl, rfl, issues_regs _ _ _ _ rfl⟩, by decide, rfl, issues_regs _ _ _ _ rfl⟩

/-- O8: a branch to itself, which is in range, one to −1, which is not, a jump to 8,191 and one to 8,192, and a false predicate. -/
theorem witness_BranchTargets (op : Nat) :
    ((ins 0 0 0).imm.toInt = 0 ∧ Issues 0 1 op (ins 0 0 0) (regs [])) ∧
    ((0 : Int) + (ins 0 0 0 0x7FFFFFFF).imm.toInt < 0 ∧ Issues 0 1 op (ins 0 0 0 0x7FFFFFFF) (regs [])) ∧
    ((sGet (tileAt 0 (regs [(1, 8191)])) 1).toNat ≤ 8191 ∧ Issues 0 1 op (ins 0 1 0) (regs [(1, 8191)])) ∧
    (8191 < (sGet (tileAt 0 (regs [(1, 8192)])) 1).toNat ∧ Issues 0 1 op (ins 3 1 0) (regs [(1, 8192)])) ∧
    (pGet (tileAt 0 (regs [])) (ins 0 0 0 0 1).p.toNat = false ∧ canIssue 0 1 0 (ins 0 0 0 0 1) (regs []) = true) :=
  ⟨⟨by decide, issues_regs _ _ _ _ rfl⟩, ⟨by decide, issues_regs _ _ _ _ rfl⟩, ⟨by decide, issues_regs _ _ _ _ rfl⟩,
    ⟨by decide, issues_regs _ _ _ _ rfl⟩, by decide, by decide⟩

/-- O9, O10: an access of 256 bytes at the last place that fits, a misaligned one, and one past scratch. -/
theorem witness_ScratchAccess (op : Nat) :
    ((ins 3 1 0).imm.toNat < 2 ^ 20 ∧ (sGet (tileAt 0 (regs [(1, 0xFFF00)])) 1).toNat = 2 ^ 20 - 256 ∧
      NoErr true 0 0xFFF00 256 (regs [(1, 0xFFF00)]) ∧ Issues 0 2 op (ins 3 1 0) (regs [(1, 0xFFF00)])) ∧
    ((sGet (tileAt 0 (regs [(1, 1)])) 1).toNat % 2 ≠ 0 ∧ Issues 0 2 op (ins 3 1 0) (regs [(1, 1)])) ∧
    (2 ^ 20 < (sGet (tileAt 0 (regs [(1, 0x100000)])) 1).toNat + 1 ∧ Issues 0 2 op (ins 3 1 0) (regs [(1, 0x100000)])) :=
  ⟨⟨by decide, by decide, ⟨by decide, by decide⟩, issues_regs _ _ _ _ rfl⟩, ⟨by decide, issues_regs _ _ _ _ rfl⟩,
    by decide, issues_regs _ _ _ _ rfl⟩

/-- A rectangle of two rows of 64 bytes. -/
def rect2 : Dma := ⟨0, true, 3, 0, 64, 2, 64, 64, 128, 0, 0⟩

/-- O11: the rectangle of s[20] and s[21] fits; an empty one of s[62] and s[63]; sixteen in flight; a length with bit 21 set. -/
theorem witness_DmaGoesInFlight (op : Nat) :
    ((ins 3 10 11 0x28000000).imm.toNat % 2 ^ 25 = 0 ∧ (ins 3 10 11 0x28000000).imm.toNat / 2 ^ 25 = 20 ∧
      (0x200000040 : BitVec 64).toNat / 2 ^ 48 = 0 ∧ (0x200000040 : BitVec 64).toNat / 2 ^ 21 % 2 ^ 11 = 0 ∧
      0 + (2 - 1) * ((0x4000000080 : BitVec 64).toNat % 2 ^ 32) + 64 ≤ 2 ^ 27 ∧
      Issues 0 5 op (ins 3 10 11 0x28000000) (regs [(20, 0x200000040), (21, 0x4000000080)])) ∧
    ((ins 3 10 11 0x7C000000).imm.toNat / 2 ^ 25 = 62 ∧ (sGet (tileAt 0 (regs [(10, 1)])) 62).toNat / 2 ^ 32 % 2 ^ 16 = 0 ∧
      Issues 0 5 op (ins 3 10 11 0x7C000000) (regs [(10, 1)])) ∧
    (16 ≤ (List.replicate 16 rect2).length ∧
      Issues 0 5 op (ins 3 10 11 0x28000000) (on { runs with dmas := List.replicate 16 rect2 })) ∧
    ((sGet (tileAt 0 (regs [(20, 0x200000)])) 20).toNat / 2 ^ 21 % 2 ^ 11 ≠ 0 ∧
      Issues 0 5 op (ins 3 10 11 0x28000000) (regs [(20, 0x200000)])) :=
  ⟨⟨by decide, by decide, by decide, by decide, by decide, issues_regs _ _ _ _ rfl⟩, ⟨by decide, by decide, issues_regs _ _ _ _ rfl⟩,
    ⟨by decide, issues_on _ rfl rfl rfl rfl (by decide) _ _ _ rfl⟩, by decide, issues_regs _ _ _ _ rfl⟩

/-- An MMA of tile 0 into m0 in its last active cycle, with no row to read. -/
def lastCycle : MatOp := ⟨some 0, 0, 1, 20, true, some ⟨0, ⟨3, 0, 0, 0, 0, 0⟩, ⟨3, 0, 0, 0, 0, 0⟩, 0, [], [], 0⟩⟩

/-- O12: the rectangle is in flight in a state without stored errors, alone, beside a matrix instruction that is older, and in
self-refresh. -/
theorem witness_DmaCompletionMovesRows : let s := on { runs with dmas := [rect2] }
    (tileAt 0 s).dmas = [] ++ rect2 :: [] ∧ (∀ e ∈ ([] : List Dma), e.id ≠ rect2.id) ∧ rect2.vault % 64 = 0 ∧
      rect2.vStride % 64 = 0 ∧ rect2.scratch % 64 = 0 ∧ rect2.sStride % 64 = 0 ∧ rect2.len % 64 = 0 ∧
      rect2.vault + (rect2.rows - 1) * rect2.vStride + rect2.len ≤ 2 ^ 27 ∧
      rect2.scratch + (rect2.rows - 1) * rect2.sStride + rect2.len ≤ 2 ^ 20 ∧ (∀ e ∈ s.vaultErr, e.1 / 2 ^ 21 ≠ 0) ∧
      (∀ e ∈ s.scratchErr, e.1 / 2 ^ 17 ≠ 0) ∧ s.selfRefresh = false ∧ dmaHeld rect2 (tileAt 0 s) = false ∧
      rect2.rows * rect2.len ≠ 0 ∧ dmaHeld rect2 { runs with mats := [lastCycle] } = true ∧
      ({ s with selfRefresh := true } : State).selfRefresh = true := by
  refine ⟨?_, ?_, ?_, ?_, ?_, ?_, ?_, ?_, ?_, ?_, ?_, ?_, ?_, ?_, ?_, ?_⟩ <;> decide

/-- O13: counters modulo 2^32. -/
theorem witness_CounterInstructions (op : Nat) : (ins 3 1 0).b = 0 ∧ (ins 3 1 0).imm = 0 ∧ (ins 3 0 0 9).b = 0 ∧ (ins 3 0 0 9).a = 0 ∧
    Issues 0 7 op (ins 3 1 0) (regs [(1, 7)]) ∧ Issues 0 7 op (ins 3 0 0 9) (regs []) :=
  ⟨rfl, rfl, rfl, rfl, issues_regs _ _ _ _ rfl, issues_regs _ _ _ _ rfl⟩

/-- O14: a counter at 0 has reached the target 0 and 0x80000001 = −2^31 + 1, and not the targets 1 and 0x80000000; CWAIT.T with
beats in s[20] and with none; SLEEP of 0 and of 5 beats. -/
theorem witness_CounterWaits (op : Nat) :
    ((0 : BitVec 32) - 0).toNat < 2 ^ 31 ∧ ((0 : BitVec 32) - 0x80000001).toNat < 2 ^ 31 ∧ ¬ ((0 : BitVec 32) - 1).toNat < 2 ^ 31 ∧
    ¬ ((0 : BitVec 32) - 0x80000000).toNat < 2 ^ 31 ∧
    ((ins 7 1 2 0x28000000).d.toNat < 8 ∧ (ins 7 1 2 0x28000000).imm.toNat % 2 ^ 25 = 0 ∧
      Issues 0 7 op (ins 7 1 2 0x28000000) (regs [(2, 1), (20, 5)]) ∧ Issues 0 7 op (ins 7 1 2 0x28000000) (regs [(2, 1)])) ∧
    ((ins 0 1 2).d = 0 ∧ (ins 0 1 2).imm = 0 ∧ Issues 0 7 op (ins 0 1 2) (regs [(2, 1)])) ∧
    ((ins 0 0 0 5).a = 0 ∧ (ins 0 0 0 5).imm ≠ 0 ∧ Issues 0 7 op (ins 0 0 0 5) (regs [])) :=
  ⟨by decide, by decide, by decide, by decide,
    ⟨by decide, by decide, issues_regs _ _ _ _ rfl, issues_regs _ _ _ _ rfl⟩, ⟨rfl, rfl, issues_regs _ _ _ _ rfl⟩,
    rfl, by decide, issues_regs _ _ _ _ rfl⟩

/-- O15: a tile in each of the three waits, with a target reached and not reached. -/
theorem witness_WaitsEnd (w : Wait) : let s := on { runs with st := 2, pc := 8191, wait := w }
    (tileAt 0 s).pc ≤ 8191 ∧ (tileAt 0 s).wait = w ∧ (cGet (tileAt 0 s) 1 - 0).toNat < 2 ^ 31 ∧
      ¬ (cGet (tileAt 0 s) 1 - 1).toNat < 2 ^ 31 := ⟨by show 8191 ≤ 8191; decide, rfl, by show ((0 : BitVec 32) - 0).toNat < _; decide,
        by show ¬ ((0 : BitVec 32) - 1).toNat < _; decide⟩

/-- Tile 0 is in barrier group 15 of partition 0. -/
def grouped : State := { regs [] with group := [(15, { Group.zero with tiles := 1 })] }

/-- O16, O17: the system instructions, a BARRIER of a member and of a tile outside the group, and words of no class and of no
operation. -/
theorem witness_SystemInstructions (op : Nat) :
    ((ins 0 0 0 15).imm.toNat < 16 ∧ (tileAt 0 grouped).assigned = true ∧
      (mapGet Group.zero grouped.group (16 * (tileAt 0 grouped).part.toNat + 15)).tiles.getLsbD 0 = true ∧
      Issues 0 8 0x03 (ins 0 0 0 15) grouped) ∧
    ((mapGet Group.zero grouped.group (16 * (tileAt 0 grouped).part.toNat + 14)).tiles.getLsbD 0 = false ∧
      Issues 0 8 0x03 (ins 0 0 0 14) grouped) ∧
    ((ins 3 0 0).imm = 0 ∧ Issues 0 8 op (ins 3 0 0) (regs [])) ∧ ((ins 0 0 0 0xFFFF).imm.toNat < 2 ^ 16 ∧
      Issues 0 8 0x07 (ins 0 0 0 0xFFFF) (regs []) ∧ Issues 0 8 0x02 (ins 0 0 0 15) (regs []) ∧ Issues 0 8 0x01 (ins 0 0 0) (regs [])) ∧
    ((tileAt 0 (regs [])).st = 1 ∧ (tileAt 0 (regs [])).wait = .none ∧ (tileAt 0 (regs [])).pc < 8192 ∧
      clusterOpen 0 (regs []) = true ∧ mapGet 0 (regs []).istoreErr (0 * 8192 + 0) ≠ 2 ∧
      9 ≤ (0x9000000000000000 : BitVec 64).toNat / 2 ^ 60 ∧ 4 ≤ (0x1040000000000000 : BitVec 64).toNat / 2 ^ 52 % 256 ∧
      2 ≤ (0x5020000000000000 : BitVec 64).toNat / 2 ^ 52 % 256 ∧ 8 ≤ (0x8080000000000000 : BitVec 64).toNat / 2 ^ 52 % 256 ∧
      (0x8070000000000000 : BitVec 64).toNat / 2 ^ 52 % 256 < 8) :=
  ⟨⟨by decide, rfl, by decide +kernel, by decide, by decide, by decide, by decide⟩,
    ⟨by decide +kernel, by decide, by decide, by decide, by decide⟩,
    ⟨rfl, issues_regs _ _ _ _ rfl⟩,
    ⟨by decide, issues_regs _ _ _ _ rfl, issues_regs _ _ _ _ rfl, issues_regs _ _ _ _ rfl⟩, by decide⟩

/-! ### Witnesses: the matrix and vector classes (O18 to O29) -/

/-- O18: a zero that meets an infinity, and finite factors with denominators. -/
theorem witness_MatrixProductStep : isZeroV (.fin false 0 1) = true ∧ (Val.fin false 1 1) ≠ .nan ∧ (Val.inf true) ≠ .nan ∧
    (1 : Nat) ≠ 0 ∧ 0 < 1 := by decide

/-- O19: two different orders of three products. -/
theorem witness_ExactSumsAreOrderFree : let p := ((.fin false 3 1, .fin false 1 1, .fin true 5 2, .fin false 1 1) : Val × Val × Val × Val)
    let q := ((.inf true, .fin false 1 1, .fin false 1 1, .fin false 1 1) : Val × Val × Val × Val)
    List.Perm [p, q, p] [q, p, p] ∧ p ≠ q := ⟨List.Perm.swap _ _ _, by decide⟩

/-- O20: two products of 2^94 pass through 2^95 and the true sum with a third of −2^94 lies below it. -/
theorem witness_WrappedSumsAreTrue : let q : Int := 2 ^ 94
    q.natAbs < 2 ^ 95 ∧ ¬ q + q < 2 ^ 95 ∧ -(2 ^ 95) ≤ q + q + -q ∧ q + q + -q < 2 ^ 95 ∧ -512 ≤ (48 : Int) ∧ (48 : Int) ≤ 511 := by
  decide

/-- O21: formats 3 and 3 with strides of 64 and K = 32 in s[20], and the same with K = 0. -/
theorem witness_MatrixMultiply : let f := ins 2 1 2 0x28660000
    let s := regs [(2, 0x1000), (20, 0x40000400020)]
    let o := mmaOperands f (tileAt 0 s)
    f.d.toNat ≤ 3 ∧ f.imm.toNat / 2 ^ 25 = 20 ∧ f.imm.toNat % 2 ^ 13 = 0 ∧ (sGet (tileAt 0 s) 20).toNat / 2 ^ 56 = 0 ∧
      scaleAllowed o.1.fmt o.1.mode = true ∧ scaleAllowed o.2.1.fmt o.2.1.mode = true ∧ pairRate o.1.fmt o.2.1.fmt = some 0 ∧
      o.2.2 = 32 ∧ o.1.base % 8 = 0 ∧ o.1.stride = 64 ∧ o.2.1.base % 8 = 0 ∧ o.2.1.stride = 64 ∧ inScratch o.1 32 = true ∧
      inScratch o.2.1 32 = true ∧ s.scratchErr = [] ∧ (mmaOperands f (tileAt 0 (regs []))).2.2 = 0 := by decide

/-- O21: the tile cycle that ends an MMA's active cycles, with a limit that gives the tile its cycle. -/
theorem witness_MatrixMultiply_ends : let x := { runs with mats := [lastCycle] }
    let s : State := { on x with gov := { State.reset.gov with halt := 0, admitted := 1, limit := [(0, 256)] } }
    (tileAt 0 s).mats = lastCycle :: [] ∧ lastCycle.active = 1 ∧ lastCycle.job.isSome = true ∧ s.gov.halt = 0 ∧
      s.gov.held.getLsbD (clusterOf 0) = false ∧ s.gov.admitted.getLsbD (clusterOf 0) = true ∧
      256 ≤ x.credit + mapGet 0 s.gov.limit (clusterOf 0) := by
  refine ⟨?_, ?_, ?_, ?_, ?_, ?_, ?_⟩ <;> decide

theorem witness_MatrixMultiply_issues : Issues 0 4 0x00 (ins 2 1 2 0x28660000) (regs [(2, 0x1000), (20, 0x40000400020)]) ∧
    Issues 0 4 0x00 (ins 2 1 2 0x28660000) (regs []) := ⟨issues_regs _ _ _ _ rfl, issues_regs _ _ _ _ rfl⟩

theorem readScratch_regs (l : SMap (BitVec 64)) (t a n : Nat) : readScratch t a n (regs l) = List.replicate n 0 := by
  rw [readScratch, readMem, List.eq_replicate_iff]
  exact ⟨by simp, fun b hb => by simp only [List.mem_map] at hb; obtain ⟨_, _, h⟩ := hb; exact h.symm⟩

/-- O22: MZERO with an anchor, MVR and MST with a shift, MFLG that clears, MSTX and MLDX of zero sums at address 0. -/
theorem witness_AccumulatorMoves (op : Nat) :
    ((ins 3 0 0 0x3FF).d.toNat ≤ 3 ∧ (ins 3 0 0 0x3FF).imm.toNat < 2 ^ 10 ∧ Issues 0 4 op (ins 3 0 0 0x3FF) (regs [])) ∧
    ((ins 9 3 1 0x7050000).a.toNat ≤ 3 ∧ (ins 9 3 1 0x7050000).imm.toNat < 2 ^ 27 ∧ (ins 9 3 1 0x7050000).imm.toNat % 2 ^ 16 = 0 ∧
      Issues 0 4 op (ins 9 3 1 0x7050000) (regs [])) ∧
    ((ins 9 3 0 1).imm.toNat < 2 ∧ Issues 0 4 op (ins 9 3 0 1) (regs [])) ∧
    ((ins 3 1 2).imm.toNat = 0 ∧ (sGet (tileAt 0 (regs [])) 1).toNat % 16 = 0 ∧ (regs []).scratchErr = [] ∧
      (∀ k, k < 4096 → let el := readScratch 0 (k / 64 * 0 + k % 64 * 16) 16 (regs [])
        (el.getD 14 0).toNat < 32 ∧ el.getD 15 0 = 0 ∧ (BitVec.ofNat 16 (ofLe ((el.drop 12).take 2))).toInt = 0) ∧
      Issues 0 4 op (ins 3 1 2) (regs [])) ∧
    ((ins 3 1 2 0x50050000).imm.toNat % 2 ^ 16 = 0 ∧ (ins 3 1 2 0x50050000).imm.toNat / 2 ^ 27 = 10 ∧
      0 + 63 * 0 + rowBytes 10 64 ≤ 2 ^ 20 ∧ Issues 0 4 op (ins 3 1 2 0x50050000) (regs [])) :=
  ⟨⟨by decide, by decide, issues_regs _ _ _ _ rfl⟩, ⟨by decide, by decide, by decide, issues_regs _ _ _ _ rfl⟩,
    ⟨by decide, issues_regs _ _ _ _ rfl⟩,
    ⟨rfl, by decide, rfl, fun k _ => by rw [readScratch_regs]; decide, issues_regs _ _ _ _ rfl⟩,
    by decide, by decide, by decide, issues_regs _ _ _ _ rfl⟩

/-- O23, O24: lane masks in s[5] or none, the five and six relations, and zero fields elsewhere. -/
theorem witness_VectorInstructions (op : Nat) (f : Ins) (h : f.p = 0) : Issues 0 3 op f (regs [(5, 0xF)]) ∧
    (0x280000 : BitVec 31).toNat &&& 0x7E07FFFF = 0 ∧ (0x280000 : BitVec 31).toNat % 2 ^ 19 = 0 ∧
    (0x280000 : BitVec 31).toNat / 2 ^ 19 % 64 = 5 ∧ (ins 1 2 0 0x280000).b = 0 ∧ (ins 1 2 3).imm.toNat = 0 ∧
    (∀ m : Nat, m < 6 → (0x280000 + 512 * m) &&& 0x7E07F1FF = 0 ∧ (0x280000 + 512 * m) / 2 ^ 9 % 8 = m) :=
  ⟨issues_regs _ _ _ _ h, by decide⟩

/-- O25: every format for VCVT.W and VCVT.N, a mode for the integer conversions, and VQX with 32 and 16 lanes to a scale. -/
theorem witness_VectorConversions (op : Nat) : Issues 0 3 op (ins 1 2 0 0x18000) (regs []) ∧ (ins 1 2 0 0x18000).b = 0 ∧
    (∀ m : Nat, m < 11 → (32768 * m) &&& 0x7E007FFF = 0 ∧ (32768 * m + 0x3000) &&& 0x7FF80FFF = 0 ∧ 32768 * m / 2 ^ 15 % 16 = m) ∧
    0x6000 &&& 0x7E079FFF = 0 ∧ 0x6000 / 2 ^ 13 % 4 = 3 ∧
    ((0x6000000 + 32768 * 3 + 128) &&& 0x1F87E7F = 0 ∧ (0x6000000 + 32768 * 3 + 128) / 2 ^ 7 % 4 = 1 ∧
      (0x6000000 + 32768 * 3 + 128) / 2 ^ 15 % 16 = 3) ∧
    ((0x6000000 + 32768 * 7 + 256) &&& 0x1F87E7F = 0 ∧ (0x6000000 + 32768 * 7 + 256) / 2 ^ 7 % 4 = 2 ∧
      (0x6000000 + 32768 * 7 + 256) / 2 ^ 15 % 16 = 7) := ⟨issues_regs _ _ _ _ rfl, by decide⟩

/-- O26: VSTM at the last place that fits with lanes 0 to 3 of s[5], with no lane, and a gather at 4. -/
theorem witness_VectorScratchAccess (op : Nat) : let f := ins 1 2 3 0x280000
    let s := regs [(2, 0xFFF00), (5, 0xF)]
    f.imm.toNat &&& 0x7E07FFFF = 0 ∧ s.scratchErr = [] ∧ (sGet (tileAt 0 s) 5).getLsbD 0 = true ∧
      (sGet (tileAt 0 s) 2 + sGet (tileAt 0 s) 3).toNat = 2 ^ 20 - 256 ∧
      (∀ l, l < 64 → (sGet (tileAt 0 (regs [])) 5).getLsbD l = false) ∧ (sGet (tileAt 0 (regs [(2, 4)])) 2).toNat % 4 = 0 ∧
      (∀ l, l < 64 → (sGet (tileAt 0 (regs [(2, 4)])) 2).toNat + 4 * (vGet (tileAt 0 (regs [(2, 4)])) 3 l).toNat + 4 ≤ 2 ^ 20) ∧
      Issues 0 3 op f s ∧ Issues 0 3 op f (regs []) ∧ Issues 0 3 op f (regs [(2, 4)]) :=
  ⟨by decide, rfl, by decide, by decide, by decide, by decide, by decide, issues_regs _ _ _ _ rfl, issues_regs _ _ _ _ rfl,
    issues_regs _ _ _ _ rfl⟩

/-- O27: the last register pair of VPHASE, its largest position, VOSM and VOSMJ on s[62] and s[63]. -/
theorem witness_RotaryAndSoftmax (op : Nat) :
    ((ins 62 1 62).d.toNat ≤ 62 ∧ (ins 62 1 62).imm.toNat &&& 0x7E07FFFF = 0 ∧ (ins 62 1 62).b.toNat ≤ 62 ∧
      (sGet (tileAt 0 (regs [(1, 0xFFFFFF)])) 1).toNat < 2 ^ 24 ∧
      (∀ l, l < 64 → (vGet (tileAt 0 (regs [(1, 0xFFFFFF)])) 1 l).toNat < 2 ^ 24) ∧
      Issues 0 3 op (ins 62 1 62) (regs [(1, 0xFFFFFF)])) ∧
    ((ins 1 2 3 0x7C000000).imm.toNat % 2 ^ 19 = 0 ∧ (ins 1 2 3 0x7C000000).imm.toNat / 2 ^ 25 = 62 ∧
      Issues 0 3 op (ins 1 2 3 0x7C000000) (regs [])) ∧
    ((ins 0 0 3 0x7C000000).imm.toNat % 2 ^ 25 = 0 ∧ (ins 0 0 3 0x7C000000).d = 0 ∧ (ins 0 0 3 0x7C000000).a = 0 ∧
      Issues 0 3 op (ins 0 0 3 0x7C000000) (regs [])) :=
  ⟨⟨by decide, by decide, by decide, by decide, by decide, issues_regs _ _ _ _ rfl⟩,
    ⟨by decide, by decide, issues_regs _ _ _ _ rfl⟩, by decide, rfl, rfl, issues_regs _ _ _ _ rfl⟩

/-- O28: 64 scores with no lane enabled, and with an enabled NaN. -/
theorem witness_SoftmaxCorners : (List.replicate 64 (0x7FC00000 : BitVec 32)).length = 64 ∧
    (∀ i, i < 64 → (fun _ : Nat => false) i = false) ∧ isNan ((List.replicate 64 (0x7FC00000 : BitVec 32)).getD 63 0) = true := by
  decide

/-- A descriptor of one key in format 1 at address 0, and one of no key. -/
def keys (n : Byte) : State := { regs [] with scratch := if n = 0 then [(36, 1)] else [(16, n), (36, 1)] }

/-- O29: a VATTN that passes R141 with one key and with none; one in progress that may go on, one that a halt stops and one in
self-refresh; a tile without one. -/
theorem witness_StreamingAttention : let f := ins 1 2 3 0x28000000
    let bs (n : Byte) := readScratch 0 0 48 (keys n)
    let d (n : Byte) := attnDesc f (tileAt 0 (keys n)) (insWord 3 0x5C f) (bs n)
    let word (n : Byte) (o : Nat) := ofLe (((bs n).drop o).take 4)
    f.imm.toNat % 2 ^ 25 = 0 ∧ (keys 1).scratchErr = [] ∧ (sGet (tileAt 0 (keys 1)) 3).toNat = 0 ∧
      (∀ n ∈ [(0 : Byte), 1], (d n).n = n.toNat ∧ (d n).d128 = false ∧ (bs n).getD 36 0 = 1 ∧ word n 16 < 2 ^ 25 ∧ word n 20 < 2 ^ 24 ∧
        word n 24 < 2 ^ 24 ∧ word n 28 < 2 ^ 25 ∧ ((bs n).getD 37 0).toNat < 4 ∧ (∀ i, i < 48 → 38 ≤ i → (bs n).getD i 0 = 0)) ∧
      ((d 1).kOff % 64 = 0 ∧ (d 1).vOff % 64 = 0 ∧ (d 1).kStride % 64 = 0 ∧ (d 1).vStride % 64 = 0 ∧
        (d 1).kOff + ((d 1).n - 1) * (d 1).kStride + 128 ≤ 2 ^ 27 ∧ (d 1).vOff + ((d 1).n - 1) * (d 1).vStride + 128 ≤ 2 ^ 27 ∧
        (d 1).kPos + (d 1).n - 1 < 2 ^ 24) ∧
      canIssue 0 3 0x5C f (keys 1) = true ∧ canIssue 0 3 0x5C f (keys 0) = true ∧
      clusterOpen 0 (on { runs with vattn := some (d 1) }) = true ∧ (keys 1).vaultErr = [] ∧ (keys 1).selfRefresh = false ∧
      (tileAt 0 (keys 1)).vattn = none ∧
      clusterOpen 0 { State.reset with tile := [(0, { runs with vattn := some { d 1 with started := false } })] } = false := by
  intro f bs d word
  refine ⟨?_, ?_, ?_, ?_, ?_, ?_, ?_, ?_, ?_, ?_, ?_, ?_⟩ <;> decide

/-- O30, O31: a tile that may not issue, one whose predicate is false, an encoding fault, an uncorrectable fetch, and the last
instruction. -/
theorem witness_IssueOfEveryTileInstruction (cls op : Nat) : canIssue 0 cls op (ins 1 2 3) State.reset = false ∧
    (canIssue 0 0 0 (ins 1 2 3 1 1) (regs []) = true ∧ pGet (tileAt 0 (regs [])) 1 = false ∧ (ins 1 2 3 1 1).imm ≠ 0) ∧
    (mapGet 0 ({ regs [] with istoreErr := [(0, 2)] } : State).istoreErr (0 * 8192 + 0) = 2 ∧
      canIssue 0 0 0 (ins 1 2 3 0 1) { regs [] with istoreErr := [(0, 2)] } = true) ∧
    ((tileAt 0 (on { runs with pc := 8191 })).pc = 8191 ∧ canIssue 0 8 0x00 (ins 0 0 0) (on { runs with pc := 8191 }) = true) ∧
    (2 ^ 20 ≤ (ins 0 0 0 0x100000).imm.toNat ∧ canIssue 0 2 0x00 (ins 0 0 0 0x100000) (regs []) = true ∧
      (ins 8 4 0).imm = 0 ∧ 8 ≤ (ins 8 4 0).d.toNat ∧ canIssue 0 0 0x20 (ins 8 4 0) (regs []) = true ∧
      4 ≤ (ins 4 0 0).d.toNat ∧ canIssue 0 4 0x18 (ins 4 0 0) (regs []) = true ∧ canIssue 0 4 0x00 (ins 4 0 0) (regs []) = true) :=
  ⟨rfl, by decide, by decide, by decide, by decide⟩

/-! ### Witnesses: remote operations, windows, memory, registers (O32 to O42) -/

theorem inv_regs (l : SMap (BitVec 64)) : (regs l).Inv :=
  ⟨rfl, Nat.zero_le _, Nat.zero_le _, (fun _ h => nomatch h), ⟨by rw [show (regs l).attr.acct = [] from rfl, acctTotal_nil]; rfl,
    (fun _ h => nomatch h)⟩⟩

/-- An operation of tile 0 to its own package, which has left. -/
def pkt0 : RemotePkt := ⟨0, 0x10000000, .put, 0, 0, 16, List.replicate 16 7, 0, 0, false, false, 0, false⟩
def op0 : RemoteOp := ⟨0, .tile 0, pkt0, 0, 0, 3, 0, 0, false, true, 0, [], 0, 0⟩
def opened : State := { regs [(20, 16)] with rops := [op0], nextOp := 1 }

/-- O32: every kind passes its checks for the tile's own package and for package 1, to which no link leads; a length of 0; a NOTIFY
after an operation to the same package. -/
theorem witness_RemoteIssue : (∀ k ∈ [RKind.put, .get, .xacc], rmEnc k (ins 3 1 2 0x28000000) = none ∧
      rmFault k 0 16 0 = none ∧ rmFault k (2 ^ 37) 16 0 = none) ∧
    (∀ k ∈ [RKind.puts, .aadd, .cas, .swap], rmEnc k (ins 3 1 2) = none ∧ rmFault k 0 8 0 = none ∧ rmFault k (2 ^ 37) 8 0 = none) ∧
    rmEnc .notify (ins 3 1 2) = none ∧ rmFault .notify (2 ^ 37) 0 0 = none ∧ (sGet (tileAt 0 (regs [])) 20) = 0 ∧
    (regs []).scratchErr = [] ∧ (regs []).fences = [] ∧ pkgId (regs []) = 0 ∧ route 1 (regs []) = none ∧
    (tileOps 0 opened).length < 64 ∧ ((tileOps 0 opened).filter (fun o => decide (o.dest = 0))).map (·.id) ≠ [] := by
  refine ⟨?_, ?_, ?_, ?_, ?_, ?_, ?_, ?_, ?_, ?_, ?_⟩ <;> decide

theorem witness_RemoteIssue_issues (op : Nat) (f : Ins) (h : f.p = 0) : Issues 0 6 op f (regs [(20, 16)]) ∧
    Issues 0 6 op f (regs [(1, 0x2000000000)]) ∧ (regs [(20, 16)]).Inv := ⟨issues_regs _ _ _ _ h, issues_regs _ _ _ _ h, inv_regs _⟩

theorem witness_RemoteIssue_waits : Issues 0 6 (rkOp .notify) (ins 3 1 2) opened ∧ opened.Inv ∧ opened.fences = [] ∧
    opened.scratchErr = [] :=
  ⟨⟨by decide, by decide, by decide, by decide⟩, ⟨rfl, by decide, by decide, by decide,
    ⟨by rw [show opened.attr.acct = [] from rfl, acctTotal_nil]; rfl, (fun _ h => nomatch h)⟩⟩, rfl, rfl⟩

/-- O33: a FENCE of all packages and of one, with nothing earlier and with an operation, and of a package past 65,535; one that is
satisfied and one that is not; an operation of this package whose turn has come; remote instructions behind a FENCE and behind 64
operations. -/
theorem witness_FencesAndRemoteStatus : Issues 0 6 0x1C (ins 3 0 0) (regs []) ∧ Issues 0 6 0x1C (ins 3 1 0 0x200) (regs []) ∧
    (ins 3 1 0 0x200).imm.toNat = 2 ^ 9 ∧ tileOps 0 (regs []) = [] ∧ canIssue 0 6 0x1C (ins 3 1 0 0x200) opened = true ∧
    ((tileOps 0 opened).filter (fun o => decide (o.dest = 0))).map (·.id) = [0] ∧ Issues 0 6 0x20 (ins 3 0 0 1) (regs []) ∧
    ({ opened with fences := [⟨5, 0, 3, []⟩, ⟨6, 0, 4, [0]⟩] } : State).fences = [] ++ ⟨5, 0, 3, []⟩ :: [⟨6, 0, 4, [0]⟩] ∧
    ({ opened with rops := [{ op0 with departed := false }] } : State).rops = [] ++ { op0 with departed := false } :: [] ∧
    op0.dest = pkgId opened ∧ (∀ h ∈ [] ++ [(⟨6, 0, 4, [0]⟩ : Fence)], h.id ≠ 5) ∧ opened.fences = [] ∧
    2 ^ 53 ≤ (sGet (tileAt 0 (regs [(1, 0x20000000000000)])) 1).toNat ∧
    Issues 0 6 0x1C (ins 3 1 0 0x200) (regs [(1, 0x20000000000000)]) ∧ pGet (tileAt 0 opened) 0 = true ∧
    64 ≤ (tileOps 0 { opened with rops := List.replicate 64 op0 }).length ∧
    (∃ g ∈ ({ opened with fences := [⟨5, 0, 3, []⟩] } : State).fences, g.tile = 0) :=
  ⟨issues_regs _ _ _ _ rfl, issues_regs _ _ _ _ rfl, by decide, by decide, by decide, by decide, issues_regs _ _ _ _ rfl, rfl, rfl,
    by decide, by decide, rfl, by decide, issues_regs _ _ _ _ rfl, by decide, by decide, by decide⟩

/-- Window 0 of tile 0 open to the tile's own partition with all rights and every counter, and one in scratch slot 1. -/
def windowed : State := { regs [] with window := [(0, 0xFC000000007D), (1, 0xFC01000000FD)] }

/-- An operation on window `w` by the tile's own partition. -/
def pktOf (k : RKind) (w : BitVec 21) (n : Nat) : RemotePkt := { pkt0 with origin := 0, kind := k, window := w, len := n, sen := true, g := 63 }

/-- O34: every kind passes the checks of R182 on a vault window and on a scratch window, and a closed window refuses it. -/
theorem witness_RemoteEffectsAtTarget :
    (∀ k ∈ [RKind.put, .get, .puts, .aadd, .cas, .swap, .xacc, .notify], targetCheck (pktOf k 0 8) windowed = 0 ∧
      targetCheck (pktOf k 1 8) windowed = 0 ∧ targetCheck (pktOf k 2 8) windowed = 3) ∧
    targetCheck (pktOf .put 0 0) windowed = 0 ∧ targetCheck (pktOf .put 0 8) { windowed with selfRefresh := true } = 0 ∧
    pkgId windowed = 0 ∧ windowed.selfRefresh = false ∧ NoErr false 0 0 16 windowed ∧ NoErr true 0 0x10000 16 windowed ∧
    xaccBytes 1 (List.replicate 16 0) (List.replicate 16 0) ≠ none ∧
    xaccBytes 1 (List.replicate 16 0) (List.replicate 15 0 ++ [1]) = none := by
  refine ⟨?_, ?_, ?_, ?_, ?_, ⟨?_, ?_⟩, ⟨?_, ?_⟩, ?_, ?_⟩ <;> decide

/-- O35: the operation of tile 0 is outstanding; its packet has left or waits at the port; its time is over and is not. -/
theorem witness_RemoteCompletion : opened.rops = [] ++ op0 :: [] ∧ op0.departed = true ∧ op0.src = .tile 0 ∧
    NoErr true 0 op0.laddr op0.pkt.len opened ∧ op0.id ∉ waitingOps opened ∧
    op0.id ∈ waitingOps { opened with eth := { opened.eth with queue := [(1, .peer 5 (.remote pkt0))] } } ∧
    (let s : State := { opened with regs := [(0x310010, 1)], tick := 1000 }
     regF 0x310010 15 0 s ≠ 0 ∧ op0.since + regF 0x310010 15 0 s * 1000 ≤ s.tick ∧ jobOfTile 0 s = none ∧
      ({ s with tick := 999 } : State).tick < op0.since + regF 0x310010 15 0 s * 1000) := by
  refine ⟨rfl, rfl, rfl, ⟨?_, ?_⟩, ?_, ?_, ?_, ?_, ?_, ?_⟩ <;> decide

/-- Session 0 is open with all rights on partition 0, session 1 with none, the port is up and the transport on, VSRAM and VDRAM are in
REG, and the Steward runs. -/
def host : State := { regs [(1, 7)] with
  session := [(0, { Session.closed with isOpen := true, rights := 0xF, part := some 0 }), (1, { Session.closed with isOpen := true })],
  regs := [(0x200004, 1), (0x200100, 1)], rst := { State.reset.rst with steward := true },
  rails := { RailsSt.zero with rail := [(1, { Rail.zero with st := 2 }), (2, { Rail.zero with st := 2 })] } }

theorem host_waits : NothingWaits host := ⟨by decide, rfl, rfl⟩

theorem host_sends : CanSend 0 host := ⟨by decide, by decide, by decide, by decide, by decide, rfl⟩

/-- O36: origin 0 with all rights and origin 1 with none; an address without a register, a read-only register, a writable one and one of
the scripted page; the low word of a 64-bit value; no link has left DETECT. -/
theorem witness_RegisterAccess : hasRight 0 0 host = true ∧ hasRight 2 0 host = true ∧ hasRight 0 1 host = false ∧ logRoom host = true ∧
    regAt 0x0F0000 = none ∧ (regAt 0x10004).map RegDef.readOnly = some true ∧ (regAt 0x100018).map RegDef.readOnly = some false ∧
    mayWrite 0 0x100018 5 host = true ∧ mayWrite 1 0x100018 5 host = false ∧ inChannel 0x100018 = false ∧ isCard host = false ∧
    isS0 0 host = true ∧ (∀ n : Nat, n < 64 → linkSt n host ≤ lsDetect) ∧ mapGet none host.shadow 0 = none ∧
    (0 : Origin) ≠ oRack := by
  refine ⟨?_, ?_, ?_, ?_, ?_, ?_, ?_, ?_, ?_, ?_, ?_, ?_, ?_, ?_, ?_⟩ <;> decide

/-- O36: a write that is logged (RAIL0.OC), one that is not (a go bit of a transaction that is refused), and one that is refused
(LNK1.CTRL of a link across which a job has a member: `linked` below). -/
theorem witness_RegisterWrites : (regWriteOp 0 0x100018 5 host).1 = .logged ∧
    (regWriteOp 0 0x100018 5 host).2.clears = [] ∧ (regWriteOp 0 0x100018 5 host).2.orphans = [] ∧
    (∀ e ∈ (regWriteOp 0 0x100018 5 host).2.session, e.2.waiting = []) := by
  refine ⟨?_, ?_, ?_, ?_⟩ <;> decide

theorem witness_LowWords : (regAt 0x20000).isSome = true ∧ lowWord 0x20000 = true ∧ inChannel 0x20000 = false ∧
    inChannel 0x20004 = false := by
  refine ⟨?_, ?_, ?_, ?_⟩ <;> decide

/-- A kernel on tile 0 with an image of two words, posted to queue 0 by session 0. -/
def kernel0 : Kernel := ⟨0, 9, 0, ⟨5, 0, 2, 0, 0, 1⟩⟩

/-- Tile 0 of partition 0 is idle and the kernel waits in queue 0; in `drains` it runs and its tile has drained after END. -/
def posted : State := { host with
  tile := [(0, { Tile.zero with assigned := true })], queue := [(0, ⟨some 0, [kernel0], none, 0⟩)] }
def drains : State := { host with
  tile := [(0, { runs with st := 4, wait := .drainEnd })], queue := [(0, ⟨some 0, [], some kernel0, 0⟩)] }

/-- O37: the kernel can start, and can complete. -/
theorem witness_KernelsStartAndComplete : (queueAt 0 posted).running = none ∧ (queueAt 0 posted).posted = kernel0 :: [] ∧
    (onesOf kernel0.d.tiles).all (fun t => !tileBusy (tileAt t posted) && decide (ownerOf t posted = some kernel0.part.toNat)) = true ∧
    (∀ t ∈ onesOf kernel0.d.tiles, NoErr false t 0 16 posted) ∧ (tileAt 0 drains).wait = .drainEnd ∧ drained 0 drains = true ∧
    (queueAt 0 drains).running = some kernel0 ∧
    setBit (queueAt 0 drains).ended 0 true &&& kernel0.d.tiles = kernel0.d.tiles ∧ CanSend 0 drains ∧ posted.selfRefresh = false ∧
    tileBusy (tileAt 0 drains) = true ∧ drained 0 { drains with tile := [(0, { runs with dmas := [rect2] })] } = false ∧
    setBit (queueAt 0 drains).ended 0 true &&& (3 : BitVec 1024) ≠ 3 := by
  have h : onesOf kernel0.d.tiles = [0] := by decide +kernel
  refine ⟨rfl, rfl, ?_, ?_, rfl, rfl, rfl, ?_, ⟨by decide, by decide, by decide, by decide, by decide, rfl⟩, rfl, by decide, by decide,
    by decide +kernel⟩
  · rw [h]; decide
  · rw [h]; intro t ht; simp at ht; subst ht; exact ⟨rfl, rfl⟩
  · decide +kernel

/-- Partition 0 belongs to job 4, whose barrier group 0 holds tile 0 alone. -/
def barred (members : List PkgId) (pkgs : List PkgId) : State := { host with
  tile := [(0, { runs with st := 4, wait := .drainBarrier 0 })], part := [(0, ⟨some 4, 0, 0, (0, 0)⟩)],
  jobs := [⟨4, members, false, 0, [], []⟩], group := [(0, ⟨1, members, 0, false, pkgs, false, 0⟩)] }

/-- O38: the last tile of a package that is alone, of one whose root is package 0, and arrivals at the root. -/
theorem witness_BarriersReleaseTogether : (tileAt 0 (barred [0] [])).wait = .drainBarrier 0 ∧ ownerOf 0 (barred [0] []) = some 0 ∧
    jobOfPart 0 (barred [0] []) = some 4 ∧ drained 0 (barred [0] []) = true ∧ pkgId (barred [0] []) = 0 ∧
    setBit (mapGet Group.zero (barred [0] []).group 0).arrived 0 true = (mapGet Group.zero (barred [0] []).group 0).tiles ∧
    (∃ y : Group, mapGet Group.zero (barred [5, 0] [0]).group 0 = y ∧ y.members = [5, 0] ∧ rootOf y = 0 ∧ y.pkgs = [0] ∧
      (5 : PkgId) ∉ y.pkgs) := by
  refine ⟨rfl, rfl, rfl, rfl, rfl, ?_, _, rfl, rfl, by decide +kernel, rfl, by decide⟩
  decide +kernel

/-- O38: a package under another root, a tile that has not drained, a group with another local member, an arrival before the last. -/
theorem witness_BarriersWait : pkgId { barred [0, 4] [] with place := 1 } = 4 ∧
    (∀ q ∈ [(0 : PkgId), 4], (0 : PkgId).toNat ≤ q.toNat) ∧
    drained 0 (on { runs with st := 4, wait := .drainBarrier 0, dmas := [rect2] }) = false ∧ setBit (0 : BitVec 1024) 0 true ≠ 3 ∧
    (∃ m ∈ [(5 : PkgId), 6, 0], m ≠ 5 ∧ m ∉ [(0 : PkgId)]) := by
  refine ⟨?_, fun _ _ => Nat.zero_le _, ?_, ?_, 6, ?_, ?_, ?_⟩ <;> decide +kernel

theorem witness_BarrierGroups : groupsOf 4 0 (barred [5, 0] [0]) = [0] ∧ (5 : PkgId) ∈ [(5 : PkgId), 0] ∧
    (3 : PkgId) ∉ [(5 : PkgId), 0] ∧
    (mapGet Group.zero { barred [0] [] with group := [(15, { Group.zero with held := true })] }.group 15).held = true := by
  refine ⟨by decide +kernel, by decide, by decide, rfl⟩

/-- O39: a matrix instruction whose turn it is, in a cluster that has its cycle, a halted one, and a wash cluster with a full credit. -/
theorem witness_TileCycles : (matReady [lastCycle]).isSome = true ∧ mmaNext [lastCycle] = true ∧ mmaNext [] = false ∧
    256 ≤ min (1023 + 1) 1024 ∧ (1 : BitVec 64).getLsbD (clusterOf 0) = true ∧ State.reset.gov.halt ≠ 0 := by
  refine ⟨?_, ?_, ?_, ?_, ?_, ?_⟩ <;> decide

/-- Memory is initialised and scrubbed every 9 beats. -/
def scrubbed : State := { host with regs := [(0x300000, 9), (0x3000C0, 1)] }

/-- O40: refresh about its two strokes; a scrubber that runs, one that is not due; a correctable and an uncorrectable grain at its place,
a pending write-back, clearing, and memory initialisation that may end. -/
theorem witness_MemoryUpkeep : regF 0x300000 15 0 scrubbed ≠ 0 ∧ memInitDone scrubbed = true ∧ clearing 0 scrubbed = false ∧
    scrubbed.selfRefresh = false ∧ vdramOn scrubbed = true ∧ mapGet none scrubbed.scrubAt 0 = none ∧
    ¬ (∀ b, mapGet none ({ scrubbed with scrubAt := [(0, some 0)], tick := 8 } : State).scrubAt 0 = some b → b + 9 ≤ 8) ∧
    ({ host with frac := 2048 } : State).frac.toNat ≤ 2048 ∧ 2048 < ({ host with frac := 2049 } : State).frac.toNat ∧
    ({ host with aligned := false } : State).aligned = false ∧ (0 : Nat) ∈ ({ host with vaultFix := [0] } : State).vaultFix ∧
    (0 : Nat) ∈ ({ host with scratchFix := [0] } : State).scratchFix ∧ clearing 0 host = false ∧
    vdramOn host = true ∧ host.selfRefresh = false ∧
    badGrains false 0 0 64 1 { host with vaultErr := [(0, 1)] } = [0] ∧ badGrains false 0 0 64 2 { host with vaultErr := [(0, 1)] } = [] ∧
    badGrains false 0 0 64 2 { host with vaultErr := [(0, 2)] } = [0] ∧ badGrains false 0 0 64 1 { host with vaultErr := [(0, 2)] } = [] ∧
    jobOfTile 0 host = none ∧ NoErr true 0 0 8 host ∧ clearing 0 { host with regs := [(0x300040, 1), (0x3000C0, 1)] } = true ∧
    memInitDone { host with regs := [(0x300040, 1), (0x3000C0, 1)] } = true ∧
    memInitDone host = false ∧ ({ host.rst with released := 4 } : Rst).released.getLsbD 2 = true := by
  refine ⟨?_, ?_, ?_, ?_, ?_, ?_, fun h => absurd (h 0 rfl) (by decide), ?_, ?_, ?_, ?_, ?_, ?_, ?_, ?_, ?_, ?_, ?_, ?_, ?_, ⟨?_, ?_⟩,
    ?_, ?_, ?_, ?_⟩ <;> decide

/-- O41: an entry that is good and narrows nothing, one that narrows, one with a reserved bit; WINDOW_SET from the owner's session;
a drain that ends with and without a command that waits for it. -/
theorem witness_WindowTableWrites : (ownerOf 0 host).isSome = true ∧ clearing 0 host = false ∧
    (0xFC000000007D : BitVec 64).extractLsb' 8 24 = 0 ∧ (0x100 : BitVec 64).extractLsb' 8 24 ≠ 0 ∧
    narrows 0 0xFC000000007D = false ∧ narrows 0xFC000000007D 0 = true ∧ ownerOf 0 host ≠ none ∧
    (sesAt 0 host).part.map (·.toNat) = ownerOf 0 host ∧ regIs (aWin 0xC) 0 host = false ∧ NothingWaits host ∧ CanSend 0 host ∧
    host.windowWaits = [] ∧ ({ host with windowWaits := [(0, 3)] } : State).windowWaits = [(0, 3)] ∧
    ownerOf 1 host = none ∧ host.passed = [] ∧ ({ host with passed := [(pkt0, 0)] } : State).passed ≠ [] := by
  refine ⟨?_, ?_, ?_, ?_, ?_, ?_, ?_, ?_, ?_, host_waits, host_sends, rfl, rfl, ?_, rfl, ?_⟩ <;> decide

/-- The commands of sessions 0 and 1 begin at once. -/
theorem host_serves (c : HostCmd) : Serves ⟨0, 3⟩ c host :=
  ⟨by decide, host_sends, by decide, host_waits, rfl, rfl, by simp [waitsSteward, host], fun _ => by decide, fun _ => by decide⟩

theorem host_serves_one (c : HostCmd) : Serves ⟨1, 3⟩ c host :=
  ⟨by decide, ⟨by decide, by decide, by decide, by decide, by decide, rfl⟩, by decide, host_waits, rfl, rfl,
    by simp [waitsSteward, host], fun _ => by decide, fun _ => by decide⟩

/-- A channel in state `m`. -/
def boxed (c : Nat) (m : Mbox) : State := { host with mbox := [(c, m)] }

/-- O42: channel 0, which session 0 may send on and the Steward empties; full and empty; compatibility on channel 28; bells 24 to 27,
which the Steward rings; a held compatibility write. -/
theorem witness_MailboxesDeliver : isCompat 0 host = false ∧ maySend 0 0 host = true ∧ mbxPowered 0 host = true ∧
    maySend 0 1 host = false ∧ mbxPowered 0 State.reset = false ∧ mbxReceiver 0 ≠ 5 ∧ isReceiver 0 0x2000 host = true ∧
    (mbxAt 0 host).full = false ∧ (mbxAt 0 (boxed 0 { Mbox.zero with full := true })).full = true ∧
    (mbxAt 28 (boxed 28 { Mbox.zero with compat := true })).compat = true ∧ hasRight 3 0 host = true ∧
    isCompat 28 (boxed 28 { Mbox.zero with compat := true }) = true ∧ mbxPowered 28 host = true ∧
    (mbxAt 28 (boxed 28 { Mbox.zero with lock := true })).lock = true ∧ isSteward 0x2000 = true ∧ partnerPkg (rackPkg host 1) ≠ 0 ∧
    rackPkg host 0 = pkgId host ∧ route (rackPkg host 1) host = none ∧ isBellReceiver 0 0x2000 host = true ∧
    isBellReceiver 4 oRack host = true ∧ vsramOn host = true ∧
    ({ host with compatHeld := [⟨0, BitVec.ofNat 24 (aMbx 28 8), 5⟩] } : State).compatHeld = [⟨0, BitVec.ofNat 24 (aMbx 28 (4 * 2)), 5⟩] := by
  refine ⟨?_, ?_, ?_, ?_, ?_, ?_, ?_, ?_, ?_, ?_, ?_, ?_, ?_, ?_, ?_, ?_, ?_, ?_, ?_, ?_, ?_, ?_⟩ <;> decide

/-- O42: a write held for room in the change log, and its target. -/
theorem witness_HeldWrites : (writeNow 0 0x100018 5 host).1 = .ok 0 ∧ (writeNow 0 0x100018 5 host).2.clears = [] := by
  refine ⟨?_, ?_⟩ <;> decide

/-! ### Witnesses: links, time, fault stops (O43 to O47) -/

/-- Link 1 is in state `st` with `l`; the package has its identifier and a job with package 0 and the one across link 1. -/
def linked (st : BitVec 32) (l : Link) : State := { host with
  regs := [(0x200004, 1), (0x200100, 1), (0x210404, st)], link := [(1, l)], pkgSet := true, part := [(0, ⟨some 4, 0, 0, (0, 0)⟩)],
  jobs := [⟨4, [0, (expected 1 host).1], false, 0, [(expected 1 host).1], []⟩] }

/-- O43: a link is in each state that an event starts from, with both lanes; the far end that IDENT expects and another; the limits
of time; a job across the link. -/
theorem witness_LinkStates : let l : Link := { Link.zero with lanes := 3, leftAt := some 0 }
    (∀ st : Nat, st < 10 → linkSt 1 (linked (BitVec.ofNat 32 st) l) = st) ∧ lanesEn 1 (linked 0 l) = 3 ∧
    pkgKnown (linked 0 l) = true ∧ linkUnused 1 (linked 0 l) = false ∧ isCard (linked 5 l) = false ∧
    expected 1 (linked 5 l) = (2, 0) ∧ ((5 : PkgId), 0) ≠ expected 1 (linked 5 l) ∧
    linkLimit 3 = some (20000, 3) ∧ l.since + 20000 ≤ ({ linked 3 l with tick := 20000 } : State).tick ∧ linkLimit 7 = none ∧
    linkUsable 1 (linked 6 l) = true ∧ l.lanes.getLsbD 1 = true ∧ l.declared = false ∧ memberAcross 1 (linked 6 l) = true ∧
    memberAcross 1 host = false ∧ isMember (farPkg 1 (linked 6 l)) ⟨4, [0, 2], false, 0, [], []⟩ = true ∧
    jobRunning 4 (linked 6 l) = true ∧ logRoom (linked 6 l) = true ∧ hasRight 2 0 (linked 6 l) = true ∧
    regIs (aLnk 1 0) 0 (linked 6 l) = true ∧ lanesEn 1 (linked 6 l) &&& l.lanes ≠ 0 ∧ l.leftAt = some 0 ∧
    l.queue = [] ∧ l.replay = [] ∧ l.held = [] ∧ BitVec.ofNat 2 ((1 : BitVec 32).toNat / 4) &&& l.lanes = 0 ∧
    (2 : BitVec 2) &&& ({ l with lanes := 1 } : Link).lanes &&& 3 = 0 ∧
    (regWriteOp 0 (aLnk 1 0) 0 (linked 6 l)).1 = .refused := by
  refine ⟨?_, ?_, ?_, ?_, ?_, ?_, ?_, ?_, ?_, ?_, ?_, ?_, ?_, ?_, ?_, ?_, ?_, ?_, ?_, ?_, ?_, ?_, ?_, ?_, ?_, ?_, ?_, ?_⟩ <;> decide

/-- O42: a message of a Steward for another package, to which a link leads and to which none does. -/
theorem witness_RemotePosts : let s := linked 6 { Link.zero with lanes := 3 }
    maySend 24 0x2000 s = true ∧ mbxPowered 24 s = true ∧ isCompat 24 s = false ∧ (0x80010000 : BitVec 32).getLsbD 30 = false ∧
    (0x80020000 : BitVec 32).toNat / 2 ^ 16 % 128 = 2 ∧ rackPkg s 2 ≠ pkgId s ∧ route (rackPkg s 2) s ≠ none ∧
    route (rackPkg s 1) s = none ∧ mbxPowered 24 { s with rails := RailsSt.zero } = false ∧
    (mbxAt 24 { s with mbox := [(24, { Mbox.zero with full := true })] }).full = true := by
  refine ⟨?_, ?_, ?_, ?_, ?_, ?_, ?_, ?_, ?_, ?_⟩ <;> decide

/-- O44: the transaction register of link 1 is free, or busy; a write to the own bytes and one elsewhere; module flags. -/
theorem witness_CableManagement : regIs (aLnk 1 0x40) 31 host = false ∧
    regIs (aLnk 1 0x40) 31 { host with regs := [(0x210440, 0x80000000)] } = true ∧
    (0x40001A00 : BitVec 32).getLsbD 30 = true ∧ (0x40001A00 : BitVec 32).toNat / 2 ^ 8 % 256 = 26 ∧
    (0x1A00 : BitVec 32).getLsbD 30 = false ∧ linkSt 1 (linked 6 Link.zero) = lsActive ∧
    (let l : Link := { Link.zero with present := true, polledAt := some 0 }
     (linkAt 1 { linked 6 l with tick := 1000 }).present = true ∧ l.polledAt = some 0 ∧ 0 + 1000 ≤ ({ linked 6 l with tick := 1000 } : State).tick ∧
      ¬ 0 + 1000 ≤ ({ linked 6 l with tick := 999 } : State).tick ∧ linkSt 1 { linked 6 l with tick := 1000 } ≠ lsDetect) ∧
    (∃ b ∈ ([0, 0, 4, 0, 0, 0] : List Byte), b ≠ 0) ∧ (∀ b ∈ ([0, 0, 0, 0, 0, 0] : List Byte), b = 0) := by
  refine ⟨?_, ?_, ?_, ?_, ?_, ?_, ⟨?_, ?_, ?_, ?_, ?_⟩, ?_, ?_⟩ <;> decide

/-- A packet for this package, one to be forwarded, and a datagram of the hall. -/
def frame (dst : PkgId) : LinkFrame := ⟨0, 0, false, true, 0, 4, dst, some (.faultStop 4), 0, 0⟩
def datagram (seq : BitVec 32) : Datagram := ⟨1, 6, 0, 0, 0xFFFF, 0, seq, 0, true, 32, 0x100, some (.faultStop 4), none, []⟩

/-- A frame of the longest length with `k` above its MAC header. -/
def ethFrame (k : EthKind) : EthFrame := ⟨true, 9216, 0, k, 1, 0⟩

/-- O45: a clean packet in turn, an older one and one ahead; a replay buffer; a held CL0 packet; the port enabled and down; a datagram
of the hall in and out of its turn, to this package and to another address; flow control on and off. -/
theorem witness_PacketsInSequence : let s := linked 6 { Link.zero with lanes := 3 }
    linkUsable 1 s = true ∧ (frame 0).good = true ∧ (frame 0).seq = (linkAt 1 s).rxSeq ∧ (frame 0).dst = pkgId s ∧
    (frame 8).dst ≠ pkgId s ∧ (linkAt 1 s).queue = [] ∧ (linkAt 1 s).replay = [] ∧ 2 ^ 15 ≤ ((0xFFFF : BitVec 16) - 0).toNat ∧
    ((1 : BitVec 16) - 0).toNat < 2 ^ 15 ∧ [frame 8].filter (fun p => decide ((p.seq - 0).toNat < 2 ^ 15)) ≠ [] ∧
    mapGet 0 Link.zero.used (srcIx .fault) + 64 ≤ 1024 ∧ isCard s = false ∧ pkgKnown s = true ∧ regIs 0x200000 0 { s with regs := [(0x200000, 0)] } = false ∧
    regIs 0x200000 0 s = true ∧ regIs 0x200004 0 { s with regs := [(0x200004, 1)] } = true ∧
    hallOpOut host = false ∧ hallOpOut { host with rops := [{ op0 with dest := 0x100 }] } = true ∧ datagramOk (datagram 0) = true ∧
    (datagram 0).seq = (chanOf (.peer 0x100) host).rxSeq ∧ (datagram 1).seq ≠ (chanOf (.peer 0x100) host).rxSeq ∧
    (chanOf (.peer 0x100) host).queued = [] ∧ (frame 0).fecUncorr = 0 ∧ (frame 0).nack = false ∧ (0 : Nat) < 8 ∧
    1024 < mapGet 0 ({ Link.zero with used := [(srcIx .fault, 961)] } : Link).used (srcIx .fault) + 64 ∧
    (0xFF : BitVec 8) &&& 0x0F = 0x0F ∧ (ethFrame .ptp).len ≤ 9216 ∧ (ethFrame .ptp).vid = 0 ∧
    regIs 0x200000 8 { s with regs := [(0x200000, 0x100)] } = true ∧ regIs 0x200000 8 { s with regs := [(0x200000, 1)] } = false ∧
    (0x4791 : BitVec 16).toNat ≠ regF 0x200100 31 16 host ∧
    (BitVec.ofNat 16 (regF 0x200100 31 16 host)).toNat = regF 0x200100 31 16 host ∧ htOn host = true ∧ host.eth.queue = [] := by
  refine ⟨?_, ?_, ?_, ?_, ?_, ?_, ?_, ?_, ?_, ?_, ?_, ?_, ?_, ?_, ?_, ?_, ?_, ?_, ?_, ?_, ?_, ?_, ?_, ?_, ?_, ?_, ?_, ?_, ?_, ?_, ?_,
    ?_, ?_, ?_, ?_⟩ <;> first | decide | decide +kernel

/-- O45: the link-local address is this package's whatever its MAC address is, and address 1 is not. -/
theorem witness_OwnAddress : ownAddr linkLocal host = true ∧ ownAddr 1 host = false := by
  have hk : pkgKnown host = false := by decide
  refine ⟨by simp [ownAddr], ?_⟩
  have one : (1 : BitVec 128).toNat = 1 := by decide
  have key : ∀ x m : Nat, (1 : BitVec 128) ≠ BitVec.ofNat 128 (0xFE80 * 2 ^ 112 + x * 2 ^ 40 + 0xFFFE * 2 ^ 24 + m % 2 ^ 24) := by
    intro x m h
    have h1 := congrArg BitVec.toNat h
    rw [one, BitVec.toNat_ofNat] at h1
    omega
  have h : (1 : BitVec 128) ≠ linkLocal := key (Config.macAddress.toNat / 2 ^ 24 ^^^ 0x20000) Config.macAddress.toNat
  simp only [ownAddr, hk, Bool.false_and, Bool.or_false]
  exact beq_eq_false_iff_ne.mpr h

/-- A package with its identifier, PTP enabled, the port up, locked once, in the state `st` with source 3. -/
def timed (st : BitVec 32) (y : Sync) : State := { host with
  regs := [(0x20008, 0x30 + st), (0x2000C, 0x3201), (0x200004, 1), (0x200100, 1)], pkgSet := true, sync := y }

/-- A grandmaster, and its messages. -/
def master : PtpMaster := ⟨128, 6, 0x20, 0, 128, 9, 0, 77⟩
def ptpMsg (b : PtpBody) : PtpMsg := ⟨0, false, 77, 5, 0, 0, b⟩

/-- O46: a leader takes the time of its grandmaster, a package that has heard the leader that of the leader, with an exchange that is due
and one that is not, or passes it over; a source that is lost; a holdover within and past its limit; an offset in bound for 1,024 beats; a
pending step while no job runs. -/
theorem witness_TimeFollowsItsSource :
    let p : PtpSt := { PtpSt.zero with masters := [master], sync := some (5, 0, 0), req := some (5, 0), delay := some 3 }
    let y : Sync := { Sync.zero with
      firstLock := true, lastSync := some 0, inBound := some 0, holdSince := some 0, pendingStep := some 9, said := some (0, true), ptp := p }
    let z : Sync := { y with said := none, heard := [(0, 0, true)], following := some (0, 1), exch := some (0, 0, 0), delay := [(0, some 2)] }
    let far (z : Sync) : State := { timed 2 z with place := 1, regs := [(0x2000C, 0x3201), (0x210004, 6), (0x210008, 0)], rackUp := [(0, 1)] }
    (takesPtp (timed 2 y) = true ∧ ptpDomain (timed 2 y) = 0 ∧ regIs 0x200004 0 (timed 2 y) = true ∧
      regIs 0x200020 0 (timed 2 y) = false ∧ (bestMaster (timed 2 y)).map (·.port) = some 77 ∧
      (∀ b, (ptpMsg b).eth = false ∧ (ptpMsg b).port = 77 ∧ (ptpMsg b).domain = 0) ∧ master.port = 77 ∧
      p.req = some (5, 0) ∧ p.sync = some (5, 0, 0)) ∧
    (fld (reg 0x20008 (timed 2 y)) 7 4 = 3 ∧ syncState (timed 2 y) = 2 ∧ linkSource (timed 2 y) = none) ∧
    (linkSource (far z) = some (0, 1) ∧ pathTo 0 1 (far z) = some (linkTo (rackIndex 4) 0) ∧ (0 : PkgId) ∉ z.passed ∧
      takesPtp (far z) = false ∧ linkSource (far { z with passed := [0] }) ≠ some (0, 1) ∧
      pathTo 0 1 (far { z with passed := [0] }) = some (linkTo (rackIndex 4) 0) ∧ z.following = some (0, 1) ∧
      0 + 192 ≤ ({ far z with tick := 192 } : State).tick ∧ ¬ 0 + 192 ≤ ({ far z with tick := 191 } : State).tick ∧
      0 + 1024 ≤ ({ far z with tick := 1024 } : State).tick ∧ sameRack 0 (pkgId (far z)) = true ∧ (0 : PkgId) ≠ pkgId (far z)) ∧
    (syncState (timed 3 y) = 3 ∧ regF 0x2000C 15 8 (timed 3 y) * 100000 = 5000000 ∧
      0 + 1024 ≤ ({ timed 3 y with tick := 1024 } : State).tick ∧ 5000000 < ({ timed 3 y with tick := 5000001 } : State).tick) ∧
    regIs 0x20008 15 (timed 3 y) = false ∧ regIs 0x20008 15 (timed 0x8003 y) = true ∧ anyRunning (timed 3 y) = false ∧
    (timed 3 y).frac = 0 ∧ anyRunning (linked 6 Link.zero) = true ∧ mayClear 0 (timed 3 y) = true ∧ (timed 3 y).beat.toNat % 64 = 0 ∧
    isCard (timed 3 y) = false ∧ pkgKnown (timed 3 y) = true := by
  refine ⟨⟨?_, ?_, ?_, ?_, ?_, fun b => ⟨rfl, rfl, rfl⟩, ?_, ?_, ?_⟩, ⟨?_, ?_, ?_⟩, ⟨?_, ?_, ?_, ?_, ?_, ?_, ?_, ?_, ?_, ?_, ?_, ?_⟩,
    ⟨?_, ?_, ?_, ?_⟩, ?_, ?_, ?_, ?_, ?_, ?_, ?_, ?_, ?_⟩ <;> decide

/-- O47: a job that runs, one that is stopped, one that this package does not know; a VAUX warning in force. -/
theorem witness_FaultsStopJobs : let s := linked 6 Link.zero
    (jobAt 4 s).map (·.stopped) = some false ∧ jobRunning 4 s = true ∧ jobAt 5 s = none ∧ jobRunning 5 s = false ∧
    (jobAt 4 { s with jobs := [⟨4, [0, 2], true, 0, [2], []⟩] }).map (·.stopped) = some true ∧
    (jobAt 4 s).map (fun x => (decide (2 ∈ x.members), decide (3 ∈ x.members))) = some (true, false) ∧ isCard s = false ∧
    samePair 0x100 (pkgId s) = false ∧ NothingWaits s ∧
    ({ s.rst with vauxWarn := true } : Rst).vauxWarn = true ∧ (0x04 : BitVec 8).getLsbD 2 = true := by
  refine ⟨?_, ?_, ?_, ?_, ?_, ?_, ?_, ?_, ⟨?_, rfl, rfl⟩, ?_, ?_⟩ <;> decide

/-! ### Witnesses: the host transport and its commands (O48 to O50) -/

/-- A datagram sent at tick 0 whose retries are `r`. -/
def sent (r : Nat) : TxDg := ⟨0, r, 0, .openAck 0⟩

/-- Session 1 from address 0 and port 0 with one datagram out. -/
def waiting (r : Nat) (tick : Nat) : State := { host with
  session := [(1, { Session.closed with isOpen := true, chan := ⟨1, 0, 16, 0, [sent r], []⟩ })], tick := tick }

/-- O48: the management address and another, an origin that is a session's, an acknowledgement that covers the datagram and lets the
queued one go, a datagram that is due for the first and for the ninth time, a peer's. -/
theorem witness_SessionTransport : (reg 0x20011C host ++ reg 0x200118 host ++ reg 0x200114 host ++ reg 0x200110 host : BitVec 128) = 0 ∧
    regIs 0x200100 0 host = true ∧ (sesAt 1 (waiting 0 5)).isOpen = true ∧ (sesAt 1 (waiting 0 5)).addr = 0 ∧
    (sesAt 1 (waiting 0 5)).port = 0 ∧ (sesAt 1 (waiting 0 5)).chan.queued = [] ∧
    (sesAt 1 (waiting 0 5)).chan.unacked.filter (fun d => decide (2 ^ 31 ≤ ((1 : BitVec 32) - d.seq).toNat)) = [] ∧
    (sesAt 1 (waiting 0 5)).chan.unacked ≠ [] ∧ (chanOf (.session 1) (waiting 0 1000)).unacked = sent 0 :: [] ∧
    (sent 0).sentAt + min 64000 (1000 * 2 ^ (sent 0).retries) ≤ (waiting 0 1000).tick ∧
    (sent 8).sentAt + min 64000 (1000 * 2 ^ (sent 8).retries) ≤ (waiting 8 64000).tick ∧ 8 ≤ (sent 8).retries ∧
    (chanOf (.session 2) (waiting 0 0)).unacked = [] ∧
    (chanOf (.peer 9) { host with peer := [(9, ⟨1, 0, 16, 0, [sent 8], []⟩)] }).unacked = sent 8 :: [] ∧
    host.session.any (fun e => e.2.isOpen && decide (e.1 ≠ 0)) = true ∧
    (waiting 0 0).session.any (fun e => e.2.isOpen && decide (e.1 ≠ 1)) = false := by
  refine ⟨?_, ?_, ?_, ?_, ?_, ?_, ?_, ?_, ?_, ?_, ?_, ?_, ?_, ?_, ?_, ?_⟩ <;> decide

/-- O49: `host_serves` and `host_serves_one` begin every command. A session to open and one to close, a card without an identifier,
tiles that are free, foreign and being cleared. -/
theorem witness_SessionsAndTiles : (sesAt 5 host).isOpen = false ∧ (sesAt 1 host).isOpen = true ∧ isCard host = false ∧
    isCard { host with rst := { host.rst with straps := ⟨1, 0, 0, 0, 0⟩ } } = true ∧ host.cardId = none ∧
    memInitDone { host with regs := [(0x3000C0, 1)] } = true ∧ memInitDone host = false ∧
    clearing 0 { host with regs := [(0x300040, 1), (0x3000C0, 1)] } = true ∧ (tileAt 0 host).assigned = true ∧
    (tileAt 0 host).part ≠ 1 ∧ (tileAt 1 host).assigned = false ∧ queuesRunning 1 host = [] := by
  refine ⟨?_, ?_, ?_, ?_, ?_, ?_, ?_, ?_, ?_, ?_, ?_, ?_⟩ <;> first | decide | decide +kernel

/-- A package whose memories are ready, which serves session 0, and a card without an identifier, which serves SET_PACKAGE_ID. -/
theorem ready_serves (c : HostCmd) : Serves ⟨0, 3⟩ c { host with regs := [(0x200004, 1), (0x200100, 1), (0x3000C0, 1)] } :=
  ⟨by decide, ⟨by decide, by decide, by decide, by decide, by decide, rfl⟩, by decide, ⟨by decide, rfl, rfl⟩, rfl, rfl,
    by simp [waitsSteward, host], fun _ => by decide, fun _ => by decide⟩

theorem card_serves (id : PkgId) : Serves ⟨0, 3⟩ (.setPackageId id)
    { host with rst := { host.rst with straps := ⟨1, 0, 0, 0, 0⟩ } } :=
  ⟨by decide, ⟨by decide, by decide, by decide, by decide, by decide, rfl⟩, by decide, ⟨by decide, rfl, rfl⟩, rfl, rfl,
    rfl, fun _ => by decide, fun _ => by decide⟩

/-- O49: queue 0 of partition 0 takes the kernel of tile 0; a bound queue, an unbound one and one of another partition. -/
theorem witness_QueuesAndLaunch : (sesAt 0 host).part = some 0 ∧ (sesAt 1 host).part ≠ some 0 ∧ (queueAt 0 host).part = none ∧
    (queueAt 0 posted).part = some 0 ∧ (queueAt 0 posted).posted.length < 16 ∧ (queueAt 0 posted).posted ≠ [] ∧
    (queueAt 0 { host with queue := [(0, ⟨some 1, [], none, 0⟩)] }).part = some 1 ∧ kernel0.d.flags.toNat < 2 ∧
    kernel0.d.imageOff.toNat % 64 = 0 ∧ kernel0.d.imageLen.toNat = 2 ∧ kernel0.d.queue = 0 ∧ feedRefused posted = false ∧
    (tileAt 0 posted).assigned = true ∧ (tileAt 0 posted).part = 0 ∧ (tileAt 0 posted).fault.valid = false ∧
    jobOfPart 0 posted = none ∧ jobOfPart 0 (linked 6 Link.zero) = some 4 ∧
    jobStopped 4 { linked 6 Link.zero with jobs := [⟨4, [0, 2], true, 0, [2], []⟩] } = true := by
  refine ⟨?_, ?_, ?_, ?_, ?_, ?_, ?_, ?_, ?_, ?_, ?_, ?_, ?_, ?_, ?_, ?_, ?_, ?_⟩ <;> decide

/-- O49, O50: the tiles of a map of tile 0 alone. -/
theorem witness_TileMap (u : TileId) : (1 : BitVec 1024).getLsbD u.toNat = true → u.toNat = 0 := by
  intro h
  have h1 := BitVec.lt_of_getLsbD h
  rw [show (1 : BitVec 1024) = 1#1024 from rfl, BitVec.getLsbD_one] at h
  simpa using h

/-- A stopped job of this package and package 2, and one of this package alone. -/
def stoppedJob (members : List PkgId) : State := { host with
  part := [(0, ⟨some 4, 0, 0, (0, 0)⟩)], jobs := [⟨4, members, true, 0, [], []⟩] }

/-- O50: a job to create, one that runs, stopped ones to clear and their answers; barrier group 15; a palette entry within and past its
range; a transfer of 8,176 bytes in one window; registers; attestation; channel 0. -/
theorem witness_JobAndMemoryCommands : (4 : BitVec 16) ≠ 0xFFFF ∧ pkgId host ∈ [(0 : PkgId), 2] ∧ jobOfPart 0 host = none ∧
    jobAt 4 host = none ∧ jobOfPart 0 (stoppedJob [0, 2]) = some 4 ∧ (jobAt 4 (stoppedJob [0, 2])).isSome = true ∧
    [(0 : PkgId), 2].filter (fun m => decide (m ≠ pkgId (stoppedJob [0, 2]))) = [2] ∧ pkgId (stoppedJob [0]) = 0 ∧
    jobStopped 4 (linked 6 Link.zero) = false ∧ queuesOf 0 posted = [0] ∧ (queueAt 0 drains).running ≠ none ∧
    (15 : BitVec 8).toNat < 16 ∧ (tileAt 0 (barred [0] [])).wait = .drainBarrier 0 ∧ (0xFFFF : BitVec 32).toNat ≤ 0xFFFF ∧
    0xFFFF < (0x10000 : BitVec 32).toNat ∧ (sesAt 1 host).part = none ∧ (0xE000 : BitVec 64).toNat % 2 ^ 16 + 8176 ≤ 2 ^ 16 ∧
    BitVec.ofNat 16 ((0xE000 : BitVec 64).toNat / 2 ^ 37) = pkgId host ∧ mapWf Session.closed host.session = true ∧
    (sesAt 0 host).rights.getLsbD 0 = true ∧ (sesAt 1 host).rights.getLsbD 0 = false ∧ attPending host < 8 ∧
    8 ≤ attPending { host with att := { host.att with queue := List.replicate 8 (.command 0 0 0) } } ∧ maySend 0 0 host = true := by
  refine ⟨?_, ?_, ?_, ?_, ?_, ?_, ?_, ?_, ?_, ?_, ?_, ?_, ?_, ?_, ?_, ?_, ?_, ?_, ?_, ?_, ?_, ?_, ?_, ?_⟩ <;> decide +kernel

/-- O50: JOB_CLEAR_STOP waits for package 2, and its time is not over at tick 9,999. -/
theorem witness_JobClearStop : let c : ClearStop := ⟨0, 0, none, 3, 4, 0, [2]⟩
    let s : State := { stoppedJob [0, 2] with clears := [c] }
    (jobAt 4 s).isSome = true ∧ c.job = 4 ∧ c.tag = 3 ∧ s.clears = [c] ∧ (∀ e ∈ s.session, e.2.waiting = []) ∧ s.orphans = [] ∧
    c.waiting = [2] ∧ CanSend c.ses.toNat s ∧ (jobAt 4 s).map (fun x => (decide (2 ∈ x.members), decide (3 ∈ x.members))) = some (true, false) ∧
    c.since + 10000 ≤ ({ s with tick := 10000 } : State).tick ∧ ({ s with tick := 9999 } : State).tick < c.since + 10000 := by
  refine ⟨?_, ?_, ?_, ?_, ?_, ?_, ?_, ⟨?_, ?_, ?_, ?_, ?_, ?_⟩, ?_, ?_, ?_⟩ <;> first | decide | decide +kernel

/-- O50: barrier group 0 of partition 0 takes tile 0 for two members of the job; memory and registers within and at their limits. -/
theorem witness_CommandLimits : pkgId (stoppedJob [0, 2]) ∈ [(0 : PkgId), 2] ∧ (tileAt 0 (stoppedJob [0, 2])).assigned = true ∧
    (tileAt 0 (stoppedJob [0, 2])).part = 0 ∧ jobStopped 4 (stoppedJob [0, 2]) = true ∧
    (stoppedJob [0]).jobs.map (fun x => x.members.filter (fun m => decide (m ≠ 0))) = [[]] ∧ (64 : Nat) ≤ 64 ∧ 8176 ≤ 8176 ∧
    (0x300000 : BitVec 32).toNat % 4 = 0 ∧ 2 ^ 24 ≤ (0x1000000 : BitVec 32).toNat ∧ (7 : BitVec 8).toNat < 8 ∧
    (511 : BitVec 16).toNat < 512 ∧ mbxReceiver 0 ≠ 5 ∧ (mbxAt 0 host).full = false ∧ 32 ≤ (32 : BitVec 8).toNat := by
  refine ⟨?_, ?_, ?_, ?_, ?_, ?_, ?_, ?_, ?_, ?_, ?_, ?_, ?_, ?_⟩ <;> first | decide | decide +kernel

/-! ### Witnesses: the Governor, the beat, the loop engine, the rails (O51 to O55) -/

/-- GOV.STATUS is `gs` and the Governor `g` at tick `n`; HB_EN, PACK_EN and WASH are set. -/
def governed (gs : BitVec 32) (g : Gov) (n : Nat) : State := { host with
  regs := [(0x100004, gs), (0x200100, 1)], gov := g, tick := n, loop := { Loop.reset with latched := [(0, 0xE)] } }

/-- The same as a companion in a slot. -/
def companion (slot : BitVec 2) (g : Gov) : State := { governed 0 g 0 with rst := { host.rst with straps := ⟨2, 0, slot, 0, 0⟩ } }

/-- O51: the times of a trip, of a coolant loss, of a burst and of a heartbeat, at the beat before each is over and at that beat. -/
theorem witness_GovernorTimes : let g := { State.reset.gov with tripAt := some 0, flowLostAt := some 0, burst := some (0, 5), hbAt := 0 }
    g.tripAt = some 0 ∧ g.flowLostAt = some 0 ∧ g.flowOff = false ∧ 9999 < 0 + 10000 ∧ (1839 : Int) < 1840 ∧ (1840 : Int) ≤ 1840 ∧
    (∀ b run, g.burst = some (b, run) → b + 1024 ≤ (governed 0 g 1024).tick) ∧ (g.lam < 11 ∨ 11 ≤ g.lam) ∧
    0 + 100000 ≤ (governed 0 g 100000).tick ∧ hbEn (governed 0 g 100000) = true ∧ 0 + 10100000 ≤ (governed 8 g 10100000).tick ∧
    ({ g with levelMiss := 3 } : Gov).levelMiss = 3 ∧ ({ g with upReady := true } : Gov).upReady = true ∧
    ({ g with flowGood := 1000 } : Gov).flowGood = 1000 ∧ g.pack.epoch.toNat ≤ (0 : BitVec 32).toNat ∧ (0x1001 : Origin) ≠ 0x1000 ∧
    (governed 8 g 0).changes.intake.length < 64 := by
  refine ⟨?_, ?_, ?_, ?_, ?_, ?_, fun b run h => by cases h; decide, ?_, ?_, ?_, ?_, ?_, ?_, ?_, ?_, ?_, ?_⟩ <;> decide

/-- O51: halts that end, alone and with another; bursts; the clock; a companion's two slots; temperatures about the trip; heartbeats that
are missed; pack answers; the bus; coolant that is lost, switched off and back. -/
theorem witness_GovernorSupervision : let g := State.reset.gov
    ({ g with halt := 1 } : Gov).halt.getLsbD 0 = true ∧ ((1 : BitVec 8) &&& ~~~(1 : BitVec 8)) = 0 ∧
    ((5 : BitVec 8) &&& ~~~(1 : BitVec 8)) ≠ 0 ∧ ({ g with lam := 10 } : Gov).lam < 11 ∧ ¬ ({ g with lam := 11 } : Gov).lam < 11 ∧
    ({ g with lam := 0 } : Gov).lam = 0 ∧ 16 ≤ ({ g with lowBeats := 16 } : Gov).lowBeats ∧ g.lowBeats < 16 ∧
    isCompanion (companion 0 g) = true ∧ isSlot1 (companion 0 g) = false ∧ isSlot1 (companion 1 g) = true ∧ isCompanion host = false ∧
    regIs 0x100004 8 (governed 0x100 g 0) = true ∧ regIs 0x100004 8 (governed 0 g 0) = false ∧ g.tripAt = none ∧
    g.hot < (palF 3 7 0 (governed 0x100 g 0) * 16 : Nat) ∧ hbEn (governed 0 g 0) = true ∧ regIs 0x100004 3 (governed 8 g 0) = true ∧
    regIs 0x100004 4 (governed 8 g 0) = false ∧
    fld (palFix 7 (governed 8 g 0)) 31 16 * min 100 (fld (palFix 7 (governed 8 g 0)) 6 0) * 10 <
      ({ g with shareMw := 3000000 } : Gov).shareMw ∧
    packEn (governed 0 g 0) = true ∧ packEn (companion 0 g) = false ∧ isModule (governed 0x20 g 0) = true ∧
    regIs 0x100004 5 (governed 0x20 g 0) = true ∧ regIs 0x100004 9 (governed 0x200 g 0) = true := by
  refine ⟨?_, ?_, ?_, ?_, ?_, ?_, ?_, ?_, ?_, ?_, ?_, ?_, ?_, ?_, ?_, ?_, ?_, ?_, ?_, ?_, ?_, ?_, ?_, ?_, ?_⟩ <;> decide

/-- VCORE regulates at 800 mV (51,200/64 mV) with target 51,201 and the others are off. -/
def railed (x : Rail) : State := { host with rails := { RailsSt.zero with rail := [(0, x)], phActive := 0xFFFFFFFFFFFF } }
def vcore : Rail := { Rail.zero with st := 2, ref := 51200, tgt := 51201 }

/-- Inputs with VCORE at `v`, and the others at 0. -/
def sensed (v : Int) : StrokeInputs := ⟨⟨v, 0, 0, 0⟩, 1200, [9]⟩

/-- O52: a stroke within the limits, one above the absolute limit, and one below the undervoltage limit for the eighth time. -/
theorem witness_BeatsAndStrokes : (railAt 0 (railed vcore)).st = 2 ∧ vcore.reqBurst = false ∧ vcore.asleep = false ∧
    (∀ q : Nat, q < 4 → q ≠ 0 → (railAt q (railed vcore)).st = 0 ∧ railsGet (sensed 51200).v q ≤ absOv q) ∧
    (51201 : Int) - uvOf 0 (railed vcore) ≤ 51200 ∧ (51200 : Int) ≤ 51201 + ovOf 0 (railed vcore) ∧ (51200 : Int) ≤ absOv 0 ∧
    absOv 0 < 60801 ∧ (40000 : Int) < 51201 - uvOf 0 (railed vcore) ∧ 7 ≤ ({ vcore with uv := 7 } : Rail).uv ∧
    (∃ t ∈ ([1681] : List Int), 1680 < t) ∧ (romUpTo 7 (railed vcore)).rails = (railed vcore).rails ∧
    isSlot1 (railed vcore) = false ∧ (railed vcore).frac.toNat ≤ 512 * (0 : BitVec 3).toNat ∧
    512 * (7 : BitVec 3).toNat < ({ railed vcore with frac := 3585 } : State).frac.toNat ∧ (railed vcore).passed = [] := by
  refine ⟨?_, ?_, ?_, ?_, ?_, ?_, ?_, ?_, ?_, ?_, ?_, ?_, ?_, ?_, ?_, ?_⟩ <;> decide

/-- The loop word of an operation and its fields, by R306's layout: OP [63:58], D [57:49], A [48:40], B [39:31], C [30:22], K [21:11] and
F [10:0]. -/
def loopWord (op : Nat) (i : LoopIns) : BitVec 64 := BitVec.ofNat 64 (op * 2 ^ 58 + i.d.toNat * 2 ^ 49 + i.a.toNat * 2 ^ 40 +
  i.b.toNat * 2 ^ 31 + i.c.toNat * 2 ^ 22 + i.k.toNat * 2 ^ 11 + i.f.toNat)

/-- Bank A runs, with this word at its PC and one after it. -/
def banked (op : Nat) (i : LoopIns) : State := { host with
  loop := { Loop.reset with running := true, source := 1, len := 2, bankA := [(0, loopWord op i)] } }

/-- O53: every operation with every field is spelt by a word at the PC of a run that goes on. -/
theorem witness_LoopWords (op : Nat) (i : LoopIns) (h : op < 64) : activeBad (banked op i) = false ∧
    loopFields (activeWord (banked op i)).toNat = (op, i) ∧ (banked op i).loop.running = true ∧ (banked op i).loop.source ≠ 0 ∧
    (∀ k : Nat, palBad k (banked op i) = false) := by
  refine ⟨rfl, ?_, rfl, by show (1 : BitVec 2) ≠ 0; decide, fun _ => rfl⟩
  show loopFields (loopWord op i).toNat = (op, i)
  obtain ⟨d, a, b, c, k, f⟩ := i
  have := d.isLt; have := a.isLt; have := b.isLt; have := c.isLt; have := k.isLt; have := f.isLt
  simp only [loopFields, loopWord, bitsN, BitVec.toNat_ofNat, Prod.mk.injEq, LoopIns.mk.injEq, ← BitVec.toNat_inj]
  refine ⟨?_, ?_, ?_, ?_, ?_, ?_, ?_⟩ <;> omega

/-- O53: a run of two instructions at its first and at its last, with room for the dearest operation and with none; variables, ports and
a NaN; a word and a palette entry that are uncorrectable. -/
theorem witness_LoopOperations : let l : Loop := { Loop.reset with running := true, len := 2 }
    l.running = true ∧ l.cycles + 4 ≤ 910 ∧ ¬ ({ l with cycles := 907 } : Loop).cycles + 4 ≤ 910 ∧ l.pc + 1 < l.len ∧
    l.len ≤ ({ l with pc := 1 } : Loop).pc + 1 ∧ (0xFF : Nat) < 0x100 ∧ portAssigned 0x143 = true ∧ portAssigned 0x120 = true ∧
    isNan 0x7FC00000 = true ∧ isNan 0x3F800000 = false ∧ (1024 : BitVec 11).toNat / 512 = 2 ∧ (511 : BitVec 11).toNat / 512 = 0 ∧
    (512 : BitVec 11).toNat / 512 = 1 ∧
    feq 0x3F800000 (fmax (palAct 1 host) 0x3F800000) = true ∧ feq 0x40000000 (fmax (palAct 1 host) 0x3F800000) = false ∧
    activeBad { host with loop := { l with source := 1, wordErr := [0] } } = true ∧
    palBad 1 { host with loop := { l with palErr := [palKey false 1] } } = true := by
  refine ⟨?_, ?_, ?_, ?_, ?_, ?_, ?_, ?_, ?_, ?_, ?_, ?_, ?_, ?_, ?_, ?_, ?_⟩ <;> decide

/-- O54: the ROM takes over; commits that have lapsed and that have not; a stage that is open and its time; direct writes; palette entries
with and without a register, with entry commit and without; the sketchbook. -/
theorem witness_LoopControl : let l : Loop := { Loop.reset with source := 1, romNext := true, commit := some ⟨0, true, false, false, false⟩ }
    l.romNext = true ∧ l.source ≠ 0 ∧ (l.commit.map (·.prog)) = some false ∧
    ({ l with stage := some (0, 0) } : Loop).stage.isSome = true ∧
    fld (reg (aCtl 0) { host with regs := [(aCtl 0, 0x10001), (0x200100, 1)] }) 31 16 = 1 ∧
    regIs (aCtl 0) 0 { host with regs := [(aCtl 0, 0x10001), (0x200100, 1)] } = true ∧ hasRight 2 0 host = true ∧ logRoom host = true ∧
    regIs (aCtl 0x24) 31 { host with regs := [(aCtl 0x24, 0x80000000)] } = true ∧ palReg 3 = some 0x10000C ∧ palReg 1 = none ∧
    entryCommits 3 = false ∧ entryCommits 5 = true ∧ isSteward 0x2000 = true ∧ (sesAt 0 host).isOpen = true ∧
    reg (aCtl 0x80) host &&& 0x1FFF3FFF = reg (aCtl 0x80) host ∧ host.changes.intake.length ≤ 54 ∧ isCandidate host = false ∧
    ({ l.sk with st := 2 } : Sketch).st = 2 ∧ (∀ n : Nat, n < 8 → mapGet 0 l.sk.left n = 0) ∧ l.sk.late = [] ∧ loopErr 0 0 1 = none ∧
    (∀ w b, ({ l with stage := some (3, 0) } : Loop).stage = some (w, b) → w ≠ 0) ∧ palReg 2 = some 0x100008 ∧
    ({ l with verifying := true } : Loop).verifying = true ∧ mapGet none host.shadow 0 = none ∧
    (l.entries = [] ∧ ({ l with entries := [(5, 0)] } : Loop).entries = [(5, 0)]) := by
  refine ⟨?_, ?_, ?_, ?_, ?_, ?_, ?_, ?_, ?_, ?_, ?_, ?_, ?_, ?_, ?_, ?_, ?_, ?_, ?_, ?_, ?_, ?_, fun w b h => by cases h; decide, ?_, ?_,
    ?_, ?_, ?_⟩ <;> decide

/-- VCORE is `x`, the sequence starts, and RAIL.CTRL.EN of VCORE is set. -/
def starting (x : Rail) (tick : Nat) : State := { host with
  regs := [(aRail 0 0, 1), (0x200100, 1)], tick := tick, rails := { RailsSt.zero with start := true, rail := [(0, x)] } }

/-- O55: VCORE may start, is short at beat 1,500, reaches regulation at 2,000, is late at 2,500 within its window and outside it, retries,
and reloads its count; a rail to switch off; a record to write, with the flash held and free; an idle phase above its limit. -/
theorem witness_RailsStartAndFail : let s0 := starting Rail.zero 0
    let off : State := { host with rails := { RailsSt.zero with offSeq := true, writing := some [1], waiting := some [2] } }
    (regIs (aRail 0 0) 0 s0 = true ∧ s0.rails.start = true ∧ s0.rails.offSeq = false ∧ s0.rails.retain = false ∧ (∀ q : Nat, q < 4 → (railAt q s0).st ≠ 5) ∧
      isSlot1 s0 = false ∧ s0.rst.safe = false ∧ s0.frac = 0 ∧ regIs 0x10_0004 8 s0 = false ∧ regIs 0x10_0004 9 s0 = false) ∧
    (let x : Rail := { Rail.zero with st := 1, tgt := 51200, iPh := ilimOf 0 host }
     (railAt 0 (starting x 1500)).st = 1 ∧ (starting x 1500).tick = x.softAt + 1500 ∧ railsGet (starting x 1500).gov.railV 0 * 100 < 40 * x.tgt ∧
      x.iPh = ilimOf 0 (starting x 1500)) ∧
    (let x : Rail := { vcore with st := 1, vSense := 51200 }
     x.ref - uvOf 0 (starting x 2500) ≤ x.vSense ∧ x.vSense ≤ x.ref + ovOf 0 (starting x 2500) ∧ x.softAt + 2500 ≤ (starting x 2500).tick) ∧
    (¬ ({ vcore with vSense := 0 } : Rail).ref - uvOf 0 host ≤ ({ vcore with vSense := 0 } : Rail).vSense) ∧
    0 + max 1 (railP 0 8 15 8 host) * 10000 ≤ (starting { vcore with st := 4 } 10000000).tick ∧
    vcore.regAt + 10000000 ≤ (starting vcore 10000000).tick ∧ (reg (aRail 0 0) (starting vcore 0)).toNat < 2 ∧ drivesRails s0 = true ∧
    regIs (aRail 0 0) 0 { starting vcore 0 with regs := [(aRail 0 0, 0)] } = false ∧ anyRunning host = false ∧
    (off.rails.offSeq = true ∧ off.rails.offAt ≤ off.tick ∧ off.rails.writing = some [1] ∧ off.rails.waiting.isSome = true ∧ off.nvDeferred = false) ∧
    (railed vcore).rails.phFault.getLsbD 0 = false ∧ 3 * ilimOf 0 (railed vcore) < 2 * ((10000000 * 256 : Nat) : Int) ∧
    phaseCount 0 ≤ 2 * ((healthyOf 0 (railed vcore)).length - 1) ∧
    2 * ((healthyOf 0 { railed vcore with rails := { (railed vcore).rails with phFault := 0xFFFFFFFFFFFE } }).length - 1) < phaseCount 0 := by
  refine ⟨⟨?_, ?_, ?_, ?_, ?_, ?_, ?_, ?_, ?_, ?_⟩, ?_, ?_, ?_, ?_, ?_, ?_, ?_, ?_, ?_, ⟨?_, ?_, ?_, ?_, ?_⟩, ?_, ?_, ?_, ?_⟩ <;> decide

/-! ### Witnesses: the pack, Varnish, attribution, recorders, reset and boot (O56 to O60) -/

/-- End A of the tray pack with the pack controller `p`, PACK.CTRL.PACK_EN set, at tick `n`. -/
def packed (p : Pack) (n : Nat) : State := { host with
  regs := [(0x130000, 1), (0x200100, 1)], rst := { host.rst with straps := ⟨0, 1, 0, 0, 0⟩ }, pack := p, tick := n }

/-- A status frame that gives the lease to port A at epoch 1, and acknowledges frame 5. -/
def status0 : StageStatus := { stageNone with lease := 0, epoch := 1, ackSeq := 5 }

/-- O56: a holder whose lease a newer epoch ends, whose renewal is acknowledged and is lost; a claim granted and refused; a standby that
claims; a tray peer; cells within their limits; an ejection and its release. -/
theorem witness_PackHolderAndReports : let p : Pack := { Pack.zero with role := 2, epoch := 1, renewSeq := some 5 }
    let y : Pack := { Pack.zero with role := 1, stageSeen := true, stage := { status0 with lease := 3 } }
    isCandidate (packed p 0) = true ∧ isCandidate host = false ∧ packEnd (packed p 0) = some (if status0.holdPort then 1 else 0) ∧
    p.epoch.toNat < ({ status0 with epoch := 2 } : StageStatus).epoch.toNat ∧ status0.epoch.toNat ≤ p.epoch.toNat ∧
    p.renewSeq = some status0.ackSeq ∧ ({ p with role := 1, claiming := true } : Pack).claiming = true ∧ status0.lease = 0 ∧
    ({ status0 with claimRefused := true } : StageStatus).claimRefused = true ∧ (packed p 4000).tick ≠ p.claimAt ∧
    ((packed p 4000).tick - p.claimAt) % 4000 = 0 ∧ p.renewAt + 16000 ≤ (packed p 16000).tick ∧
    (y.role = 1 ∧ y.diagPending = false ∧ y.claiming = false ∧ y.stageSeen = true ∧ y.stage.lease ≠ 0 ∧
      packEnd (packed y 0) = some 0 ∧ y.stage.lease = 3) ∧ isModule (packed p 0) = true ∧
    (3 : PkgId).toNat / 4 = (pkgId (packed p 0)).toNat / 4 ∧ reg (aPack 0) (packed p 0) = 1 ∧
    (∀ i : Nat, i < 6 → mapGet 0 p.temps i < (fld (reg (aPack 0x24) (packed p 0)) 15 8 * 10 : Nat)) ∧
    (∀ i : Nat, i < 24 → ¬ cellAge i (packed p 0) ≤ 3) ∧ p.stage.contactor = false ∧ ¬ 1 ≤ p.crPhase.toNat ∧
    (repAt 3 (packed { p with reports := [(3, { repAt 3 host with missing := 1000 })] } 0)).missing = 1000 ∧
    ({ host.gov with eject := true } : Gov).eject = true ∧ host.gov.ejectAt = none ∧ host.rails.offSeq = false ∧
    (y.queryAt + 1000 ≤ (packed y 1000).tick ∧ ¬ y.noticeAt + 20000 ≤ (packed y 1000).tick) ∧
    ({ p with diagPending := true } : Pack).diagPending = true ∧ logRoom (packed p 0) = true ∧ hasRight 2 0 (packed p 0) = true := by
  refine ⟨?_, ?_, ?_, ?_, ?_, ?_, ?_, ?_, ?_, ?_, ?_, ?_, ⟨?_, ?_, ?_, ?_, ?_, ?_, ?_⟩, ?_, ?_, ?_, ?_, ?_, ?_, ?_, ?_, ?_, ?_, ?_, ⟨?_, ?_⟩, ?_, ?_, ?_⟩ <;> decide

/-- A reply of monitor 0. -/
def reply0 : MonReply := ⟨0, true, List.replicate 8 30000, [250, 250], 0⟩

/-- O57: the beats of a sweep, a reply that is whole and one that is torn, a sweep of all three monitors, the phases of a capacity run and
their ends, and a run that may start. -/
theorem witness_PackCellsAndCharge :
    let p : Pack := { Pack.zero with
      role := 2, got := some [reply0], ownOk := 7, capWrite := some [1], capStarted := true, sweeps := [true], temps := [(0, 250), (1, 250), (2, 250), (3, 250), (4, 250), (5, 250)],
      cells := [(0, 30000)], cellAge := [(0, 0)], est := { Est.zero with seeded := true } }
    reply0.wf = true ∧ ({ reply0 with crcOk := false } : MonReply).crcOk = false ∧ p.got.isSome = true ∧ p.ownOk = 7 ∧
    (∀ m ∈ [reply0], m.wf = true) ∧ ([reply0].map (fun m => m.mon)).Nodup ∧ ({ p with role := 1, farUsed := true } : Pack).farUsed = true ∧
    ({ p with role := 1, farAt := some 1 } : Pack).farAt ≠ none ∧ p.capWrite = some [1] ∧ p.capStarted = true ∧
    ({ packed p 0 with beat := 2000 } : State).beat.toNat % 10000 = 2000 ∧ 9400 = ({ packed p 0 with beat := 9400 } : State).beat.toNat % 10000 ∧
    mapGet 0 ({ p with tries := [(0, 2)] } : Pack).tries 0 + 1 = 3 ∧ highCell (packed p 0) = 30000 ∧ -100 < p.lat.iPack ∧
    p.lat.iPack < 100 ∧ lowCell (packed { p with cells := [] } 0) ≤ 18000 ∧ 18000 < lowCell (packed p 0) ∧
    p.est.socRep < ((min 100 (packP 5 23 16 (packed p 0)) : Nat) : Rat) ∧ p.lat.busform = false ∧ tempsWithin 15 40 (packed p 0) = true ∧
    p.sweeps.head? = some true ∧ regIs 0x130004 9 (packed p 0) = false ∧ anyRunning (packed p 0) = false ∧
    countedReps (packed p 0) = [] ∧ regIs 0x130004 10 (packed p 0) = false ∧
    fld (reg (aPack 0x44) (packed p 0)) 31 16 * 3600000000 < ({ p.est with refAge := 10 ^ 15 } : Est).refAge ∧
    max 1 (fld (reg (aPack 0x54) (packed p 0)) 15 0) * 1000000 ≤ ({ p.est with quiet := 10 ^ 11 } : Est).quiet ∧ p.brokenAt = none := by
  refine ⟨?_, ?_, ?_, ?_, ?_, ?_, ?_, ?_, ?_, ?_, ?_, ?_, ?_, ?_, ?_, ?_, ?_, ?_, ?_, ?_, ?_, ?_, ?_, ?_, ?_, ?_, ?_, ?_, ?_⟩ <;> decide +kernel

/-- A Varnish die that has written save 0 and logged two records, with a query of type `q` in channel 14. -/
def metered (q : BitVec 32) (flags : BitVec 32) : State := { host with
  mbox := [(14, { Mbox.zero with msg := [q, 0, 0, 0, 0, 0, 0, 0], full := true })],
  varnish := { Varnish.zero with
    flags := flags, optime := 240000000, saves := [(0, ⟨0, 5, 9, true⟩)], place := 1,
    log := [⟨0, 1, 0, List.replicate 17 0⟩, ⟨1, 2, 9, List.replicate 8 0⟩], uncarried := [0, 1] } }

/-- O58: supply and seal in both states, a save that is due, sectors to erase, a cut whose first record is in the log, service frames
with room, and queries of each kind, with an index that is logged. -/
theorem witness_VarnishMeters : (metered 1 0).varnish.supply = true ∧ (metered 1 0).varnish.flags.getLsbD 0 = false ∧
    (metered 1 1).varnish.flags.getLsbD 0 = true ∧ newestSave (metered 1 0) = some (0, ⟨0, 5, 9, true⟩) ∧
    9 / 60000000 < (metered 1 0).varnish.optime / 2 / 60000000 ∧ (∀ e ∈ (metered 1 0).varnish.saves, e.1 / 128 ≠ (1 / 128 + 1) % 64) ∧
    ¬ (∀ e ∈ ({ (metered 1 0).varnish with place := 8191 } : Varnish).saves, e.1 / 128 ≠ (8191 / 128 + 1) % 64) ∧
    legalAt 0 (metered 2 0) = some ⟨0, 1, 0, List.replicate 17 0⟩ ∧ legalAt 9 (metered 2 0) = none ∧
    ¬ 1024 < (metered 1 1).varnish.log.length + 2 ∧ ({ (metered 1 1).varnish with samples := 4, vSum := 8 } : Varnish).vSum % 4 = 0 ∧
    (metered 1 0).varnish.reply = none ∧ (∀ q : BitVec 3, (mbxAt 14 (metered (q.setWidth 32) 0)).full = true) ∧
    (mbxAt 15 (metered 1 0)).full = false ∧ (2 : Nat) ^ 31 ≤ (0x80000001 : BitVec 32).toNat ∧ (7 : BitVec 32).toNat % 256 > 5 ∧
    3 ≤ ({ (metered 1 0).varnish with sealBad := 2 } : Varnish).sealBad + 1 ∧ ({ (metered 1 0).varnish with supply := false } : Varnish).supply = false ∧
    ({ (metered 1 0).varnish with marked := true } : Varnish).marked = true ∧
    ((metered 1 0).varnish.marked = false ∧ (metered 1 0).varnish.markAt + 384 < (metered 1 0).varnish.optime + 125 ∧
      (metered 1 0).varnish.cutAt + 128 < (metered 1 0).varnish.optime + 125) ∧
    ({ (metered 1 0).varnish with reply := some [0] } : Varnish).reply = some [0] ∧
    (metered 1 0).varnish.retryAt + 100 ≤ ({ metered 1 0 with tick := 10000 } : State).tick ∧
    (metered 1 0).varnish.replySince + 10000 ≤ ({ metered 1 0 with tick := 10000 } : State).tick := by
  refine ⟨?_, ?_, ?_, ?_, ?_, ?_, ?_, ?_, ?_, ?_, ?_, ?_, ?_, ?_, ?_, ?_, ?_, ?_, ?_, ?_, ?_, ?_, ?_⟩ <;> decide +kernel

/-- A feed frame of zeros with its CRC. -/
def frame0 : List Byte := List.replicate 124 0 ++ leBytes 4 (crc32c (List.replicate 124 0)).toNat

/-- A report, and a change-log entry. -/
def report0 : Report := ⟨0, 0x60, 0x4000, 3, [1], ⟨0, 0⟩⟩
def change0 : Change := ⟨0, 0, 0, 0x100018, 0, 0, 5, ⟨0, 0⟩⟩

/-- O59: accounts with the idle one; a frame that is accepted and one that is torn at the beat where one is due; the first frame, a later
one and one that jumps; a clear; the modes of the recorder; both ends of the intakes. -/
theorem witness_AttributionAndRecorders : ((([(3, 5), (273, 1)] : List (Nat × Nat)).map (·.1))).Nodup ∧
    acctIdle ∈ ([(3, 5), (273, 1)] : List (Nat × Nat)).map (·.1) ∧ ({ host with beat := 32 } : State).beat.toNat % 64 = 32 ∧ host.attr.pointAt ≠ some host.tick ∧
    ({ host.attr with frozen := some ([], 0, []) } : Attr).frozen.isSome = true ∧ host.attr.frozenAt + 10000 ≤ 10000 ∧
    frame0.length = 128 ∧ crcGood frame0 = true ∧ ¬ (frame0.drop 1).length = 128 ∧ frameNat 4 8 frame0 = 0 ∧
    BitVec.ofNat 64 (frameNat 32 8 frame0) = host.attr.serial ∧ frameNat 4 8 frame0 < 5 ∧ host.attr.clear = none ∧
    frameNat 44 4 frame0 ≠ 0xFFFFFFFF ∧ ({ host.attr with missed := 3 } : Attr).missed = 3 ∧ (0x80000111 : BitVec 32).toNat % 512 = 273 ∧
    (0x80000111 : BitVec 32).getLsbD 31 = true ∧ hasRight 1 0 host = true ∧ histMode host = false ∧
    histMode { host with regs := [(0x50000, 1)] } = true ∧ ({ host.recorder with intake := [report0] } : Recorder).intake = report0 :: [] ∧
    ({ host.changes with intake := [change0] } : ChangeLog).intake = change0 :: [] ∧ host.evs.length < 4096 ∧ isS0 0 host = true ∧ logRoom host = true := by
  refine ⟨?_, ?_, ?_, ?_, ?_, ?_, ?_, crcGood_closed _, ?_, ?_, ?_, ?_, ?_, ?_, ?_, ?_, ?_, ?_, ?_, ?_, ?_, ?_, ?_, ?_, ?_⟩ <;>
    first | decide +kernel | rfl

/-- An image with no body at `a`, as the bytes of the flash that are not 0xFF. -/
def image0 (a : Nat) : List Host.Cell :=
  [(a, 0x4D), (a + 1, 0x49), (a + 2, 0x47), (a + 3, 0x4B), (a + 4, 0), (a + 5, 0), (a + 6, 0), (a + 7, 0), (a + 12, 0), (a + 13, 0),
   (a + 14, 0), (a + 15, 0)]

/-- Option block A without entries. -/
def options0 : List Host.Cell :=
  [(0, 0x42), (1, 0x4F), (2, 0x47), (3, 0x4B), (4, 5), (5, 0), (6, 0), (7, 0), (8, 1), (9, 0), (10, 0), (11, 0), (28, 0xEC), (29, 0x7D),
   (30, 0x67), (31, 0xEE)]

/-- A package whose bring-up lets it boot from source `src`, with these bytes in its flash. -/
def boots (src : BitVec 2) (flash : List Host.Cell) : State := { host with
  flash := flash, rst := { host.rst with
    straps := ⟨0, 0, 0, src, 0⟩, bootRuns := true, micro := true, loading := true, released := 2, kind := 0 } }

/-- O60: resets in and out of effect, clocks that are good and lost, an option block that is used and that is not, each boot source, intact
images, and requests for a report. -/
theorem witness_ResetBootAttestation : (boots 0 []).rst.released.getLsbD 1 = true ∧ host.rst.released.getLsbD 1 = false ∧
    host.rst.kind = 0 ∧ host.rst.clkGood.getLsbD 0 = false ∧ ({ host.rst with clkGood := 1 } : Rst).clkGood.getLsbD 0 = true ∧
    (boots 0 []).rst.straps.role = 0 ∧ host.rst.vauxOk = false ∧ (reg 0x10010 (boots 0 [])).toNat % 65536 ≠ 0 ∧
    (∀ i : Nat, i < 6 → (boots 0 []).rst.released.getLsbD i = true → supplied i (boots 0 []) = true) ∧
    (∀ i : Nat, i < 6 → (boots 0 []).rst.clkGood.getLsbD i = false) ∧ optUsed (boots 0 []) = none ∧
    (optUsed (boots 0 options0)).map (·.1) = some 1 ∧ stewardImage (boots 0 []) = none ∧
    (stewardImage (boots 0 (image0 0x100000))).map (·.1) = some 0 ∧ (microImage (boots 0 (image0 0x1100000))).map (·.1) = some 0 ∧
    imageIntact 0x800000 (flashRead 0x100000 64 (boots 0 (image0 0x100000))) = true ∧ linkUsable 0 (boots 2 []) = false ∧
    linkUsable 0 { boots 2 [] with regs := [(0x210004, 6)] } = true ∧ NothingWaits (boots 1 []) ∧ 64 ≤ (64 : BitVec 24).toNat ∧
    8388608 < (0x800001 : BitVec 24).toNat ∧ isS0 0 (boots 1 []) = true ∧ isSteward 0x2000 = true ∧ host.att.queue = [] ∧
    (4 : BitVec 3).toNat < 5 ∧ ({ host.rst with starting := true, kind := 0 } : Rst).starting = true ∧
    (let r : Rst := { (boots 0 []).rst with clkAt := [(3, some 5000)] }
     mapGet none r.clkAt 3 = some 5000 ∧ 5000 + 1000 ≤ ({ boots 0 [] with tick := 6000 } : State).tick) ∧
    (boots 0 []).rst.wdogAt + (reg 0x10010 (boots 0 [])).toNat % 65536 * 1000 ≤ ({ boots 0 [] with tick := 65536000 } : State).tick ∧
    (let s : State := { boots 0 [] with rst := { (boots 0 []).rst with straps := ⟨0, 0, 0, 0, 2⟩ }, regs := [(0x210004, 6)] }
     s.rst.straps.clkmode = 2 ∧ s.frac = 0 ∧ 4 ≤ linkSt 0 s ∧ linkSt 0 s ≤ 8) ∧
    (boots 2 []).rst.bootReqAt = none ∧ ({ (boots 1 []).rst with imgStarted := true } : Rst).imgStarted = true ∧
    AttReq.register 5 ∈ ({ host.att with queue := [.register 5] } : Att).queue := by
  refine ⟨?_, ?_, ?_, ?_, ?_, ?_, ?_, ?_, ?_, ?_, ?_, ?_, ?_, ?_, ?_, ?_, ?_, ?_, ⟨?_, ?_, ?_⟩, ?_, ?_, ?_, ?_, ?_, ?_, ?_, ?_, ?_, ?_, ?_, ?_, ?_⟩ <;> decide +kernel

/-! ### Well-formedness: an ill-formed term for each check -/

theorem test_wf_beat_start : (Instr.beatStart ⟨⟨0, 0, 0, 0⟩, ⟨0, 0, 0, 0⟩, 0, [], true, false, ⟨0, 0, 0, 0, 0⟩⟩).wf = false := by decide
theorem test_wf_register_write : (Instr.registerWrite 0 0 24 0).wf = false ∧ (Instr.registerWrite 0 0 32 0).wf = true := by decide
theorem test_wf_remote_op : (Instr.remoteOpArrive { pkt0 with len := 65537 }).wf = false := by decide
theorem test_wf_cable : (Instr.cableReady 0 ⟨true, true, 0, 0⟩ (List.replicate 73 0)).wf = false ∧
    (Instr.cablePoll 0 [] ⟨List.replicate 6 0, List.replicate 12 0⟩).wf = false ∧
    (Instr.cablePoll 0 (List.replicate 4 0) ⟨[], List.replicate 12 0⟩).wf = false ∧
    (Instr.cablePoll 0 (List.replicate 4 0) ⟨List.replicate 6 0, []⟩).wf = false := by decide
theorem test_wf_registers : (Instr.regWrite ⟨0, 0⟩ 0 (List.replicate 65 0)).wf = false ∧ (Instr.regRead ⟨0, 0⟩ 0 65).wf = false := by
  decide
theorem test_wf_mem_read : (Instr.memRead ⟨0, 0⟩ 0 65536).wf = false := by decide
theorem test_wf_mem_write : (Instr.memWrite ⟨0, 0⟩ 0 (List.replicate 8177 0)).wf = false := by
  rw [Instr.wf, List.length_replicate]; decide
theorem test_wf_members : (Instr.jobCreate ⟨0, 0⟩ 0 0 (List.replicate 4097 0)).wf = false ∧
    (Instr.barrierSet ⟨0, 0⟩ 0 0 0 (List.replicate 4097 0)).wf = false := by
  rw [Instr.wf, Instr.wf, membersWf, List.length_replicate]; decide
theorem test_wf_mailboxes : (Instr.mbxPost ⟨0, 0⟩ 0 0 (List.replicate 17 0)).wf = false ∧ (Instr.mbxRemotePost 0 24 []).wf = false ∧
    (Instr.mbxMaskWrite 0 6 0).wf = false := by decide
theorem test_wf_monitors : (Instr.monitorReply { reply0 with mon := 3 }).wf = false ∧ (Instr.monitorReply { reply0 with cells := [] }).wf = false ∧
    (Instr.monitorTimeout 3).wf = false ∧ (Instr.farSegmentRequest ⟨3, 0⟩).wf = false ∧
    (Instr.farSegmentValues [{ reply0 with temps := [] }]).wf = false := by decide
theorem test_wf_blocks : (Instr.swBlock 0 []).wf = false ∧ (Instr.feedFrame []).wf = false := by decide
theorem test_wf_boot_packet : (Instr.bootPacket true (List.replicate 513 0)).wf = false := by
  rw [Instr.wf, List.length_replicate]; decide
theorem test_wf_clocks : (Instr.clockGood 6).wf = false ∧ (Instr.clockFail 6).wf = false := by decide

/-! ### Worked examples of the spec -/

/-- The words of "encoding ADDI s5, s4, -3", of DMA.V2S c3, s10, s11, s20 (03) and of XACC c21, s4, s5, s6 (07). -/
theorem test_words : insWord 0 0x80 (ins 5 4 0 0x7FFFFFFD) = 0x080144007FFFFFFD ∧
    insWord 5 0x00 (ins 3 10 11 0x28000000) = 0x5000CA2C28000000 ∧ insWord 6 0x10 (ins 21 4 5 0xC017000) = 0x610544140C017000 := by decide

/-- The state after a command that goes on. -/
def after (c : Instr) (s : State) : State := match exec c s with | .next t => t | _ => s

/-- Scalar register `k` of tile 0 after an instruction on s1 and s2. -/
def s3 (c : TileId → Ins → Instr) (a b : BitVec 64) : BitVec 64 := sGet (tileAt 0 (after (c 0 (ins 3 1 2)) (regs [(1, a), (2, b)]))) 3

/-- R55: division by zero; −1 × −1 in the high half; shifts by 64; the lowest number is below 0. -/
theorem test_scalar_corners : s3 .divu 7 0 = 0xFFFFFFFFFFFFFFFF ∧ s3 .remu 7 0 = 7 ∧ s3 .mulhs 0xFFFFFFFFFFFFFFFF 0xFFFFFFFFFFFFFFFF = 0 ∧
    s3 .mulhu 0xFFFFFFFFFFFFFFFF 0xFFFFFFFFFFFFFFFF = 0xFFFFFFFFFFFFFFFE ∧ s3 .shl 1 64 = 0 ∧ s3 .sra 0x8000000000000000 64 = 0xFFFFFFFFFFFFFFFF ∧
    s3 .min 0x8000000000000000 0 = 0x8000000000000000 := by
  refine ⟨?_, ?_, ?_, ?_, ?_, ?_, ?_⟩ <;> decide

/-- R50: s0 discards writes, and the instruction still moves on. -/
theorem test_s0_discards : sGet (tileAt 0 (after (.movi 0 (ins 0 0 0 5)) (regs []))) 0 = 0 ∧
    (tileAt 0 (after (.movi 0 (ins 0 0 0 5)) (regs []))).pc = 1 := by decide

/-- R57: MOVK puts 16 bits into field 3. -/
theorem test_movk : sGet (tileAt 0 (after (.movk 0 (ins 3 0 0 0x3BEEF)) (regs [(3, 0x1111222233334444)]))) 3 = 0xBEEF222233334444 := by decide

/-- R58: a branch to −1 faults with code 0x10. -/
theorem test_branch_fault : (tileAt 0 (after (.br 0 (ins 0 0 0 0x7FFFFFFF)) (regs []))).fault.code = 0x10 := by decide

/-- "the five elements +1, −1, 0, 0, +1 pack into the byte 0x58" (04, T3). -/
theorem test_t3_row : decodeRow 10 5 [0x58] =
    [.fin false 1 1, .fin true 1 1, .fin false 0 1, .fin false 0 1, .fin false 1 1] := by decide

/-- "a product of value 3 × 2^(E − 50) rounds to 1 and sets INX; a product of 2^(E − 49) rounds to the even value 0" (04), at E = 48. -/
theorem test_grid_rounding : let one : Val := .fin false 1 1
    mmaStep 48 (0, 0) (.fin false 3 4) one one one = (1, 1) ∧ mmaStep 48 (0, 0) (.fin false 1 2) one one one = (0, 1) := by decide

/-- IEEE 754 single precision: 1 + 2^-24 is a tie to even, the largest finite number doubled is infinite, infinity − infinity is the
canonical NaN (R124). -/
theorem test_single_precision : fadd 0x3F800000 0x33800000 = 0x3F800000 ∧ fadd 0x7F7FFFFF 0x7F7FFFFF = 0x7F800000 ∧
    fsub 0x7F800000 0x7F800000 = 0x7FC00000 ∧ ffma 0x3F800001 0x3F800001 0xBF800002 = 0x28800000 := by decide

/-- Window 105 of vault 517 (06, "locating one weight row"). -/
theorem test_window : winTile 1058921 = 517 ∧ 1058921 % 2048 = 105 := by decide

/-- Package 0x0085: place 0x21, SLOT 1; the links `own` are ACTIVE. -/
def in85 (own : List (Nat × BitVec 32)) (up : SMap (BitVec 64)) : State := { State.reset with
  place := 0x21, rst := { State.reset.rst with straps := ⟨0, 0, 1, 0, 0⟩ }, regs := own, rackUp := up }

/-- "a barrier release across the pair" (08): from 0x0085 to 0x00F2 on link 49, and by the detour on link 0 when link 49 is down. -/
theorem test_routes : pkgId (in85 [] []) = 0x85 ∧
    route 0xF2 (in85 [(aLnk 49 4, 6)] [(50, 0x8000000000000020)]) = some (.link 49) ∧
    route 0xF2 (in85 [(aLnk 0 4, 6)] [(0, 0x2000000000010), (50, 0x8000000000000001)]) = some (.link 0) := by
  refine ⟨?_, ?_, ?_⟩ <;> decide

/-- "a native message to the Steward" (09): session 3 posts 11 registers of channel 2, the Steward's bell gains bit 2, and MBX.STAMP
holds 0x0003. -/
theorem test_native_message :
    let s := { host with session := [(3, { Session.closed with isOpen := true, rights := 3 })], regs := [(0x31004, 4)] }
    let t := after (.mbxGo 3 2 0x80000003) s
    (mbxAt 2 t).full = true ∧ (mbxAt 2 t).msg.length = 11 ∧ (mbxAt 2 t).origin = 3 ∧ reg 0x31000 t = 4 ∧ .interrupt 0 ∈ t.out := by
  refine ⟨?_, ?_, ?_, ?_, ?_⟩ <;> decide +kernel

/-- "one reconciliation" (14): 112,503 µJ over four accounts. -/
theorem test_reconciliation : sharesOf 112503 [(3, 9830400000), (23, 61000000000), (56, 25329600000), (273, 3840000000)] =
    [(3, 11059), (23, 68627), (56, 28497), (273, 4320)] := by decide +kernel

/-- "a run that counts 68,400 As gives C_L = 72,000 As when CUT is 5 %" (13). -/
theorem test_capacity_run :
    let p := { Pack.zero with role := 2, crPhase := 3, qRun := 68400, cells := [(0, 18000)], cellAge := [(0, 0)] }
    let s := { packed p 0 with regs := [(0x130000, 1), (aPack 0x3C, 72000000), (aPack 0x48, 50), (0x200100, 1)] }
    (after .caprunPhaseEnd s).pack.est.cL = 72000000 := by decide +kernel
end Sys2Proof.Tests
end

/-! PROOFS. The scalar class and the branches (R54 to R58): O6 to O8. -/

namespace Sys2Proof.Machine

/-! ### Encoding checks -/

/-- A word of the right format whose register index is out of range is an illegal instruction (R49). -/
theorem encOf_index {d a b : Bool} {z : Nat} {f : Ins} (hd : d = true ∨ f.d = 0) (ha : a = true ∨ f.a = 0)
    (hb : b = true ∨ f.b = 0) (hz : f.imm.toNat &&& z = 0) : encOf d a b z false f = some 4 := by
  have h1 : (d || f.d == 0) = true := by simpa using hd
  have h2 : (a || f.a == 0) = true := by simpa using ha
  have h3 : (b || f.b == 0) = true := by simpa using hb
  rw [encOf, h1, h2, h3]
  simp [hz]

/-- A word with a bit set that its format reserves has the encoding fault of R48. -/
theorem encOf_reserved {d a b : Bool} {z : Nat} {ix : Bool} {f : Ins} (hz : f.imm.toNat &&& z ≠ 0) :
    encOf d a b z ix f = some 3 := by
  simp [encOf, hz]

/-- An instruction with an encoding fault raises it when it could issue, whatever its predicate (R49, R81). -/
theorem exec_encodingFault {t : TileId} {cls op k : Nat} {f : Ins} {s : State} {c : Instr} {enc : Option Nat}
    {run : Nat → BitVec 64 → State → State} (he : exec c s = .next (issue t cls op f enc run s)) (hk : enc = some k)
    (may : canIssue t.toNat cls op f s = true)
    (fetch : mapGet 0 s.istoreErr (t.toNat * 8192 + (tileAt t.toNat s).pc) = 0) :
    exec c s = .next (raiseFault t.toNat k (tileAt t.toNat s).pc (insWord cls op f) 0 (fetched t.toNat s)) := by
  rw [he, hk, issue_fault run may fetch]

/-- Masking with `w` ones from bit `lo` up keeps that field. -/
theorem and_fieldMask (n w lo : Nat) : n &&& (2 ^ w - 1) * 2 ^ lo = n / 2 ^ lo % 2 ^ w * 2 ^ lo := by
  apply Nat.eq_of_testBit_eq
  intro i
  rw [Nat.testBit_and, Nat.testBit_mul_two_pow, Nat.testBit_mul_two_pow, Nat.testBit_two_pow_sub_one, Nat.testBit_mod_two_pow,
    Nat.testBit_div_two_pow]
  by_cases hi : lo ≤ i
  · rw [Nat.sub_add_cancel hi]
    simp [hi, Bool.and_comm]
  · simp [hi]

/-- IMM without a value passes the format REG. -/
theorem imm_zReg {f : Ins} (h : f.imm = 0) : f.imm.toNat &&& zReg = 0 := by
  simp [h]

/-- The bits that SEL reserves: C[5:3] and those below C. -/
theorem and_selMask {n : Nat} (low : n % 2 ^ 25 = 0) (high : n < 2 ^ 28) : n &&& 0x71FFFFFF = 0 := by
  have hhigh : n / 2 ^ 28 = 0 := Nat.div_eq_of_lt high
  rw [show 0x71FFFFFF = (2 ^ 25 - 1) ||| (2 ^ 3 - 1) * 2 ^ 28 from rfl, Nat.and_or_distrib_left, Nat.and_two_pow_sub_one_eq_mod,
    and_fieldMask, low, hhigh]
  rfl

/-- The bits that MOVK reserves, IMM[30:18] (R57). -/
theorem and_movkMask (n : Nat) : n &&& 0x7FFC0000 = n / 2 ^ 18 % 2 ^ 13 * 2 ^ 18 :=
  and_fieldMask n 13 18

/-! ### Results of the scalar ALU as numbers -/

/-- SHL and SHLI as a product (R55). -/
theorem shl64_eq (a b : BitVec 64) : shl64 a b = BitVec.ofNat 64 (if b.toNat < 64 then a.toNat * 2 ^ b.toNat else 0) := by
  unfold shl64
  split
  · apply BitVec.eq_of_toNat_eq
    rw [BitVec.toNat_shiftLeft, Nat.shiftLeft_eq, BitVec.toNat_ofNat]
  · rfl

/-- SHR and SHRI as a quotient (R55). -/
theorem shr64_eq (a b : BitVec 64) : shr64 a b = BitVec.ofNat 64 (if b.toNat < 64 then a.toNat / 2 ^ b.toNat else 0) := by
  unfold shr64
  split
  · apply BitVec.eq_of_toNat_eq
    rw [BitVec.toNat_ushiftRight, Nat.shiftRight_eq_div_pow, BitVec.toNat_ofNat,
      Nat.mod_eq_of_lt (Nat.lt_of_le_of_lt (Nat.div_le_self _ _) a.isLt)]
  · rfl

/-- SRA and SRAI as a quotient rounded down (R55). -/
theorem sra64_eq (a b : BitVec 64) : sra64 a b = BitVec.ofInt 64 (Int.fdiv a.toInt (2 ^ min b.toNat 64)) := by
  rw [sra64, BitVec.sshiftRight_eq, Int.shiftRight_eq_div_pow, Int.fdiv_eq_ediv_of_nonneg _ (by positivity)]
  push_cast
  rfl

/-- CMP.NE and CMPI.NE as a proposition (R54). -/
theorem bne_eq_decide_ne (a b : BitVec 64) : (a != b) = decide (a ≠ b) := by
  rw [bne, beq_eq_decide, decide_not]

/-- An unsigned shift amount is IMM as a number. -/
theorem toNat_immShift (f : Ins) : (f.imm.setWidth 64).toNat = f.imm.toNat := by
  rw [BitVec.toNat_setWidth, Nat.mod_eq_of_lt (by omega)]

/-- A number with the 16-bit field from bit `q` up replaced, in three parts. -/
theorem replaceField_parts (d v q : Nat) :
    d - d / 2 ^ q % 2 ^ 16 * 2 ^ q + v * 2 ^ q = 2 ^ q * (2 ^ 16 * (d / 2 ^ q / 2 ^ 16) + v) + d % 2 ^ q := by
  have below : d % 2 ^ q + 2 ^ q * (d / 2 ^ q) = d := Nat.mod_add_div d _
  have field : d / 2 ^ q % 2 ^ 16 + 2 ^ 16 * (d / 2 ^ q / 2 ^ 16) = d / 2 ^ q := Nat.mod_add_div _ _
  have whole : d = d / 2 ^ q % 2 ^ 16 * 2 ^ q + (2 ^ q * (2 ^ 16 * (d / 2 ^ q / 2 ^ 16)) + d % 2 ^ q) := by
    calc d = d % 2 ^ q + 2 ^ q * (d / 2 ^ q % 2 ^ 16 + 2 ^ 16 * (d / 2 ^ q / 2 ^ 16)) := by rw [field, below]
      _ = _ := by ring
  rw [Nat.sub_eq_of_eq_add' whole]
  ring

/-- Clearing a 16-bit field and putting a value there replaces the field and keeps the other bits. -/
theorem replaceField_eq (d : BitVec 64) (v q : Nat) (hv : v < 2 ^ 16) :
    (d &&& ~~~(BitVec.ofNat 64 0xFFFF <<< q)) ||| (BitVec.ofNat 64 v <<< q) =
      BitVec.ofNat 64 (d.toNat - d.toNat / 2 ^ q % 2 ^ 16 * 2 ^ q + v * 2 ^ q) := by
  apply BitVec.eq_of_getLsbD_eq
  intro i hi
  have mask : ∀ j, Nat.testBit 0xFFFF j = decide (j < 16) := Nat.testBit_two_pow_sub_one 16
  rw [replaceField_parts, BitVec.getLsbD_ofNat, Nat.testBit_two_pow_mul_add _ (Nat.mod_lt _ (by positivity)),
    Nat.testBit_two_pow_mul_add _ hv, Nat.testBit_mod_two_pow, Nat.testBit_div_two_pow, Nat.testBit_div_two_pow]
  simp only [BitVec.getLsbD_or, BitVec.getLsbD_and, BitVec.getLsbD_not, BitVec.getLsbD_shiftLeft, BitVec.getLsbD_ofNat, mask, hi,
    BitVec.testBit_toNat]
  by_cases below : i < q
  · simp [below]
  · by_cases inside : i - q < 16
    · simp [below, inside, show i - q < 64 by omega]
    · have out : v.testBit (i - q) = false :=
        Nat.testBit_lt_two_pow (Nat.lt_of_lt_of_le hv (Nat.pow_le_pow_right (by decide) (by omega)))
      simp [below, inside, out, show i - q - 16 + 16 + q = i by omega]

/-- MOVK replaces field IMM[17:16] of s[D] by IMM[15:0] (R57). -/
theorem movk_eq {f : Ins} (d : BitVec 64) (h : f.imm.toNat < 2 ^ 18) :
    movk f d = BitVec.ofNat 64 (d.toNat - d.toNat / 2 ^ (16 * (f.imm.toNat / 2 ^ 16)) % 2 ^ 16 * 2 ^ (16 * (f.imm.toNat / 2 ^ 16)) +
      f.imm.toNat % 2 ^ 16 * 2 ^ (16 * (f.imm.toNat / 2 ^ 16))) := by
  have number : immF f 17 16 = f.imm.toNat / 2 ^ 16 := by simp only [immF, bitsN]; omega
  have value : immF f 15 0 = f.imm.toNat % 2 ^ 16 := by simp only [immF, bitsN]; omega
  rw [movk, number, value]
  exact replaceField_eq _ _ _ (Nat.mod_lt _ (by decide))

/-! ### One lemma for each shape of a scalar instruction -/

section
variable {t : TileId} {op : Nat} {f : Ins} {s : State} {c : Instr}

/-- s[D] = g(s[A], imm). -/
theorem gives_aluImm {imm v : BitVec 64} {g : BitVec 64 → BitVec 64 → BitVec 64} (he : exec c s = aluImm op imm g t f s)
    (hb : f.b = 0) (hv : g (sGet (tileAt t.toNat s) f.a.toNat) imm = v) (h : Issues t 0 op f s) :
    Gives c s (WroteS t f.d v s) := by
  refine ⟨_, he, ?_⟩
  rw [encOf_none (.inl rfl) (.inl rfl) (.inr hb) (Nat.and_zero _) (.inl rfl) rfl, ← hv]
  exact issue_wroteS h (fun x => g (sGet x f.a.toNat) imm) (fun _ => rfl)

/-- p[D] = s[A] relation s[B]. -/
theorem gives_cmpReg {v : Bool} {g : BitVec 64 → BitVec 64 → Bool} (he : exec c s = cmpReg op g t f s) (hi : f.imm = 0)
    (hv : g (sGet (tileAt t.toNat s) f.a.toNat) (sGet (tileAt t.toNat s) f.b.toNat) = v) (hd : f.d.toNat < 8)
    (h : Issues t 0 op f s) : Gives c s (WroteP t f.d v s) := by
  refine ⟨_, he, ?_⟩
  rw [encOf_none (.inl rfl) (.inl rfl) (.inl rfl) (imm_zReg hi) (.inl rfl) (decide_eq_true hd), ← hv]
  exact issue_wroteP h (fun x => g (sGet x f.a.toNat) (sGet x f.b.toNat)) (fun _ => rfl) hd

/-- p[D] = s[A] relation imm. -/
theorem gives_cmpImm {v : Bool} {g : BitVec 64 → BitVec 64 → Bool} (he : exec c s = cmpImm op g t f s) (hb : f.b = 0)
    (hv : g (sGet (tileAt t.toNat s) f.a.toNat) (immS f) = v) (hd : f.d.toNat < 8)
    (h : Issues t 0 op f s) : Gives c s (WroteP t f.d v s) := by
  refine ⟨_, he, ?_⟩
  rw [encOf_none (.inl rfl) (.inl rfl) (.inr hb) (Nat.and_zero _) (.inl rfl) (decide_eq_true hd), ← hv]
  exact issue_wroteP h (fun x => g (sGet x f.a.toNat) (immS f)) (fun _ => rfl) hd

/-- p[D] = g(p[A], p[B]). -/
theorem gives_predReg {b v : Bool} {g : Bool → Bool → Bool} (he : exec c s = predReg op b g t f s) (hi : f.imm = 0)
    (ha : f.a.toNat < 8) (hb8 : f.b.toNat < 8) (hb : b = true ∨ f.b = 0)
    (hv : g (pGet (tileAt t.toNat s) f.a.toNat) (pGet (tileAt t.toNat s) f.b.toNat) = v) (hd : f.d.toNat < 8)
    (h : Issues t 0 op f s) : Gives c s (WroteP t f.d v s) := by
  refine ⟨_, he, ?_⟩
  rw [encOf_none (.inl rfl) (.inl rfl) hb (imm_zReg hi) (.inl rfl) (by simp [hd, ha, hb8]), ← hv]
  exact issue_wroteP h (fun x => g (pGet x f.a.toNat) (pGet x f.b.toNat)) (fun _ => rfl) hd

/-- A comparison of registers into an index of 8 and above is illegal (R56). -/
theorem illegal_cmpReg {g : BitVec 64 → BitVec 64 → Bool} (he : exec c s = cmpReg op g t f s) (hd : 8 ≤ f.d.toNat)
    (hi : f.imm = 0) (may : canIssue t.toNat 0 op f s = true)
    (fetch : mapGet 0 s.istoreErr (t.toNat * 8192 + (tileAt t.toNat s).pc) = 0) :
    exec c s = .next (raiseFault t.toNat 4 (tileAt t.toNat s).pc (insWord 0 op f) 0 (fetched t.toNat s)) := by
  refine exec_encodingFault he ?_ may fetch
  rw [decide_eq_false (Nat.not_lt.mpr hd)]
  exact encOf_index (.inl rfl) (.inl rfl) (.inl rfl) (imm_zReg hi)

/-- A comparison with an immediate into an index of 8 and above is illegal (R56). -/
theorem illegal_cmpImm {g : BitVec 64 → BitVec 64 → Bool} (he : exec c s = cmpImm op g t f s) (hd : 8 ≤ f.d.toNat)
    (hb : f.b = 0) (may : canIssue t.toNat 0 op f s = true)
    (fetch : mapGet 0 s.istoreErr (t.toNat * 8192 + (tileAt t.toNat s).pc) = 0) :
    exec c s = .next (raiseFault t.toNat 4 (tileAt t.toNat s).pc (insWord 0 op f) 0 (fetched t.toNat s)) := by
  refine exec_encodingFault he ?_ may fetch
  rw [decide_eq_false (Nat.not_lt.mpr hd)]
  exact encOf_index (.inl rfl) (.inl rfl) (.inr hb) (Nat.and_zero _)

/-- A predicate operation that names an index of 8 and above is illegal (R56). -/
theorem illegal_predReg {b : Bool} {g : Bool → Bool → Bool} (he : exec c s = predReg op b g t f s)
    (hx : 8 ≤ f.d.toNat ∨ 8 ≤ f.a.toNat ∨ 8 ≤ f.b.toNat) (hb : b = true ∨ f.b = 0) (hi : f.imm = 0)
    (may : canIssue t.toNat 0 op f s = true)
    (fetch : mapGet 0 s.istoreErr (t.toNat * 8192 + (tileAt t.toNat s).pc) = 0) :
    exec c s = .next (raiseFault t.toNat 4 (tileAt t.toNat s).pc (insWord 0 op f) 0 (fetched t.toNat s)) := by
  refine exec_encodingFault he ?_ may fetch
  have index : (decide (f.d.toNat < 8) && decide (f.a.toNat < 8) && decide (f.b.toNat < 8)) = false := by
    simp only [Bool.and_eq_false_iff, decide_eq_false_iff_not]
    omega
  rw [index]
  exact encOf_index (.inl rfl) (.inl rfl) hb (imm_zReg hi)

/-- SEL chooses by the predicate that C names. -/
theorem gives_sel (low : f.imm.toNat % 2 ^ 25 = 0) (high : f.imm.toNat < 2 ^ 28) (h : Issues t 0 0x18 f s) :
    Gives (.sel t f) s (WroteS t f.d (if pGet (tileAt t.toNat s) (f.imm.toNat / 2 ^ 25) then sGet (tileAt t.toNat s) f.a.toNat
      else sGet (tileAt t.toNat s) f.b.toNat) s) := by
  refine ⟨_, rfl, ?_⟩
  rw [encOf_none (.inl rfl) (.inl rfl) (.inl rfl) (and_selMask low high) (.inl rfl) rfl]
  exact issue_wroteS h (fun x => if pGet x (immC f) then sGet x f.a.toNat else sGet x f.b.toNat) (fun _ => rfl)

/-- MOVI writes the immediate. -/
theorem gives_movi (ha : f.a = 0) (hb : f.b = 0) (h : Issues t 0 0x90 f s) : Gives (.movi t f) s (WroteS t f.d (immS f) s) := by
  refine ⟨_, rfl, ?_⟩
  rw [encOf_none (.inl rfl) (.inr ha) (.inr hb) (Nat.and_zero _) (.inl rfl) rfl]
  exact issue_wroteS h (fun _ => immS f) (fun _ => rfl)

/-- MOVK writes s[D] with one field replaced. -/
theorem gives_movk {v : BitVec 64} (ha : f.a = 0) (hb : f.b = 0) (hi : f.imm.toNat < 2 ^ 18)
    (hv : movk f (sGet (tileAt t.toNat s) f.d.toNat) = v) (h : Issues t 0 0x91 f s) : Gives (.movk t f) s (WroteS t f.d v s) := by
  have clear : f.imm.toNat &&& 0x7FFC0000 = 0 := by rw [and_movkMask, Nat.div_eq_of_lt hi]; rfl
  refine ⟨_, rfl, ?_⟩
  rw [encOf_none (.inl rfl) (.inr ha) (.inr hb) clear (.inl rfl) rfl, ← hv]
  exact issue_wroteS h (fun x => movk f (sGet x f.d.toNat)) (fun _ => rfl)

/-- MOVK with a bit of IMM[30:18] set has an encoding fault (R57). -/
theorem movk_reserved (hi : 2 ^ 18 ≤ f.imm.toNat) (may : canIssue t.toNat 0 0x91 f s = true)
    (fetch : mapGet 0 s.istoreErr (t.toNat * 8192 + (tileAt t.toNat s).pc) = 0) :
    exec (.movk t f) s = .next (raiseFault t.toNat 3 (tileAt t.toNat s).pc (insWord 0 0x91 f) 0 (fetched t.toNat s)) := by
  refine exec_encodingFault rfl (encOf_reserved ?_) may fetch
  rw [and_movkMask]
  omega

end

/-! ### Branches -/

section
variable {t : TileId} {cls op : Nat} {f : Ins} {s : State} {c : Instr}

/-- The register that a branch with a link writes. -/
def linkOf (link : Bool) (f : Ins) : Option Nat := if link then some f.d.toNat else none

/-- What a tile is after a jump: its link register holds the next PC, and its PC is the target. -/
def jumped (link : Bool) (f : Ins) (target : Nat) (x : Tile) : Tile :=
  { if link then sSet f.d.toNat (BitVec.ofNat 64 (x.pc + 1)) x else x with pc := target }

/-- A jump in range changes its tile alone. -/
theorem jumpTo_inRange {link : Bool} {target : Int} {w : BitVec 64} (h : 0 ≤ target ∧ target ≤ 8191) :
    jumpTo (linkOf link f) target t.toNat w s = updTile t.toNat (jumped link f target.toNat) s := by
  unfold jumpTo
  rw [if_pos h]
  cases link <;> rfl

/-- A jump writes no register of its tile but the link register (R58). -/
theorem sGet_jumped (link : Bool) (target : Nat) (x : Tile) (k : BitVec 6) :
    sGet (jumped link f target x) k.toNat =
      if link ∧ k = f.d ∧ f.d ≠ 0 then BitVec.ofNat 64 (x.pc + 1) else sGet x k.toNat := by
  cases link with
  | false => rfl
  | true =>
    have zero : f.d.toNat = 0 ↔ f.d = 0 := bv_toNat_eq (b := (0 : BitVec 6))
    show sGet (sSet f.d.toNat _ x) k.toNat = _
    rw [sGet_sSet]
    simp [bv_toNat_eq, zero]

/-- A jump leaves of its tile everything but the PC and the scalar registers. -/
theorem jumped_frame (link : Bool) (target : Nat) (x : Tile) :
    jumped link f target x = { x with pc := target, sreg := (jumped link f target x).sreg } := by
  cases link with
  | false => rfl
  | true =>
    show ({ sSet f.d.toNat _ x with pc := target } : Tile) = _
    rw [sSet_frame]
    rfl

/-- The target of a branch is read from its tile, before the link is written (R58). -/
def branchRun (link : Bool) (f : Ins) (target : Tile → Int) (t : Nat) (w : BitVec 64) (s : State) : State :=
  jumpTo (linkOf link f) (target (tileAt t s)) t w s

/-- An instruction whose predicate is false falls through (R51). -/
theorem gives_fallThrough {run : Nat → BitVec 64 → State → State} (he : exec c s = .next (issue t cls op f none run s))
    (may : canIssue t.toNat cls op f s = true)
    (fetch : mapGet 0 s.istoreErr (t.toNat * 8192 + (tileAt t.toNat s).pc) = 0)
    (pred : pGet (tileAt t.toNat s) f.p.toNat = false) (room : (tileAt t.toNat s).pc ≠ 8191) :
    Gives c s (GoesTo t ((tileAt t.toNat s).pc + 1) s) := by
  have e := tileAt_fetched fetch
  have moved : GoesTo t ((tileAt t.toNat (fetched t.toNat s)).pc + 1) (fetched t.toNat s)
      (advance t.toNat (insWord cls op f) (fetched t.toNat s)) := advance_spec (by rw [e]) (by rw [e]; exact room)
  refine ⟨_, he.trans (congrArg _ (issue_skip run may fetch pred)), ?_⟩
  rw [e] at moved
  exact moved.ofFetched fetch

/-- The tile of a branch in range, and nothing else, is as the jump leaves it after the fetch. -/
theorem issue_branch_inRange {link : Bool} {target : Tile → Int} (h : Issues t cls op f s)
    (ht : ∀ x : Tile, target { x with incs := [] } = target x)
    (range : 0 ≤ target (tileAt t.toNat s) ∧ target (tileAt t.toNat s) ≤ 8191) :
    let s' := issue t cls op f none (branchRun link f target) s
    tileAt t.toNat s' = jumped link f (target (tileAt t.toNat s)).toNat { tileAt t.toNat s with incs := [] } ∧ OnlyTile t s s' := by
  have e := tileAt_fetched h.fetch
  simp only [issue_run h, branchRun, e, ht, jumpTo_inRange range, tileAt_updTile_self]
  exact ⟨trivial, (OnlyTile.fetched h.fetch).trans (OnlyTile.updTile t _ _)⟩

/-- A branch out of range raises fault 0x10 at itself (R58). -/
theorem issue_branch_outOfRange {link : Bool} {target : Tile → Int} (h : Issues t cls op f s)
    (ht : ∀ x : Tile, target { x with incs := [] } = target x)
    (range : ¬ (0 ≤ target (tileAt t.toNat s) ∧ target (tileAt t.toNat s) ≤ 8191)) :
    issue t cls op f none (branchRun link f target) s = raiseFault t.toNat 0x10 (tileAt t.toNat s).pc (insWord cls op f)
      (target (tileAt t.toNat s) % 2 ^ 64).toNat (fetched t.toNat s) := by
  have e := tileAt_fetched h.fetch
  simp only [issue_run h, branchRun, e, ht, jumpTo, if_neg range, faultHere]

/-- What R58 asks of a branch to `target`, with or without a link: it falls through where its predicate is false, goes to a target
in range, and faults on any other. -/
def JumpsTo (t : TileId) (f : Ins) (s : State) (c : Instr) (op : Nat) (target : Int) (link : Bool) : Prop :=
  let x := tileAt t.toNat s
  (canIssue t.toNat 1 op f s = true → mapGet 0 s.istoreErr (t.toNat * 8192 + x.pc) = 0 → pGet x f.p.toNat = false →
    x.pc ≠ 8191 → Gives c s (GoesTo t (x.pc + 1) s)) ∧
  (Issues t 1 op f s →
    (0 ≤ target ∧ target ≤ 8191 → Gives c s (fun s' =>
      (tileAt t.toNat s').pc = target.toNat ∧
      (∀ k : BitVec 6, sGet (tileAt t.toNat s') k.toNat =
        if link ∧ k = f.d ∧ f.d ≠ 0 then BitVec.ofNat 64 (x.pc + 1) else sGet x k.toNat) ∧
      tileAt t.toNat s' = { x with pc := target.toNat, sreg := (tileAt t.toNat s').sreg, incs := [] } ∧ OnlyTile t s s')) ∧
    (¬ (0 ≤ target ∧ target ≤ 8191) → exec c s = .next (raiseFault t.toNat 0x10 x.pc (insWord 1 op f) (target % 2 ^ 64).toNat
      (fetched t.toNat s))))

/-- An instruction of the branch class that issues as a jump does what R58 asks. -/
theorem jumpsTo_of_exec {link : Bool} {enc : Option Nat} (target : Tile → Int)
    (he : exec c s = .next (issue t 1 op f enc (branchRun link f target) s)) (hn : enc = none)
    (ht : ∀ x : Tile, target { x with incs := [] } = target x) : JumpsTo t f s c op (target (tileAt t.toNat s)) link := by
  subst hn
  refine ⟨gives_fallThrough he, fun h => ⟨fun range => ?_, fun range => ?_⟩⟩
  · obtain ⟨tile, only⟩ := issue_branch_inRange (link := link) h ht range
    refine ⟨_, he, ?_, fun k => ?_, ?_, only⟩
    · rw [tile, jumped_frame]
    · rw [tile]
      exact sGet_jumped link _ _ k
    · rw [tile]
      exact jumped_frame link _ _
  · exact he.trans (congrArg _ (issue_branch_outOfRange h ht range))

end

/-! ### The obligations -/

/-- Settles O6: every result is that of its shape's lemma, the shifts and MOVK written as numbers. -/
theorem scalarImmediateResults : Obligations.ScalarImmediateResults := by
  intro t f s
  refine ⟨fun hb => ?_, fun ha hb => gives_movi ha hb, fun ha hb hi => gives_movk ha hb hi (movk_eq _ hi),
    fun _ _ hi => movk_reserved hi, gives_sel⟩
  refine ⟨gives_aluImm rfl hb rfl, gives_aluImm rfl hb rfl, gives_aluImm rfl hb rfl, gives_aluImm rfl hb rfl, gives_aluImm rfl hb rfl,
    gives_aluImm rfl hb ?shl, gives_aluImm rfl hb ?shr, gives_aluImm rfl hb ?sra⟩
  case shl => rw [shl64_eq, toNat_immShift]
  case shr => rw [shr64_eq, toNat_immShift]
  case sra => rw [sra64_eq, toNat_immShift]

/-- Settles O7: every result and every illegal index is that of its shape's lemma. -/
theorem predicateResults : Obligations.PredicateResults := by
  intro t f s
  refine ⟨fun hi => ?registers, fun hi ha hb => ?predicates, fun hb => ?immediates, fun hd hi => ?illegalRegisters,
    fun hd hb => ?illegalImmediates, fun hx hi => ?illegalPredicates, fun hx hb hi => ?illegalNot⟩
  case registers =>
    exact ⟨gives_cmpReg rfl hi (beq_eq_decide _ _), gives_cmpReg rfl hi (bne_eq_decide_ne _ _), gives_cmpReg rfl hi BitVec.slt_eq_decide,
      gives_cmpReg rfl hi BitVec.sle_eq_decide, gives_cmpReg rfl hi BitVec.ult_eq_decide, gives_cmpReg rfl hi BitVec.ule_eq_decide⟩
  case predicates =>
    exact ⟨gives_predReg rfl hi ha hb (.inl rfl) rfl, gives_predReg rfl hi ha hb (.inl rfl) rfl,
      gives_predReg rfl hi ha hb (.inl rfl) rfl, fun hb0 => gives_predReg (g := fun a _ => !a) rfl hi ha hb (.inr hb0) rfl⟩
  case immediates =>
    exact ⟨gives_cmpImm rfl hb (beq_eq_decide _ _), gives_cmpImm rfl hb (bne_eq_decide_ne _ _), gives_cmpImm rfl hb BitVec.slt_eq_decide,
      gives_cmpImm rfl hb BitVec.sle_eq_decide, gives_cmpImm rfl hb BitVec.ult_eq_decide, gives_cmpImm rfl hb BitVec.ule_eq_decide⟩
  case illegalRegisters =>
    exact ⟨illegal_cmpReg rfl hd hi, illegal_cmpReg rfl hd hi, illegal_cmpReg rfl hd hi, illegal_cmpReg rfl hd hi,
      illegal_cmpReg rfl hd hi, illegal_cmpReg rfl hd hi⟩
  case illegalImmediates =>
    exact ⟨illegal_cmpImm rfl hd hb, illegal_cmpImm rfl hd hb, illegal_cmpImm rfl hd hb, illegal_cmpImm rfl hd hb,
      illegal_cmpImm rfl hd hb, illegal_cmpImm rfl hd hb⟩
  case illegalPredicates =>
    exact ⟨illegal_predReg rfl hx (.inl rfl) hi, illegal_predReg rfl hx (.inl rfl) hi, illegal_predReg rfl hx (.inl rfl) hi⟩
  case illegalNot => exact illegal_predReg (g := fun a _ => !a) rfl (hx.elim .inl (.inr ∘ .inl)) (.inr hb) hi

/-- Settles O8: each of the four is a jump whose target is read from its tile before the link is written. -/
theorem branchTargets : Obligations.BranchTargets := by
  intro t f s
  refine ⟨fun ha hb hd => ?br, fun hd hb hi => ?jr, fun ha hb => ?call, fun hb hi => ?callr⟩
  case br =>
    exact jumpsTo_of_exec (link := false) (fun x => x.pc + f.imm.toInt) rfl
      (encOf_none (.inr hd) (.inr ha) (.inr hb) (Nat.and_zero _) (.inl rfl) rfl) (fun _ => rfl)
  case jr =>
    exact jumpsTo_of_exec (link := false) (fun x => (sGet x f.a.toNat).toNat) rfl
      (encOf_none (.inr hd) (.inl rfl) (.inr hb) (imm_zReg hi) (.inl rfl) rfl) (fun _ => rfl)
  case call =>
    exact jumpsTo_of_exec (link := true) (fun x => x.pc + f.imm.toInt) rfl
      (encOf_none (.inl rfl) (.inr ha) (.inr hb) (Nat.and_zero _) (.inl rfl) rfl) (fun _ => rfl)
  case callr =>
    exact jumpsTo_of_exec (link := true) (fun x => (sGet x f.a.toNat).toNat) rfl
      (encOf_none (.inl rfl) (.inl rfl) (.inr hb) (imm_zReg hi) (.inl rfl) rfl) (fun _ => rfl)

end Sys2Proof.Machine

/-! PROOFS. Sums modulo 2^96 in an accumulator (R105, R106): O20. -/

namespace Sys2Proof.Machine

/-! ### What a step adds -/

/-- A product's contribution to X and to the flags does not depend on the element it meets (R105): the cases are a NaN, an infinity
that meets a zero, another infinity, and a finite product. -/
theorem mmaStep_eq_add (anchor : Int) (e : BitVec 96 × BitVec 5) (a sa b sb : Val) :
    mmaStep anchor e a sa b sb =
      (e.1 + (mmaStep anchor (0, 0) a sa b sb).1, e.2 ||| (mmaStep anchor (0, 0) a sa b sb).2) := by
  simp only [mmaStep]
  split_ifs
  · simp
  · simp
  · simp
  · cases mulV (mulV a sa) (mulV b sb) with
    | nan => simp
    | inf neg => simp
    | fin neg n d => dsimp only; split_ifs <;> simp [BitVec.or_assoc]

/-- A fold whose step adds to X and ors into the flags adds the sum of what each step adds, modulo 2^96, and ors every flag. -/
theorem foldl_add_or {α : Type} {add : BitVec 96 × BitVec 5 → α → BitVec 96 × BitVec 5}
    (h : ∀ e p, add e p = (e.1 + (add (0, 0) p).1, e.2 ||| (add (0, 0) p).2)) (ps : List α) (x : BitVec 96) (fl : BitVec 5) :
    ps.foldl add (x, fl) = (x + BitVec.ofInt 96 (ps.map fun p => (add (0, 0) p).1.toInt).sum,
      ps.foldl (fun f p => f ||| (add (0, 0) p).2) fl) := by
  induction ps generalizing x fl with
  | nil => simp
  | cons p ps ih => rw [List.foldl_cons, h, ih]; simp [BitVec.ofInt_add, BitVec.add_assoc]

/-- A sum modulo 2^96 is the true sum where that fits (R106). -/
theorem toInt_add_ofInt_of_fits {x : BitVec 96} {n : Int} (low : -(2 ^ 95) ≤ x.toInt + n) (high : x.toInt + n < 2 ^ 95) :
    (x + BitVec.ofInt 96 n).toInt = x.toInt + n := by
  have sum : x + BitVec.ofInt 96 n = BitVec.ofInt 96 (x.toInt + n) := by rw [BitVec.ofInt_add, BitVec.ofInt_toInt]
  rw [sum, BitVec.toInt_ofInt_eq_self (by decide) low high]

/-! ### Products on the grid -/

/-- A whole number rounds to itself. -/
theorem roundNat_mul_self (rm : Nat) (neg : Bool) (q : Nat) {d : Nat} (hd : 0 < d) : roundNat rm neg (q * d) d = q := by
  simp [roundNat, hd, hd.ne]

/-- The sign and the magnitude of an integer give it back. -/
theorem sgn_natAbs (q : Int) : sgn (decide (q < 0)) q.natAbs = q := by
  simp only [sgn, decide_eq_true_eq]
  split <;> omega

/-- A finite product that is a whole number of grid units below 2^95 is added as it is, with no flag (R105). -/
theorem mmaStep_of_onGrid {anchor : Int} {n d k : Nat} {q : Int} (hk : 0 < k)
    (grid : scaleDown n d (anchor - 48) = (q.natAbs * k, k)) (fits : q.natAbs < 2 ^ 95) :
    mmaStep anchor (0, 0) (.fin (decide (q < 0)) n d) (.fin false 1 1) (.fin false 1 1) (.fin false 1 1) =
      (BitVec.ofInt 96 q, 0) := by
  have below : ¬ 2 ^ 95 ≤ q.natAbs := Nat.not_le.2 fits
  simp only [mmaStep, mulV, Bool.bne_false, Nat.mul_one, grid, roundNat_mul_self 0 _ _ hk, if_neg below, sgn_natAbs]
  simp [isInfV]

/-! ### The obligation -/

/-- Settles O20: the steps' own sums add up modulo 2^96, which determines a sum that fits. -/
theorem wrappedSumsAreTrue : Obligations.WrappedSumsAreTrue := by
  intro anchor x fl add rounded
  refine ⟨fun ps => ?sums, fun q _ _ fits => ?grid⟩
  case sums =>
    intro r
    have total : r = (x + BitVec.ofInt 96 (ps.map rounded).sum, _) :=
      foldl_add_or (fun e p => mmaStep_eq_add anchor e p.1 p.2.1 p.2.2.1 p.2.2.2) ps x fl
    rw [total]
    exact ⟨rfl, toInt_add_ofInt_of_fits⟩
  case grid =>
    intro product
    by_cases below : anchor < 48
    case pos =>
      have abs : (anchor - 48).natAbs = (48 - anchor).toNat := by omega
      simp only [add, product, if_pos below]
      exact mmaStep_of_onGrid (Nat.two_pow_pos _) (by rw [scaleDown, if_pos (by omega), abs]) fits
    case neg =>
      have abs : (anchor - 48).natAbs = (anchor - 48).toNat := by omega
      simp only [add, product, if_neg below]
      exact mmaStep_of_onGrid (Nat.two_pow_pos _) (by rw [scaleDown, if_neg (by omega), abs, Nat.one_mul]) fits

end Sys2Proof.Machine

/-! PROOFS. Attribution, the service recorder and the change log (R393, R394, R401 to R405, R410 to R421): O59. -/

namespace Sys2Proof.Machine

/-! ### The largest remainders (R403) -/

/-- The microjoules that the quotients leave. -/
def leftover (e : Nat) (ws : List (Nat × Nat)) : Nat := e - ((splitOf e ws).map (·.q)).sum

/-- A share is its account's quotient, and one microjoule more where the account ranks among the leftover ones. -/
theorem sharesOf_eq (e : Nat) (ws : List (Nat × Nat)) : sharesOf e ws =
    (splitOf e ws).map (fun x => (x.acct, x.q + b2n (decide (rankOf (splitOf e ws) x < leftover e ws)))) := by
  simp only [sharesOf, leftover, foldl_add_eq_sum, Nat.zero_add]
  rfl

theorem splitOf_of_weightless {e : Nat} {ws : List (Nat × Nat)} (h : (ws.map (·.2)).sum = 0) :
    splitOf e ws = ws.map (fun w => ⟨w.1, if w.1 = acctIdle then e else 0, 0⟩) := by
  simp [splitOf, foldl_add_eq_sum, h]

theorem splitOf_of_weighted {e : Nat} {ws : List (Nat × Nat)} (h : (ws.map (·.2)).sum ≠ 0) :
    splitOf e ws = ws.map (fun w => ⟨w.1, e * w.2 / (ws.map (·.2)).sum, e * w.2 % (ws.map (·.2)).sum⟩) := by
  simp only [splitOf, foldl_add_eq_sum, Nat.zero_add, if_neg h]

/-- Without any weight the idle account takes all of the energy, and nothing is left over. -/
theorem sharesOf_of_weightless {e : Nat} {ws : List (Nat × Nat)} (nodup : (ws.map (·.1)).Nodup) (idle : acctIdle ∈ ws.map (·.1))
    (h : (ws.map (·.2)).sum = 0) : ∀ x ∈ sharesOf e ws, x.2 = if x.1 = acctIdle then e else 0 := by
  have none : leftover e ws = 0 := by
    simp [leftover, splitOf_of_weightless h, Function.comp_def, sum_idle e ws nodup idle]
  intro x hx
  rw [sharesOf_eq, none, splitOf_of_weightless h] at hx
  obtain ⟨w, -, rfl⟩ : ∃ w ∈ ws, (w.1, (if w.1 = acctIdle then e else 0) + 0) = x := by
    simpa [b2n] using hx
  rfl

section
variable {e : Nat} {ws : List (Nat × Nat)}

/-- What the quotients leave, in the unit of the remainders, is the sum of the remainders. -/
theorem leftover_mul_weight (h : (ws.map (·.2)).sum ≠ 0) :
    (ws.map (·.2)).sum * leftover e ws = ((splitOf e ws).map (·.r)).sum := by
  have key : ∀ (n : Nat) (l : List (Nat × Nat)), e * (l.map (·.2)).sum =
      n * (l.map (fun w => e * w.2 / n)).sum + (l.map (fun w => e * w.2 % n)).sum := by
    intro n l
    induction l with
    | nil => simp
    | cons w l ih =>
      have split := Nat.div_add_mod (e * w.2) n
      simp only [List.map_cons, List.sum_cons, Nat.mul_add]
      omega
  have whole := key (ws.map (·.2)).sum ws
  simp only [leftover, splitOf_of_weighted h, List.map_map, Function.comp_def]
  rw [Nat.mul_sub, Nat.mul_comm _ e]
  omega

/-- An account with no remainder ranks behind every account that has one. -/
theorem countP_remainder_le_rankOf {l : List Split} {x : Split} (h : x.r = 0) :
    l.countP (fun y => decide (0 < y.r)) ≤ rankOf l x := by
  rw [rankOf_eq]
  refine List.countP_mono_left (fun y _ hy => ?_)
  simpa [h] using Or.inl (of_decide_eq_true hy)

/-- Remainders below `n` add up to at most `n` for each one that is not zero. -/
theorem sum_remainders_le {n : Nat} (l : List Split) (h : ∀ y ∈ l, y.r < n) :
    (l.map (·.r)).sum ≤ n * l.countP (fun y => decide (0 < y.r)) := by
  induction l with
  | nil => simp
  | cons y l ih =>
    have tail := ih (fun z hz => h z (List.mem_cons_of_mem _ hz))
    have head := h y List.mem_cons_self
    rw [List.map_cons, List.sum_cons, List.countP_cons]
    by_cases hy : 0 < y.r
    · rw [if_pos (decide_eq_true hy), Nat.mul_add, Nat.mul_one]
      omega
    · rw [if_neg (by simpa using hy), Nat.add_zero]
      omega

/-- Only accounts with a remainder rank among the leftover microjoules: those are fewer than the remainders. -/
theorem remainder_ne_zero_of_rankOf_lt (h : (ws.map (·.2)).sum ≠ 0) {x : Split}
    (rank : rankOf (splitOf e ws) x < leftover e ws) : x.r ≠ 0 := by
  intro zero
  have small : ∀ y ∈ splitOf e ws, y.r < (ws.map (·.2)).sum := by
    intro y hy
    rw [splitOf_of_weighted h] at hy
    obtain ⟨w, -, rfl⟩ := List.mem_map.mp hy
    exact Nat.mod_lt _ (Nat.pos_of_ne_zero h)
  have behind := countP_remainder_le_rankOf (l := splitOf e ws) zero
  have total := leftover_mul_weight (e := e) h
  have fewer := Nat.le_of_mul_le_mul_left (total.trans_le (sum_remainders_le _ small)) (Nat.pos_of_ne_zero h)
  omega

/-- The account and the weight of a share fix its split. -/
theorem mem_splitOf_of_share (nodup : (ws.map (·.1)).Nodup) (h : (ws.map (·.2)).sum ≠ 0) {x : Nat × Nat} (hx : x ∈ sharesOf e ws)
    {w : Nat} (hw : (x.1, w) ∈ ws) :
    let p : Split := ⟨x.1, e * w / (ws.map (·.2)).sum, e * w % (ws.map (·.2)).sum⟩
    p ∈ splitOf e ws ∧ x.2 = p.q + b2n (decide (rankOf (splitOf e ws) p < leftover e ws)) := by
  intro p
  have mem : p ∈ splitOf e ws := by
    rw [splitOf_of_weighted h]
    exact List.mem_map.mpr ⟨_, hw, rfl⟩
  refine ⟨mem, ?_⟩
  rw [sharesOf_eq] at hx
  obtain ⟨y, hy, rfl⟩ := List.mem_map.mp hx
  have same : y = p := List.inj_on_of_nodup_map (by rw [splitOf_acct]; exact nodup) hy mem rfl
  rw [same]

/-- With weights, a share is its quotient, or one microjoule more if its remainder is among the largest (R403). -/
theorem sharesOf_of_weighted (nodup : (ws.map (·.1)).Nodup) (h : (ws.map (·.2)).sum ≠ 0) {x : Nat × Nat}
    (hx : x ∈ sharesOf e ws) {w : Nat} (hw : (x.1, w) ∈ ws) :
    let wt := (ws.map (·.2)).sum
    x.2 = e * w / wt ∨ (x.2 = e * w / wt + 1 ∧ e * w % wt ≠ 0 ∧ ∀ y ∈ sharesOf e ws, ∀ u : Nat, (y.1, u) ∈ ws →
      y.2 = e * u / wt → e * u % wt < e * w % wt ∨ (e * u % wt = e * w % wt ∧ x.1 < y.1)) := by
  obtain ⟨xmem, xshare⟩ := mem_splitOf_of_share nodup h hx hw
  by_cases first : rankOf (splitOf e ws) ⟨x.1, e * w / (ws.map (·.2)).sum, e * w % (ws.map (·.2)).sum⟩ < leftover e ws
  case neg => exact .inl (by simpa [first, b2n] using xshare)
  case pos =>
    refine .inr ⟨by simpa [first, b2n] using xshare, remainder_ne_zero_of_rankOf_lt h first, fun y hy u hu without => ?_⟩
    obtain ⟨ymem, yshare⟩ := mem_splitOf_of_share nodup h hy hu
    have last : ¬ rankOf (splitOf e ws) ⟨y.1, e * u / (ws.map (·.2)).sum, e * u % (ws.map (·.2)).sum⟩ < leftover e ws := by
      intro lt
      simp only [lt, decide_true, b2n, if_true] at yshare
      omega
    have differ : x.1 ≠ y.1 := by
      intro same
      have := List.inj_on_of_nodup_map (by rw [splitOf_acct]; exact nodup) xmem ymem same
      rw [this] at first
      exact last first
    by_contra behind
    have before : Before ⟨y.1, e * u / (ws.map (·.2)).sum, e * u % (ws.map (·.2)).sum⟩
        ⟨x.1, e * w / (ws.map (·.2)).sum, e * w % (ws.map (·.2)).sum⟩ := by
      simp only [Before]
      omega
    have := rankOf_lt_rankOf _ _ _ ymem before
    omega

end

/-! ### Reports, status bits and event records -/

/-- A report changes the recorder alone. -/
theorem report_frame (type : Byte) (origin : Origin) (key : BitVec 32) (payload : List Byte) (s : State) :
    { report type origin key payload s with recorder := s.recorder } = s := by
  unfold report
  dsimp only
  split <;> rfl

/-- A report that finds room is the last one of the intake (R412, R413). -/
theorem report_of_room {type : Byte} {origin : Origin} {key : BitVec 32} {payload : List Byte} {s : State}
    (room : s.recorder.intake.length < 64) :
    (report type origin key payload s).recorder.intake = s.recorder.intake ++ [mkReport type origin key payload s] := by
  simp [report, intakeMax, room]

@[simp] theorem reg_report (k : Nat) (type : Byte) (origin : Origin) (key : BitVec 32) (payload : List Byte) (s : State) :
    reg k (report type origin key payload s) = reg k s := reg_of_regs (by simp) k

/-- A status bit changes its register and the recorder alone. -/
theorem statusBit_frame (type : Byte) (origin : Origin) (a i : Nat) (b : Bool) (s : State) :
    { statusBit type origin a i b s with regs := s.regs, recorder := s.recorder } = s := by
  unfold statusBit
  split
  · rfl
  · exact congrArg (fun t : State => { t with regs := s.regs }) (report_frame _ _ _ _ (regBit a i b s))

theorem regIs_regBit {a i j : Nat} (b : Bool) (s : State) (hi : i < 32) :
    regIs a j (regBit a i b s) = if j = i then b else regIs a j s := by
  rw [regIs, reg_regBit, if_pos rfl, getLsbD_setBit _ _ _ _ hi, regIs]

/-- After a status bit has been set or cleared it reads so, and the other bits of its register read as before. -/
theorem regIs_statusBit {type : Byte} {origin : Origin} {a i j : Nat} {b : Bool} {s : State} (hi : i < 32) :
    regIs a j (statusBit type origin a i b s) = if j = i then b else regIs a j s := by
  unfold statusBit
  split
  case isTrue same =>
    by_cases h : j = i
    · rw [if_pos h, h, same]
    · rw [if_neg h]
  case isFalse => exact (congrArg (·.getLsbD j) (reg_report _ _ _ _ _ _)).trans (regIs_regBit b s hi)

theorem reg_statusBit {type : Byte} {origin : Origin} {a i k : Nat} {b : Bool} {s : State} (h : k ≠ a) :
    reg k (statusBit type origin a i b s) = reg k s := by
  unfold statusBit
  split
  · rfl
  · exact (reg_report _ _ _ _ _ _).trans (by rw [reg_regBit, if_neg h])

@[simp] theorem attrBit_attr (i : Nat) (b : Bool) (s : State) : (attrBit i b s).attr = s.attr :=
  (congrArg State.attr (statusBit_frame 0xA0 oGov aAttrStatus i b s) :)

theorem attrBit_frame (i : Nat) (b : Bool) (s : State) :
    { attrBit i b s with regs := s.regs, recorder := s.recorder } = s :=
  statusBit_frame 0xA0 oGov aAttrStatus i b s

theorem regIs_attrBit {i j : Nat} {b : Bool} {s : State} (hi : i < 32) :
    regIs 0x40_8904 j (attrBit i b s) = if j = i then b else regIs 0x40_8904 j s :=
  regIs_statusBit (type := 0xA0) (origin := oGov) (a := aAttrStatus) hi

theorem reg_attrBit {i k : Nat} {b : Bool} {s : State} (h : k ≠ 0x40_8904) : reg k (attrBit i b s) = reg k s :=
  reg_statusBit (type := 0xA0) (origin := oGov) (a := aAttrStatus) h

/-- An event record changes the event stream alone. -/
theorem evPostAt_frame (src : Byte) (value : BitVec 32) (stamp : BitVec 64) (m : Mark) (s : State) :
    { evPostAt src value stamp m s with evs := s.evs, evsLost := s.evsLost } = s := by
  unfold evPostAt
  split <;> rfl

/-- What a command leaves that posts one event record: the record ends the stream, or is counted where the stream is full (R43, R44). -/
def Posted (src : Byte) (seq : BitVec 32) (stamp : BitVec 64) (m : Mark) (s s' : State) : Prop :=
  (s.evs.length < 4096 → s'.evs = s.evs ++ [⟨stamp, m.pkg, src, m.st, seq⟩] ∧ s'.evsLost = s.evsLost) ∧
  (4096 ≤ s.evs.length → s'.evs = s.evs ∧ s'.evsLost = s.evsLost + 1)

theorem posted_evPostAt {src : Byte} {seq : BitVec 32} {stamp : BitVec 64} {m : Mark} {s t : State} (evs : t.evs = s.evs)
    (lost : t.evsLost = s.evsLost) : Posted src seq stamp m s (evPostAt src seq stamp m t) := by
  rw [Posted, evPostAt, evs]
  constructor
  · intro room
    rw [if_pos (show s.evs.length < evsMax from room)]
    exact ⟨rfl, lost⟩
  · intro full
    rw [if_neg (show ¬ s.evs.length < evsMax from Nat.not_lt.mpr full)]
    exact ⟨rfl, congrArg (· + 1) lost⟩

/-! ### The record committer and the change-log committer (R412 to R416, R421) -/

/-- The sizes of R410 and R415, written out. -/
theorem reportSize_eq (x : Report) : reportSize x = 4 * ((19 + x.payload.length) / 4) := by
  simp only [reportSize, recWords]
  congr 2
  omega

/-- The record that a report makes in the event stream has the stamp and the mark of its event; an overflow record those of its
commit (R414). -/
def recordStamp (x : Report) (s : State) : BitVec 64 := if x.type = 0x01 then now s else x.stamp
def recordMark (x : Report) (s : State) : Mark := if x.type = 0x01 then markNow s else x.mark

theorem commitReport_of_histMode {x : Report} {s : State} (mode : histMode s = true) :
    commitReport x s = evPostAt 0x01 s.recorder.nextSeq (recordStamp x s) (recordMark x s) { s with recorder := { s.recorder with
      nextSeq := s.recorder.nextSeq + 1
      hist := mapUpd Hist.zero s.recorder.hist x.type.toNat (histAdd s.recorder.nextSeq x.key) } } := by
  simp only [commitReport, mode, if_true]
  rfl

theorem commitReport_of_room {x : Report} {s : State} (mode : histMode s = false) (room : s.recorder.full = false)
    (fits : s.recorder.fill + reportSize x ≤ 262144) :
    commitReport x s = evPostAt 0x01 s.recorder.nextSeq (recordStamp x s) (recordMark x s) { s with recorder := { s.recorder with
      nextSeq := s.recorder.nextSeq + 1
      fill := s.recorder.fill + reportSize x
      recs := s.recorder.recs ++ [(s.recorder.nextSeq, x)] } } := by
  simp only [commitReport, mode, room, recBytesMax, Nat.not_lt.mpr fits, decide_false, Bool.or_false, if_false, Bool.false_eq_true]
  rfl

theorem commitReport_of_full {x : Report} {s : State} (mode : histMode s = false)
    (full : s.recorder.full = true ∨ 262144 < s.recorder.fill + reportSize x) :
    commitReport x s = { s with recorder := { s.recorder with full := true, lost := satAdd s.recorder.lost 1 } } := by
  have none : (s.recorder.full || decide (recBytesMax < s.recorder.fill + reportSize x)) = true := by
    rw [Bool.or_eq_true, decide_eq_true_eq]
    exact full
  simp only [commitReport, mode, none, if_true, if_false, Bool.false_eq_true]

/-- The greater of two keys, with the comparison turned round. -/
theorem keyMax_eq (a b : BitVec 32) : keyMax a b = if b.sle a then a else b := by
  unfold keyMax
  simp only [BitVec.sle_iff_toInt_le]
  split_ifs with up down
  · exact BitVec.eq_of_toInt_eq (by omega)
  · rfl
  · rfl
  · omega

/-- A key's histogram entry after a report (R416), the comparisons signed. -/
theorem mapGet_histAdd (m : SMap Hist) (seq key : BitVec 32) (t k : Nat) :
    mapGet Hist.zero (mapUpd Hist.zero m t (histAdd seq key)) k =
      let h := mapGet Hist.zero m k
      if k ≠ t then h else if h.count = 0 then ⟨1, seq, key, key⟩
      else ⟨satAdd h.count 1, seq, if h.min.sle key then h.min else key, if key.sle h.max then h.max else key⟩ := by
  rw [mapGet_mapUpd]
  by_cases same : k = t
  case neg => simp [same]
  case pos =>
    subst same
    rw [if_pos rfl]
    simp only [ne_eq, not_true_eq_false, if_false, histAdd, keyMin, keyMax_eq, BitVec.sle_iff_toInt_le]

section
variable {s : State}

/-! ### Commits -/

/-- The recorder once its writer has taken the first report: the overflow record that waits takes the entry that is free (R413). -/
def Recorder.taken (r : Recorder) (rest : List Report) : Recorder := { r with
  intake := if r.pendLost = 0 then rest
    else rest ++ [⟨r.pendStamp, 0x01, 0x4000, sat32 r.pendLost, leBytes 8 r.pendStamp.toNat, r.pendMark⟩]
  pendLost := 0 }

theorem exec_recordCommit {x : Report} {rest : List Report} (h : s.recorder.intake = x :: rest) :
    exec .recordCommit s = .next (commitReport x { s with recorder := s.recorder.taken rest }) := by
  show execRecordCommit s = _
  simp only [execRecordCommit, h]
  rfl

theorem exec_recordCommit_empty (h : s.recorder.intake = []) : exec .recordCommit s = .next s := by
  show execRecordCommit s = _
  simp only [execRecordCommit, h]

theorem exec_changeLogCommit {c : Change} {rest : List Change} (h : s.changes.intake = c :: rest) :
    exec .changeLogCommit s = .next (commitChange c { s with changes := { s.changes with intake := rest } }) := by
  show execChangeLogCommit s = _
  simp only [execChangeLogCommit, h]

theorem exec_changeLogCommit_empty (h : s.changes.intake = []) : exec .changeLogCommit s = .next s := by
  show execChangeLogCommit s = _
  simp only [execChangeLogCommit, h]

/-- A change-log event changes the recorder alone. -/
theorem logEvent_frame (i : Nat) (up : Bool) (s : State) : { logEvent i up s with recorder := s.recorder } = s :=
  report_frame _ _ _ _ s

/-- A full change log counts the entry as lost (R421). -/
theorem commitChange_of_full {c : Change} (full : 8192 ≤ s.changes.entries.length) :
    commitChange c s = { s with changes := { s.changes with lost := satAdd s.changes.lost 1 } } := by
  simp only [commitChange, logMax, full, if_true]

/-- The state in which an entry has been committed and its event record posted. -/
def enteredChange (c : Change) (s : State) : State :=
  evPostAt 0x03 s.changes.nextSeq c.stamp c.mark { s with changes := { s.changes with
    entries := s.changes.entries ++ [(s.changes.nextSeq, c)], nextSeq := s.changes.nextSeq + 1 } }

/-- An entry that finds room is committed; the recorder hears of it when the log comes to its warning level or is full (R421). -/
theorem commitChange_of_room {c : Change} (room : s.changes.entries.length < 8192) :
    commitChange c s = if s.changes.entries.length + 1 = 6144 then logEvent 1 true (enteredChange c s)
      else if s.changes.entries.length + 1 = 8192 then logEvent 0 true (enteredChange c s) else enteredChange c s := by
  simp only [commitChange, logMax, Nat.not_le.mpr room, if_false]
  rfl

/-- Besides its change-log event a commit does no more than enter the change. -/
theorem commitChange_frame {c : Change} (room : s.changes.entries.length < 8192) :
    { commitChange c s with recorder := s.recorder } = enteredChange c s := by
  have same : (enteredChange c s).recorder = s.recorder := evPostAt_recorder _ _ _ _ _
  rw [commitChange_of_room room, ← same]
  split_ifs
  · exact logEvent_frame _ _ _
  · exact logEvent_frame _ _ _
  · rfl

/-- In histogram mode the oldest report goes to its type's entry (R416). -/
theorem gives_recordCommit_histMode {x : Report} {rest : List Report} (h : s.recorder.intake = x :: rest)
    (mode : histMode s = true) : Gives .recordCommit s (fun s' =>
      { s'.recorder with hist := s.recorder.hist } = { s.recorder.taken rest with nextSeq := s.recorder.nextSeq + 1 } ∧
      (∀ k : Nat, mapGet Hist.zero s'.recorder.hist k =
        let h := mapGet Hist.zero s.recorder.hist k
        if k ≠ x.type.toNat then h else if h.count = 0 then ⟨1, s.recorder.nextSeq, x.key, x.key⟩
        else ⟨satAdd h.count 1, s.recorder.nextSeq, if h.min.sle x.key then h.min else x.key,
          if x.key.sle h.max then h.max else x.key⟩) ∧
      Posted 0x01 s.recorder.nextSeq (recordStamp x s) (recordMark x s) s s' ∧
      { s' with recorder := s.recorder, evs := s.evs, evsLost := s.evsLost } = s) := by
  refine ⟨_, (exec_recordCommit h).trans (congrArg _ (commitReport_of_histMode mode)), ?_, fun k => ?_, ?_, ?_⟩
  · rw [evPostAt_recorder]
    rfl
  · rw [evPostAt_recorder]
    exact mapGet_histAdd _ _ _ _ _
  · exact posted_evPostAt rfl rfl
  · exact congrArg (fun t : State => { t with recorder := s.recorder }) (evPostAt_frame _ _ _ _ _)

/-- With room for it the oldest report is the newest record (R412, R415). -/
theorem gives_recordCommit_room {x : Report} {rest : List Report} (h : s.recorder.intake = x :: rest)
    (mode : histMode s = false) (room : s.recorder.full = false)
    (fits : s.recorder.fill + 4 * ((19 + x.payload.length) / 4) ≤ 262144) : Gives .recordCommit s (fun s' =>
      s'.recorder = { s.recorder.taken rest with
        nextSeq := s.recorder.nextSeq + 1
        fill := s.recorder.fill + 4 * ((19 + x.payload.length) / 4)
        recs := s.recorder.recs ++ [(s.recorder.nextSeq, x)] } ∧
      Posted 0x01 s.recorder.nextSeq (recordStamp x s) (recordMark x s) s s' ∧
      { s' with recorder := s.recorder, evs := s.evs, evsLost := s.evsLost } = s) := by
  rw [← reportSize_eq] at fits ⊢
  refine ⟨_, (exec_recordCommit h).trans (congrArg _ (commitReport_of_room mode room fits)), ?_, ?_, ?_⟩
  · rw [evPostAt_recorder]
    rfl
  · exact posted_evPostAt rfl rfl
  · exact congrArg (fun t : State => { t with recorder := s.recorder }) (evPostAt_frame _ _ _ _ _)

/-- Without room the oldest report is lost and counted (R415). -/
theorem gives_recordCommit_full {x : Report} {rest : List Report} (h : s.recorder.intake = x :: rest)
    (mode : histMode s = false) (full : s.recorder.full = true ∨ 262144 < s.recorder.fill + 4 * ((19 + x.payload.length) / 4)) :
    Gives .recordCommit s (fun s' =>
      s' = { s with recorder := { s.recorder.taken rest with full := true, lost := satAdd s.recorder.lost 1 } }) := by
  rw [← reportSize_eq] at full
  exact ⟨_, (exec_recordCommit h).trans (congrArg _ (commitReport_of_full mode full)), rfl⟩

/-- The levels of which the recorder hears are 6,144 and 8,192 entries (R421). -/
theorem commitChange_recorder {c : Change} (room : s.changes.entries.length < 8192) :
    let n := s.changes.entries.length
    (n + 1 ≠ 6144 → n + 1 ≠ 8192 → (commitChange c s).recorder = s.recorder) ∧
    (n + 1 = 6144 ∨ n + 1 = 8192 → s.recorder.intake.length < 64 → ∃ x,
      (commitChange c s).recorder.intake = s.recorder.intake ++ [x] ∧ x.type = 0xA8 ∧
      x.payload = [if n + 1 = 6144 then 1 else 0]) := by
  intro n
  have same : (enteredChange c s).recorder = s.recorder := evPostAt_recorder _ _ _ _ _
  rw [commitChange_of_room room]
  refine ⟨fun notWarn notFull => ?_, fun level free => ?_⟩
  · rw [if_neg notWarn, if_neg notFull, same]
  · rw [← same] at free ⊢
    by_cases warn : n + 1 = 6144
    · rw [if_pos warn, if_pos warn]
      exact ⟨_, report_of_room free, rfl, rfl⟩
    · rw [if_neg warn, if_neg warn, if_pos (level.resolve_left warn)]
      exact ⟨_, report_of_room free, rfl, rfl⟩

/-- With room a commit enters the change, posts its event record and changes nothing else but the recorder (R421). -/
theorem commitChange_spec {c : Change} (room : s.changes.entries.length < 8192) :
    (commitChange c s).changes = { s.changes with
      entries := s.changes.entries ++ [(s.changes.nextSeq, c)], nextSeq := s.changes.nextSeq + 1 } ∧
    Posted 0x03 s.changes.nextSeq c.stamp c.mark s (commitChange c s) ∧
    { commitChange c s with changes := s.changes, recorder := s.recorder, evs := s.evs, evsLost := s.evsLost } = s := by
  have frame := commitChange_frame (c := c) room
  have changes : (commitChange c s).changes = (enteredChange c s).changes := (congrArg State.changes frame :)
  have evs : (commitChange c s).evs = (enteredChange c s).evs := (congrArg State.evs frame :)
  have lost : (commitChange c s).evsLost = (enteredChange c s).evsLost := (congrArg State.evsLost frame :)
  refine ⟨changes.trans (evPostAt_changes _ _ _ _ _), ?posted, ?rest⟩
  case posted =>
    rw [Posted, evs, lost]
    exact posted_evPostAt rfl rfl
  case rest =>
    have others := congrArg (fun t : State => { t with changes := s.changes, evs := s.evs, evsLost := s.evsLost }) frame
    have events := congrArg (fun t : State => { t with changes := s.changes })
      (evPostAt_frame 0x03 s.changes.nextSeq c.stamp c.mark { s with changes := { s.changes with
        entries := s.changes.entries ++ [(s.changes.nextSeq, c)], nextSeq := s.changes.nextSeq + 1 } })
    exact others.trans events

/-- A change that finds the log full is lost and counted (R421). -/
theorem gives_changeLogCommit_full {c : Change} {rest : List Change} (h : s.changes.intake = c :: rest)
    (full : 8192 ≤ s.changes.entries.length) : Gives .changeLogCommit s (fun s' =>
      s' = { s with changes := { s.changes with intake := rest, lost := satAdd s.changes.lost 1 } }) :=
  ⟨_, (exec_changeLogCommit h).trans (congrArg _ (commitChange_of_full full)), rfl⟩

/-- With room for it the oldest change is the newest entry, and the recorder hears of the two levels (R421). -/
theorem gives_changeLogCommit_room {c : Change} {rest : List Change} (h : s.changes.intake = c :: rest)
    (room : s.changes.entries.length < 8192) : Gives .changeLogCommit s (fun s' =>
      let n := s.changes.entries.length
      s'.changes = { s.changes with intake := rest, entries := s.changes.entries ++ [(s.changes.nextSeq, c)],
                                    nextSeq := s.changes.nextSeq + 1 } ∧
      Posted 0x03 s.changes.nextSeq c.stamp c.mark s s' ∧
      { s' with changes := s.changes, recorder := s.recorder, evs := s.evs, evsLost := s.evsLost } = s ∧
      (n + 1 ≠ 6144 → n + 1 ≠ 8192 → s'.recorder = s.recorder) ∧
      (n + 1 = 6144 ∨ n + 1 = 8192 → s.recorder.intake.length < 64 → ∃ x, s'.recorder.intake = s.recorder.intake ++ [x] ∧
        x.type = 0xA8 ∧ x.payload = [if n + 1 = 6144 then 1 else 0])) := by
  obtain ⟨changes, posted, others⟩ := commitChange_spec (c := c) (s := { s with changes := { s.changes with intake := rest } }) room
  refine ⟨_, exec_changeLogCommit h, changes, posted, ?rest, ?levels⟩
  case rest => exact (congrArg (fun t : State => { t with changes := s.changes }) others :)
  case levels => exact commitChange_recorder (c := c) (s := { s with changes := { s.changes with intake := rest } }) room

end

/-! ### Writes that rights allow -/

/-- The address of a register whose writes go by rights and the write's own effect alone: none of those that R10, R257, R261, R286,
R354, R435 and R453 treat before. -/
def plainAddress (a : Nat) : Bool :=
  a != 0x1_0014 && a != 0x8 && a / 0x10000 != 0x13 && !inChannel a && a != 0x3_1104 && a != 0x1_0000 && a != aGovHb

section
variable {o : Origin} {a : Nat} {v : BitVec 32} {s t : State} {r : RegDef}

/-- With room in the change log, an origin that may write such a register writes it. -/
theorem ctlWrite_eq_writeLogged (room : logRoom s = true) (lies : regAt a = some r) (writable : r.readOnly = false)
    (plain : plainAddress a = true) (may : mayWrite o a v s = true) : ctlWrite o a v s = writeLogged o a v s := by
  simp only [plainAddress, Bool.and_eq_true, bne_iff_ne, Bool.not_eq_true'] at plain
  obtain ⟨⟨⟨⟨⟨⟨opt, id⟩, pack⟩, channel⟩, ring⟩, ctrl⟩, hb⟩ := plain
  simp [ctlWrite, room, writeNow, lies, writable, opt, id, pack, channel, ring, ctrl, hb, may]

variable (room : logRoom s = true) (lies : regAt a = some r) (writable : r.readOnly = false) (plain : plainAddress a = true)
  (may : mayWrite o a v s = true)
include room lies writable plain may

/-- A logged write is accepted with its entry (R419). -/
theorem accepted_wr (op : regWriteOp o a v s = (.logged, t)) : Accepted o a v s t (wr o a v s) := by
  rw [wr, ctlWrite_eq_writeLogged room lies writable plain may, writeLogged, op]
  rfl

/-- A silent write is accepted without an entry. -/
theorem answered_wr_silent (op : regWriteOp o a v s = (.silent, t)) : Answered o a (.ok 0) t (wr o a v s) := by
  rw [wr, ctlWrite_eq_writeLogged room lies writable plain may, writeLogged, op]
  rfl

/-- A refused write that rests on no free value is an error response and nothing else. -/
theorem answered_wr_refused (op : regWriteOp o a v s = (.refused, s)) : Answered o a .error s (wr o a v s) := by
  rw [wr, ctlWrite_eq_writeLogged room lies writable plain may, writeLogged, op]
  rfl

end

/-! ### The pending clear (R405) -/

section
variable {o : Origin} {v : BitVec 32} {s : State}

/-- ATTR_CLEAR's account field is bits 8 to 0. -/
theorem fld_account (v : BitVec 32) : fld v 8 0 = v.toNat % 512 := by
  simp [fld, bitsN]

theorem attrClear_of_idle (go : ¬ v.getLsbD 31 = true) : attrClear v s = (true, s) := by
  simp only [attrClear, Bool.not_eq_true _ ▸ go, Bool.not_false, if_true]

theorem attrClear_of_refused (go : v.getLsbD 31 = true) (h : s.attr.clear.isSome = true ∨ 273 < v.toNat % 512) :
    attrClear v s = (false, s) := by
  have refused : (s.attr.clear.isSome || decide (accounts ≤ fld v 8 0)) = true := by
    rw [Bool.or_eq_true, decide_eq_true_eq, fld_account]
    exact h
  simp only [attrClear, go, Bool.not_true, refused, if_true, if_false, Bool.false_eq_true]

theorem attrClear_of_free (go : v.getLsbD 31 = true) (free : s.attr.clear = none) (h : v.toNat % 512 ≤ 273) :
    attrClear v s = (true, { s with attr := { s.attr with clear := some (v.toNat % 512) } }) := by
  have accepted : (s.attr.clear.isSome || decide (accounts ≤ fld v 8 0)) = false := by
    rw [free, fld_account, accounts, decide_eq_false (by omega)]
    rfl
  rw [← fld_account]
  simp only [attrClear, go, Bool.not_true, accepted, if_false, Bool.false_eq_true]
  rfl

theorem regWriteOp_attrClear (o : Origin) (v : BitVec 32) (s : State) : regWriteOp o 0x40_890C v s = okIf (attrClear v s) := rfl

theorem mayWrite_attrClear (ex : hasRight 2 o s = true) : mayWrite o 0x40_890C v s = true := by
  simp [mayWrite, rExpert, ex]

/-- A clear that finds another pending, or that names no account, is refused. -/
theorem gives_attrClear_refused (room : logRoom s = true) (ex : hasRight 2 o s = true) (go : v.getLsbD 31 = true)
    (h : s.attr.clear.isSome = true ∨ 273 < v.toNat % 512) : Gives (.attrClear o v) s (Answered o 0x40_890C .error s) :=
  ⟨_, rfl, answered_wr_refused room rfl rfl rfl (mayWrite_attrClear ex)
    (by rw [regWriteOp_attrClear, attrClear_of_refused go h]; rfl)⟩

/-- A clear of an account, with none pending, is held for the next accepted frame. -/
theorem gives_attrClear_accepted (room : logRoom s = true) (ex : hasRight 2 o s = true) (go : v.getLsbD 31 = true)
    (free : s.attr.clear = none) (h : v.toNat % 512 ≤ 273) : Gives (.attrClear o v) s
      (Accepted o 0x40_890C v s { s with attr := { s.attr with clear := some (v.toNat % 512) } }) :=
  ⟨_, rfl, accepted_wr room rfl rfl rfl (mayWrite_attrClear ex)
    (by rw [regWriteOp_attrClear, attrClear_of_free go free h]; rfl)⟩

/-- Without GO the write has no effect. -/
theorem gives_attrClear_idle (room : logRoom s = true) (ex : hasRight 2 o s = true) (go : ¬ v.getLsbD 31 = true) :
    Gives (.attrClear o v) s (Accepted o 0x40_890C v s s) :=
  ⟨_, rfl, accepted_wr room rfl rfl rfl (mayWrite_attrClear ex) (by rw [regWriteOp_attrClear, attrClear_of_idle go]; rfl)⟩

end

/-! ### The frozen view (R405) -/

section
variable {o : Origin} {on : Bool} {s : State}

/-- The engine after FREEZE has been written: a view that is held stays, a cleared FREEZE lets it go. -/
def Attr.afterFreeze (on : Bool) (tick : Nat) (a : Attr) : Attr :=
  if on = false then { a with frozen := none } else if a.frozen.isSome = true then a
  else { a with frozen := some (a.acct, a.seq, a.feed), frozenAt := tick }

theorem freezeSet_eq (on : Bool) (s : State) : freezeSet on s = { s with
    regs := (regBit aAttrCtrl 0 on s).regs, attr := s.attr.afterFreeze on s.tick } := by
  cases on
  case false => rfl
  case true =>
    by_cases held : s.attr.frozen.isSome = true <;>
      simp only [freezeSet, regBit_attr, held, if_true, Attr.afterFreeze, Bool.true_eq_false, if_false] <;> rfl

theorem freezeSet_regs (on : Bool) (s : State) : (freezeSet on s).regs = (regBit aAttrCtrl 0 on s).regs := by
  rw [freezeSet_eq]

theorem freezeSet_frame (on : Bool) (s : State) : { freezeSet on s with regs := s.regs, attr := s.attr } = s := by
  rw [freezeSet_eq]

theorem freezeSet_attr (on : Bool) (s : State) : (freezeSet on s).attr = s.attr.afterFreeze on s.tick := by
  rw [freezeSet_eq]

theorem regIs_freezeSet (on : Bool) (s : State) : regIs 0x40_8900 0 (freezeSet on s) = on :=
  (congrArg (·.getLsbD 0) (reg_of_regs (freezeSet_regs on s) _)).trans
    ((regIs_regBit (a := aAttrCtrl) on s (by decide)).trans (if_pos rfl))

theorem reg_freezeSet {k : Nat} (h : k ≠ 0x40_8900) : reg k (freezeSet on s) = reg k s :=
  (reg_of_regs (freezeSet_regs on s) k).trans ((reg_regBit aAttrCtrl k 0 on s).trans (if_neg h))

/-- PART.ATTR_CTRL is a stored word. -/
theorem regVal_attrCtrl (s : State) : regVal 0x40_8900 s = reg 0x40_8900 s := by
  show reg 0x40_8900 s &&& BitVec.allOnes 32 = _
  exact BitVec.and_allOnes

theorem regWriteOp_freeze (o : Origin) (v : BitVec 32) (s : State) :
    regWriteOp o 0x40_8900 v s = (.logged, freezeSet (v.getLsbD 0) (regBit aAttrCtrl 1 (v.getLsbD 1) s)) := rfl

theorem mayWrite_freeze {v : BitVec 32} (basic : hasRight 1 o s = true) (ex : hasRight 2 o s = true) :
    mayWrite o 0x40_8900 v s = true := by
  simp [mayWrite, rBasic, rExpert, basic, ex]

/-- FREEZE sets its bit and takes or lets go the read view, and changes nothing else. -/
theorem gives_freeze (room : logRoom s = true) (basic : hasRight 1 o s = true) (ex : hasRight 2 o s = true) :
    Gives (.freeze o on) s (fun s' => ∃ t,
      Accepted o 0x40_8900 (setBit (reg 0x40_8900 s) 0 on) s t s' ∧ regIs 0x40_8900 0 t = on ∧
      (∀ k : Nat, k ≠ 0x40_8900 → reg k t = reg k s) ∧ { t with regs := s.regs, attr := s.attr } = s ∧
      t.attr = s.attr.afterFreeze on s.tick) := by
  have bit : (setBit (reg 0x40_8900 s) 0 on).getLsbD 0 = on := by rw [getLsbD_setBit _ _ _ _ (by decide), if_pos rfl]
  have accepted := accepted_wr (v := setBit (reg 0x40_8900 s) 0 on) room rfl rfl rfl (mayWrite_freeze basic ex)
    (regWriteOp_freeze o _ s)
  rw [bit] at accepted
  refine ⟨_, rfl, _, by rw [regVal_attrCtrl]; exact accepted, regIs_freezeSet _ _, fun k hk => ?_, ?_, ?_⟩
  · exact (reg_freezeSet hk).trans ((reg_regBit aAttrCtrl k 1 _ s).trans (if_neg hk))
  · rw [freezeSet_eq]
    rfl
  · exact freezeSet_attr on _

/-- A view held for 10,000 beats is let go, with an event (R405). -/
theorem gives_freezeTimeout (above : s.attr.frozen.isSome = true ∧ s.attr.frozenAt + 10000 ≤ s.tick) :
    Gives .freezeTimeout s (fun s' => s'.attr = { s.attr with frozen := none } ∧ regIs 0x40_8900 0 s' = false ∧
      (∀ k : Nat, k ≠ 0x40_8900 → reg k s' = reg k s) ∧
      { s' with attr := s.attr, regs := s.regs, recorder := s.recorder } = s ∧
      (s.recorder.intake.length < 64 → ∃ x, s'.recorder.intake = s.recorder.intake ++ [x] ∧ x.type = 0xA0 ∧
        x.payload = [64] ∧ x.stamp = now s)) := by
  have step : exec .freezeTimeout s = .next (report 0xA0 oGov (attrStatus (freezeSet false s)) [64] (freezeSet false s)) := by
    show execFreezeTimeout s = _
    simp only [execFreezeTimeout, above, decide_true, Bool.and_self, if_true]
  refine ⟨_, step, ?_, ?_, fun k hk => ?_, ?_, fun free => ⟨_, report_of_room free, rfl, rfl, rfl⟩⟩
  · rw [report_attr]
    exact freezeSet_attr false s
  · rw [regIs, reg_report]
    exact regIs_freezeSet false s
  · rw [reg_report, reg_freezeSet hk]
  · exact (congrArg (fun t : State => { t with regs := s.regs, attr := s.attr })
      (report_frame 0xA0 oGov (attrStatus (freezeSet false s)) [64] (freezeSet false s)) :).trans (freezeSet_frame false s)

theorem exec_freezeTimeout_early (h : ¬ (s.attr.frozen.isSome = true ∧ s.attr.frozenAt + 10000 ≤ s.tick)) :
    exec .freezeTimeout s = .next s := by
  show execFreezeTimeout s = _
  rw [execFreezeTimeout, if_neg (by simpa using h)]

end

/-! ### The clear of the recorder (R418) -/

section
variable {o : Origin} {mode : Bool} {s : State}

/-- The mark of an instant depends on the identity and on the synchronisation state alone. -/
theorem markNow_congr {t : State} (id : pkgId t = pkgId s) (sync : reg aBeatStatus t = reg aBeatStatus s) :
    markNow t = markNow s := by
  simp only [markNow, syncState, regF, id, sync]

/-- What a clear of the recorder discards: records, or the reports that its histogram has counted. -/
def recordedCount (s : State) : Nat :=
  if histMode s then min 0x7FFFFFFF (s.recorder.hist.foldl (fun n e => n + e.2.count.toNat) 0) else s.recorder.recs.length

/-- The report that says how much was discarded. -/
def clearedReport (o : Origin) (mode : Bool) (s : State) : Report :=
  ⟨now s, 0x02, o, BitVec.ofNat 32 (recordedCount s), [BitVec.ofNat 8 (if mode then 1 else 0)], markNow s⟩

/-- The package after a clear of the recorder, before the report of it. -/
def emptiedRecorder (mode : Bool) (s : State) : State := regBit (aRec 0) 0 mode { s with recorder := { s.recorder with
  recs := [], hist := [], firstSeq := s.recorder.nextSeq, fill := 0, full := false, pendLost := 0 } }

theorem recClear_eq (o : Origin) (mode : Bool) (s : State) :
    recClear o mode s = commitReport (clearedReport o mode s) (emptiedRecorder mode s) := by
  have mark : markNow (emptiedRecorder mode s) = markNow s :=
    markNow_congr rfl ((reg_regBit _ _ _ _ _).trans (if_neg (by decide)))
  have report : clearedReport o mode s =
      ⟨now s, 0x02, o, BitVec.ofNat 32 (recordedCount s), [BitVec.ofNat 8 (b2n mode)], markNow (emptiedRecorder mode s)⟩ := by
    rw [mark]
    rfl
  rw [report]
  rfl

theorem histMode_emptied (mode : Bool) (s : State) : histMode (emptiedRecorder mode s) = mode :=
  (regIs_regBit mode _ (by decide)).trans (if_pos rfl)

theorem reg_emptied {k : Nat} (h : k ≠ 0x5_0000) : reg k (emptiedRecorder mode s) = reg k s :=
  (reg_regBit (aRec 0) k 0 mode _).trans (if_neg h)

/-- A report that is committed, or lost, changes the recorder and the event stream alone. -/
theorem commitReport_frame (x : Report) (s : State) :
    { commitReport x s with recorder := s.recorder, evs := s.evs, evsLost := s.evsLost } = s := by
  cases mode : histMode s
  case true =>
    rw [commitReport_of_histMode mode]
    exact (congrArg (fun t : State => { t with recorder := s.recorder }) (evPostAt_frame _ _ _ _ _) :)
  case false =>
    by_cases full : s.recorder.full = true ∨ 262144 < s.recorder.fill + reportSize x
    case pos => rw [commitReport_of_full mode full]
    case neg =>
      rw [not_or, Bool.not_eq_true, Nat.not_lt] at full
      rw [commitReport_of_room mode full.1 full.2]
      exact (congrArg (fun t : State => { t with recorder := s.recorder }) (evPostAt_frame _ _ _ _ _) :)

theorem commitReport_regs (x : Report) (s : State) : (commitReport x s).regs = s.regs :=
  (congrArg State.regs (commitReport_frame x s) :)

/-- In histogram mode the report of the clear is the first count of its type. -/
theorem recClear_recorder_histMode : (recClear o true s).recorder = { s.recorder with
    recs := [], hist := mapUpd Hist.zero [] 2 (histAdd s.recorder.nextSeq (BitVec.ofNat 32 (recordedCount s)))
    firstSeq := s.recorder.nextSeq, nextSeq := s.recorder.nextSeq + 1, fill := 0, full := false, pendLost := 0 } := by
  rw [recClear_eq, commitReport_of_histMode (histMode_emptied true s), evPostAt_recorder]
  rfl

/-- In record mode the report of the clear is the first record, of 20 bytes. -/
theorem recClear_recorder_recordMode : (recClear o false s).recorder = { s.recorder with
    recs := [(s.recorder.nextSeq, clearedReport o false s)], hist := []
    firstSeq := s.recorder.nextSeq, nextSeq := s.recorder.nextSeq + 1, fill := 20, full := false, pendLost := 0 } := by
  have size : (emptiedRecorder false s).recorder.fill + reportSize (clearedReport o false s) = 20 := by
    rw [reportSize_eq]
    show 0 + 4 * ((19 + 1) / 4) = 20
    rfl
  rw [recClear_eq, commitReport_of_room (histMode_emptied false s) rfl (by rw [size]; decide), evPostAt_recorder, size]
  rfl

theorem regWriteOp_recClear (o : Origin) (mode : Bool) (s : State) :
    regWriteOp o 0x5_0000 (setBit 0x80000000 0 mode) s = (.logged, recClear o mode s) := by
  cases mode <;> rfl

theorem mayWrite_recClear {v : BitVec 32} (ex : hasRight 2 o s = true) : mayWrite o 0x5_0000 v s = true := by
  simp [mayWrite, mayClear, rExpert, ex]

/-- A clear of the recorder leaves one record, or one counted report, which says how much was discarded (R418). -/
theorem gives_recClear (room : logRoom s = true) (ex : hasRight 2 o s = true) :
    Gives (.recClear o mode) s (fun s' => ∃ t,
      Accepted o 0x5_0000 (if mode then 0x80000001 else 0x80000000) s t s' ∧ histMode t = mode ∧
      (∀ k : Nat, k ≠ 0x5_0000 → reg k t = reg k s) ∧
      { t.recorder with recs := s.recorder.recs, hist := s.recorder.hist, fill := s.recorder.fill } =
        { s.recorder with firstSeq := s.recorder.nextSeq, nextSeq := s.recorder.nextSeq + 1, full := false, pendLost := 0 } ∧
      (mode = false → t.recorder.recs = [(s.recorder.nextSeq, clearedReport o mode s)] ∧ t.recorder.hist = [] ∧
        t.recorder.fill = 20) ∧
      (mode = true → t.recorder.recs = [] ∧ ∀ k : Nat, mapGet Hist.zero t.recorder.hist k =
        if k = 2 then ⟨1, s.recorder.nextSeq, BitVec.ofNat 32 (recordedCount s), BitVec.ofNat 32 (recordedCount s)⟩
        else Hist.zero) ∧
      { t with recorder := s.recorder, regs := s.regs, evs := s.evs, evsLost := s.evsLost } = s) := by
  have word : setBit (0x80000000 : BitVec 32) 0 mode = if mode then 0x80000001 else 0x80000000 := by cases mode <;> rfl
  have accepted := accepted_wr room rfl rfl rfl (mayWrite_recClear ex) (regWriteOp_recClear o mode s)
  have regs : (recClear o mode s).regs = (emptiedRecorder mode s).regs := by rw [recClear_eq, commitReport_regs]
  have frame := commitReport_frame (clearedReport o mode s) (emptiedRecorder mode s)
  rw [← recClear_eq] at frame
  refine ⟨_, rfl, recClear o mode s, word ▸ accepted, ?_, fun k hk => ?_, ?_, ?_, ?_, ?_⟩
  · exact (congrArg (·.getLsbD 0) (reg_of_regs regs _)).trans (histMode_emptied mode s)
  · exact (reg_of_regs regs k).trans (reg_emptied hk)
  · cases mode
    · rw [recClear_recorder_recordMode]
    · rw [recClear_recorder_histMode]
  · rintro rfl
    rw [recClear_recorder_recordMode]
    exact ⟨rfl, rfl, rfl⟩
  · rintro rfl
    rw [recClear_recorder_histMode]
    refine ⟨rfl, fun k => (mapGet_histAdd [] s.recorder.nextSeq (BitVec.ofNat 32 (recordedCount s)) 2 k).trans ?_⟩
    by_cases cleared : k = 2 <;> simp [cleared, mapGet, Hist.zero]
  · exact (congrArg (fun t : State => { t with recorder := s.recorder, regs := s.regs }) frame :)

end

/-! ### The clear of the change log (R418) -/

section
variable {o : Origin} {s : State}

/-- A change-log event posted under a condition changes the recorder alone. -/
theorem onlyIf_logEvent_frame (c : Bool) (i : Nat) (up : Bool) (s : State) :
    { onlyIf c (logEvent i up) s with recorder := s.recorder } = s := by
  cases c
  · rfl
  · exact logEvent_frame i up s

/-- The change log with its entries discarded. -/
def emptiedLog (s : State) : State := { s with changes := { s.changes with entries := [], firstSeq := s.changes.nextSeq } }

/-- The package after the two events of a clear, before the entry of it. -/
def announced (s : State) : State :=
  onlyIf (decide (logMax ≤ s.changes.entries.length)) (logEvent 0 false)
    (onlyIf (decide (logWarnAt ≤ s.changes.entries.length)) (logEvent 1 false) (emptiedLog s))

theorem announced_frame (s : State) : { announced s with recorder := s.recorder } = emptiedLog s :=
  (congrArg (fun t : State => { t with recorder := s.recorder }) (onlyIf_logEvent_frame _ 0 false _) :).trans
    (onlyIf_logEvent_frame _ 1 false (emptiedLog s))

/-- Below its warning level the log has no event to post. -/
theorem announced_of_few (h : s.changes.entries.length < 6144) : announced s = emptiedLog s := by
  rw [announced, logMax, logWarnAt, decide_eq_false (by omega), decide_eq_false (by omega)]
  rfl

/-- The entry that says how much was discarded. -/
def clearedChange (o : Origin) (s : State) : Change :=
  ⟨o, 6, now s, 0x4_0000, 0, BitVec.ofNat 64 s.changes.entries.length, 0, markNow s⟩

theorem logClear_eq (o : Origin) (s : State) : logClear o s = commitChange (clearedChange o s) (announced s) := by
  have frame := announced_frame s
  have time : now (announced s) = now s := (congrArg now frame :)
  have mark : markNow (announced s) = markNow s := (congrArg markNow frame :)
  rw [clearedChange, ← time, ← mark]
  rfl

theorem regWriteOp_logClear (o : Origin) (s : State) : regWriteOp o 0x4_0000 0x80000000 s = (.silent, logClear o s) := rfl

theorem mayWrite_logClear {v : BitVec 32} (first : isS0 o s = true) : mayWrite o 0x4_0000 v s = true := by
  simp [mayWrite, first]

/-- A clear of the change log leaves one entry, which says how much was discarded (R418). -/
theorem gives_logClear (room : logRoom s = true) (first : isS0 o s = true) :
    Gives (.logClear o) s (fun s' => ∃ t, Answered o 0x4_0000 (.ok 0) t s' ∧
      t.changes = { s.changes with
        entries := [(s.changes.nextSeq, clearedChange o s)]
        firstSeq := s.changes.nextSeq
        nextSeq := s.changes.nextSeq + 1 } ∧
      { t with changes := s.changes, recorder := s.recorder, evs := s.evs, evsLost := s.evsLost } = s ∧
      (s.changes.entries.length < 6144 → t.recorder = s.recorder)) := by
  have frame := announced_frame s
  have log : (announced s).changes = (emptiedLog s).changes := (congrArg State.changes frame :)
  have one : (announced s).changes.entries.length = 0 := by rw [log]; rfl
  have space : (announced s).changes.entries.length < 8192 := by omega
  obtain ⟨changes, -, others⟩ := commitChange_spec (c := clearedChange o s) space
  have answered := answered_wr_silent room rfl rfl rfl (mayWrite_logClear first) (regWriteOp_logClear o s)
  rw [logClear_eq] at answered
  refine ⟨_, rfl, _, answered, ?_, ?_, fun few => ?_⟩
  · rw [changes, log]
    rfl
  · have before := congrArg (fun t : State => { t with
      changes := s.changes, recorder := s.recorder, evs := s.evs, evsLost := s.evsLost }) others
    exact before.trans (congrArg (fun t : State => { t with changes := s.changes, evs := s.evs, evsLost := s.evsLost }) frame :)
  · rw [(commitChange_recorder space).1 (by omega) (by omega), announced_of_few few]
    rfl

end

section
variable {f : List Byte} {s : State}

/-! ### The legal record of a frame (R394) -/

/-- The legal record that a frame carries, as long as its own length byte says. -/
def recordIn (f : List Byte) : List Byte := (f.drop 64).take (4 * (f.getD 68 0).toNat)

/-- The record that a frame carries has a place in the mirror, a length that a record can have, and its own CRC. -/
abbrev GoodRecord (f : List Byte) : Prop := frameNat 44 4 f < 1024 ∧ 12 ≤ 4 * (f.getD 68 0).toNat ∧
  4 * (f.getD 68 0).toNat ≤ 56 ∧ crcGood (recordIn f) = true

/-- The package with the record of a frame in its place of the mirror. -/
def mirrored (f : List Byte) (s : State) : State :=
  { s with attr := { s.attr with mirror := mapSet [] s.attr.mirror (frameNat 44 4 f) (recordIn f) } }

theorem mirrorRec_eq (f : List Byte) (s : State) : mirrorRec f s = if GoodRecord f then
      if mapGet [] s.attr.mirror (frameNat 44 4 f) = [] then evPost 0x02 (BitVec.ofNat 32 (frameNat 44 4 f)) (mirrored f s)
      else if mapGet [] s.attr.mirror (frameNat 44 4 f) = recordIn f then mirrored f s
      else regBit 0x14_0080 2 true (mirrored f s)
    else s := by
  have length : ((f.drop 64).take 56).getD 4 0 = f.getD 68 0 := by
    simp [List.getD_eq_getElem?_getD]
  by_cases long : 56 < 4 * (f.getD 68 0).toNat
  case pos =>
    have bad : ¬ GoodRecord f := fun good => by omega
    rw [if_neg bad]
    simp only [mirrorRec, length, long, true_or, or_true, if_true]
  case neg =>
    have bytes : ((f.drop 64).take 56).take (4 * (f.getD 68 0).toNat) = recordIn f := by
      rw [List.take_take, Nat.min_eq_left (Nat.not_lt.mp long), recordIn]
    have bad : (1024 ≤ frameNat 44 4 f ∨ 4 * (f.getD 68 0).toNat < 12 ∨ 56 < 4 * (f.getD 68 0).toNat ∨
        (!crcGood (recordIn f)) = true) ↔ ¬ GoodRecord f := by
      simp only [GoodRecord, not_and_or, Nat.not_lt, Nat.not_le, Bool.not_eq_true, Bool.not_eq_true']
    simp only [mirrorRec, length, bytes, bad, ite_not]
    rfl

theorem mirrorRec_frame (f : List Byte) (s : State) :
    { mirrorRec f s with attr := s.attr, regs := s.regs, evs := s.evs, evsLost := s.evsLost } = s := by
  rw [mirrorRec_eq]
  split_ifs
  case pos => exact (congrArg (fun t : State => { t with attr := s.attr, regs := s.regs })
    (evPostAt_frame 0x02 (BitVec.ofNat 32 (frameNat 44 4 f)) (now s) (markNow (mirrored f s)) (mirrored f s)) :)
  all_goals rfl

/-- Of the attribution engine the record of a frame touches the mirror alone. -/
theorem mirrorRec_attr (f : List Byte) (s : State) : { (mirrorRec f s).attr with mirror := s.attr.mirror } = s.attr := by
  rw [mirrorRec_eq]
  split_ifs
  case pos => rw [evPost, evPostAt_attr]; rfl
  all_goals rfl

theorem mapGet_mirrorRec (f : List Byte) (s : State) (i : Nat) : mapGet [] (mirrorRec f s).attr.mirror i =
    if GoodRecord f ∧ i = frameNat 44 4 f then recordIn f else mapGet [] s.attr.mirror i := by
  have entry : mapGet [] (mirrored f s).attr.mirror i = if i = frameNat 44 4 f then recordIn f else mapGet [] s.attr.mirror i :=
    mapGet_mapSet _ _ _ _ _
  by_cases good : GoodRecord f
  case neg => rw [mirrorRec_eq, if_neg good, if_neg (fun h => good h.1)]
  case pos =>
    have same : (mirrorRec f s).attr = (mirrored f s).attr := by
      rw [mirrorRec_eq, if_pos good]
      split_ifs
      case pos => rw [evPost, evPostAt_attr]
      all_goals rfl
    rw [same, entry]
    exact (if_congr ⟨And.right, fun here => ⟨good, here⟩⟩ rfl rfl).symm

theorem reg_mirrorRec {k : Nat} (h : k ≠ 0x14_0080) : reg k (mirrorRec f s) = reg k s := by
  rw [mirrorRec_eq]
  split_ifs
  · exact reg_of_regs (evPostAt_regs _ _ _ _ _) k
  · rfl
  · exact (reg_regBit _ k _ _ _).trans (if_neg h)
  · rfl

/-- A record at a place that held none is an event (R394). -/
theorem mirrorRec_new (good : GoodRecord f) (new : mapGet [] s.attr.mirror (frameNat 44 4 f) = []) :
    Posted 0x02 (BitVec.ofNat 32 (frameNat 44 4 f)) (now s) (markNow s) s (mirrorRec f s) := by
  rw [mirrorRec_eq, if_pos good, if_pos new]
  exact posted_evPostAt rfl rfl

theorem mirrorRec_evs (h : ¬ GoodRecord f ∨ mapGet [] s.attr.mirror (frameNat 44 4 f) ≠ []) :
    (mirrorRec f s).evs = s.evs ∧ (mirrorRec f s).evsLost = s.evsLost := by
  rw [mirrorRec_eq]
  split_ifs with good new
  case pos => exact absurd new (h.resolve_left (not_not.mpr good))
  all_goals exact ⟨rfl, rfl⟩

/-- A record other than the one its place held sets VAR.STATUS bit 2 (R394). -/
theorem mirrorRec_changed (good : GoodRecord f) (held : mapGet [] s.attr.mirror (frameNat 44 4 f) ≠ [])
    (other : mapGet [] s.attr.mirror (frameNat 44 4 f) ≠ recordIn f) : regIs 0x14_0080 2 (mirrorRec f s) = true := by
  rw [mirrorRec_eq, if_pos good, if_neg held, if_neg other, regIs_regBit _ _ (by decide), if_pos rfl]

theorem mirrorRec_regs (h : ¬ GoodRecord f ∨ mapGet [] s.attr.mirror (frameNat 44 4 f) = [] ∨
    mapGet [] s.attr.mirror (frameNat 44 4 f) = recordIn f) : (mirrorRec f s).regs = s.regs := by
  rw [mirrorRec_eq]
  split_ifs with good new same
  · exact evPostAt_regs _ _ _ _ _
  · rfl
  · exact absurd ((h.resolve_left (not_not.mpr good)).resolve_left new) same
  · rfl

/-! ### The energy of a frame (R403, R404) -/

/-- A frame's cumulative energy has gone back, or another device has sent it (R404). -/
abbrev Jumps (f : List Byte) (a : Attr) (last : Nat) : Prop := frameNat 4 8 f < last ∨ BitVec.ofNat 64 (frameNat 32 8 f) ≠ a.serial

theorem reconcile_first (h : s.attr.cumLast = none) : reconcile f s = { s with attr := { s.attr with
    cumLast := some (frameNat 4 8 f), serial := BitVec.ofNat 64 (frameNat 32 8 f) } } := by
  simp only [reconcile, h]
  rfl

/-- The package with an interval's counts dropped, before the event of the discontinuity. -/
def dropped (f : List Byte) (s : State) : State := countReg 0x40_8910 1 { s with attr := { s.attr with
  cumLast := some (frameNat 4 8 f), serial := BitVec.ofNat 64 (frameNat 32 8 f), closed := [] } }

@[simp] theorem dropped_metered (f : List Byte) (s : State) : (dropped f s).attr.metered = s.attr.metered := rfl
@[simp] theorem dropped_closed (f : List Byte) (s : State) : (dropped f s).attr.closed = [] := rfl

theorem reconcile_jump {last : Nat} (h : s.attr.cumLast = some last) (jump : Jumps f s.attr last) :
    reconcile f s = attrBit 1 true (dropped f s) := by
  have test : (decide (frameNat 4 8 f < last) || BitVec.ofNat 64 (frameNat 32 8 f) != s.attr.serial) = true := by
    simpa only [Bool.or_eq_true, decide_eq_true_eq, bne_iff_ne] using jump
  simp only [reconcile, h, test, if_true]
  rfl

/-- The accounts with the shares of `e` µJ credited. -/
def creditedAccounts (e : Nat) (s : State) : SMap Nat :=
  (sharesOf e ((List.range 274).map (fun i => (i, weightOf i s)))).foldl
    (fun m x => mapUpd 0 m x.1 (fun v => (v + x.2) % 2 ^ 64)) s.attr.acct

theorem reconcile_credit {last : Nat} (h : s.attr.cumLast = some last) (jump : ¬ Jumps f s.attr last) :
    reconcile f s = { s with attr := { s.attr with
      acct := creditedAccounts (frameNat 4 8 f - last) s, metered := (s.attr.metered + (frameNat 4 8 f - last)) % 2 ^ 64,
      closed := [], cumLast := some (frameNat 4 8 f) } } := by
  have test : ¬ (decide (frameNat 4 8 f < last) || BitVec.ofNat 64 (frameNat 32 8 f) != s.attr.serial) = true := by
    simpa only [Bool.or_eq_true, decide_eq_true_eq, bne_iff_ne] using jump
  simp only [reconcile, h, test]
  rfl

theorem reconcile_regs_of_first (h : s.attr.cumLast = none) : (reconcile f s).regs = s.regs := by
  rw [reconcile_first h]

theorem reconcile_regs_of_credit {last : Nat} (h : s.attr.cumLast = some last) (jump : ¬ Jumps f s.attr last) :
    (reconcile f s).regs = s.regs := by
  rw [reconcile_credit h jump]

/-- The three outcomes of a reconciliation: the first frame, a discontinuity, and energy to give out. -/
theorem reconcile_cases (f : List Byte) (s : State) : s.attr.cumLast = none ∨
    (∃ last, s.attr.cumLast = some last ∧ Jumps f s.attr last) ∨ ∃ last, s.attr.cumLast = some last ∧ ¬ Jumps f s.attr last := by
  cases s.attr.cumLast with
  | none => exact .inl rfl
  | some last => exact .inr ((em (Jumps f s.attr last)).imp (⟨last, rfl, ·⟩) (⟨last, rfl, ·⟩))

theorem reconcile_frame (f : List Byte) (s : State) :
    { reconcile f s with attr := s.attr, regs := s.regs, recorder := s.recorder } = s := by
  obtain first | ⟨last, held, jump⟩ | ⟨last, held, jump⟩ := reconcile_cases f s
  · rw [reconcile_first first]
  · rw [reconcile_jump held jump]
    exact (congrArg (fun t : State => { t with attr := s.attr, regs := s.regs })
      (attrBit_frame 1 true (dropped f s)) :)
  · rw [reconcile_credit held jump]

/-- A reconciliation touches the accounts, what was metered and the reference of the next one. -/
theorem reconcile_attr (f : List Byte) (s : State) : (reconcile f s).attr = { s.attr with
    acct := (reconcile f s).attr.acct
    metered := (reconcile f s).attr.metered
    closed := (reconcile f s).attr.closed
    cumLast := some (frameNat 4 8 f)
    serial := BitVec.ofNat 64 (frameNat 32 8 f) } := by
  obtain first | ⟨last, held, jump⟩ | ⟨last, held, jump⟩ := reconcile_cases f s
  · rw [reconcile_first first]
  · rw [reconcile_jump held jump, attrBit_attr]
    rfl
  · have serial : BitVec.ofNat 64 (frameNat 32 8 f) = s.attr.serial := not_not.mp (not_or.mp jump).2
    rw [reconcile_credit held jump, serial]

theorem reg_reconcile {k : Nat} (h : k ≠ 0x40_8904) (h' : k ≠ 0x40_8910) : reg k (reconcile f s) = reg k s := by
  obtain first | ⟨last, held, jump⟩ | ⟨last, held, jump⟩ := reconcile_cases f s
  · exact reg_of_regs (reconcile_regs_of_first first) k
  · rw [reconcile_jump held jump]
    exact (reg_attrBit h).trans ((reg_countReg _ k _ _).trans (if_neg h'))
  · exact reg_of_regs (reconcile_regs_of_credit held jump) k

/-- STALE is no matter of a reconciliation. -/
theorem regIs_stale_reconcile (f : List Byte) (s : State) : regIs 0x40_8904 0 (reconcile f s) = regIs 0x40_8904 0 s := by
  obtain first | ⟨last, held, jump⟩ | ⟨last, held, jump⟩ := reconcile_cases f s
  · exact congrArg (·.getLsbD 0) (reg_of_regs (reconcile_regs_of_first first) _)
  · rw [reconcile_jump held jump]
    have other : regIs 0x40_8904 0 (attrBit 1 true (dropped f s)) = regIs 0x40_8904 0 (dropped f s) :=
      (regIs_attrBit (by decide)).trans (if_neg (by decide))
    exact other.trans (congrArg (·.getLsbD 0) ((reg_countReg _ 0x40_8904 _ _).trans (if_neg (by decide))))
  · exact congrArg (·.getLsbD 0) (reg_of_regs (reconcile_regs_of_credit held jump) _)

end

section
variable {f : List Byte} {s : State}

/-! ### What each account is given (R403) -/

/-- Crediting shares to different accounts adds each account's share to it, modulo 2^64. -/
theorem mapGet_creditAll (l : List (Nat × Nat)) (nodup : (l.map (·.1)).Nodup) (m : SMap Nat) (i : Nat) :
    mapGet 0 (l.foldl (fun m x => mapUpd 0 m x.1 (fun v => (v + x.2) % 2 ^ 64)) m) i =
      if i ∈ l.map (·.1) then (mapGet 0 m i + mapGet 0 l i) % 2 ^ 64 else mapGet 0 m i := by
  induction l generalizing m with
  | nil => rfl
  | cons x l ih =>
    rw [List.map_cons, List.nodup_cons] at nodup
    rw [List.foldl_cons, ih nodup.2, mapGet_mapUpd, List.map_cons]
    by_cases own : i = x.1
    · subst own
      simp [nodup.1, mapGet]
    · rw [if_neg own]
      exact if_congr (by simp [own]) (by simp [mapGet, Ne.symm own]) rfl

/-- What a frame gives account `i` when it is accepted: nothing for the first frame and after a discontinuity. -/
def shareOf (f : List Byte) (s : State) (i : Nat) : Nat :=
  match s.attr.cumLast with
  | some last => if Jumps f s.attr last then 0
    else mapGet 0 (sharesOf (frameNat 4 8 f - last) ((List.range 274).map (fun i => (i, weightOf i s)))) i
  | none => 0

/-- An account after its share. -/
def creditedTo (f : List Byte) (s : State) (i : Nat) : Nat :=
  if shareOf f s i = 0 then mapGet 0 s.attr.acct i else (mapGet 0 s.attr.acct i + shareOf f s i) % 2 ^ 64

theorem mapGet_creditedAccounts {i : Nat} (h : i < 274) (e : Nat) (s : State) : mapGet 0 (creditedAccounts e s) i =
    (mapGet 0 s.attr.acct i + mapGet 0 (sharesOf e ((List.range 274).map (fun i => (i, weightOf i s)))) i) % 2 ^ 64 := by
  have accts : (sharesOf e ((List.range 274).map (fun i => (i, weightOf i s)))).map (·.1) = List.range 274 := by
    rw [sharesOf_acct, List.map_map]
    exact List.map_id' _
  rw [creditedAccounts, mapGet_creditAll _ (by rw [accts]; exact List.nodup_range), accts, if_pos (List.mem_range.mpr h)]

theorem mapGet_reconcile {i : Nat} (h : i < 274) (fits : mapGet 0 s.attr.acct i < 2 ^ 64) :
    mapGet 0 (reconcile f s).attr.acct i = creditedTo f s i := by
  obtain first | ⟨last, held, jump⟩ | ⟨last, held, jump⟩ := reconcile_cases f s
  · rw [reconcile_first first, creditedTo, shareOf, first]
    rfl
  · rw [reconcile_jump held jump, attrBit_attr, creditedTo, shareOf, held]
    simp only [if_pos jump, if_true]
    rfl
  · rw [reconcile_credit held jump]
    simp only [creditedTo, shareOf, held, if_neg jump, mapGet_creditedAccounts h]
    split_ifs with none
    · rw [none, Nat.add_zero, Nat.mod_eq_of_lt fits]
    · rfl

/-- The weights depend on the interval's counts and on the coefficients alone. -/
theorem weightOf_congr {s t : State} (counts : t.attr.closed = s.attr.closed) (coefs : ∀ k, reg (aCoef k) t = reg (aCoef k) s)
    (i : Nat) : weightOf i t = weightOf i s := by
  simp only [weightOf, counts, coefs]

/-! ### A pending clear (R405) -/

theorem applyClear_frame (s : State) : { applyClear s with attr := s.attr } = s := by
  unfold applyClear
  split <;> rfl

theorem applyClear_of_none (h : s.attr.clear = none) : applyClear s = s := by
  simp only [applyClear, h]

theorem applyClear_of_some {i : Nat} (h : s.attr.clear = some i) : applyClear s = { s with attr := { s.attr with
    lastCleared := mapGet 0 s.attr.acct i, cleared := (s.attr.cleared + mapGet 0 s.attr.acct i) % 2 ^ 64,
    acct := mapErase s.attr.acct i, clear := none } } := by
  simp only [applyClear, h]
  rfl

theorem applyClear_attr (s : State) : { (applyClear s).attr with
    acct := s.attr.acct, cleared := s.attr.cleared, lastCleared := s.attr.lastCleared, clear := s.attr.clear } = s.attr := by
  cases h : s.attr.clear with
  | none => rw [applyClear_of_none h, ← h]
  | some i => rw [applyClear_of_some h, ← h]

theorem mapGet_applyClear (s : State) (i : Nat) :
    mapGet 0 (applyClear s).attr.acct i = if s.attr.clear = some i then 0 else mapGet 0 s.attr.acct i := by
  cases h : s.attr.clear with
  | none => rw [applyClear_of_none h, if_neg (by simp)]
  | some j =>
    rw [applyClear_of_some h, mapGet_mapErase]
    simp only [Option.some.injEq, eq_comm]

/-! ### The reconciliation point (R393) -/

/-- A reconciliation point is due, and has not been yet. -/
def PointDue (s : State) : Prop := s.beat.toNat % 64 = 32 ∧ s.attr.pointAt ≠ some s.tick

theorem pointTest (s : State) :
    (decide (s.beat.toNat % 64 ≠ 32) || s.attr.pointAt == some s.tick) = true ↔ ¬ PointDue s := by
  rw [PointDue, not_and_or, not_not]
  simp

theorem exec_feedAccept_notDue (h : ¬ PointDue s) : exec .feedAccept s = .next s := by
  show execFeedAccept s = _
  rw [execFeedAccept, if_pos ((pointTest s).mpr h)]

/-- A point without a frame is missed. -/
theorem exec_feedAccept_none (h : PointDue s) (frame : s.attr.frame = none) : exec .feedAccept s =
    .next { s with attr := { s.attr with pointAt := some s.tick, missed := s.attr.missed + 1 } } := by
  show execFeedAccept s = _
  rw [execFeedAccept, if_neg (mt (pointTest s).mp (not_not.mpr h))]
  simp only [frame]
  rw [← frame]
  rfl

/-- A frame that is no frame is discarded and counted, and the point is missed. -/
theorem exec_feedAccept_bad (h : PointDue s) (frame : s.attr.frame = some f) (bad : ¬ (f.length = 128 ∧ crcGood f = true)) :
    exec .feedAccept s = .next { countReg 0x14_0088 1 s with attr := { s.attr with
      frame := none, pointAt := some s.tick, missed := s.attr.missed + 1 } } := by
  have test : (decide (f.length = 128) && crcGood f) = false := by simpa using bad
  show execFeedAccept s = _
  rw [execFeedAccept, if_neg (mt (pointTest s).mp (not_not.mpr h))]
  simp only [frame, test]
  rfl

/-- The package that has taken a frame at a point, before its effects. -/
def receivedFrame (f : List Byte) (s : State) : State := { s with attr := { s.attr with
  frame := none, pointAt := some s.tick, feed := f, seq := BitVec.ofNat 32 (frameNat 0 4 f), acceptAt := s.tick, missed := 0 } }

/-- The package with an accepted frame's record in the mirror, before its energy is given out. -/
def recordedFrame (f : List Byte) (s : State) : State := mirrorRec f (attrBit 0 false (receivedFrame f s))

/-- An accepted frame: its record enters the mirror, its energy is given out, and a pending clear is applied. -/
theorem exec_feedAccept_good (h : PointDue s) (frame : s.attr.frame = some f) (length : f.length = 128) (crc : crcGood f = true) :
    exec .feedAccept s = .next (applyClear (reconcile f (recordedFrame f s))) := by
  show execFeedAccept s = _
  rw [execFeedAccept, if_neg (mt (pointTest s).mp (not_not.mpr h))]
  simp only [frame, length, crc, decide_true, Bool.and_self, if_true]
  rfl

end

/-! ### What an accepted frame leaves alone -/

section
variable {f : List Byte} {s t u : State}

/-- Besides the engine, the registers, the recorder and the event stream, the packages are the same. -/
def Quiet (s t : State) : Prop :=
  { t with attr := s.attr, regs := s.regs, recorder := s.recorder, evs := s.evs, evsLost := s.evsLost } = s

theorem Quiet.trans (h : Quiet s t) (k : Quiet t u) : Quiet s u :=
  (congrArg (fun t : State => { t with
    attr := s.attr, regs := s.regs, recorder := s.recorder, evs := s.evs, evsLost := s.evsLost }) k :).trans h

theorem quiet_unstale (f : List Byte) (s : State) : Quiet s (attrBit 0 false (receivedFrame f s)) :=
  (congrArg (fun t : State => { t with attr := s.attr, evs := s.evs, evsLost := s.evsLost })
    (attrBit_frame 0 false (receivedFrame f s)) :)

theorem quiet_mirrorRec (f : List Byte) (s : State) : Quiet s (mirrorRec f s) :=
  (congrArg (fun t : State => { t with recorder := s.recorder }) (mirrorRec_frame f s) :)

theorem quiet_reconcile (f : List Byte) (s : State) : Quiet s (reconcile f s) :=
  (congrArg (fun t : State => { t with evs := s.evs, evsLost := s.evsLost }) (reconcile_frame f s) :)

theorem quiet_applyClear (s : State) : Quiet s (applyClear s) :=
  (congrArg (fun t : State => { t with regs := s.regs, recorder := s.recorder, evs := s.evs, evsLost := s.evsLost })
    (applyClear_frame s) :)

/-- The package after an accepted frame. -/
def acceptedFrame (f : List Byte) (s : State) : State := applyClear (reconcile f (recordedFrame f s))

theorem quiet_accepted (f : List Byte) (s : State) : Quiet s (acceptedFrame f s) :=
  (((quiet_unstale f s).trans (quiet_mirrorRec f _)).trans (quiet_reconcile f _)).trans (quiet_applyClear _)

/-- A frame's record leaves the engine as it was received, but for the mirror. -/
theorem recorded_attr (f : List Byte) (s : State) : { (recordedFrame f s).attr with mirror := s.attr.mirror } = (receivedFrame f s).attr := by
  have step := mirrorRec_attr f (attrBit 0 false (receivedFrame f s))
  rw [attrBit_attr] at step
  exact step

@[simp] theorem recorded_acct (f : List Byte) (s : State) : (recordedFrame f s).attr.acct = s.attr.acct :=
  (congrArg Attr.acct (recorded_attr f s) :)
@[simp] theorem recorded_metered (f : List Byte) (s : State) : (recordedFrame f s).attr.metered = s.attr.metered :=
  (congrArg Attr.metered (recorded_attr f s) :)
@[simp] theorem recorded_cleared (f : List Byte) (s : State) : (recordedFrame f s).attr.cleared = s.attr.cleared :=
  (congrArg Attr.cleared (recorded_attr f s) :)
@[simp] theorem recorded_lastCleared (f : List Byte) (s : State) : (recordedFrame f s).attr.lastCleared = s.attr.lastCleared :=
  (congrArg Attr.lastCleared (recorded_attr f s) :)
@[simp] theorem recorded_closed (f : List Byte) (s : State) : (recordedFrame f s).attr.closed = s.attr.closed :=
  (congrArg Attr.closed (recorded_attr f s) :)
@[simp] theorem recorded_cumLast (f : List Byte) (s : State) : (recordedFrame f s).attr.cumLast = s.attr.cumLast :=
  (congrArg Attr.cumLast (recorded_attr f s) :)
@[simp] theorem recorded_serial (f : List Byte) (s : State) : (recordedFrame f s).attr.serial = s.attr.serial :=
  (congrArg Attr.serial (recorded_attr f s) :)
@[simp] theorem recorded_clear (f : List Byte) (s : State) : (recordedFrame f s).attr.clear = s.attr.clear :=
  (congrArg Attr.clear (recorded_attr f s) :)

/-- An engine with the accounts, the totals, the references and the mirror of another. -/
def Attr.withBooksOf (q a : Attr) : Attr := { q with
  acct := a.acct, metered := a.metered, cleared := a.cleared, lastCleared := a.lastCleared, closed := a.closed,
  cumLast := a.cumLast, serial := a.serial, clear := a.clear, mirror := a.mirror }

/-- But for its books the engine is as it received the frame. -/
theorem acceptedFrame_attr (f : List Byte) (s : State) :
    (acceptedFrame f s).attr.withBooksOf s.attr = (receivedFrame f s).attr := by
  have clear := applyClear_attr (reconcile f (recordedFrame f s))
  have energy := reconcile_attr f (recordedFrame f s)
  have record := recorded_attr f s
  calc (acceptedFrame f s).attr.withBooksOf s.attr
      = (reconcile f (recordedFrame f s)).attr.withBooksOf s.attr := (congrArg (·.withBooksOf s.attr) clear :)
    _ = (recordedFrame f s).attr.withBooksOf s.attr := (congrArg (·.withBooksOf s.attr) energy :)
    _ = (receivedFrame f s).attr := (congrArg (·.withBooksOf s.attr) record :)

/-- Registers but STALE's and VAR.STATUS are as they were when the energy is given out. -/
theorem reg_recorded {k : Nat} (h : k ≠ 0x40_8904) (h' : k ≠ 0x14_0080) : reg k (recordedFrame f s) = reg k s :=
  (reg_mirrorRec h').trans (reg_attrBit h)

theorem reg_accepted (k : Nat) (f : List Byte) (s : State) : reg k (acceptedFrame f s) = reg k (reconcile f (recordedFrame f s)) :=
  reg_of_regs (congrArg State.regs (applyClear_frame (reconcile f (recordedFrame f s))) :) k

/-- An accepted frame ends STALE (R393). -/
theorem regIs_stale_accepted (f : List Byte) (s : State) : regIs 0x40_8904 0 (acceptedFrame f s) = false := by
  have record : regIs 0x40_8904 0 (recordedFrame f s) = regIs 0x40_8904 0 (attrBit 0 false (receivedFrame f s)) :=
    (congrArg (·.getLsbD 0) (reg_mirrorRec (by decide)))
  have stale : regIs 0x40_8904 0 (attrBit 0 false (receivedFrame f s)) = false :=
    (regIs_attrBit (by decide)).trans (if_pos rfl)
  calc regIs 0x40_8904 0 (acceptedFrame f s) = regIs 0x40_8904 0 (reconcile f (recordedFrame f s)) := congrArg (·.getLsbD 0) (reg_accepted _ f s)
    _ = false := (regIs_stale_reconcile f _).trans (record.trans stale)

/-! ### The accounts after an accepted frame -/

/-- The coefficients are no matter of STALE and VAR.STATUS. -/
theorem weightOf_recorded (f : List Byte) (s : State) (i : Nat) : weightOf i (recordedFrame f s) = weightOf i s :=
  weightOf_congr (recorded_closed f s) (fun k => reg_recorded (by unfold aCoef; omega) (by unfold aCoef; omega)) i

theorem jumps_recorded (f : List Byte) (s : State) (last : Nat) : Jumps f (recordedFrame f s).attr last ↔ Jumps f s.attr last := by
  rw [Jumps, recorded_serial]

/-- The shares of an accepted frame are those of the counts, coefficients and reference that it meets. -/
theorem shareOf_recorded (f : List Byte) (s : State) (i : Nat) : shareOf f (recordedFrame f s) i = shareOf f s i := by
  cases held : s.attr.cumLast with
  | none => simp only [shareOf, recorded_cumLast, held]
  | some last =>
    simp only [shareOf, recorded_cumLast, held, weightOf_recorded]
    exact if_congr (jumps_recorded f s last) rfl rfl

theorem creditedTo_recorded (f : List Byte) (s : State) (i : Nat) : creditedTo f (recordedFrame f s) i = creditedTo f s i := by
  rw [creditedTo, shareOf_recorded, recorded_acct, creditedTo]

theorem mapGet_reconcile_recorded {i : Nat} (h : i < 274) (fits : mapGet 0 s.attr.acct i < 2 ^ 64) :
    mapGet 0 (reconcile f (recordedFrame f s)).attr.acct i = creditedTo f s i := by
  rw [mapGet_reconcile h (by rw [recorded_acct]; exact fits), creditedTo_recorded]

theorem reconcile_clear (f : List Byte) (s : State) : (reconcile f s).attr.clear = s.attr.clear :=
  (congrArg Attr.clear (reconcile_attr f s) :)

/-- Every account has its share, and the one whose clear was pending is empty. -/
theorem mapGet_accepted {i : Nat} (h : i < 274) (fits : mapGet 0 s.attr.acct i < 2 ^ 64) :
    mapGet 0 (acceptedFrame f s).attr.acct i = if s.attr.clear = some i then 0 else creditedTo f s i := by
  rw [acceptedFrame, mapGet_applyClear, reconcile_clear, recorded_clear, mapGet_reconcile_recorded h fits]

end

section
variable {f : List Byte} {s : State}

/-! ### The totals and the pending clear after an accepted frame -/

theorem accepted_metered (f : List Byte) (s : State) :
    (acceptedFrame f s).attr.metered = (reconcile f (recordedFrame f s)).attr.metered :=
  (congrArg Attr.metered (applyClear_attr (reconcile f (recordedFrame f s))) :)

theorem accepted_closed (f : List Byte) (s : State) : (acceptedFrame f s).attr.closed = (reconcile f (recordedFrame f s)).attr.closed :=
  (congrArg Attr.closed (applyClear_attr (reconcile f (recordedFrame f s))) :)

theorem accepted_mirror (f : List Byte) (s : State) : (acceptedFrame f s).attr.mirror = (recordedFrame f s).attr.mirror :=
  (congrArg Attr.mirror (applyClear_attr (reconcile f (recordedFrame f s))) :).trans
    (congrArg Attr.mirror (reconcile_attr f (recordedFrame f s)) :)

/-- An accepted frame is the reference of the next one. -/
theorem accepted_reference (f : List Byte) (s : State) : (acceptedFrame f s).attr.cumLast = some (frameNat 4 8 f) ∧
    (acceptedFrame f s).attr.serial = BitVec.ofNat 64 (frameNat 32 8 f) :=
  ⟨(congrArg Attr.cumLast (applyClear_attr (reconcile f (recordedFrame f s))) :).trans
      (congrArg Attr.cumLast (reconcile_attr f (recordedFrame f s)) :),
    (congrArg Attr.serial (applyClear_attr (reconcile f (recordedFrame f s))) :).trans
      (congrArg Attr.serial (reconcile_attr f (recordedFrame f s)) :)⟩

/-- A frame that goes on from the last one adds its energy to what has been metered, and touches no other register. -/
theorem accepted_of_credit {last : Nat} (held : s.attr.cumLast = some last) (jump : ¬ Jumps f s.attr last) :
    (acceptedFrame f s).attr.metered = (s.attr.metered + (frameNat 4 8 f - last)) % 2 ^ 64 ∧ (acceptedFrame f s).attr.closed = [] ∧
    ∀ k : Nat, k ≠ 0x14_0080 → k ≠ 0x40_8904 → reg k (acceptedFrame f s) = reg k s := by
  have held' : (recordedFrame f s).attr.cumLast = some last := by rw [recorded_cumLast, held]
  have jump' : ¬ Jumps f (recordedFrame f s).attr last := by rw [jumps_recorded]; exact jump
  have credit := reconcile_credit held' jump'
  refine ⟨?_, ?_, fun k mirror stale => ?_⟩
  · rw [accepted_metered, credit, recorded_metered]
  · rw [accepted_closed, credit]
  · rw [reg_accepted, reg_of_regs (reconcile_regs_of_credit held' jump'), reg_recorded stale mirror]

/-- A frame that does not go on from the last one credits nothing, drops the interval's counts, and is counted (R404). -/
theorem accepted_of_jump {last : Nat} (held : s.attr.cumLast = some last) (jump : Jumps f s.attr last) :
    (acceptedFrame f s).attr.metered = s.attr.metered ∧ (acceptedFrame f s).attr.closed = [] ∧
    regIs 0x40_8904 1 (acceptedFrame f s) = true ∧ reg 0x40_8910 (acceptedFrame f s) = satAdd (reg 0x40_8910 s) 1 := by
  have drop := reconcile_jump (f := f) (s := recordedFrame f s) (by rw [recorded_cumLast]; exact held)
    (by rw [jumps_recorded]; exact jump)
  refine ⟨?_, ?_, ?_, ?_⟩
  · rw [accepted_metered, drop, attrBit_attr, dropped_metered, recorded_metered]
  · rw [accepted_closed, drop, attrBit_attr, dropped_closed]
  · rw [regIs, reg_accepted, drop]
    exact (regIs_attrBit (by decide)).trans (if_pos rfl)
  · rw [reg_accepted, drop]
    have counted : reg 0x40_8910 (dropped f (recordedFrame f s)) = satAdd (reg 0x40_8910 (recordedFrame f s)) 1 :=
      (reg_countReg _ _ _ _).trans (if_pos rfl)
    rw [reg_recorded (by decide) (by decide)] at counted
    exact (reg_attrBit (by decide)).trans counted

/-- The first frame only is the reference of the next one (R404, log 41). -/
theorem accepted_of_first (first : s.attr.cumLast = none) : (acceptedFrame f s).attr.metered = s.attr.metered ∧
    (acceptedFrame f s).attr.closed = s.attr.closed ∧ reg 0x40_8910 (acceptedFrame f s) = reg 0x40_8910 s := by
  have first' : (recordedFrame f s).attr.cumLast = none := by rw [recorded_cumLast, first]
  have start := reconcile_first (f := f) first'
  refine ⟨?_, ?_, ?_⟩
  · rw [accepted_metered, start, recorded_metered]
  · rw [accepted_closed, start, recorded_closed]
  · rw [reg_accepted, reg_of_regs (reconcile_regs_of_first first'), reg_recorded (by decide) (by decide)]

theorem reconcile_cleared (f : List Byte) (s : State) : (reconcile f s).attr.cleared = s.attr.cleared ∧
    (reconcile f s).attr.lastCleared = s.attr.lastCleared :=
  ⟨(congrArg Attr.cleared (reconcile_attr f s) :), (congrArg Attr.lastCleared (reconcile_attr f s) :)⟩

/-- Without a pending clear nothing is cleared. -/
theorem accepted_of_noClear (h : s.attr.clear = none) : (acceptedFrame f s).attr.clear = none ∧
    (acceptedFrame f s).attr.cleared = s.attr.cleared ∧ (acceptedFrame f s).attr.lastCleared = s.attr.lastCleared := by
  have free : (reconcile f (recordedFrame f s)).attr.clear = none := by rw [reconcile_clear, recorded_clear, h]
  obtain ⟨cleared, lastCleared⟩ := reconcile_cleared f (recordedFrame f s)
  rw [acceptedFrame, applyClear_of_none free, cleared, lastCleared, recorded_cleared, recorded_lastCleared]
  exact ⟨free, rfl, rfl⟩

/-- A pending clear moves what its account holds after the frame's share (R405). -/
theorem accepted_of_clear {i : Nat} (h : s.attr.clear = some i) (small : i < 274) (fits : mapGet 0 s.attr.acct i < 2 ^ 64) :
    (acceptedFrame f s).attr.clear = none ∧ (acceptedFrame f s).attr.lastCleared = creditedTo f s i ∧
    (acceptedFrame f s).attr.cleared = (s.attr.cleared + creditedTo f s i) % 2 ^ 64 := by
  have pending : (reconcile f (recordedFrame f s)).attr.clear = some i := by rw [reconcile_clear, recorded_clear, h]
  rw [acceptedFrame, applyClear_of_some pending]
  dsimp only
  rw [mapGet_reconcile_recorded small fits, (reconcile_cleared f (recordedFrame f s)).1, recorded_cleared]
  exact ⟨rfl, rfl, rfl⟩

/-! ### The mirror after an accepted frame -/

/-- The events of an accepted frame are those of its record. -/
theorem accepted_evs (f : List Byte) (s : State) :
    (acceptedFrame f s).evs = (recordedFrame f s).evs ∧ (acceptedFrame f s).evsLost = (recordedFrame f s).evsLost :=
  ⟨(congrArg State.evs (applyClear_frame (reconcile f (recordedFrame f s))) :).trans
      (congrArg State.evs (reconcile_frame f (recordedFrame f s)) :),
    (congrArg State.evsLost (applyClear_frame (reconcile f (recordedFrame f s))) :).trans
      (congrArg State.evsLost (reconcile_frame f (recordedFrame f s)) :)⟩

/-- What a frame is received into: the mirror, the event stream and VAR.STATUS are as before. -/
theorem unstale_spec (f : List Byte) (s : State) :
    let t := attrBit 0 false (receivedFrame f s)
    t.attr.mirror = s.attr.mirror ∧ t.evs = s.evs ∧ t.evsLost = s.evsLost ∧ now t = now s ∧ markNow t = markNow s ∧
    reg 0x14_0080 t = reg 0x14_0080 s := by
  intro t
  have frame : { t with regs := s.regs, recorder := s.recorder } = receivedFrame f s :=
    attrBit_frame 0 false (receivedFrame f s)
  have others {k : Nat} (h : k ≠ 0x40_8904) : reg k t = reg k s := reg_attrBit h
  exact ⟨(congrArg (·.attr.mirror) frame :), (congrArg State.evs frame :), (congrArg State.evsLost frame :),
    (congrArg now frame :), markNow_congr (congrArg pkgId frame :) (others (by decide)), others (by decide)⟩

theorem mapGet_accepted_mirror (f : List Byte) (s : State) (i : Nat) : mapGet [] (acceptedFrame f s).attr.mirror i =
    if GoodRecord f ∧ i = frameNat 44 4 f then recordIn f else mapGet [] s.attr.mirror i := by
  rw [accepted_mirror, recordedFrame, mapGet_mirrorRec, (unstale_spec f s).1]

/-- A record at a place of the mirror that held none is an event. -/
theorem accepted_newRecord (good : GoodRecord f) (new : mapGet [] s.attr.mirror (frameNat 44 4 f) = [])
    (room : s.evs.length < 4096) :
    (acceptedFrame f s).evs = s.evs ++ [⟨now s, pkgId s, 0x02, BitVec.ofNat 8 (syncState s), BitVec.ofNat 32 (frameNat 44 4 f)⟩] := by
  obtain ⟨mirror, evs, -, time, mark, -⟩ := unstale_spec f s
  have posted := (mirrorRec_new (s := attrBit 0 false (receivedFrame f s)) good (by rw [mirror]; exact new)).1 (by rw [evs]; exact room)
  rw [(accepted_evs f s).1, recordedFrame, posted.1, evs, time, mark]
  rfl

theorem accepted_noEvent (h : ¬ GoodRecord f ∨ mapGet [] s.attr.mirror (frameNat 44 4 f) ≠ []) :
    (acceptedFrame f s).evs = s.evs ∧ (acceptedFrame f s).evsLost = s.evsLost := by
  obtain ⟨mirror, evs, lost, -, -, -⟩ := unstale_spec f s
  have same := mirrorRec_evs (f := f) (s := attrBit 0 false (receivedFrame f s)) (by rw [mirror]; exact h)
  rw [evs, lost] at same
  rw [(accepted_evs f s).1, (accepted_evs f s).2]
  exact same

theorem reg_varStatus_accepted (f : List Byte) (s : State) : reg 0x14_0080 (acceptedFrame f s) = reg 0x14_0080 (recordedFrame f s) :=
  (reg_accepted _ f s).trans (reg_reconcile (by decide) (by decide))

/-- A record other than the one its place held sets VAR.STATUS bit 2. -/
theorem accepted_changedRecord (good : GoodRecord f) (held : mapGet [] s.attr.mirror (frameNat 44 4 f) ≠ [])
    (other : mapGet [] s.attr.mirror (frameNat 44 4 f) ≠ recordIn f) : regIs 0x14_0080 2 (acceptedFrame f s) = true := by
  have mirror := (unstale_spec f s).1
  rw [regIs, reg_varStatus_accepted]
  exact mirrorRec_changed good (by rw [mirror]; exact held) (by rw [mirror]; exact other)

theorem accepted_sameRecord (h : ¬ GoodRecord f ∨ mapGet [] s.attr.mirror (frameNat 44 4 f) = [] ∨
    mapGet [] s.attr.mirror (frameNat 44 4 f) = recordIn f) : reg 0x14_0080 (acceptedFrame f s) = reg 0x14_0080 s := by
  obtain ⟨mirror, -, -, -, -, status⟩ := unstale_spec f s
  rw [reg_varStatus_accepted, recordedFrame, reg_of_regs (mirrorRec_regs (by rw [mirror]; exact h)), status]

/-- The sequence number of a frame is four bytes of it. -/
theorem toNat_frameSeq (f : List Byte) : (BitVec.ofNat 32 (frameNat 0 4 f)).toNat = frameNat 0 4 f := by
  have bytes : frameNat 0 4 f < 2 ^ (8 * ((f.drop 0).take 4).length) := ofLe_lt _
  have four : ((f.drop 0).take 4).length ≤ 4 := List.length_take_le _ _
  rw [BitVec.toNat_ofNat, Nat.mod_eq_of_lt (bytes.trans_le (Nat.pow_le_pow_right (by decide) (by omega)))]

/-! ### STALE -/

theorem exec_feedStale_fresh (h : s.attr.missed < 3) : exec .feedStale s = .next s := by
  show execFeedStale s = _
  rw [execFeedStale, if_neg (Nat.not_le.mpr h)]

/-- Three points in a row without a frame make the feed stale (R393). -/
theorem gives_feedStale (h : 3 ≤ s.attr.missed) : Gives .feedStale s (fun s' => regIs 0x40_8904 0 s' = true ∧
    (∀ k : Nat, k ≠ 0x40_8904 → reg k s' = reg k s) ∧ { s' with regs := s.regs, recorder := s.recorder } = s) := by
  have step : exec .feedStale s = .next (attrBit 0 true s) := by
    show execFeedStale s = _
    rw [execFeedStale, if_pos h]
  exact ⟨_, step, (regIs_attrBit (by decide)).trans (if_pos rfl), fun k hk => reg_attrBit hk, attrBit_frame 0 true s⟩

/-- A frame that is no frame counts in VAR.CRC_ERR and as a missed point, and nothing else changes (R393). -/
theorem gives_feedAccept_bad (due : PointDue s) (frame : s.attr.frame = some f)
    (bad : ¬ (f.length = 128 ∧ crcGood f = true)) : Gives .feedAccept s (fun s' =>
      s'.attr = { s.attr with frame := none, pointAt := some s.tick, missed := s.attr.missed + 1 } ∧
      (∀ k : Nat, reg k s' = if k = 0x14_0088 then satAdd (reg k s) 1 else reg k s) ∧
      { s' with attr := s.attr, regs := s.regs } = s) := by
  refine ⟨_, exec_feedAccept_bad due frame bad, rfl, fun k => ?_, rfl⟩
  show reg k (countReg 0x14_0088 1 s) = _
  rw [reg_countReg]
  split_ifs with own
  · rw [own]
  · rfl

end

/-! ### The obligation -/

/-- Settles O59: the split by ranks, an accepted frame step by step, and the commits and clears as equations. -/
theorem attributionAndRecorders : Obligations.AttributionAndRecorders := by
  refine ⟨fun e ws nodup idle => ?split, fun s => ?frames, fun o s room => ?writes, fun s => ?commits⟩
  case split =>
    exact ⟨sharesOf_acct e ws, sharesOf_sum e ws nodup idle, sharesOf_of_weightless nodup idle,
      fun weighted _ hx _ hw => sharesOf_of_weighted nodup weighted hx hw⟩
  case frames =>
    refine ⟨fun f => ⟨_, rfl, rfl⟩, exec_feedAccept_notDue, fun due frame => ⟨_, exec_feedAccept_none due frame, rfl⟩,
      fun f => gives_feedAccept_bad, fun f due frame length crc => ⟨_, exec_feedAccept_good due frame length crc, ?accepted⟩,
      exec_feedStale_fresh, gives_feedStale, ⟨exec_freezeTimeout_early, gives_freezeTimeout⟩, fun i => ?view⟩
    case view => cases held : s.attr.frozen <;> simp only [viewAcct, held]
    case accepted =>
      have attr := acceptedFrame_attr f s
      refine ⟨?engine, quiet_accepted f s, (congrArg Attr.feed attr :), ?seq, (congrArg Attr.acceptAt attr :),
        (congrArg Attr.pointAt attr :), (congrArg Attr.missed attr :), (congrArg Attr.frame attr :), (accepted_reference f s).1,
        (accepted_reference f s).2, regIs_stale_accepted f s, fun _ i => mapGet_accepted, fun last => accepted_of_credit,
        fun last => accepted_of_jump, accepted_of_first, accepted_of_noClear, fun i => accepted_of_clear, ?mirror⟩
      case seq => exact (congrArg (·.seq.toNat) attr :).trans (toNat_frameSeq f)
      case mirror =>
        exact ⟨mapGet_accepted_mirror f s, accepted_newRecord, accepted_noEvent, accepted_changedRecord, accepted_sameRecord⟩
      case engine =>
        exact (congrArg (fun a : Attr => { a with
          frame := s.attr.frame, feed := s.attr.feed, seq := s.attr.seq, acceptAt := s.attr.acceptAt,
          missed := s.attr.missed, pointAt := s.attr.pointAt }) attr :)
  case writes =>
    exact ⟨fun v ex => ⟨gives_attrClear_refused room ex, gives_attrClear_accepted room ex, gives_attrClear_idle room ex⟩,
      fun on basic ex => gives_freeze room basic ex, fun mode ex => gives_recClear room ex, gives_logClear room⟩
  case commits =>
    exact ⟨exec_recordCommit_empty, fun x rest h => ⟨gives_recordCommit_histMode h, gives_recordCommit_room h,
      gives_recordCommit_full h⟩, exec_changeLogCommit_empty, fun c rest h => ⟨gives_changeLogCommit_full h,
      gives_changeLogCommit_room h⟩⟩

end Sys2Proof.Machine
